-- ==== Sys2Proof/Word.lean ====
section
/-! DEFINITION. The word types of the device (R9, R14) and the sparse table type that holds every
register file, memory and queue-indexed store of the model. -/

namespace Sys2Proof

/-- A 32-bit register element (v, s, PC). -/
abbrev Word := BitVec 32
/-- A 64-bit value: a moment element, an accumulator entry, a command operand. -/
abbrev DWord := BitVec 64
/-- The smallest addressable unit. -/
abbrev Byte := BitVec 8
/-- The five exception flags in the order of FPC[4:0] (R50, R137): bit 0 NV, 1 DZ, 2 OF, 3 UF, 4 NX. -/
abbrev Flags := BitVec 5

/-- Sparse data by key: pairs with strictly rising keys, none of them equal to what an unlisted key reads as. -/
abbrev Sparse (α : Type) := List (Nat × α)

end Sys2Proof
end

