-- ==== Sys2Proof/Machine/Cells.lean ====
section
/-! DEFINITION. The operations of a sparse table: read, write in canonical form, the canonical form itself,
and the little-endian accesses (R9) built from single cells in one place. -/

namespace Sys2Proof.Machine

/-- What key `k` holds; an unlisted key reads as `dflt`. -/
def getAt {α : Type} (dflt : α) (m : Sparse α) (k : Nat) : α :=
  match m with
  | [] => dflt
  | (j, x) :: rest => if j = k then x else getAt dflt rest k

/-- `m` without key `k`. -/
def dropAt {α : Type} (m : Sparse α) (k : Nat) : Sparse α :=
  m.filter (fun e => e.1 != k)

/-- `m` with the pair `(k, x)` put before the first greater key. -/
def insertAt {α : Type} (m : Sparse α) (k : Nat) (x : α) : Sparse α :=
  match m with
  | [] => [(k, x)]
  | (j, y) :: rest => if k < j then (k, x) :: (j, y) :: rest else (j, y) :: insertAt rest k x

/-- Write of `x` at `k`; a write of the value an unlisted key reads as removes the entry. -/
def setAt {α : Type} [DecidableEq α] (dflt : α) (m : Sparse α) (k : Nat) (x : α) : Sparse α :=
  if x = dflt then dropAt m k else insertAt (dropAt m k) k x

/-- The canonical form: keys strictly rising and no entry equal to what an unlisted key reads as. -/
def tableWf {α : Type} [DecidableEq α] (dflt : α) : Sparse α → Bool
  | [] => true
  | [(_, x)] => decide (x ≠ dflt)
  | (j, x) :: (k, y) :: rest => decide (x ≠ dflt) && decide (j < k) && tableWf dflt ((k, y) :: rest)

/-- The object that a table of objects holds at key `k`, if any. -/
def look {α : Type} (t : List (Nat × α)) (k : Nat) : Option α :=
  match t with
  | [] => none
  | (j, x) :: rest => if j = k then some x else look rest k

/-- A table of objects with the object `x` at key `k`, in rising order of keys. -/
def put {α : Type} (t : List (Nat × α)) (k : Nat) (x : α) : List (Nat × α) := insertAt (dropAt t k) k x

/-- A memory of bytes: what an unlisted address reads as is zero. -/
def getByte (m : Sparse Byte) (a : Nat) : Byte := getAt 0 m a

/-- Write of one byte. -/
def setByte (m : Sparse Byte) (a : Nat) (x : Byte) : Sparse Byte := setAt 0 m a x

/-- The canonical form of a memory of bytes (the named check of the memories of State). -/
def Memory.wf (m : Sparse Byte) : Bool := tableWf 0 m

/-- `n` bytes from address `a`, little-endian (R9), as a number. -/
def readLE (m : Sparse Byte) (a : Nat) : Nat → Nat
  | 0 => 0
  | n + 1 => (getByte m a).toNat + 256 * readLE m (a + 1) n

/-- The low `n` bytes of `x` written from address `a`, little-endian (R9). -/
def writeLE (m : Sparse Byte) (a : Nat) (n : Nat) (x : Nat) : Sparse Byte :=
  match n with
  | 0 => m
  | k + 1 => writeLE (setByte m a (BitVec.ofNat 8 x)) (a + 1) k (x / 256)

/-- A list of bytes written from address `a` upwards. -/
def writeBytes (m : Sparse Byte) (a : Nat) : List Byte → Sparse Byte
  | [] => m
  | b :: bs => writeBytes (setByte m a b) (a + 1) bs

/-- `n` bytes from address `a` upwards. -/
def readBytes (m : Sparse Byte) (a : Nat) : Nat → List Byte
  | 0 => []
  | n + 1 => getByte m a :: readBytes m (a + 1) n

/-- The number that a list of bytes stands for, little-endian (R9). -/
def bytesToNat : List Byte → Nat
  | [] => 0
  | b :: bs => b.toNat + 256 * bytesToNat bs

/-- The low `n` bytes of a number, lowest first (R9). -/
def natToBytes : Nat → Nat → List Byte
  | 0, _ => []
  | n + 1, x => BitVec.ofNat 8 x :: natToBytes n (x / 256)

/-- Bits `[lo + n - 1 : lo]` of a number. -/
def bitsOf (x lo n : Nat) : Nat := x / 2 ^ lo % 2 ^ n

/-- Bit `i` of a number. -/
def bitOf (x i : Nat) : Bool := x / 2 ^ i % 2 = 1

/-- The two's-complement value of the low `n` bits of a number (R36). -/
def signedOf (n x : Nat) : Int :=
  if x % 2 ^ n < 2 ^ (n - 1) then (x % 2 ^ n : Nat) else (x % 2 ^ n : Nat) - (2 ^ n : Nat)

/-- The `n`-bit two's-complement pattern of an integer (R36). -/
def wrapNat (n : Nat) (x : Int) : Nat := (x % (2 ^ n : Nat)).toNat

/-- The ranges of `n` bytes from `a` and of `m` bytes from `b` overlap; an empty one overlaps nothing. -/
def rangesMeet (a n b m : Nat) : Bool := decide (0 < n) && decide (0 < m) && decide (a < b + m) && decide (b < a + n)

end Sys2Proof.Machine
end

