-- ==== Sys2Proof/Syntax.lean ====
section
/-! DEFINITION. The instructions: one constructor for each row of the opcode table. The crew instructions
carry the fields of their shape (R66, R68 to R74); the events of the machine carry the numbers that say which
agent acts (a placed block, a crew of it, a die, a queued command) or the words the host supplies. -/

namespace Sys2Proof

/-- The type codes of field T (R71). -/
inductive Ty where
  | s32 | z32 | s64 | z64 | s16 | z16 | s8 | z8 | s4 | z4 | b32 | b64 | b16 | b8
  | f64 | f32 | f16 | bf16 | e4m3 | e5m2 | e2m1 | f16x2 | bf16x2 | e4m3x4 | e5m2x4 | e2m1x8
  deriving DecidableEq, Repr, Inhabited

/-- The matrix formats of field FMT (R202). -/
inductive MFmt where
  | e2m1 | e4m3 | e5m2 | e4m3s | e5m2s | lut4 | s8 | z8 | bf16 | f16 | f32 | f64 | mw
  deriving DecidableEq, Repr, Inhabited

/-- The fields every main word holds (R66): guard sense n, guard predicate g, switch marker S. -/
structure Hdr where
  n : Bool
  g : Nat
  s : Bool
  deriving DecidableEq, Repr, Inhabited

/-- Shape R2 (R68): u says that b names a uniform register. -/
structure R2 where
  h : Hdr
  u : Bool
  d : Nat
  a : Nat
  b : Nat
  deriving DecidableEq, Repr, Inhabited

/-- Shape I8 (R68): the eight immediate bits as they stand in the word. -/
structure I8 where
  h : Hdr
  d : Nat
  a : Nat
  imm : Nat
  deriving DecidableEq, Repr, Inhabited

/-- Shape I6 (R68): a count from 0 to 31. -/
structure I6 where
  h : Hdr
  d : Nat
  a : Nat
  count : Nat
  deriving DecidableEq, Repr, Inhabited

/-- MOVI (R96): y says that d is uniform. -/
structure MoviOps where
  h : Hdr
  d : Nat
  y : Bool
  imm : Nat
  deriving DecidableEq, Repr, Inhabited

/-- MOVL (R96): the 32-bit constant. -/
structure MovlOps where
  h : Hdr
  d : Nat
  y : Bool
  const : Nat
  deriving DecidableEq, Repr, Inhabited

/-- Shape R4 (R68). -/
structure R4 where
  h : Hdr
  d : Nat
  a : Nat
  b : Nat
  deriving DecidableEq, Repr, Inhabited

/-- Shape B (R68): the twenty offset bits as they stand in the word. -/
structure BOps where
  h : Hdr
  off : Nat
  deriving DecidableEq, Repr, Inhabited

/-- Shape N (R68): the number N and the register d. -/
structure NOps where
  h : Hdr
  num : Nat
  d : Nat
  deriving DecidableEq, Repr, Inhabited

/-- Shape REGS (R24): the switch marker, the class and the target granule count. -/
structure RegsOps where
  s : Bool
  cls : Nat
  count : Nat
  deriving DecidableEq, Repr, Inhabited

/-- Shape X (R69): the registers of the main word and the fields of the modifier word. With k the thirteen
bits imm stand in place of c and cov. -/
structure XOps where
  h : Hdr
  d : Nat
  a : Nat
  b : Nat
  c : Nat
  imm : Nat
  cov : Nat
  v : Nat
  t : Ty
  q : Bool
  k : Bool
  y : Bool
  u : Bool
  o : Bool
  rnd : Nat
  deriving DecidableEq, Repr, Inhabited

/-- MXW, MXA, MXG and MXM (R210): kq, nlen1 and zw are MXW's; acc, mlen1, zero and za belong to the streams.
Lengths stand as encoded, less one. -/
structure MxOps where
  h : Hdr
  a : Nat
  b : Nat
  fmt : MFmt
  loc : Bool
  tile : Nat
  slot : Nat
  kq : Nat
  nlen1 : Nat
  zw : Nat
  acc : Nat
  mlen1 : Nat
  zero : Bool
  za : Nat
  rel : Bool
  deriving DecidableEq, Repr, Inhabited

/-- MXTL and MXTS (R210). -/
structure TileOps where
  h : Hdr
  a : Nat
  tile : Nat
  rlen1 : Nat
  trans : Bool
  rel : Bool
  deriving DecidableEq, Repr, Inhabited

/-- ACCZ, ACCLD and ACCST (R210). -/
structure AccOps where
  h : Hdr
  a : Nat
  acc : Nat
  mode : Nat
  rlen1 : Nat
  clen1 : Nat
  rel : Bool
  deriving DecidableEq, Repr, Inhabited

/-- ACCDR (R210). -/
structure DrainOps where
  h : Hdr
  a : Nat
  b : Nat
  t : Ty
  o : Bool
  rnd : Nat
  acc : Nat
  dst : Nat
  tile : Nat
  pcs : Bool
  rel : Bool
  rlen1 : Nat
  dreg : Nat
  row0 : Nat
  col0 : Nat
  clen1 : Nat
  deriving DecidableEq, Repr, Inhabited

/-- MXPROG (R210). -/
structure ProgOps where
  h : Hdr
  d : Nat
  clr : Bool
  deriving DecidableEq, Repr, Inhabited

/-- Major 0x36 (R386). -/
structure StreamOps where
  h : Hdr
  a : Nat
  b : Nat
  c : Nat
  d : Nat
  m : Nat
  sync : Nat
  scope : Nat
  t : Bool
  rb : Bool
  last : Bool
  mx : Bool
  deriving DecidableEq, Repr, Inhabited

/-- Major 0x37 (R402). -/
structure FarOps where
  h : Hdr
  a : Nat
  b : Nat
  c : Nat
  d : Nat
  scope : Nat
  op : Nat
  t : Ty
  ret : Bool
  y : Bool
  cond : Nat
  deriving DecidableEq, Repr, Inhabited

/-- Major 0x38 (R269). -/
structure CluOps where
  h : Hdr
  a : Nat
  b : Nat
  c : Nat
  d : Nat
  opt : Nat
  deriving DecidableEq, Repr, Inhabited

/-- Major 0x39 (R291). -/
structure SolOps where
  h : Hdr
  a : Nat
  b : Nat
  c : Nat
  d : Nat
  n1 : Nat
  meth : Nat
  f64 : Bool
  ts : Bool
  tov : Bool
  nrhs1 : Nat
  rp : Bool
  deriving DecidableEq, Repr, Inhabited

/-- Major 0x3A (R313). -/
structure OptOps where
  h : Hdr
  a : Nat
  d : Nat
  deriving DecidableEq, Repr, Inhabited

/-- Major 0x3B (R448). -/
structure FabOps where
  h : Hdr
  a : Nat
  b : Nat
  c : Nat
  d : Nat
  kind : Nat
  dt : Nat
  res : Bool
  sh : Bool
  nb : Bool
  deriving DecidableEq, Repr, Inhabited

/-- A command of a ring (R340): the fields of its 64-byte entry as they stand, its reserved bytes as one number. -/
structure Cmd where
  op : Nat
  seq : Nat
  rsv : Nat
  a0 : Nat
  a1 : Nat
  a2 : Nat
  a3 : Nat
  deriving DecidableEq, Repr, Inhabited

/-- What the members of a collective must agree on (R451): KIND, DT, RES, SH, COUNT. -/
structure CollKind where
  kind : Nat
  dt : Nat
  res : Bool
  sh : Bool
  count : Nat
  deriving DecidableEq, Repr

/-- A message between packages (R445 to R458). The spec fixes what a message does and not the bits of its flits. `id` is
the number that the sender gave its command. -/
inductive FabMsg where
  /-- The bytes of a send with its tag (R456). -/
  | data (id tag : Nat) (bytes : List (BitVec 8))
  /-- Reward records (R457). -/
  | reward (id : Nat) (recs : List Nat)
  /-- A command of the receiver is complete; `sized` is false for lengths that differ (R456, R457). -/
  | done (id : Nat) (sized : Bool)
  /-- A member's contribution to a collective (R451, R452). -/
  | contrib (dkey num rank : Nat) (mlist : List Nat) (k : CollKind) (vals : List (Nat × Nat))
  /-- The context of a member has ended (R455). -/
  | gone (dkey : Nat)
  /-- The digest of a member's list, sent at its first use of a key (R451). -/
  | digest (dkey : Nat) (mlist : List Nat)
  /-- No LIVE context of the ASID takes the message of that number for the endpoint (R447). -/
  | reject (ep id : Nat)
  /-- A port acknowledges the flit of that number (R447). -/
  | ack (id : Nat)
  deriving DecidableEq, Repr

/-- A message on a port (R446, R447): source and destination endpoint, ASID, sequence number, whether its check code
holds. -/
structure Flit where
  src : Nat
  dst : Nat
  asid : Nat
  seq : Nat
  good : Bool
  msg : FabMsg
  deriving DecidableEq, Repr

/-- The instructions of the device and the events of its machines, one constructor for each row of the opcode table. -/
inductive Instr where
  /-- MOV_16 (R72). -/
  | mov16 (d b : Nat)
  /-- IADD_16 (R72). -/
  | iadd16 (d b : Nat)
  /-- ISUB_16 (R72). -/
  | isub16 (d b : Nat)
  /-- IADDI_16 (R72). -/
  | iaddi16 (d b : Nat)
  /-- AND_16 (R72). -/
  | and16 (d b : Nat)
  /-- OR_16 (R72). -/
  | or16 (d b : Nat)
  /-- XOR_16 (R72). -/
  | xor16 (d b : Nat)
  /-- SHLI_16 (R72). -/
  | shli16 (d b : Nat)
  /-- SHRI_16 (R72). -/
  | shri16 (d b : Nat)
  /-- SARI_16 (R72). -/
  | sari16 (d b : Nat)
  /-- FADD_16 (R72). -/
  | fadd16 (d b : Nat)
  /-- FSUB_16 (R72). -/
  | fsub16 (d b : Nat)
  /-- FMUL_16 (R72). -/
  | fmul16 (d b : Nat)
  /-- FMAX_16 (R72). -/
  | fmax16 (d b : Nat)
  /-- FMIN_16 (R72). -/
  | fmin16 (d b : Nat)
  /-- MOVI_16 (R72). -/
  | movi16 (d b : Nat)
  /-- IADD_R2 (R88). -/
  | iaddR2 (x : R2)
  /-- ISUB_R2 (R88). -/
  | isubR2 (x : R2)
  /-- AND_R2 (R91). -/
  | andR2 (x : R2)
  /-- OR_R2 (R91). -/
  | orR2 (x : R2)
  /-- XOR_R2 (R91). -/
  | xorR2 (x : R2)
  /-- ANDN_R2 (R91). -/
  | andnR2 (x : R2)
  /-- SHL_R2 (R92). -/
  | shlR2 (x : R2)
  /-- SHR_R2 (R92). -/
  | shrR2 (x : R2)
  /-- SAR_R2 (R92). -/
  | sarR2 (x : R2)
  /-- ROTL_R2 (R92). -/
  | rotlR2 (x : R2)
  /-- IADD_I8 (R88). -/
  | iaddI8 (x : I8)
  /-- SHL_I6 (R92). -/
  | shlI6 (x : I6)
  /-- SHR_I6 (R92). -/
  | shrI6 (x : I6)
  /-- SAR_I6 (R92). -/
  | sarI6 (x : I6)
  /-- ROTL_I6 (R92). -/
  | rotlI6 (x : I6)
  /-- MOVI (R96). -/
  | movi (x : MoviOps)
  /-- PAND (R98). -/
  | pand (x : R4)
  /-- POR (R98). -/
  | por (x : R4)
  /-- PXOR (R98). -/
  | pxor (x : R4)
  /-- PNOT (R98). -/
  | pnot (x : R4)
  /-- BRA (R103). -/
  | bra (x : BOps)
  /-- CALL (R105). -/
  | call (x : BOps)
  /-- BRX (R107). -/
  | brx (x : R4)
  /-- RET (R106). -/
  | ret (x : R4)
  /-- EXIT (R108). -/
  | exit (x : R4)
  /-- TRIGGER (R109). -/
  | trigger (x : R4)
  /-- REGS_GROW (R25). -/
  | regsGrow (x : RegsOps)
  /-- REGS_SHRINK (R25). -/
  | regsShrink (x : RegsOps)
  /-- CSRR (R111). -/
  | csrr (x : NOps)
  /-- CSRW (R111). -/
  | csrw (x : NOps)
  /-- TRAP (R116). -/
  | trap (x : NOps)
  /-- NOP (R110). -/
  | nop (x : NOps)
  /-- TRET (R117). -/
  | tret (x : NOps)
  /-- BKPT (R117). -/
  | bkpt (x : NOps)
  /-- IADD_X (R88). -/
  | iaddX (x : XOps)
  /-- ISUB_X (R88). -/
  | isubX (x : XOps)
  /-- SHL_X (R92). -/
  | shlX (x : XOps)
  /-- SHR_X (R92). -/
  | shrX (x : XOps)
  /-- SAR_X (R92). -/
  | sarX (x : XOps)
  /-- ROTL_X (R92). -/
  | rotlX (x : XOps)
  /-- AND_X (R91). -/
  | andX (x : XOps)
  /-- OR_X (R91). -/
  | orX (x : XOps)
  /-- XOR_X (R91). -/
  | xorX (x : XOps)
  /-- ANDN_X (R91). -/
  | andnX (x : XOps)
  /-- IMUL (R88). -/
  | imul (x : XOps)
  /-- IMULH (R88). -/
  | imulh (x : XOps)
  /-- IMAD (R88). -/
  | imad (x : XOps)
  /-- LEA (R88). -/
  | lea (x : XOps)
  /-- IDIV (R90). -/
  | idiv (x : XOps)
  /-- IREM (R90). -/
  | irem (x : XOps)
  /-- IMIN (R88). -/
  | imin (x : XOps)
  /-- IMAX (R88). -/
  | imax (x : XOps)
  /-- IABS (R88). -/
  | iabs (x : XOps)
  /-- NOT (R91). -/
  | notX (x : XOps)
  /-- POPC (R91). -/
  | popc (x : XOps)
  /-- CLZ (R91). -/
  | clz (x : XOps)
  /-- BREV (R91). -/
  | brev (x : XOps)
  /-- BFX (R93). -/
  | bfx (x : XOps)
  /-- BFI (R93). -/
  | bfi (x : XOps)
  /-- ICMP (R97). -/
  | icmp (x : XOps)
  /-- SEL (R95). -/
  | sel (x : XOps)
  /-- MOV (R94). -/
  | mov (x : XOps)
  /-- P2V (R99). -/
  | p2v (x : XOps)
  /-- V2P (R99). -/
  | v2p (x : XOps)
  /-- MOVL (R96). -/
  | movl (x : MovlOps)
  /-- FADD (R122). -/
  | fadd (x : XOps)
  /-- FSUB (R122). -/
  | fsub (x : XOps)
  /-- FMUL (R122). -/
  | fmul (x : XOps)
  /-- FFMA (R122). -/
  | ffma (x : XOps)
  /-- FMIN (R123). -/
  | fmin (x : XOps)
  /-- FMAX (R123). -/
  | fmax (x : XOps)
  /-- FCMP (R124). -/
  | fcmp (x : XOps)
  /-- FCLASS (R124). -/
  | fclass (x : XOps)
  /-- FDIV (R125). -/
  | fdiv (x : XOps)
  /-- FSQRT (R125). -/
  | fsqrt (x : XOps)
  /-- FRCP (R125). -/
  | frcp (x : XOps)
  /-- FRSQ (R125). -/
  | frsq (x : XOps)
  /-- FRND (R125). -/
  | frnd (x : XOps)
  /-- F2F (R126). -/
  | f2f (x : XOps)
  /-- F2I (R127). -/
  | f2i (x : XOps)
  /-- I2F (R127). -/
  | i2f (x : XOps)
  /-- FEXP2 (R128). -/
  | fexp2 (x : XOps)
  /-- FLOG2 (R128). -/
  | flog2 (x : XOps)
  /-- FEXP (R128). -/
  | fexp (x : XOps)
  /-- FLOG (R128). -/
  | flog (x : XOps)
  /-- FSIN (R128). -/
  | fsin (x : XOps)
  /-- FCOS (R128). -/
  | fcos (x : XOps)
  /-- FTANH (R128). -/
  | ftanh (x : XOps)
  /-- FSIGM (R128). -/
  | fsigm (x : XOps)
  /-- FERF (R128). -/
  | ferf (x : XOps)
  /-- QSCL (R130). -/
  | qscl (x : XOps)
  /-- QPK (R131). -/
  | qpk (x : XOps)
  /-- QUPK (R132). -/
  | qupk (x : XOps)
  /-- CTAB_W (R134). -/
  | ctabW (x : XOps)
  /-- CTAB_SWAP (R134). -/
  | ctabSwap (x : XOps)
  /-- LUT4 (R136). -/
  | lut4 (x : XOps)
  /-- MADD (R145). -/
  | madd (x : XOps)
  /-- MSUB (R145). -/
  | msub (x : XOps)
  /-- MMUL (R145). -/
  | mmul (x : XOps)
  /-- MFMA (R145). -/
  | mfma (x : XOps)
  /-- MSCALE (R146). -/
  | mscale (x : XOps)
  /-- MCLAMP (R153). -/
  | mclamp (x : XOps)
  /-- MMOV (R152). -/
  | mmov (x : XOps)
  /-- MRELU (R147). -/
  | mrelu (x : XOps)
  /-- MSIGM (R148). -/
  | msigm (x : XOps)
  /-- MTANH (R149). -/
  | mtanh (x : XOps)
  /-- MEXP (R150). -/
  | mexp (x : XOps)
  /-- MSET (R151). -/
  | mset (x : XOps)
  /-- MCOLL (R154). -/
  | mcoll (x : XOps)
  /-- MLD (R155). -/
  | mld (x : XOps)
  /-- MST (R155). -/
  | mst (x : XOps)
  /-- RSEED (R159). -/
  | rseed (x : XOps)
  /-- RNEXT (R160). -/
  | rnext (x : XOps)
  /-- RCTR (R161). -/
  | rctr (x : XOps)
  /-- RUNI (R162). -/
  | runi (x : XOps)
  /-- RMASK (R163). -/
  | rmask (x : XOps)
  /-- LD (R230). -/
  | ld (x : XOps)
  /-- ST (R230). -/
  | st (x : XOps)
  /-- LDS (R230). -/
  | lds (x : XOps)
  /-- ATOM (R231). -/
  | atom (x : XOps)
  /-- TBINIT (R236). -/
  | tbinit (x : XOps)
  /-- TBARR (R236). -/
  | tbarr (x : XOps)
  /-- TBWAIT (R238). -/
  | tbwait (x : XOps)
  /-- SRPUT (R242). -/
  | srput (x : XOps)
  /-- SRPUT_COMMIT (R242). -/
  | srputCommit (x : XOps)
  /-- SRGET (R242). -/
  | srget (x : XOps)
  /-- SRREL (R242). -/
  | srrel (x : XOps)
  /-- JOIN (R245). -/
  | join (x : XOps)
  /-- LEAVE (R245). -/
  | leave (x : XOps)
  /-- BAR (R246). -/
  | bar (x : XOps)
  /-- BAR_BLK (R246). -/
  | barBlk (x : XOps)
  /-- FENCE (R378). -/
  | fence (x : XOps)
  /-- RCFENCE (R249). -/
  | rcfence (x : XOps)
  /-- LAYOUT (R250). -/
  | layout (x : XOps)
  /-- VOTE (R100). -/
  | vote (x : XOps)
  /-- SHFL (R101). -/
  | shfl (x : XOps)
  /-- CRED (R102). -/
  | cred (x : XOps)
  /-- CSCAN (R102). -/
  | cscan (x : XOps)
  /-- MXW (R212). -/
  | mxw (x : MxOps)
  /-- MXA (R213). -/
  | mxa (x : MxOps)
  /-- MXG (R215). -/
  | mxg (x : MxOps)
  /-- MXM (R216). -/
  | mxm (x : MxOps)
  /-- MXTL (R217). -/
  | mxtl (x : TileOps)
  /-- MXTS (R217). -/
  | mxts (x : TileOps)
  /-- ACCZ (R217). -/
  | accz (x : AccOps)
  /-- ACCLD (R217). -/
  | accld (x : AccOps)
  /-- ACCST (R217). -/
  | accst (x : AccOps)
  /-- ACCDR (R218). -/
  | accdr (x : DrainOps)
  /-- MXPROG (R221). -/
  | mxprog (x : ProgOps)
  /-- CPG (R390). -/
  | cpg (x : StreamOps)
  /-- CPS (R392). -/
  | cps (x : StreamOps)
  /-- CPH_IN (R393). -/
  | cphIn (x : StreamOps)
  /-- CPH_OUT (R393). -/
  | cphOut (x : StreamOps)
  /-- CTOK (R394). -/
  | ctok (x : StreamOps)
  /-- CWAIT (R394). -/
  | cwait (x : StreamOps)
  /-- PREF (R396). -/
  | pref (x : StreamOps)
  /-- FATOM (R403). -/
  | fatom (x : FarOps)
  /-- FWAIT (R404). -/
  | fwait (x : FarOps)
  /-- L2LCK (R405). -/
  | l2lck (x : FarOps)
  /-- L2ULK (R405). -/
  | l2ulk (x : FarOps)
  /-- PUBL (R400). -/
  | publ (x : FarOps)
  /-- COMPACT (R272). -/
  | compact (x : CluOps)
  /-- ENVRST (R275). -/
  | envrst (x : CluOps)
  /-- BPSORT (R277). -/
  | bpsort (x : CluOps)
  /-- BVHT (R281). -/
  | bvht (x : CluOps)
  /-- QPUSH (R284). -/
  | qpush (x : CluOps)
  /-- QPUSH_ROUND (R284). -/
  | qpushRound (x : CluOps)
  /-- QPOP (R285). -/
  | qpop (x : CluOps)
  /-- SFACT (R296). -/
  | sfact (x : SolOps)
  /-- SSOLVE (R299). -/
  | ssolve (x : SolOps)
  /-- SADJ (R300). -/
  | sadj (x : SolOps)
  /-- SLSQ (R302). -/
  | slsq (x : SolOps)
  /-- SSTAT (R304). -/
  | sstat (x : SolOps)
  /-- OPTSUB (R314). -/
  | optsub (x : OptOps)
  /-- OPTWAIT (R315). -/
  | optwait (x : OptOps)
  /-- COLL (R453). -/
  | coll (x : FabOps)
  /-- CSEND (R456). -/
  | csend (x : FabOps)
  /-- CSEND_RWD (R457). -/
  | csendRwd (x : FabOps)
  /-- CRECV (R456). -/
  | crecv (x : FabOps)
  /-- RJOPEN (R460). -/
  | rjopen (x : FabOps)
  /-- RJTICK (R465). -/
  | rjtick (x : FabOps)
  /-- RJPOP (R465). -/
  | rjpop (x : FabOps)
  /-- RJSTAT (R462). -/
  | rjstat (x : FabOps)
  /-- RJSTAT_CFG (R462). -/
  | rjstatCfg (x : FabOps)
  /-- RESULT_RETURN (R28). -/
  | resultReturn (b c k : Nat)
  /-- UNPARK (R30). -/
  | unpark (b c : Nat)
  /-- REGS_GRANT (R26). -/
  | regsGrant (b c : Nat)
  /-- TRAP_ENTRY (R169). -/
  | trapEntry (b c : Nat)
  /-- CREW_DRAIN_COMPLETE (R32). -/
  | crewDrainComplete (b c : Nat)
  /-- STORE_QUEUE_WRITE (R194). -/
  | storeQueueWrite (b c : Nat)
  /-- ATOM_PERFORM (R231). -/
  | atomPerform (b c : Nat)
  /-- TBINIT_PERFORM (R236). -/
  | tbinitPerform (b c : Nat)
  /-- TBARR_PERFORM (R236). -/
  | tbarrPerform (b c : Nat)
  /-- TBWAIT_COMPLETE (R238). -/
  | tbwaitComplete (b c : Nat)
  /-- SRPUT_WAKE (R242). -/
  | srputWake (b c : Nat)
  /-- SRGET_WAKE (R242). -/
  | srgetWake (b c : Nat)
  /-- BARRIER_RELEASE (R246). -/
  | barrierRelease (b k : Nat)
  /-- ENVRST_PERFORM (R275). -/
  | envrstPerform (b c : Nat)
  /-- FENCE_COMPLETE (R378). -/
  | fenceComplete (b c : Nat)
  /-- MXW_TURN (R212). -/
  | mxwTurn (b : Nat)
  /-- STREAM_COMMAND_TURN (R213). -/
  | streamCommandTurn (b : Nat)
  /-- STREAM_STEP (R213). -/
  | streamStep (b : Nat)
  /-- MXTL_TURN (R217). -/
  | mxtlTurn (b : Nat)
  /-- MXTS_TURN (R217). -/
  | mxtsTurn (b : Nat)
  /-- ACCZ_TURN (R217). -/
  | acczTurn (b : Nat)
  /-- ACCLD_TURN (R217). -/
  | accldTurn (b : Nat)
  /-- ACCST_TURN (R217). -/
  | accstTurn (b : Nat)
  /-- ACCDR_TURN (R219). -/
  | accdrTurn (b : Nat)
  /-- MXPROG_TURN (R221). -/
  | mxprogTurn (b : Nat)
  /-- LATCHED_COMMAND_TURN (R209). -/
  | latchedCommandTurn (b : Nat)
  /-- STREAMER_CHUNK (R385). -/
  | streamerChunk (b k : Nat)
  /-- STREAMER_COPY_COMPLETE (R390). -/
  | streamerCopyComplete (b k : Nat)
  /-- CWAIT_COMPLETE (R394). -/
  | cwaitComplete (b c : Nat)
  /-- FAR_ATOMIC_PERFORM (R377). -/
  | farAtomicPerform (b c k : Nat)
  /-- CHAINED_ATOMIC_RELEASE (R380). -/
  | chainedAtomicRelease (b c k : Nat)
  /-- FWAIT_SATISFIED (R404). -/
  | fwaitSatisfied (b c : Nat)
  /-- L2LCK_COMPLETE (R381). -/
  | l2lckComplete (b c : Nat)
  /-- PUBL_FLIP (R400). -/
  | publFlip (b c : Nat)
  /-- LINE_FILL (R365). -/
  | lineFill (die k : Nat)
  /-- TRANSLATION_WALK (R370). -/
  | translationWalk (die k : Nat)
  /-- RDC_EVICTION (R408). -/
  | rdcEviction (die line : Nat)
  /-- WRITE_THROUGH_ACK (R407). -/
  | writeThroughAck (k : Nat)
  /-- DIE_TO_DIE_TRANSFER (R407). -/
  | dieToDieTransfer (k : Nat)
  /-- DIE_TO_DIE_TRANSFER_FAILED (R407). -/
  | dieToDieTransferFailed (k : Nat)
  /-- SWAP (R418). -/
  | swap (die k : Nat)
  /-- EPOCH_HALVING (R417). -/
  | epochHalving (die : Nat)
  /-- SWEEPER_STEP (R420). -/
  | sweeperStep (die : Nat)
  /-- ACTIVATION_COUNTER_SATURATED (R423). -/
  | activationCounterSaturated (die stack row : Nat)
  /-- RETRAINING_START (R424). -/
  | retrainingStart (die stack : Nat)
  /-- RETRAINING_COMPLETE (R424). -/
  | retrainingComplete (die stack : Nat)
  /-- HOST_SNOOP (R429). -/
  | hostSnoop (line : Nat) (take : Bool) (bytes : List (Nat × Byte))
  /-- HOST_COMPLETION (R429). -/
  | hostCompletion (k status : Nat) (bytes : List Byte)
  /-- HOST_COMPLETION_TIMEOUT (R432). -/
  | hostCompletionTimeout (k : Nat)
  /-- LAUNCH (R344). -/
  | launch (sq : Nat) (x : Cmd)
  /-- HEAD_LAUNCH_CHECK (R345). -/
  | headLaunchCheck (sq : Nat)
  /-- CTX_CREATE (R341). -/
  | ctxCreate (x : Cmd)
  /-- CTX_END (R343). -/
  | ctxEnd (x : Cmd)
  /-- CTX_RECLAIM (R343). -/
  | ctxReclaim (x : Cmd)
  /-- SQ_CREATE (R341). -/
  | sqCreate (x : Cmd)
  /-- OQ_BIND (R341). -/
  | oqBind (x : Cmd)
  /-- OQ_UNBIND (R341). -/
  | oqUnbind (x : Cmd)
  /-- RESOLVE_RESUME (R174). -/
  | resolveResume (x : Cmd)
  /-- RESOLVE_RETRY (R351). -/
  | resolveRetry (x : Cmd)
  /-- RESOLVE_KILL (R174). -/
  | resolveKill (x : Cmd)
  /-- SET_AGE (R355). -/
  | setAge (x : Cmd)
  /-- PT_ROOT (R372). -/
  | ptRoot (x : Cmd)
  /-- INVAL (R372). -/
  | inval (x : Cmd)
  /-- INVAL_FLUSH (R372). -/
  | invalFlush (x : Cmd)
  /-- ASID_FLUSH (R372). -/
  | asidFlush (x : Cmd)
  /-- L2_QUOTA (R372). -/
  | l2Quota (x : Cmd)
  /-- TIER_CTL (R418). -/
  | tierCtl (x : Cmd)
  /-- TIER_PIN (R418). -/
  | tierPin (x : Cmd)
  /-- TIER_UNPIN (R418). -/
  | tierUnpin (x : Cmd)
  /-- SWEEP (R420). -/
  | sweep (x : Cmd)
  /-- SWEEP_STOP (R420). -/
  | sweepStop (x : Cmd)
  /-- HBM_RATE (R424). -/
  | hbmRate (x : Cmd)
  /-- CQDB (R339). -/
  | cqdb (w : Nat)
  /-- SQDB (R339). -/
  | sqdb (sq w : Nat)
  /-- PCAP (R436). -/
  | pcapWrite (w : Nat)
  /-- EVTAIL (R431). -/
  | evtailRead (die : Nat)
  /-- UNSUPPORTED_REQUEST (R430). -/
  | unsupportedRequest (off size : Nat) (write : Bool)
  /-- DISPATCH_DECISION (R348). -/
  | dispatchDecision (die : Nat)
  /-- AGEING_INTERVAL (R355). -/
  | ageingInterval (grid : Nat)
  /-- STAGING_COMPLETE (R349). -/
  | stagingComplete (b : Nat)
  /-- DRAIN_COMPLETE (R349). -/
  | drainComplete (b : Nat)
  /-- LAUNCH_COMPLETION (R342). -/
  | launchCompletion (grid : Nat)
  /-- BLOCK_ABORT (R358). -/
  | blockAbort (b : Nat)
  /-- BLOCK_SAVE (R359). -/
  | blockSave (b : Nat)
  /-- SAVE_DEADLINE_EXCEEDED (R359). -/
  | saveDeadlineExceeded (b : Nat)
  /-- CONTEXT_STOP_COMPLETE (R173). -/
  | contextStopComplete (slot : Nat)
  /-- HOLD_RECORD_WRITE (R175). -/
  | holdRecordWrite (slot : Nat)
  /-- COMPACT_COMPLETE (R273). -/
  | compactComplete (b : Nat)
  /-- BPSORT_JOB (R277). -/
  | bpsortJob (b c : Nat)
  /-- BVHT_JOB (R281). -/
  | bvhtJob (b c : Nat)
  /-- QPUSH_PLACE (R284). -/
  | qpushPlace (b c : Nat)
  /-- QPOP_TAKE (R285). -/
  | qpopTake (b c : Nat)
  /-- SFACT_COMPLETE (R297). -/
  | sfactComplete (b c : Nat)
  /-- SSOLVE_COMPLETE (R299). -/
  | ssolveComplete (b c : Nat)
  /-- SADJ_COMPLETE (R300). -/
  | sadjComplete (b c : Nat)
  /-- SLSQ_CHECKPOINT (R289). -/
  | slsqCheckpoint (k : Nat)
  /-- SLSQ_COMPLETE (R302). -/
  | slsqComplete (k : Nat)
  /-- SSTAT_COMPLETE (R304). -/
  | sstatComplete (b c : Nat)
  /-- OPTSUB_ACCEPT (R314). -/
  | optsubAccept (b c : Nat)
  /-- OPTIMISER_CHECKPOINT (R320). -/
  | optimiserCheckpoint (k : Nat)
  /-- OPTIMISER_JOB_COMPLETE (R319). -/
  | optimiserJobComplete (k : Nat)
  /-- OPTWAIT_COMPLETE (R315). -/
  | optwaitComplete (b c : Nat)
  /-- COLL_CHUNK (R455). -/
  | collChunk (k : Nat)
  /-- COLL_COMPLETE (R455). -/
  | collComplete (k : Nat)
  /-- SEND_MATCH (R456). -/
  | sendMatch (k j : Nat)
  /-- REWARD_RECORD (R461). -/
  | rewardRecord (die : Nat)
  /-- RJOPEN_EVENT (R460). -/
  | rjopenEvent (b c : Nat)
  /-- RJTICK_EVENT (R465). -/
  | rjtickEvent (b c : Nat)
  /-- RJSTAT_CFG_EVENT (R462). -/
  | rjstatCfgEvent (b c : Nat)
  /-- RJSTAT_EVENT (R462). -/
  | rjstatEvent (b c : Nat)
  /-- JOIN_TIMEOUT (R463). -/
  | joinTimeout (die slot : Nat)
  /-- RJPOP_COMPLETE (R465). -/
  | rjpopComplete (b c : Nat)
  /-- FLIT_RECEIVE (R447). -/
  | flitReceive (port : Nat) (f : Flit)
  /-- FLIT_RESEND (R447). -/
  | flitResend (k : Nat)
  /-- PORT_DOWN (R447). -/
  | portDown (port : Nat)
  /-- DESTINATION_UNREACHABLE (R447). -/
  | destinationUnreachable (k : Nat)
  /-- POWER_CAP_CLOCK_CHANGE (R436). -/
  | powerCapClockChange (down : Bool)
  /-- D0_IDLE (R435). -/
  | d0Idle
  /-- D3HOT (R435). -/
  | d3hot
  /-- D3COLD (R435). -/
  | d3cold
  /-- COLD_RESET (R437). -/
  | coldReset
  /-- FUNCTION_LEVEL_RESET (R437). -/
  | functionLevelReset
  /-- FIRMWARE_UPDATE (R433). -/
  | firmwareUpdate (req : List Byte)
  /-- GET_VERSION (R434). -/
  | getVersion (req : List Byte)
  /-- GET_CAPABILITIES (R434). -/
  | getCapabilities (req : List Byte)
  /-- NEGOTIATE_ALGORITHMS (R434). -/
  | negotiateAlgorithms (req : List Byte)
  /-- GET_DIGESTS (R434). -/
  | getDigests (req : List Byte)
  /-- GET_CERTIFICATE (R434). -/
  | getCertificate (req : List Byte)
  /-- CHALLENGE (R434). -/
  | challenge (req : List Byte)
  /-- GET_MEASUREMENTS (R434). -/
  | getMeasurements (req : List Byte)
  /-- ILLEGAL_ENCODING (R75). -/
  | illegalEncoding (b c : Nat)
  /-- FETCH_OUTSIDE_IMAGE (R67). -/
  | fetchOutsideImage (b c : Nat)
  /-- CXL_MEM_REQUEST (R428). -/
  | cxlMemRequest (addr : Nat) (write : Bool) (bytes : List Byte)
  /-- RETURN_TO_D0 (R435). -/
  | returnToD0
  /-- DIE_TO_DIE_RETRAINING_COMPLETE (R407). -/
  | dieToDieRetrainingComplete
  /-- MSI_X_UNMASK (R431). -/
  | msiXUnmask (vec : Nat)
  deriving DecidableEq, Repr

end Sys2Proof
end

