-- ==== Sys2Proof/Machine/Num.lean ====
section
/-! DEFINITION. Exact values and the one rounding (R36 to R41, R47 to R52): a value is a NaN, an infinity or a signed
fraction, computed exactly; RoundTo brings it into a format and says which flags it raises. -/

namespace Sys2Proof.Machine

/-- The floating-point formats (R38). -/
inductive Fmt where
  | f64 | f32 | f16 | bf16 | e5m2 | e4m3 | e2m1
  deriving DecidableEq, Repr, Inhabited

/-- The rounding modes (R47). -/
inductive Rnd where
  | rn | rz | ru | rd | ra
  deriving DecidableEq, Repr, Inhabited

/-- The mode of field RND; 5 to 7 never reach here (R47). -/
def rndOf : Nat → Rnd
  | 1 => .rz | 2 => .ru | 3 => .rd | 4 => .ra | _ => .rn

namespace Fmt

/-- Mantissa bits t (R38). -/
def t : Fmt → Nat
  | .f64 => 52 | .f32 => 23 | .f16 => 10 | .bf16 => 7 | .e5m2 => 2 | .e4m3 => 3 | .e2m1 => 1
/-- Exponent bits w (R38). -/
def w : Fmt → Nat
  | .f64 => 11 | .f32 => 8 | .f16 => 5 | .bf16 => 8 | .e5m2 => 5 | .e4m3 => 4 | .e2m1 => 2
/-- Bias b (R38). -/
def b : Fmt → Nat
  | .f64 => 1023 | .f32 => 127 | .f16 => 15 | .bf16 => 127 | .e5m2 => 15 | .e4m3 => 7 | .e2m1 => 1
/-- All bits of an encoding. -/
def bits (f : Fmt) : Nat := 1 + f.w + f.t
/-- HasInf (R38). -/
def hasInf : Fmt → Bool
  | .e4m3 | .e2m1 => false
  | _ => true
/-- The encoding of Max, sign clear (R38). -/
def maxBits : Fmt → Nat
  | .e4m3 => 0x7E
  | .e2m1 => 0x7
  | f => (2 ^ f.w - 1) * 2 ^ f.t - 1
/-- CanonNaN; E2M1 has none and gives +0 (R38, R49). -/
def nan : Fmt → Nat
  | .f64 => 0x7FF8000000000000 | .f32 => 0x7FC00000 | .f16 => 0x7E00 | .bf16 => 0x7FC0 | .e5m2 => 0x7E
  | .e4m3 => 0x7F | .e2m1 => 0
/-- The sign bit's weight. -/
def sign (f : Fmt) : Nat := 2 ^ (f.w + f.t)
/-- The encoding of +∞ in a format that has one. -/
def infBits (f : Fmt) : Nat := (2 ^ f.w - 1) * 2 ^ f.t

end Fmt

/-- An exact value (R37): `num neg n d` is ± n ÷ d with d > 0; n = 0 is the zero of that sign. -/
inductive Val where
  | nan
  | inf (neg : Bool)
  | num (neg : Bool) (n d : Nat)
  deriving DecidableEq, Repr, Inhabited

/-- The invalid flag (R50). -/
def flagNV : Flags := 1
/-- Division by zero. -/
def flagDZ : Flags := 2
/-- Overflow. -/
def flagOF : Flags := 4
/-- Underflow. -/
def flagUF : Flags := 8
/-- Inexact. -/
def flagNX : Flags := 16

/-- A flag where a condition holds. -/
def flagIf (c : Bool) (f : Flags) : Flags := if c then f else 0

/-- n × 2^e as a fraction. -/
def dyadic (neg : Bool) (n : Nat) (e : Int) : Val :=
  if e < 0 then .num neg n (2 ^ e.natAbs) else .num neg (n * 2 ^ e.natAbs) 1

/-- Value(F, bits) (R37, R38). -/
def valueOf (f : Fmt) (x : Nat) : Val :=
  let neg := x / f.sign % 2 = 1
  let e := x / 2 ^ f.t % 2 ^ f.w
  let m := x % 2 ^ f.t
  if e = 2 ^ f.w - 1 ∧ f.hasInf then (if m = 0 then .inf neg else .nan)
  else if f = .e4m3 ∧ e = 15 ∧ m = 7 then .nan
  else if e = 0 then dyadic neg m (1 - (f.b : Int) - f.t)
  else dyadic neg (2 ^ f.t + m) ((e : Int) - f.b - f.t)

/-- A NaN whose mantissa has its top bit clear (R39). -/
def isSNaN (f : Fmt) (x : Nat) : Bool :=
  f.hasInf && valueOf f x = .nan && x / 2 ^ (f.t - 1) % 2 = 0

/-- ⌊log₂ (n ÷ d)⌋ for n, d > 0. -/
def floorLog2 (n d : Nat) : Int :=
  let e : Int := (Nat.log2 n : Int) - Nat.log2 d
  let ge := if e < 0 then d ≤ n * 2 ^ e.natAbs else d * 2 ^ e.natAbs ≤ n
  if ge then e else e - 1

/-- RoundInt of n ÷ d ≥ 0 for a value of the given sign (R47, R49). -/
def roundInt (mode : Rnd) (neg : Bool) (n d : Nat) : Nat :=
  let q := n / d
  let r := n % d
  let up : Bool :=
    match mode with
    | .rn => 2 * r > d || (2 * r = d && q % 2 = 1)
    | .rz => false
    | .ru => !neg && r ≠ 0
    | .rd => neg && r ≠ 0
    | .ra => 2 * r ≥ d
  if up then q + 1 else q

/-- The fraction n ÷ d ÷ 2^q as a pair. -/
def scaleDown (n d : Nat) (q : Int) : Nat × Nat :=
  if q < 0 then (n * 2 ^ q.natAbs, d) else (n, d * 2 ^ q.natAbs)

/-- RoundTo for a fraction n ÷ d with n > 0 (R49). -/
def roundNum (f : Fmt) (neg : Bool) (n d : Nat) (mode : Rnd) (sat : Bool) : Nat × Flags :=
  let e := floorLog2 n d
  let emin : Int := 1 - (f.b : Int)
  let q := max e emin - f.t
  let (p, r) := scaleDown n d q
  let y := roundInt mode neg p r
  let exact := p % r = 0
  let (p1, r1) := scaleDown n d (e - f.t)
  let y1 := roundInt mode neg p1 r1
  let tiny : Bool := e < emin && !(e + 1 = emin && y1 = 2 ^ (f.t + 1))
  let code := (q - (emin - f.t)).natAbs * 2 ^ f.t + y
  let s := if neg then f.sign else 0
  if code > f.maxBits then
    let keep : Bool := sat || mode = .rz || (mode = .rd && !neg) || (mode = .ru && neg)
    let fl := flagOF ||| flagNX
    if keep then (s + f.maxBits, fl)
    else if f.hasInf then (s + f.infBits, fl) else (f.nan, fl)
  else (s + code, flagIf (!exact) (flagNX ||| flagIf tiny flagUF))

/-- RoundTo(F, x, mode, ovf) (R49); `sat` is the `.SAT` choice (R48). -/
def roundTo (f : Fmt) (x : Val) (mode : Rnd) (sat : Bool) : Nat × Flags :=
  match x with
  | .nan => (f.nan, flagIf (f = .e2m1) flagNV)
  | .inf neg =>
    let s := if neg then f.sign else 0
    if f.hasInf then (s + f.infBits, 0)
    else if sat then (s + f.maxBits, flagNV)
    else (f.nan, flagNV)
  | .num neg n d =>
    if n = 0 then (if neg then f.sign else 0, 0) else roundNum f neg n d mode sat

/-- The sign of a value; a NaN has none. -/
def Val.neg : Val → Bool
  | .nan => false
  | .inf s => s
  | .num s _ _ => s

/-- A zero of either sign. -/
def Val.isZero : Val → Bool
  | .num _ 0 _ => true
  | _ => false

/-- The value with its sign turned. -/
def Val.opp : Val → Val
  | .nan => .nan
  | .inf s => .inf (!s)
  | .num s n d => .num (!s) n d

/-- The magnitude. -/
def Val.abs : Val → Val
  | .nan => .nan
  | .inf _ => .inf false
  | .num _ n d => .num false n d

/-- The signed numerator over the denominator. -/
def sInt (neg : Bool) (n : Nat) : Int := if neg then -(n : Int) else n

/-- x + y of two fractions over one denominator, as numerator and denominator; a shared factor of two
denominators is not multiplied in twice. -/
def addFrac (a : Int) (b : Nat) (c : Int) (d : Nat) : Int × Nat :=
  if d % b = 0 then (a * (d / b : Nat) + c, d)
  else if b % d = 0 then (a + c * (b / d : Nat), b)
  else (a * d + c * b, b * d)

/-- Exact x + y and whether the combination is invalid (R121); `rd` gives an exact zero the sign of RD. -/
def addVal (rd : Bool) (x y : Val) : Val × Bool :=
  match x, y with
  | .nan, _ | _, .nan => (.nan, false)
  | .inf s, .inf t => if s = t then (.inf s, false) else (.nan, true)
  | .inf s, _ => (.inf s, false)
  | _, .inf t => (.inf t, false)
  | .num s a b, .num t c d =>
    let (n, m) := addFrac (sInt s a) b (sInt t c) d
    if n = 0 then (.num (if a = 0 ∧ c = 0 ∧ s = t then s else rd) 0 1, false)
    else (.num (n < 0) n.natAbs m, false)

/-- Exact x × y and whether the combination is invalid (R121). -/
def mulVal (x y : Val) : Val × Bool :=
  match x, y with
  | .nan, _ | _, .nan => (.nan, false)
  | .inf s, .inf t => (.inf (s != t), false)
  | .inf s, .num t n _ => if n = 0 then (.nan, true) else (.inf (s != t), false)
  | .num s n _, .inf t => if n = 0 then (.nan, true) else (.inf (s != t), false)
  | .num s a b, .num t c d => (.num (s != t) (a * c) (b * d), false)

/-- Exact x × y + z (R122): an invalid product is invalid whatever the addend. -/
def fmaVal (rd : Bool) (x y z : Val) : Val × Bool :=
  let (p, i) := mulVal x y
  let (v, j) := addVal rd p z
  (v, i || j)

/-- Exact x ÷ y with the flags of R125. -/
def divVal (x y : Val) : Val × Flags :=
  match x, y with
  | .nan, _ | _, .nan => (.nan, 0)
  | .inf _, .inf _ => (.nan, flagNV)
  | .inf s, .num t _ _ => (.inf (s != t), 0)
  | .num s _ _, .inf t => (.num (s != t) 0 1, 0)
  | .num s a b, .num t c d =>
    if c = 0 then (if a = 0 then (.nan, flagNV) else (.inf (s != t), flagDZ))
    else (.num (s != t) (a * d) (b * c), 0)

/-- Newton's iteration for ⌊√m⌋ from above. -/
def isqrtStep (m : Nat) : Nat → Nat → Nat
  | 0, x => x
  | k + 1, x =>
    let y := (x + m / x) / 2
    if y < x then isqrtStep m k y else x

/-- ⌊√m⌋. -/
def isqrt (m : Nat) : Nat :=
  if m = 0 then 0 else isqrtStep m (Nat.log2 m + 8) (2 ^ (Nat.log2 m / 2 + 1))

/-- √(n ÷ d) for n, d > 0, exactly or by a value between the same two neighbours of any format: enough bits of
the root are taken that every rounding boundary is a multiple of the last, and an inexact root is put half a
last bit above its floor. -/
def sqrtFrac (n d : Nat) : Nat × Nat :=
  let e := floorLog2 n d
  let k := 64 + (if e < 0 then e.natAbs / 2 + 1 else 0)
  let m := n * 4 ^ k / d
  let r := isqrt m
  if r * r = m ∧ n * 4 ^ k % d = 0 then (r, 2 ^ k) else (2 * r + 1, 2 ^ (k + 1))

/-- √x with its flags (R125). -/
def sqrtVal (x : Val) : Val × Flags :=
  match x with
  | .nan => (.nan, 0)
  | .inf s => if s then (.nan, flagNV) else (.inf false, 0)
  | .num s n d =>
    if n = 0 then (x, 0) else if s then (.nan, flagNV)
    else ((.num false (sqrtFrac n d).1 (sqrtFrac n d).2), 0)

/-- 1 ÷ √x with its flags (R125). -/
def rsqrtVal (x : Val) : Val × Flags :=
  match x with
  | .nan => (.nan, 0)
  | .inf s => if s then (.nan, flagNV) else (.num false 0 1, 0)
  | .num s n d =>
    if n = 0 then (.inf s, flagDZ) else if s then (.nan, flagNV)
    else ((.num false (sqrtFrac d n).1 (sqrtFrac d n).2), 0)

/-- x ≤ y of two values that are not NaNs; −0 = +0. -/
def leVal (x y : Val) : Bool :=
  match x, y with
  | .nan, _ | _, .nan => false
  | .inf true, _ => true
  | _, .inf false => true
  | .inf false, _ => false
  | _, .inf true => false
  | .num s a b, .num t c d => decide (sInt s a * (d : Int) ≤ sInt t c * (b : Int))

/-- x < y of two values that are not NaNs. -/
def ltVal (x y : Val) : Bool :=
  match x, y with
  | .nan, _ | _, .nan => false
  | _, _ => !leVal y x

/-- x = y of two values that are not NaNs; −0 = +0. -/
def eqVal (x y : Val) : Bool := leVal x y && leVal y x

/-- x ≤ y with −0 below +0 (R40). -/
def leNum (x y : Val) : Bool :=
  if x.isZero && y.isZero then x.neg || !y.neg else leVal x y

/-- The value of an integer. -/
def intVal (x : Int) : Val := .num (x < 0) x.natAbs 1

/-- NV of signalling NaN operands (R39). -/
def snanFlag (f : Fmt) (xs : List Nat) : Flags := flagIf (xs.any (isSNaN f)) flagNV

/-- MinNum (R40) on encodings, the result's encoding and its flags. -/
def minNum (f : Fmt) (x y : Nat) : Nat × Flags :=
  let r :=
    match valueOf f x, valueOf f y with
    | .nan, .nan => f.nan
    | .nan, _ => y
    | _, .nan => x
    | a, b => if leNum a b then x else y
  (r, snanFlag f [x, y])

/-- MaxNum (R40) on encodings. -/
def maxNum (f : Fmt) (x y : Nat) : Nat × Flags :=
  let r :=
    match valueOf f x, valueOf f y with
    | .nan, .nan => f.nan
    | .nan, _ => y
    | _, .nan => x
    | a, b => if leNum a b then y else x
  (r, snanFlag f [x, y])

/-- An arithmetic result: rounded, with the flags of its combination and of its operands (R121). -/
def finish (f : Fmt) (mode : Rnd) (sat : Bool) (v : Val) (fl : Flags) : Nat × Flags :=
  let (r, g) := roundTo f v mode sat
  (r, g ||| fl)

/-- a + b in a format (R122). -/
def fAdd (f : Fmt) (mode : Rnd) (a b : Nat) : Nat × Flags :=
  let (v, i) := addVal (mode = .rd) (valueOf f a) (valueOf f b)
  finish f mode false v (flagIf i flagNV ||| snanFlag f [a, b])

/-- a − b in a format (R122). -/
def fSub (f : Fmt) (mode : Rnd) (a b : Nat) : Nat × Flags :=
  let (v, i) := addVal (mode = .rd) (valueOf f a) (valueOf f b).opp
  finish f mode false v (flagIf i flagNV ||| snanFlag f [a, b])

/-- a × b in a format (R122). -/
def fMul (f : Fmt) (mode : Rnd) (a b : Nat) : Nat × Flags :=
  let (v, i) := mulVal (valueOf f a) (valueOf f b)
  finish f mode false v (flagIf i flagNV ||| snanFlag f [a, b])

/-- a × b + c in a format, one rounding (R122). -/
def fFma (f : Fmt) (mode : Rnd) (a b c : Nat) : Nat × Flags :=
  let (v, i) := fmaVal (mode = .rd) (valueOf f a) (valueOf f b) (valueOf f c)
  finish f mode false v (flagIf i flagNV ||| snanFlag f [a, b, c])

/-- a ÷ b in a format (R125). -/
def fDiv (f : Fmt) (mode : Rnd) (a b : Nat) : Nat × Flags :=
  let (v, fl) := divVal (valueOf f a) (valueOf f b)
  finish f mode false v (fl ||| snanFlag f [a, b])

/-- √a in a format (R125). -/
def fSqrt (f : Fmt) (mode : Rnd) (a : Nat) : Nat × Flags :=
  let (v, fl) := sqrtVal (valueOf f a)
  finish f mode false v (fl ||| snanFlag f [a])

/-- 1 ÷ √a in a format (R125). -/
def fRsq (f : Fmt) (mode : Rnd) (a : Nat) : Nat × Flags :=
  let (v, fl) := rsqrtVal (valueOf f a)
  finish f mode false v (fl ||| snanFlag f [a])

/-- 1 ÷ a in a format (R125). -/
def fRcp (f : Fmt) (mode : Rnd) (a : Nat) : Nat × Flags :=
  let (v, fl) := divVal (.num false 1 1) (valueOf f a)
  finish f mode false v (fl ||| snanFlag f [a])

/-- FRND: an integral value of the same format (R125). -/
def fRnd (f : Fmt) (mode : Rnd) (exact : Bool) (a : Nat) : Nat × Flags :=
  match valueOf f a with
  | .nan => (f.nan, snanFlag f [a])
  | .inf _ => (a, 0)
  | .num s n d =>
    let r := roundInt mode s n d
    let (y, _) := roundTo f (.num s r 1) .rz false
    (y, flagIf (exact && decide (n % d ≠ 0)) flagNX)

/-- F2F of one element (R51, R126). -/
def fCvt (src dst : Fmt) (mode : Rnd) (sat : Bool) (a : Nat) : Nat × Flags :=
  finish dst mode sat (valueOf src a) (snanFlag src [a])

/-- The range of an integer type of `w` bits (R36). -/
def intRange (signed : Bool) (w : Nat) : Int × Int :=
  if signed then (-(2 ^ (w - 1) : Nat), (2 ^ (w - 1) : Nat) - 1) else (0, (2 ^ w : Nat) - 1)

/-- SatT (R52). -/
def satInt (signed : Bool) (w : Nat) (x : Int) : Int :=
  let (lo, hi) := intRange signed w
  if x < lo then lo else if hi < x then hi else x

/-- F2I of one element (R51, R127): the integer and its flags. -/
def fToInt (src : Fmt) (signed : Bool) (w : Nat) (mode : Rnd) (a : Nat) : Int × Flags :=
  match valueOf src a with
  | .nan => (0, flagNV)
  | .inf neg => (let (lo, hi) := intRange signed w; if neg then lo else hi, flagNV)
  | .num s n d =>
    let r := sInt s (roundInt mode s n d)
    let y := satInt signed w r
    if y ≠ r then (y, flagNV) else (y, flagIf (decide (n % d ≠ 0)) flagNX)

/-- The conditions of FCMP (R124) with their flag. -/
def fCmp (f : Fmt) (cond a b : Nat) : Bool × Flags :=
  let x := valueOf f a
  let y := valueOf f b
  let un : Bool := x = .nan || y = .nan
  let r : Bool :=
    match cond with
    | 0 => !un && eqVal x y
    | 1 => un || !eqVal x y
    | 2 => !un && ltVal x y
    | 3 => !un && leVal x y
    | 4 => !un && ltVal y x
    | 5 => !un && leVal y x
    | 6 => un
    | _ => !un
  (r, if 2 ≤ cond ∧ cond ≤ 5 then flagIf un flagNV else snanFlag f [a, b])

/-- FCLASS (R124). -/
def fClass (f : Fmt) (a : Nat) : Nat :=
  match valueOf f a with
  | .nan => if isSNaN f a then 2 ^ 8 else 2 ^ 9
  | .inf s => if s then 2 ^ 0 else 2 ^ 7
  | .num s n _ =>
    let sub : Bool := a / 2 ^ f.t % 2 ^ f.w = 0
    if n = 0 then (if s then 2 ^ 3 else 2 ^ 4)
    else if sub then (if s then 2 ^ 2 else 2 ^ 5)
    else (if s then 2 ^ 1 else 2 ^ 6)

end Sys2Proof.Machine
end

