-- ==== Sys2Proof/Machine/Forms.lean ====
section
/-! DEFINITION. What each encoding form allows: the code numbers of types and formats (R71, R202), the rule of
every shape-X instruction (which fields its entry names, R70), the encodings that raise "illegal encoding" and
those that raise "reserved field set" (R75, checks 2 and 3), and the registers an instruction names (R16, R29). -/

namespace Sys2Proof.Machine

/-- The number of a type code (R71). -/
def tyCode : Ty → Nat
  | .s32 => 0x00 | .z32 => 0x01 | .s64 => 0x02 | .z64 => 0x03 | .s16 => 0x04 | .z16 => 0x05
  | .s8 => 0x06 | .z8 => 0x07 | .s4 => 0x08 | .z4 => 0x09 | .b32 => 0x0A | .b64 => 0x0B
  | .b16 => 0x0C | .b8 => 0x0D | .f64 => 0x10 | .f32 => 0x11 | .f16 => 0x12 | .bf16 => 0x13
  | .e4m3 => 0x14 | .e5m2 => 0x15 | .e2m1 => 0x16 | .f16x2 => 0x18 | .bf16x2 => 0x19
  | .e4m3x4 => 0x1A | .e5m2x4 => 0x1B | .e2m1x8 => 0x1C

/-- The type of a code; the codes R71 leaves out are illegal on every instruction. -/
def tyOf : Nat → Option Ty
  | 0x00 => some .s32 | 0x01 => some .z32 | 0x02 => some .s64 | 0x03 => some .z64
  | 0x04 => some .s16 | 0x05 => some .z16 | 0x06 => some .s8 | 0x07 => some .z8
  | 0x08 => some .s4 | 0x09 => some .z4 | 0x0A => some .b32 | 0x0B => some .b64
  | 0x0C => some .b16 | 0x0D => some .b8 | 0x10 => some .f64 | 0x11 => some .f32
  | 0x12 => some .f16 | 0x13 => some .bf16 | 0x14 => some .e4m3 | 0x15 => some .e5m2
  | 0x16 => some .e2m1 | 0x18 => some .f16x2 | 0x19 => some .bf16x2 | 0x1A => some .e4m3x4
  | 0x1B => some .e5m2x4 | 0x1C => some .e2m1x8 | _ => none

/-- The number of a matrix format (R202). -/
def mfmtCode : MFmt → Nat
  | .e2m1 => 0 | .e4m3 => 1 | .e5m2 => 2 | .e4m3s => 3 | .e5m2s => 4 | .lut4 => 5 | .s8 => 6 | .z8 => 7
  | .bf16 => 8 | .f16 => 9 | .f32 => 10 | .f64 => 11 | .mw => 12

/-- The matrix format of a code; 13 to 31 are illegal (R202). -/
def mfmtOf : Nat → Option MFmt
  | 0 => some .e2m1 | 1 => some .e4m3 | 2 => some .e5m2 | 3 => some .e4m3s | 4 => some .e5m2s
  | 5 => some .lut4 | 6 => some .s8 | 7 => some .z8 | 8 => some .bf16 | 9 => some .f16 | 10 => some .f32
  | 11 => some .f64 | 12 => some .mw | _ => none

/-- The greatest KLEN a format allows (R202, column KD). -/
def mfmtKD : MFmt → Nat
  | .e2m1 | .lut4 => 256 | .e4m3 | .e5m2 | .e4m3s | .e5m2s | .s8 | .z8 => 128 | .bf16 | .f16 => 64
  | .f32 | .mw => 32 | .f64 => 16

/-- The element width code of a format's layout (R202, column EW). -/
def mfmtEW : MFmt → Nat
  | .e2m1 | .lut4 => 0 | .e4m3 | .e5m2 | .e4m3s | .e5m2s | .s8 | .z8 => 1 | .bf16 | .f16 => 2 | .f32 => 3
  | .f64 | .mw => 4

/-- The formats that carry scales (R205). -/
def mfmtScaled : MFmt → Bool
  | .e2m1 | .e4m3s | .e5m2s => true
  | _ => false

/-- The integer matrix formats (R202). -/
def mfmtInt : MFmt → Bool
  | .s8 | .z8 => true
  | _ => false

/-- A type whose values fill an even–odd pair (R86, R119). -/
def tyWide : Ty → Bool
  | .s64 | .z64 | .b64 | .f64 => true
  | _ => false

/-- Registers a value of the type takes. -/
def tyRegs (t : Ty) : Nat := if tyWide t then 2 else 1

/-- The width of a type in bits of one register operand (R86, R119, R228). -/
def tyBits : Ty → Nat
  | .s64 | .z64 | .b64 | .f64 => 64
  | .s32 | .z32 | .b32 | .f32 | .f16x2 | .bf16x2 | .e4m3x4 | .e5m2x4 | .e2m1x8 => 32
  | .s16 | .z16 | .b16 | .f16 | .bf16 => 16
  | .s8 | .z8 | .b8 | .e4m3 | .e5m2 => 8
  | .s4 | .z4 | .e2m1 => 4

/-- The S types, whose values are signed (R86). -/
def tySigned : Ty → Bool
  | .s64 | .s32 | .s16 | .s8 | .s4 => true
  | _ => false

/-- The B types (R94). -/
def tyRaw : Ty → Bool
  | .b64 | .b32 | .b16 | .b8 => true
  | _ => false

/-- The six arithmetic types (R86). -/
def int6 : List Ty := [.s32, .z32, .b32, .s64, .z64, .b64]
/-- Their 32-bit half. -/
def int3 : List Ty := [.s32, .z32, .b32]
/-- The types of a MOV conversion (R94). -/
def intMov : List Ty := int6 ++ [.s16, .z16, .b16, .s8, .z8, .b8, .s4, .z4]
/-- The integer types of F2I and I2F (R127). -/
def intCvt : List Ty := [.s8, .z8, .s16, .z16, .s32, .z32, .s64, .z64]
/-- Group W of R119. -/
def fltW : List Ty := [.f64, .f32, .f16, .bf16]
/-- Groups W and P of R119. -/
def fltWP : List Ty := fltW ++ [.f16x2, .bf16x2]
/-- Groups W and N of R119. -/
def fltWN : List Ty := fltW ++ [.e4m3, .e5m2, .e2m1]
/-- The types of the transcendentals (R128). -/
def fltTrans : List Ty :=
  [.f32, .f16, .bf16, .f16x2, .bf16x2, .e4m3, .e5m2, .e2m1, .e4m3x4, .e5m2x4, .e2m1x8]
/-- The types of block quantisation (R129). -/
def quantTypes : List Ty := [.e2m1, .e4m3, .e5m2, .s8, .z8]
/-- The types of LD and ST (R228). -/
def memTypes : List Ty :=
  int6 ++ [.s16, .z16, .b16, .s8, .z8, .b8, .e4m3, .e5m2, .f16, .bf16, .f32, .f64,
    .f16x2, .bf16x2, .e4m3x4, .e5m2x4, .e2m1x8]
/-- The types of the far atomics other than FADD (R403). -/
def farTypes : List Ty := int6 ++ [.s16, .z16, .b16]
/-- The result types of ACCDR (R218). -/
def drainTypes : List Ty := fltWN ++ [.s8, .z8, .s16, .z16, .s32, .z32]

/-- What a register field of shape X names: nothing (reserved), `n` registers from one that is a multiple of
`al` in the file that Y and U choose, or always uniform ones, a moment register, a predicate, or a plain
number up to a bound. -/
inductive Opd where
  | none
  | v (n al : Nat)
  | s (n al : Nat)
  | m
  | p
  | num (max : Nat)
  deriving DecidableEq, Repr

/-- The rule of K (R70). -/
inductive KRule where
  | no | may | must
  deriving DecidableEq, Repr

/-- The rule of V: reserved, up to a bound, the sub-operation the constructor stands for, or the fence scope. -/
inductive VRule where
  | reserved
  | upTo (n : Nat)
  | sub (n : Nat)
  | scope
  deriving DecidableEq, Repr

/-- V of an entry that neither lists a value of it nor calls it reserved: a value other than 0 is an illegal encoding (R70,
bullet 4). -/
def noV : VRule := .upTo 0

/-- The rule of RND: reserved, one of the five modes (R47), or RN and nothing else. -/
inductive RndRule where
  | reserved | any | rnOnly
  deriving DecidableEq, Repr

/-- The rule of O: reserved, either choice, or `.SAT` alone (R48). -/
inductive ORule where
  | reserved | any | one
  deriving DecidableEq, Repr

/-- A bit of an instruction that an entry may call reserved: S, K, Y, U, Q. -/
inductive FormBit where
  | s | k | y | u | q
  deriving DecidableEq, Repr

/-- What one shape-X entry names and allows (R70). `aU` says that U names the address register a; `res` lists the bits of
the modifier word, and S of the main word, that the entry itself calls reserved (a dash of R120 or R140, the lists of
R235, R241 and R244, CTAB.SWAP, RCFENCE): a set one is cause 0x02, where R70's general bullets would say 0x01 (DEDUCED,
log 14); `extra` is what the
entry asks beyond the common rules. -/
structure XRule where
  d : Opd := .none
  a : Opd := .none
  b : Opd := .none
  c : Opd := .none
  k : KRule := .no
  y : Bool := false
  u : Bool := false
  aU : Bool := false
  q : Bool := false
  types : List Ty := []
  v : VRule := .reserved
  rnd : RndRule := .reserved
  o : ORule := .reserved
  cov : Option Nat := Option.none
  res : List FormBit := []
  extra : Bool := true
  deriving DecidableEq, Repr

/-- `n` registers, a pair standing on an even number (R86). -/
def ov (n : Nat) : Opd := .v n n
/-- The registers of one value of type `t`. -/
def ot (t : Ty) : Opd := ov (tyRegs t)

/-- The type that V names in a conversion (R71). -/
def srcTy (x : XOps) : Ty := (tyOf x.v).getD .s32

/-- The source type of a conversion is one of `ts`. -/
def srcIn (x : XOps) (ts : List Ty) : Bool :=
  match tyOf x.v with
  | some t => ts.contains t
  | none => false

/-- IADD, ISUB and the other dyadic entries of R88 and R91 with K, Y and U. -/
def ruleDyad (x : XOps) (ts : List Ty) : XRule :=
  { d := ot x.t, a := ot x.t, b := ot x.t, k := .may, y := true, u := true, types := ts }

/-- The shift entries: b is one register whatever the type (R92). -/
def ruleShift (x : XOps) (v : Nat) : XRule :=
  { d := ot x.t, a := ot x.t, b := ov 1, k := .may, y := true, u := true, types := int6, v := .sub v }

/-- The logic entries of major 0x0B f 0b11 (R91). -/
def ruleLogic (x : XOps) (v : Nat) : XRule := { ruleDyad x int6 with v := .sub v }

/-- One source, one destination of the same type. -/
def ruleUn (x : XOps) (ts : List Ty) : XRule := { d := ot x.t, a := ot x.t, y := true, types := ts }

/-- FADD, FSUB, FMUL, FDIV (R120). -/
def ruleF2 (x : XOps) : XRule :=
  { d := ot x.t, a := ot x.t, b := ot x.t, y := true, u := true, types := fltWP, rnd := .any, res := [.q] }

/-- FSQRT, FRCP, FRSQ, FRND (R120). -/
def ruleF1 (x : XOps) : XRule := { ruleUn x fltWP with rnd := .any, res := [.q] }

/-- A destination that has no infinity and no NaN needs `.SAT` (R48). -/
def e2m1Sat (x : XOps) : Bool := !(x.t = .e2m1 || x.t = .e2m1x8) || x.o

/-- The transcendentals (R128). -/
def ruleTrans (x : XOps) : XRule :=
  { ruleUn x fltTrans with rnd := .any, res := [.q], o := if x.t = .f32 then .reserved else .any, extra := e2m1Sat x }

/-- What an F2F does with its types (R126). -/
inductive CvtKind where
  | scalar | same | pack | unpack
  deriving DecidableEq, Repr

/-- The legal pairs of F2F, destination first (R126). -/
def cvtKind (t v : Ty) : Option CvtKind :=
  if fltWN.contains t && fltWN.contains v then (if t = v then none else some .scalar)
  else match t, v with
    | .f16x2, .bf16x2 | .bf16x2, .f16x2 | .e4m3x4, .e5m2x4 | .e5m2x4, .e4m3x4 => some .same
    | .f16x2, .f32 | .bf16x2, .f32 => some .pack
    | .e4m3x4, .f16x2 | .e4m3x4, .bf16x2 | .e5m2x4, .f16x2 | .e5m2x4, .bf16x2 => some .pack
    | .e2m1x8, .e4m3x4 | .e2m1x8, .e5m2x4 => some .pack
    | .f32, .f16x2 | .f32, .bf16x2 => some .unpack
    | .f16x2, .e4m3x4 | .f16x2, .e5m2x4 | .bf16x2, .e4m3x4 | .bf16x2, .e5m2x4 => some .unpack
    | .e4m3x4, .e2m1x8 | .e5m2x4, .e2m1x8 => some .unpack
    | _, _ => none

/-- The pair of an F2F instruction. -/
def f2fKind (x : XOps) : Option CvtKind := (tyOf x.v).bind (cvtKind x.t)

/-- F2F (R126). -/
def ruleF2f (x : XOps) : XRule :=
  { d := ot x.t, a := ot (srcTy x), b := if f2fKind x = some .pack then ov 1 else .none, y := true,
    u := true, q := f2fKind x = some .unpack, types := fltWP ++ fltTrans, v := .upTo 31, rnd := .any,
    o := .any, extra := (f2fKind x).isSome && e2m1Sat x }

/-- QPK and QUPK (R129, R131, R132). -/
def ruleQuant (x : XOps) (sat : Bool) : XRule :=
  { d := ov 1, a := ov 1, b := ov 1, c := if x.t = .e2m1 then ov 1 else .none, u := true,
    types := quantTypes, rnd := .any, o := .any, res := [.q],
    extra := (!(x.t = .s8 || x.t = .z8) || (x.rnd = 0 && x.o)) && (!sat || e2m1Sat x) }

/-- The two-operand moment entries (R140, R142). -/
def ruleM2 (x : XOps) : XRule :=
  { d := .m, a := .m, b := .m, c := if x.cov = 3 then .s 1 1 else .none, q := true, types := [.f32],
    rnd := .rnOnly, cov := some 3, res := [.u] }

/-- The moment non-linearities (R147 to R150). -/
def ruleM1 : XRule := { d := .m, a := .m, q := true, types := [.f32], rnd := .rnOnly, res := [.u] }

/-- MLD and MST (R155). -/
def ruleMMem : XRule := { d := .m, a := ov 1, k := .must, types := [.f32], rnd := .rnOnly, res := [.u, .q] }

/-- LD and ST (R227, R228). -/
def ruleLdSt (x : XOps) : XRule :=
  { d := ot x.t, a := ov 1, k := .must, y := true, u := true, aU := true, types := memTypes }

/-- The words an LDS moves (R227). -/
def ldsWords (x : XOps) : Nat := 2 ^ x.v

/-- CRED and CSCAN (R102). -/
def ruleFold (x : XOps) (d : Opd) (q : Bool) : XRule :=
  { d := d, a := ov 1, q := q, types := if 6 ≤ x.v then [.f32] else int3, v := .upTo 8,
    rnd := if x.v = 6 then .any else .rnOnly }

/-- The rule of each shape-X instruction; `lrec` is the grid's layout form, which decides how many uniform
registers a layout group names (R190, R191). -/
def xRule (lrec : Bool) : Instr → Option (XRule × XOps)
  | .iaddX x | .isubX x => some ({ ruleDyad x int6 with q := true }, x)
  | .shlX x => some (ruleShift x 0, x)
  | .shrX x => some (ruleShift x 1, x)
  | .sarX x => some (ruleShift x 2, x)
  | .rotlX x => some (ruleShift x 3, x)
  | .andX x => some (ruleLogic x 0, x)
  | .orX x => some (ruleLogic x 1, x)
  | .xorX x => some (ruleLogic x 2, x)
  | .andnX x => some (ruleLogic x 3, x)
  | .imul x | .imin x | .imax x => some (ruleDyad x int6, x)
  | .imulh x => some (ruleDyad x int3, x)
  | .imad x => some ({ d := ot x.t, a := ov 1, b := ov 1, c := ot x.t, y := true, u := true, types := int6 }, x)
  | .lea x => some ({ d := ot x.t, a := ot x.t, b := ov 1, k := .may, y := true, u := true, types := int6,
                      v := .upTo 7 }, x)
  | .idiv x | .irem x => some ({ ruleDyad x int6 with q := true, v := noV }, x)
  | .iabs x => some ({ ruleUn x [.s32, .s64] with q := true }, x)
  | .notX x | .brev x => some ({ ruleUn x int6 with v := noV }, x)
  | .popc x | .clz x => some ({ d := ov 1, a := ot x.t, y := true, types := int6, v := noV }, x)
  | .bfx x => some ({ d := ot x.t, a := ot x.t, b := ov 1, k := .may, y := true, u := true, types := int6, v := noV }, x)
  | .bfi x => some ({ d := ot x.t, a := ot x.t, b := ov 1, c := ot x.t, y := true, u := true, types := int6,
                      v := noV }, x)
  | .icmp x => some ({ d := .p, a := ot x.t, b := ot x.t, k := .may, y := true, u := true, types := int6,
                       v := .upTo 5 }, x)
  | .sel x => some ({ d := ot x.t, a := ot x.t, b := ot x.t, c := .p, u := true, types := int6, v := noV }, x)
  | .mov x => some ({ d := ot x.t, b := ot (srcTy x), y := true, u := true, q := true, types := intMov,
                      v := .upTo 31, o := .one, extra := srcIn x intMov }, x)
  | .p2v x => some ({ d := ov 1, v := .sub 0 }, x)
  | .v2p x => some ({ a := ov 1, y := true, v := .sub 1 }, x)
  | .fadd x | .fsub x | .fmul x | .fdiv x => some (ruleF2 x, x)
  | .ffma x => some ({ ruleF2 x with c := ot x.t }, x)
  | .fmin x | .fmax x => some ({ ruleF2 x with rnd := .reserved }, x)
  | .fcmp x => some ({ d := .p, a := ot x.t, b := ot x.t, y := true, u := true, types := fltWN, v := .upTo 7, res := [.q] }, x)
  | .fclass x => some ({ d := ov 1, a := ot x.t, y := true, types := fltWN, res := [.q] }, x)
  | .fsqrt x | .frcp x | .frsq x => some (ruleF1 x, x)
  | .frnd x => some ({ ruleF1 x with q := true }, x)
  | .f2f x => some (ruleF2f x, x)
  | .f2i x => some ({ d := ot x.t, a := ot (srcTy x), y := true, types := intCvt, v := .upTo 31, rnd := .any,
                      o := .one, res := [.q], extra := srcIn x fltWN }, x)
  | .i2f x => some ({ d := ot x.t, a := ot (srcTy x), y := true, types := fltWN, v := .upTo 31, rnd := .any,
                      o := .any, res := [.q], extra := srcIn x intCvt && e2m1Sat x }, x)
  | .fexp2 x | .flog2 x | .fexp x | .flog x | .fsin x | .fcos x | .ftanh x | .fsigm x | .ferf x =>
      some (ruleTrans x, x)
  | .qscl x => some ({ d := ov 1, a := ov 1, b := if x.t = .e2m1 then ov 1 else .none, u := true,
                       types := quantTypes, res := [.q] }, x)
  | .qpk x => some (ruleQuant x true, x)
  | .qupk x => some (ruleQuant x false, x)
  | .ctabW x => some ({ a := ov 1, b := ov 1, y := true, u := true, types := [.bf16], res := [.q] }, x)
  | .ctabSwap x => some ({ res := [.s, .y, .u, .q] }, x)
  | .lut4 x => some ({ d := ov 1, a := ov 1, y := true, types := [.bf16x2, .f32],
                       v := .upTo (if x.t = .f32 then 7 else 3), res := [.q] }, x)
  | .madd x | .msub x | .mmul x => some (ruleM2 x, x)
  | .mfma x => some ({ ruleM2 x with c := .m, cov := some 2 }, x)
  | .mscale x => some ({ ruleM1 with b := ov 1, u := true }, x)
  | .mclamp x => some ({ ruleM1 with b := ov 1, c := ov 1, u := true, q := false, res := [.q] }, x)
  | .mmov x => some ({ ruleM1 with q := false, res := [.u, .q] }, x)
  | .mrelu x | .msigm x | .mtanh x | .mexp x => some (ruleM1, x)
  | .mset x => some ({ ruleM1 with a := ov 1, b := ov 1, u := true }, x)
  | .mcoll x => some ({ ruleM1 with d := ov 2, v := .upTo 1 }, x)
  | .mld x | .mst x => some (ruleMMem, x)
  | .rseed x => some ({ a := ov 1, b := ov 1, c := ov 1, y := true, u := true }, x)
  | .rnext x => some ({ d := if x.v = 0 then ov 4 else ov 1, v := .upTo 1 }, x)
  | .rctr x => some ({ d := ov 4, a := ov 4, b := ov 2, y := true, u := true }, x)
  | .runi x => some ({ d := ov 1, a := ov 1, y := true, types := [.f32] }, x)
  | .rmask x => some ({ d := ov 1, a := ov 4, b := ov 1, k := .may, u := true, extra := x.imm ≤ 256 }, x)
  | .ld x | .st x => some (ruleLdSt x, x)
  | .lds x => some ({ d := ov (ldsWords x), a := ov 1, k := .must, u := true, aU := true, types := [.b32],
                      v := .upTo 3, extra := x.v ≠ 0 }, x)
  | .atom x => some ({ d := ot x.t, a := ov 1, b := ot x.t, c := (if x.v = 7 then ot x.t else .none),
                       y := true, u := true, types := (if x.v = 8 then [.f32] else int6), v := .upTo 8,
                       rnd := if x.v = 8 then .any else .rnOnly, extra := (x.v = 7 || x.c = 0) }, x)
  | .tbinit x => some ({ a := .s 1 1, b := .s 1 1, k := .may, res := [.u, .y, .q] }, x)
  | .tbarr x => some ({ d := .s 1 1, a := .s 1 1, b := if x.q then .s 1 1 else .none, k := .may, q := true,
                        res := [.u, .y], extra := !x.k || x.q }, x)
  | .tbwait x => some ({ a := .s 1 1, b := .s 1 1, k := .may, res := [.u, .y, .q], extra := !x.k || x.imm < 16 }, x)
  | .srput x => some ({ d := .s 1 1, a := .s 1 1, v := .sub 0, res := [.k, .u, .y, .q] }, x)
  | .srputCommit x => some ({ a := .s 1 1, b := .s 1 1, v := .sub 1, res := [.k, .u, .y, .q] }, x)
  | .srget x => some ({ d := .s 1 1, a := .s 1 1, res := [.k, .u, .y, .q] }, x)
  | .srrel x => some ({ a := .s 1 1, res := [.k, .u, .y, .q] }, x)
  | .join x | .leave x | .bar x => some ({ v := .upTo 7, res := [.k, .u, .y, .q] }, x)
  | .barBlk x => some ({ v := .sub 8, res := [.k, .u, .y, .q] }, x)
  | .fence x => some ({ d := .num 2, v := .scope }, x)
  | .rcfence x => some ({ res := [.s, .k, .y, .u, .q] }, x)
  | .layout x => some ({ d := ov 1, a := ov 4, b := .s (if lrec then 2 else 3) 4, v := noV }, x)
  | .vote x => some ({ d := if x.v = 2 then ov 1 else .p, a := .p, y := x.v = 2, v := .upTo 2 }, x)
  | .shfl x => some ({ d := ot x.t, a := ot x.t, b := ov 1, k := .may, u := true, types := int6, v := .upTo 3 }, x)
  | .cred x => some (ruleFold x (.s 1 1) false, x)
  | .cscan x => some (ruleFold x (ov 1) true, x)
  | _ => none

/-- A register field holds a number its entry allows: alignment, a moment register below 16, a predicate below
8, a number within its bound. -/
def opdOk (o : Opd) (r : Nat) : Bool :=
  match o with
  | .none => true
  | .v _ al | .s _ al => r % al = 0
  | .m => r < 16
  | .p => r < 8
  | .num mx => r ≤ mx

/-- Guard sense 1 with p0 is illegal (R66). -/
def hdrOk (h : Hdr) : Bool := !h.n || h.g ≠ 0

/-- The entry calls a bit reserved. -/
def XRule.calls (r : XRule) (b : FormBit) : Bool := r.res.contains b
/-- Encoding legality of a shape-X instruction (R70, R75 check 2). U = 1 beside K = 1, on an entry that lists both, is an
illegal encoding (DESIGN CHOICE, log 92: the spec only calls b reserved then). -/
def xLegal (r : XRule) (x : XOps) : Bool :=
  hdrOk x.h
  && (match r.k with | .no => !x.k || r.calls .k | .may => true | .must => x.k)
  && (!x.y || r.y || r.calls .y) && (!x.u || (r.u && (r.aU || !x.k)) || (!r.u && r.calls .u))
  && (!x.q || r.q || r.calls .q)
  && (r.types.isEmpty || r.types.contains x.t)
  && (match r.v with | .reserved => true | .upTo n => x.v ≤ n | .sub n => x.v = n | .scope => x.v % 16 ≤ 11)
  && (match r.rnd with | .reserved => true | .any => x.rnd ≤ 4 | .rnOnly => x.rnd = 0)
  && (match r.o with | .one => x.o | _ => true)
  && (match r.cov with | some n => x.cov ≤ n | none => true)
  && opdOk r.d x.d && opdOk r.a x.a && (x.k || opdOk r.b x.b) && (x.k || opdOk r.c x.c)
  && r.extra

/-- A field the entry does not name holds zero (R70, R75 check 3). -/
def opdClear (o : Opd) (r : Nat) : Bool := o ≠ .none || r = 0

/-- No reserved field of a shape-X instruction is set (R70). In a form that reads no b, U of an entry that lists U is a
reserved field (DESIGN CHOICE, log 92). -/
def xClear (r : XRule) (x : XOps) : Bool :=
  !(x.y && x.u) && !(x.u && !r.aU && r.b = .none)
  && !(x.h.s && r.calls .s) && !(x.k && r.calls .k) && !(x.q && !r.q && r.calls .q) && !(x.u && !r.u && r.calls .u)
  && !(x.y && !r.y && r.calls .y)
  && opdClear r.d x.d && opdClear r.a x.a && (if x.k then x.b = 0 else opdClear r.b x.b)
  && opdClear r.c x.c
  && (!r.types.isEmpty || x.t = .s32)
  && (match r.v with | .reserved => x.v = 0 | .scope => x.v < 16 | _ => true)
  && (r.rnd ≠ .reserved || x.rnd = 0) && (r.o ≠ .reserved || !x.o) && (r.cov.isSome || x.cov = 0)

/-- The legal windows and destinations of ACCDR that its encoding carries (R210, R218). -/
def drainLegal (x : DrainOps) : Bool :=
  let int := tyBits x.t ≠ 64 && [Ty.s8, .z8, .s16, .z16, .s32, .z32].contains x.t
  drainTypes.contains x.t && x.rnd ≤ 4 && (!(int || x.t = .e2m1) || x.o) && (!int || x.rnd = 0)
  && x.row0 + x.rlen1 + 1 ≤ 128 && x.col0 + x.clen1 + 1 ≤ 128
  && (match x.dst with
      | 0 => x.a % 4 = 0
      | 1 => (x.clen1 + 1) * tyBits x.t ≤ 1024
      | 2 => tyBits x.t ≤ 32 && x.rlen1 < 32 && x.clen1 < 8
      | _ => x.t = .f32 && x.rlen1 < 32 && x.clen1 < 8 && x.dreg + x.clen1 + 1 ≤ 16)

/-- Encoding legality of every instruction (R75 check 2). -/
def legal (i : Instr) : Bool :=
  match xRule false i with
  | some (r, x) => xLegal r x
  | none =>
    match i with
    | .iaddR2 x | .isubR2 x | .andR2 x | .orR2 x | .xorR2 x | .andnR2 x | .shlR2 x | .shrR2 x | .sarR2 x
    | .rotlR2 x => hdrOk x.h
    | .iaddI8 x => hdrOk x.h
    | .shlI6 x | .shrI6 x | .sarI6 x | .rotlI6 x => hdrOk x.h
    | .movi x => hdrOk x.h
    | .movl x => hdrOk x.h
    | .pand x | .por x | .pxor x => hdrOk x.h && x.d < 8 && x.a < 8 && x.b < 8
    | .pnot x => hdrOk x.h && x.d < 8 && x.a < 8
    | .brx x | .ret x | .exit x | .trigger x => hdrOk x.h
    | .bra x | .call x => hdrOk x.h
    | .regsGrow x => x.cls ≤ 1
    | .regsShrink x => x.cls ≤ 1 && (if x.cls = 0 then x.count ≠ 0 && x.count ≤ 8 else x.count ≤ 4)
    | .csrr x => hdrOk x.h && (x.num ≤ 0x00B || (0x010 ≤ x.num && x.num ≤ 0x015) || x.num = 0x020 || x.num = 0x021)
    | .csrw x => hdrOk x.h && (x.num = 0x010 || x.num = 0x011 || x.num = 0x013)
    | .trap x | .nop x | .tret x | .bkpt x => hdrOk x.h
    | .mxw x => hdrOk x.h && (!x.rel || !x.loc) && (!x.loc || x.a % 4 = 0)
        && 16 * (x.kq + 1) ≤ mfmtKD x.fmt && (x.fmt = .f64 || x.kq % 2 = 1) && (x.fmt ≠ .mw || x.nlen1 < 64)
    | .mxa x => hdrOk x.h && (!x.rel || !x.loc) && (!x.loc || x.a % 4 = 0) && x.fmt ≠ .lut4 && x.fmt ≠ .mw
    | .mxg x => hdrOk x.h && !x.rel && x.loc && x.a % 4 = 0 && x.b % 4 = 0
        && [MFmt.e4m3, .e5m2, .s8, .z8, .bf16, .f16, .f32, .f64].contains x.fmt
    | .mxm x => hdrOk x.h && x.a % 4 = 0 && x.acc % 2 = 0
    | .mxtl x | .mxts x => hdrOk x.h && x.a % 4 = 0
    | .accz x => hdrOk x.h && x.mode ≤ 4 && (x.mode ≠ 4 || x.acc % 2 = 0)
    | .accld x => hdrOk x.h && x.mode ≤ 4 && x.a % 4 = 0
    | .accst x => hdrOk x.h && x.a % 4 = 0
    | .accdr x => hdrOk x.h && drainLegal x
    | .mxprog x => hdrOk x.h && x.d % 2 = 0
    | .cpg x => hdrOk x.h && x.a % 4 = 0 && x.b % 4 = 0 && !(x.t && x.rb) && x.sync ≠ 3
        && (x.sync ≠ 2 || x.c % 2 = 0) && x.scope ≤ 11
    | .cps x => hdrOk x.h && x.a % 4 = 0 && x.b % 4 = 0 && !(x.t && x.rb) && x.sync ≠ 3
        && (x.sync ≠ 2 || x.c % 2 = 0) && x.scope ≤ 11 && !x.last && !x.mx
    | .cphIn x | .cphOut x => hdrOk x.h && x.a % 4 = 0 && x.b % 4 = 0 && !(x.t && x.rb) && x.sync ≠ 3
        && (x.sync ≠ 2 || x.c % 2 = 0) && 7 ≤ x.scope && x.scope ≤ 11 && !x.last && !x.mx
    | .ctok x | .cwait x => hdrOk x.h && !(x.t && x.rb) && x.sync ≠ 3 && (x.sync ≠ 2 || x.c % 2 = 0)
        && !x.last && !x.mx
    | .pref x => hdrOk x.h && x.a % 2 = 0 && !(x.t && x.rb) && x.sync ≠ 3 && (x.sync ≠ 2 || x.c % 2 = 0)
        && !x.last && !x.mx
    | .fatom x => hdrOk x.h && x.a % 2 = 0 && x.op ≤ 8 && x.scope ≤ 11 && x.cond ≤ 3
        && (if x.op = 8 then x.t = .f32 else farTypes.contains x.t)
        && (!tyWide x.t || (x.b % 2 = 0 && (!x.ret || x.d % 2 = 0) && (x.op ≠ 7 || x.c % 2 = 0)))
    | .fwait x => hdrOk x.h && x.h.s && x.a % 2 = 0 && x.scope ≤ 11 && x.cond ≤ 3 && !x.ret && x.op = 0
        && (x.t = .b32 || (x.t = .b64 && x.b % 2 = 0))
    | .l2lck x => hdrOk x.h && x.h.s && x.a % 2 = 0 && !x.ret && x.cond ≤ 3 && x.op = 0 && x.t = .s32
    | .l2ulk x => hdrOk x.h && x.a % 2 = 0 && !x.ret && x.cond ≤ 3 && x.op = 0 && x.t = .s32
    | .publ x => hdrOk x.h && x.scope ≤ 11 && !x.ret && x.cond ≤ 3 && x.op = 0 && x.t = .s32
    | .compact x => x.h.g = 0 && !x.h.n && x.opt = 0
    | .envrst x => hdrOk x.h && x.b % 2 = 0 && x.opt = 0
    | .bpsort x => hdrOk x.h && x.h.s && x.d % 2 = 0 && x.opt ≤ 2
    | .bvht x => hdrOk x.h && x.h.s && x.b % 2 = 0 && x.opt ≤ 1
    | .qpush x => hdrOk x.h && x.h.s && x.opt = 0
    | .qpushRound x => hdrOk x.h && x.opt = 1
    | .qpop x => hdrOk x.h && x.h.s && x.opt ≤ 1
    | .sfact x | .ssolve x | .sadj x => hdrOk x.h && x.h.s && x.meth ≤ 2
    | .slsq x => hdrOk x.h && x.meth ≤ 2
    | .sstat x => hdrOk x.h && x.h.s && x.meth ≤ 2 && x.d % 2 = 0
    | .optsub x => hdrOk x.h
    | .optwait x => hdrOk x.h && x.h.s
    | .coll x => hdrOk x.h && x.kind ≤ 2 && x.dt ≤ 2 && (!x.res || (x.dt ≠ 0 && x.kind ≠ 1))
        && (x.kind ≠ 1 || x.dt ≠ 2) && (!x.sh || x.kind = 1)
    | .csend x => hdrOk x.h && x.kind = 0 && x.dt ≤ 2 && !x.sh
    | .csendRwd x => hdrOk x.h && x.kind = 1 && x.dt ≤ 2 && !x.sh
    | .crecv x | .rjtick x | .rjstatCfg x => hdrOk x.h && x.dt ≤ 2 && !x.sh
    | .rjopen x => hdrOk x.h && x.h.s && x.a % 2 = 0 && x.dt ≤ 2 && !x.sh
    | .rjpop x | .rjstat x => hdrOk x.h && x.h.s && x.d % 4 = 0 && x.dt ≤ 2 && !x.sh
    | _ => true

/-- No reserved field that the record of an instruction can hold is set (R70, R75 check 3). A reserved bit that
no record holds is caught by comparing the words with their own encoding. -/
def clear (i : Instr) : Bool :=
  match xRule false i with
  | some (r, x) => xClear r x
  | none =>
    match i with
    | .pnot x => x.b = 0
    | .brx x => x.d = 0 && x.b = 0
    | .ret x | .exit x | .trigger x => x.d = 0 && x.a = 0 && x.b = 0
    | .trap x => x.d = 0
    | .nop x | .tret x | .bkpt x => x.d = 0
    | .mxw x => (x.loc || x.a = 0) && (!x.loc || x.tile = 0) && (mfmtScaled x.fmt || x.b = 0)
        && (mfmtInt x.fmt || x.zw = 0)
    | .mxa x => (x.loc || x.a = 0) && (!x.loc || x.tile = 0) && (mfmtScaled x.fmt || x.b = 0)
        && (mfmtInt x.fmt || x.za = 0)
    | .mxg x => x.tile = 0 && (mfmtInt x.fmt || x.za = 0)
    | .accdr x => (x.dst = 0 || x.a = 0) && (x.pcs || x.b = 0) && (x.dst = 1 || x.tile = 0)
        && (2 ≤ x.dst || x.dreg = 0)
    | .cpg x => x.d = 0 && (x.sync ≠ 0 || x.c = 0) && (x.mx || x.m = 0)
    | .cps x => x.c = 0 && x.m = 0 && x.sync = 0
    | .cphIn x => x.d = 0 && (x.sync ≠ 0 || x.c = 0) && x.m = 0
    | .cphOut x => x.c = 0 && x.m = 0 && x.sync = 0
    | .ctok x => x.b = 0 && x.c = 0 && x.m = 0 && x.sync = 0 && x.scope = 0 && !x.t && !x.rb
    | .cwait x => x.b = 0 && x.c = 0 && x.d = 0 && x.m = 0 && x.sync = 0 && x.scope = 0 && !x.t && !x.rb
    | .pref x => x.c = 0 && x.d = 0 && x.m = 0 && x.sync = 0 && x.scope = 0 && !x.t && !x.rb
    | .fatom x => (x.op = 7 || x.c = 0) && (x.ret || x.d = 0) && x.cond = 0
    | .fwait x => x.c = 0 && x.d = 0 && !x.y
    | .l2lck x => x.c = 0 && !x.y && x.scope = 0 && x.cond = 0
    | .l2ulk x => x.c = 0 && x.d = 0 && !x.y && x.scope = 0 && x.cond = 0
    | .publ x => x.c = 0 && x.d = 0 && !x.y && x.cond = 0
    | .compact x => x.b = 0 && x.c = 0 && x.d = 0
    | .envrst x => x.d = 0
    | .bpsort x => x.b = 0 && x.c = 0
    | .qpush x => x.c = 0
    | .qpushRound x => x.a = 0 && x.c = 0 && x.d = 0
    | .qpop x => x.c = 0
    | .sfact x => x.c = 0 && x.nrhs1 = 0 && !x.rp
    | .ssolve x => !x.rp
    | .slsq x => x.b = 0 && x.c = 0 && x.d = 0 && x.n1 = 0 && x.meth = 0 && !x.f64 && !x.ts && !x.tov
        && x.nrhs1 = 0 && !x.rp
    | .sstat x => x.b = 0 && x.c = 0 && x.n1 = 0 && x.meth = 0 && !x.f64 && !x.ts && !x.tov && x.nrhs1 = 0 && !x.rp
    | .optsub x => x.d = 0
    | .coll x => x.c = 0 && !x.nb
    | .csend x | .csendRwd x => x.dt = 0 && !x.res && !x.nb
    | .crecv x => x.kind = 0 && x.dt = 0 && !x.res && !x.nb
    | .rjopen x => x.b = 0 && x.c = 0 && x.kind = 0 && x.dt = 0 && !x.res && !x.nb
    | .rjtick x => x.b = 0 && x.c = 0 && x.d = 0 && x.kind = 0 && x.dt = 0 && !x.res && !x.nb
    | .rjpop x => x.a = 0 && x.b = 0 && x.c = 0 && x.kind = 0 && x.dt = 0 && !x.res
    | .rjstat x => x.a = 0 && x.b = 0 && x.c = 0 && x.kind = 0 && x.dt = 0 && !x.res && !x.nb
    | .rjstatCfg x => x.b = 0 && x.c = 0 && x.d = 0 && x.kind = 0 && x.dt = 0 && !x.res && !x.nb
    | _ => true

end Sys2Proof.Machine
end

