-- ==== Sys2Proof/WellFormed.lean ====
section
/-! DEFINITION. Well-formed instructions: every field fits the place its shape gives it, the fields a form does
not carry hold their neutral value, and the checks of R75 on legality and reserved fields pass. -/

namespace Sys2Proof

open Sys2Proof.Machine

/-- The guard fits three bits. -/
def Hdr.fits (h : Hdr) : Bool := h.g < 8

/-- A register field fits six bits. -/
def regFits (r : Nat) : Bool := r < 64

/-- The fields of shape X fit, and K decides which of the two readings of bits [31:19] is in use (R69). -/
def XOps.fits (x : XOps) : Bool :=
  x.h.fits && regFits x.d && regFits x.a && regFits x.b && x.v < 32 && x.rnd < 8
  && (if x.k then x.imm < 8192 && x.c = 0 && x.cov = 0 else x.imm = 0 && regFits x.c && x.cov < 4)

/-- The fields of a matrix command fit (R210). -/
def MxOps.fits (x : MxOps) : Bool :=
  x.h.fits && regFits x.a && regFits x.b && x.tile < 8 && x.slot < 2 && x.kq < 16 && x.nlen1 < 128 && x.zw < 256
  && x.acc < 4 && x.mlen1 < 128 && x.za < 256

/-- The fields of MXW alone. -/
def MxOps.noStream (x : MxOps) : Bool := x.acc = 0 && x.mlen1 = 0 && !x.zero && x.za = 0

/-- The fields of the streams alone. -/
def MxOps.noLatch (x : MxOps) : Bool := x.kq = 0 && x.nlen1 = 0 && x.zw = 0

/-- The fields of an accumulator command fit (R210). -/
def AccOps.fits (x : AccOps) : Bool :=
  x.h.fits && regFits x.a && x.acc < 4 && x.mode < 8 && x.rlen1 < 128 && x.clen1 < 128

/-- The fields of ACCDR fit (R210). -/
def DrainOps.fits (x : DrainOps) : Bool :=
  x.h.fits && regFits x.a && regFits x.b && x.rnd < 8 && x.acc < 4 && x.dst < 4 && x.tile < 8 && x.rlen1 < 128
  && x.dreg < 64 && x.row0 < 128 && x.col0 < 128 && x.clen1 < 128

/-- The fields of a streamer command fit (R386). -/
def StreamOps.fits (x : StreamOps) : Bool :=
  x.h.fits && regFits x.a && regFits x.b && regFits x.c && regFits x.d && regFits x.m && x.sync < 4 && x.scope < 16

/-- The fields of a far-memory instruction fit (R402). -/
def FarOps.fits (x : FarOps) : Bool :=
  x.h.fits && regFits x.a && regFits x.b && regFits x.c && regFits x.d && x.scope < 16 && x.op < 32 && x.cond < 8

/-- The fields of a cluster instruction fit (R269). -/
def CluOps.fits (x : CluOps) : Bool :=
  x.h.fits && regFits x.a && regFits x.b && regFits x.c && regFits x.d && x.opt < 4

/-- The fields of a solver instruction fit (R291). -/
def SolOps.fits (x : SolOps) : Bool :=
  x.h.fits && regFits x.a && regFits x.b && regFits x.c && regFits x.d && x.n1 < 16 && x.meth < 4 && x.nrhs1 < 32

/-- The fields of a fabric instruction fit (R448). -/
def FabOps.fits (x : FabOps) : Bool :=
  x.h.fits && regFits x.a && regFits x.b && regFits x.c && regFits x.d && x.kind < 8 && x.dt < 4

/-- Every field fits its place. -/
def Instr.fits (i : Instr) : Bool :=
  match xRule false i with
  | some (_, x) => x.fits
  | none =>
    match i with
    | .mov16 d b | .iadd16 d b | .isub16 d b | .iaddi16 d b | .and16 d b | .or16 d b | .xor16 d b | .shli16 d b
    | .shri16 d b | .sari16 d b | .fadd16 d b | .fsub16 d b | .fmul16 d b | .fmax16 d b | .fmin16 d b
    | .movi16 d b => regFits d && b < 32
    | .iaddR2 x | .isubR2 x | .andR2 x | .orR2 x | .xorR2 x | .andnR2 x | .shlR2 x | .shrR2 x | .sarR2 x
    | .rotlR2 x => x.h.fits && regFits x.d && regFits x.a && regFits x.b
    | .iaddI8 x => x.h.fits && regFits x.d && regFits x.a && x.imm < 256
    | .shlI6 x | .shrI6 x | .sarI6 x | .rotlI6 x => x.h.fits && regFits x.d && regFits x.a && x.count < 32
    | .movi x => x.h.fits && regFits x.d && x.imm < 256
    | .movl x => x.h.fits && regFits x.d && x.const < 4294967296
    | .pand x | .por x | .pxor x | .pnot x | .brx x | .ret x | .exit x | .trigger x =>
      x.h.fits && regFits x.d && regFits x.a && regFits x.b
    | .bra x | .call x => x.h.fits && x.off < 1048576
    | .regsGrow x | .regsShrink x => regFits x.cls && regFits x.count
    | .csrr x | .csrw x | .trap x => x.h.fits && x.num < 4096 && regFits x.d
    | .nop x => x.h.fits && x.num = 0 && regFits x.d
    | .tret x => x.h.fits && x.num = 1 && regFits x.d
    | .bkpt x => x.h.fits && x.num = 2 && regFits x.d
    | .mxw x => x.fits && x.noStream
    | .mxa x | .mxg x => x.fits && x.noLatch
    | .mxm x => x.fits && x.noLatch && x.b = 0 && x.fmt = .e2m1 && !x.loc && x.tile = 0 && x.za = 0 && !x.rel
    | .mxtl x => x.h.fits && regFits x.a && x.tile < 8 && x.rlen1 < 128 && !x.rel
    | .mxts x => x.h.fits && regFits x.a && x.tile < 8 && x.rlen1 < 128
    | .accz x => x.fits && x.a = 0 && x.rlen1 = 0 && x.clen1 = 0
    | .accld x => x.fits && !x.rel
    | .accst x => x.fits && x.mode = 0
    | .accdr x => x.fits
    | .mxprog x => x.h.fits && regFits x.d
    | .cpg x | .cps x | .cphIn x | .cphOut x | .ctok x | .cwait x | .pref x => x.fits
    | .fatom x | .fwait x | .l2lck x | .l2ulk x | .publ x => x.fits
    | .compact x | .envrst x | .bpsort x | .bvht x | .qpush x | .qpushRound x | .qpop x => x.fits
    | .sfact x | .ssolve x | .sadj x | .slsq x | .sstat x => x.fits
    | .optsub x | .optwait x => x.h.fits && regFits x.a && regFits x.d
    | .coll x | .csend x | .csendRwd x | .crecv x | .rjopen x | .rjtick x | .rjpop x | .rjstat x
    | .rjstatCfg x => x.fits
    | _ => true

/-- A well-formed instruction: its fields fit, its encoding is legal and no reserved field is set (R75). -/
def Instr.wf (i : Instr) : Bool := i.fits && legal i && clear i

end Sys2Proof
end

