-- ==== Sys2Proof/Decode.lean ====
section
/-! DEFINITION. The framing of the instruction stream (R65), the fields of every shape (R66, R68 to R74), the
decoder, total on any bytes and rejecting by name, and the encoder written from the same tables. A word is laid
out as a list of field widths from bit 0 upwards. -/

namespace Sys2Proof

open Sys2Proof.Machine

/-- The fields of a word: widths and values from bit 0 upwards. -/
def packFields : List (Nat × Nat) → Nat
  | [] => 0
  | (n, x) :: rest => x + 2 ^ n * packFields rest

/-- The values of fields of the given widths, from bit 0 upwards. -/
def unpackFields : List Nat → Nat → List Nat
  | [], _ => []
  | n :: ns, x => x % 2 ^ n :: unpackFields ns (x / 2 ^ n)

/-- An instruction as it stands in the stream: one parcel, or a main word with its extension words (R65). -/
inductive Words where
  | half (p : Nat)
  | one (w : Nat)
  | two (w e : Nat)
  | three (w e f : Nat)
  deriving DecidableEq, Repr

/-- What the decoder answers: an instruction and its length, an encoding that is not an instruction (cause 0x01),
a reserved field set (cause 0x02), or bytes that end before the instruction does (R67). -/
inductive Decoded where
  | ok (i : Instr) (len : Nat)
  | illegal (len : Nat)
  | reserved (len : Nat)
  | short
  deriving DecidableEq, Repr

/-- Extension words after the main word of a major (R65, R73, R74). -/
def extWords (major : Nat) : Nat :=
  if 0x07 ≤ major ∧ major ≤ 0x0C ∨ major = 0x0F ∨ 0x10 ≤ major ∧ major ≤ 0x18 ∨ 0x1C ≤ major ∧ major ≤ 0x20
    ∨ 0x22 ≤ major ∧ major ≤ 0x28 ∨ major = 0x2F ∨ 0x30 ≤ major ∧ major ≤ 0x32 ∨ major = 0x34 ∨ major = 0x3A then 1
  else if major = 0x33 ∨ 0x36 ≤ major ∧ major ≤ 0x39 ∨ major = 0x3B then 2
  else 0

/-- The main word (R66). -/
def mainWord (major : Nat) (h : Hdr) (d a b f : Nat) : Nat :=
  packFields [(1, 1), (6, major), (1, h.s.toNat), (3, h.g), (1, h.n.toNat), (6, d), (6, a), (6, b), (2, f)]

/-- The modifier word of shape X (R69). -/
def modWord (x : XOps) : Nat :=
  packFields ([(1, 1), (3, x.rnd), (1, x.o.toNat), (1, x.u.toNat), (1, x.y.toNat), (1, x.k.toNat), (1, x.q.toNat),
    (5, tyCode x.t), (5, x.v)] ++ if x.k then [(13, x.imm)] else [(2, x.cov), (6, x.c)])

/-- A field of one bit. -/
def bit (x : Nat) : Bool := decide (x = 1)

/-- The fields of a modifier word beside a main word's registers. -/
def xFields (h : Hdr) (d a b m : Nat) : Option XOps :=
  match unpackFields [1, 3, 1, 1, 1, 1, 1, 5, 5, 2, 6] m with
  | [_, rnd, o, u, y, k, q, t, v, cov, c] =>
    (tyOf t).map fun ty =>
      { h := h, d := d, a := a, b := b, c := if bit k then 0 else c,
        imm := if bit k then m / 2 ^ 19 % 2 ^ 13 else 0, cov := if bit k then 0 else cov, v := v, t := ty,
        q := bit q, k := bit k, y := bit y, u := bit u, o := bit o, rnd := rnd }
  | _ => none

/-- Extension word 1 of MXW (R210). -/
def mxwWord (x : MxOps) : Nat :=
  packFields [(1, 1), (5, mfmtCode x.fmt), (1, x.loc.toNat), (3, x.tile), (1, x.slot), (4, x.kq), (7, x.nlen1),
    (8, x.zw), (1, x.rel.toNat), (1, 0)]

/-- Extension word 1 of MXA, MXG and MXM (R210). -/
def mxaWord (x : MxOps) : Nat :=
  packFields [(1, 1), (5, mfmtCode x.fmt), (1, x.loc.toNat), (3, x.tile), (1, x.slot), (2, x.acc), (7, x.mlen1),
    (1, x.zero.toNat), (8, x.za), (2, 0), (1, x.rel.toNat)]

/-- MXW from its words. -/
def mxwOf (h : Hdr) (a b e : Nat) : Option Instr :=
  match unpackFields [1, 5, 1, 3, 1, 4, 7, 8, 1] e with
  | [_, fmt, loc, tile, slot, kq, nlen, zw, rel] =>
    (mfmtOf fmt).map fun f =>
      .mxw { h := h, a := a, b := b, fmt := f, loc := bit loc, tile := tile, slot := slot, kq := kq,
             nlen1 := nlen, zw := zw, acc := 0, mlen1 := 0, zero := false, za := 0, rel := bit rel }
  | _ => none

/-- The fields MXA and MXG share. -/
def mxaOf (h : Hdr) (a b e : Nat) : Option MxOps :=
  match unpackFields [1, 5, 1, 3, 1, 2, 7, 1, 8, 2, 1] e with
  | [_, fmt, loc, tile, slot, acc, mlen, zr, za, _, rel] =>
    (mfmtOf fmt).map fun f =>
      { h := h, a := a, b := b, fmt := f, loc := bit loc, tile := tile, slot := slot, kq := 0, nlen1 := 0,
        zw := 0, acc := acc, mlen1 := mlen, zero := bit zr, za := za, rel := bit rel }
  | _ => none

/-- MXM from its words. -/
def mxmOf (h : Hdr) (a e : Nat) : Option Instr :=
  match unpackFields [10, 1, 2, 7, 1] e with
  | [_, slot, acc, mlen, zr] =>
    some (.mxm { h := h, a := a, b := 0, fmt := .e2m1, loc := false, tile := 0, slot := slot, kq := 0,
                 nlen1 := 0, zw := 0, acc := acc, mlen1 := mlen, zero := bit zr, za := 0, rel := false })
  | _ => none

/-- Extension word 1 of MXTL and MXTS (R210). -/
def tileWord (x : TileOps) : Nat :=
  packFields [(1, 1), (3, x.tile), (7, x.rlen1), (1, x.trans.toNat), (1, x.rel.toNat)]

/-- MXTL and MXTS from their words. -/
def tileOf (h : Hdr) (a e : Nat) (canRel : Bool) : Option TileOps :=
  match unpackFields [1, 3, 7, 1, 1] e with
  | [_, tile, rlen, tr, rel] =>
    some { h := h, a := a, tile := tile, rlen1 := rlen, trans := bit tr, rel := canRel && bit rel }
  | _ => none

/-- Extension word 1 of ACCZ (R210). -/
def acczWord (x : AccOps) : Nat := packFields [(1, 1), (3, x.mode), (2, x.acc), (1, x.rel.toNat)]

/-- ACCZ from its words. -/
def acczOf (h : Hdr) (e : Nat) : Option Instr :=
  match unpackFields [1, 3, 2, 1] e with
  | [_, mode, acc, rel] =>
    some (.accz { h := h, a := 0, acc := acc, mode := mode, rlen1 := 0, clen1 := 0, rel := bit rel })
  | _ => none

/-- Extension word 1 of ACCLD and ACCST (R210). -/
def accWord (x : AccOps) : Nat :=
  packFields [(1, 1), (3, x.mode), (2, x.acc), (7, x.rlen1), (7, x.clen1), (1, x.rel.toNat)]

/-- ACCLD and ACCST from their words. -/
def accOf (h : Hdr) (a e : Nat) (ld : Bool) : Option AccOps :=
  match unpackFields [1, 3, 2, 7, 7, 1] e with
  | [_, mode, acc, rlen, clen, rel] =>
    some { h := h, a := a, acc := acc, mode := if ld then mode else 0, rlen1 := rlen, clen1 := clen,
           rel := !ld && bit rel }
  | _ => none

/-- Extension word 1 of ACCDR (R210). -/
def drainWord1 (x : DrainOps) : Nat :=
  packFields [(1, 1), (5, tyCode x.t), (1, x.o.toNat), (3, x.rnd), (2, x.acc), (2, x.dst), (3, x.tile),
    (1, x.pcs.toNat), (1, x.rel.toNat), (7, x.rlen1), (6, x.dreg)]

/-- Extension word 2 of ACCDR (R210). -/
def drainWord2 (x : DrainOps) : Nat := packFields [(1, 1), (7, x.row0), (7, x.col0), (7, x.clen1)]

/-- ACCDR from its words. -/
def drainOf (h : Hdr) (a b e f : Nat) : Option Instr :=
  match unpackFields [1, 5, 1, 3, 2, 2, 3, 1, 1, 7, 6] e, unpackFields [1, 7, 7, 7] f with
  | [_, t, o, rnd, acc, dst, tile, pcs, rel, rlen, dreg], [_, row0, col0, clen] =>
    (tyOf t).map fun ty =>
      .accdr { h := h, a := a, b := b, t := ty, o := bit o, rnd := rnd, acc := acc, dst := dst, tile := tile,
               pcs := bit pcs, rel := bit rel, rlen1 := rlen, dreg := dreg, row0 := row0, col0 := col0,
               clen1 := clen }
  | _, _ => none

/-- Extension word 1 of MXPROG (R210). -/
def progWord (x : ProgOps) : Nat := packFields [(1, 1), (1, 0), (6, x.d), (1, x.clr.toNat)]

/-- MXPROG from its words. -/
def progOf (h : Hdr) (e : Nat) : Option Instr :=
  match unpackFields [1, 1, 6, 1] e with
  | [_, _, d, clr] => some (.mxprog { h := h, d := d, clr := bit clr })
  | _ => none

/-- Extension word 1 of major 0x36 (R386); DIR is the direction of CPH. -/
def streamWord (x : StreamOps) (dir : Bool) : Nat :=
  packFields [(1, 1), (8, 0), (1, dir.toNat), (1, x.mx.toNat), (1, x.last.toNat), (1, x.rb.toNat), (1, x.t.toNat),
    (4, x.scope), (2, x.sync), (6, x.c), (6, x.d)]

/-- Major 0x36 from its words. -/
def streamOf (h : Hdr) (sub a b e f : Nat) : Option Instr :=
  match unpackFields [1, 8, 1, 1, 1, 1, 1, 4, 2, 6, 6] e, unpackFields [26, 6] f with
  | [_, _, dir, mx, last, rb, t, scope, sync, c, d], [_, m] =>
    let x : StreamOps := { h := h, a := a, b := b, c := c, d := d, m := m, sync := sync, scope := scope,
                           t := bit t, rb := bit rb, last := bit last, mx := bit mx }
    match sub with
    | 0 => some (.cpg x)
    | 1 => some (.cps x)
    | 2 => some (if bit dir then .cphOut x else .cphIn x)
    | 3 => some (.ctok x)
    | 4 => some (.cwait x)
    | 5 => some (.pref x)
    | _ => none
  | _, _ => none

/-- Extension word 1 of major 0x37 (R402). -/
def farWord (x : FarOps) : Nat :=
  packFields [(1, 1), (3, x.cond), (1, x.y.toNat), (1, x.ret.toNat), (5, tyCode x.t), (5, x.op), (4, x.scope), (6, x.c),
    (6, x.d)]

/-- Major 0x37 from its words. -/
def farOf (h : Hdr) (sub a b e : Nat) : Option Instr :=
  match unpackFields [1, 3, 1, 1, 5, 5, 4, 6, 6] e with
  | [_, cond, y, ret, t, op, scope, c, d] =>
    (tyOf t).bind fun ty =>
      let x : FarOps := { h := h, a := a, b := b, c := c, d := d, scope := scope, op := op, t := ty,
                          ret := bit ret, y := bit y, cond := cond }
      match sub with
      | 0 => some (.fatom x)
      | 1 => some (.fwait x)
      | 2 => some (.l2lck x)
      | 3 => some (.l2ulk x)
      | 4 => some (.publ x)
      | _ => none
  | _ => none

/-- Extension word 1 of major 0x38 (R269). -/
def cluWord (x : CluOps) : Nat := packFields [(1, 1), (2, x.opt), (17, 0), (6, x.c), (6, x.d)]

/-- Major 0x38 from its words. -/
def cluOf (h : Hdr) (sub a b e : Nat) : Option Instr :=
  match unpackFields [1, 2, 17, 6, 6] e with
  | [_, opt, _, c, d] =>
    let x : CluOps := { h := h, a := a, b := b, c := c, d := d, opt := opt }
    match sub with
    | 0 => some (.compact x)
    | 1 => some (.envrst x)
    | 2 => some (.bpsort x)
    | 3 => some (.bvht x)
    | 4 => if opt = 0 then some (.qpush x) else if opt = 1 then some (.qpushRound x) else none
    | 5 => some (.qpop x)
    | _ => none
  | _ => none

/-- Extension word 1 of major 0x39 (R291). -/
def solWord (x : SolOps) : Nat :=
  packFields [(1, 1), (4, 0), (1, x.rp.toNat), (5, x.nrhs1), (1, x.tov.toNat), (1, x.ts.toNat), (1, x.f64.toNat),
    (2, x.meth), (4, x.n1), (6, x.c), (6, x.d)]

/-- Major 0x39 from its words. -/
def solOf (h : Hdr) (sub a b e : Nat) : Option Instr :=
  match unpackFields [1, 4, 1, 5, 1, 1, 1, 2, 4, 6, 6] e with
  | [_, _, rp, nrhs, tov, ts, f64, meth, n1, c, d] =>
    let x : SolOps := { h := h, a := a, b := b, c := c, d := d, n1 := n1, meth := meth, f64 := bit f64,
                        ts := bit ts, tov := bit tov, nrhs1 := nrhs, rp := bit rp }
    match sub with
    | 0 => some (.sfact x)
    | 1 => some (.ssolve x)
    | 2 => some (.sadj x)
    | 3 => some (.slsq x)
    | 4 => some (.sstat x)
    | _ => none
  | _ => none

/-- The extension word of major 0x3A (R313). -/
def optWord (x : OptOps) : Nat := packFields [(1, 1), (25, 0), (6, x.d)]

/-- Major 0x3A from its words. -/
def optOf (h : Hdr) (sub a e : Nat) : Option Instr :=
  match unpackFields [26, 6] e, sub with
  | [_, d], 0 => some (.optsub { h := h, a := a, d := d })
  | [_, d], 1 => some (.optwait { h := h, a := a, d := d })
  | _, _ => none

/-- Extension word 1 of major 0x3B (R448). -/
def fabWord (x : FabOps) (cfg : Bool) : Nat :=
  packFields [(1, 1), (10, 0), (1, cfg.toNat), (1, x.nb.toNat), (1, x.sh.toNat), (1, x.res.toNat), (2, x.dt), (3, x.kind),
    (6, x.c), (6, x.d)]

/-- Major 0x3B from its words. -/
def fabOf (h : Hdr) (sub a b e : Nat) : Option Instr :=
  match unpackFields [1, 10, 1, 1, 1, 1, 2, 3, 6, 6] e with
  | [_, _, cfg, nb, sh, res, dt, kind, c, d] =>
    let x : FabOps := { h := h, a := a, b := b, c := c, d := d, kind := kind, dt := dt, res := bit res,
                        sh := bit sh, nb := bit nb }
    match sub with
    | 0 => some (.coll x)
    | 1 => if kind = 0 then some (.csend x) else if kind = 1 then some (.csendRwd x) else none
    | 2 => some (.crecv x)
    | 3 => some (.rjopen x)
    | 4 => some (.rjtick x)
    | 5 => some (.rjpop x)
    | 6 => some (if bit cfg then .rjstatCfg x else .rjstat x)
    | _ => none
  | _ => none

/-- The 16-bit ops (R72). -/
def shortOf (op d b : Nat) : Option Instr :=
  match op with
  | 0 => some (.mov16 d b)
  | 1 => some (.iadd16 d b)
  | 2 => some (.isub16 d b)
  | 3 => some (.iaddi16 d b)
  | 4 => some (.and16 d b)
  | 5 => some (.or16 d b)
  | 6 => some (.xor16 d b)
  | 7 => some (.shli16 d b)
  | 8 => some (.shri16 d b)
  | 9 => some (.sari16 d b)
  | 10 => some (.fadd16 d b)
  | 11 => some (.fsub16 d b)
  | 12 => some (.fmul16 d b)
  | 13 => some (.fmax16 d b)
  | 14 => some (.fmin16 d b)
  | 15 => some (.movi16 d b)
  | _ => none

/-- The shape-X operations of a major and funct (R73); V chooses where one funct carries several. -/
def xOf (major f : Nat) (x : XOps) : Option Instr :=
  match major, f with
  | 0x07, 0 => some (.imul x)
  | 0x07, 1 => some (.imulh x)
  | 0x07, 2 => some (.imad x)
  | 0x07, 3 => some (.lea x)
  | 0x08, 0 => some (.idiv x)
  | 0x08, 1 => some (.irem x)
  | 0x08, 2 => some (.imin x)
  | 0x08, 3 => some (.imax x)
  | 0x09, 0 => some (.iabs x)
  | 0x09, 1 => some (.notX x)
  | 0x09, 2 => some (.popc x)
  | 0x09, 3 => some (.clz x)
  | 0x0A, 0 => some (.brev x)
  | 0x0A, 1 => some (.bfx x)
  | 0x0A, 2 => some (.bfi x)
  | 0x0B, 0 => some (.iaddX x)
  | 0x0B, 1 => some (.isubX x)
  | 0x0B, 2 =>
    match x.v with
    | 0 => some (.shlX x)
    | 1 => some (.shrX x)
    | 2 => some (.sarX x)
    | 3 => some (.rotlX x)
    | _ => none
  | 0x0B, 3 =>
    match x.v with
    | 0 => some (.andX x)
    | 1 => some (.orX x)
    | 2 => some (.xorX x)
    | 3 => some (.andnX x)
    | _ => none
  | 0x0C, 0 => some (.icmp x)
  | 0x0C, 1 => some (.sel x)
  | 0x0C, 2 => some (.mov x)
  | 0x0C, 3 =>
    match x.v with
    | 0 => some (.p2v x)
    | 1 => some (.v2p x)
    | _ => none
  | 0x10, 0 => some (.fadd x)
  | 0x10, 1 => some (.fsub x)
  | 0x10, 2 => some (.fmul x)
  | 0x10, 3 => some (.ffma x)
  | 0x11, 0 => some (.fmin x)
  | 0x11, 1 => some (.fmax x)
  | 0x11, 2 => some (.fcmp x)
  | 0x11, 3 => some (.fclass x)
  | 0x12, 0 => some (.fdiv x)
  | 0x12, 1 => some (.fsqrt x)
  | 0x12, 2 => some (.frcp x)
  | 0x12, 3 => some (.frsq x)
  | 0x13, 0 => some (.frnd x)
  | 0x13, 1 => some (.f2f x)
  | 0x13, 2 => some (.f2i x)
  | 0x13, 3 => some (.i2f x)
  | 0x14, 0 => some (.fexp2 x)
  | 0x14, 1 => some (.flog2 x)
  | 0x14, 2 => some (.fexp x)
  | 0x14, 3 => some (.flog x)
  | 0x15, 0 => some (.fsin x)
  | 0x15, 1 => some (.fcos x)
  | 0x15, 2 => some (.ftanh x)
  | 0x15, 3 => some (.fsigm x)
  | 0x16, 0 => some (.ferf x)
  | 0x17, 0 => some (.qscl x)
  | 0x17, 1 => some (.qpk x)
  | 0x17, 2 => some (.qupk x)
  | 0x18, 0 => some (.ctabW x)
  | 0x18, 1 => some (.ctabSwap x)
  | 0x18, 2 => some (.lut4 x)
  | 0x1C, 0 => some (.madd x)
  | 0x1C, 1 => some (.msub x)
  | 0x1C, 2 => some (.mmul x)
  | 0x1C, 3 => some (.mfma x)
  | 0x1D, 0 => some (.mscale x)
  | 0x1D, 1 => some (.mclamp x)
  | 0x1D, 2 => some (.mmov x)
  | 0x1E, 0 => some (.mrelu x)
  | 0x1E, 1 => some (.msigm x)
  | 0x1E, 2 => some (.mtanh x)
  | 0x1E, 3 => some (.mexp x)
  | 0x1F, 0 => some (.mset x)
  | 0x1F, 1 => some (.mcoll x)
  | 0x20, 0 => some (.mld x)
  | 0x20, 1 => some (.mst x)
  | 0x22, 0 => some (.rseed x)
  | 0x22, 1 => some (.rnext x)
  | 0x22, 2 => some (.rctr x)
  | 0x22, 3 => some (.runi x)
  | 0x23, 0 => some (.rmask x)
  | 0x24, 0 => some (.ld x)
  | 0x24, 1 => some (.st x)
  | 0x24, 2 => some (.lds x)
  | 0x24, 3 => some (.atom x)
  | 0x25, 0 => some (.tbinit x)
  | 0x25, 1 => some (.tbarr x)
  | 0x25, 2 => some (.tbwait x)
  | 0x26, 0 =>
    match x.v with
    | 0 => some (.srput x)
    | 1 => some (.srputCommit x)
    | _ => none
  | 0x26, 1 => some (.srget x)
  | 0x26, 2 => some (.srrel x)
  | 0x27, 0 => some (.join x)
  | 0x27, 1 => some (.leave x)
  | 0x27, 2 => some (if x.v = 8 then .barBlk x else .bar x)
  | 0x28, 0 => some (.fence x)
  | 0x28, 1 => some (.rcfence x)
  | 0x28, 2 => some (.layout x)
  | 0x2F, 0 => some (.vote x)
  | 0x2F, 1 => some (.shfl x)
  | 0x2F, 2 => some (.cred x)
  | 0x2F, 3 => some (.cscan x)
  | _, _ => none

/-- The instructions whose main word stands alone (R68, R73). -/
def oneOf (major : Nat) (h : Hdr) (d a b f w : Nat) : Option Instr :=
  let r : R2 := { h := h, u := decide (2 ≤ f), d := d, a := a, b := b }
  let r4 : R4 := { h := h, d := d, a := a, b := b }
  let i6 : I6 := { h := h, d := d, a := a, count := w / 2 ^ 24 % 2 ^ 5 }
  let n : NOps := { h := h, num := w / 2 ^ 18 % 2 ^ 12, d := d }
  match major, f with
  | 0x00, 0 | 0x00, 2 => some (.iaddR2 r)
  | 0x00, 1 | 0x00, 3 => some (.isubR2 r)
  | 0x01, 0 | 0x01, 2 => some (.andR2 r)
  | 0x01, 1 | 0x01, 3 => some (.orR2 r)
  | 0x02, 0 | 0x02, 2 => some (.xorR2 r)
  | 0x02, 1 | 0x02, 3 => some (.andnR2 r)
  | 0x03, 0 | 0x03, 2 => some (.shlR2 r)
  | 0x03, 1 | 0x03, 3 => some (.shrR2 r)
  | 0x04, 0 | 0x04, 2 => some (.sarR2 r)
  | 0x04, 1 | 0x04, 3 => some (.rotlR2 r)
  | 0x05, _ => some (.iaddI8 { h := h, d := d, a := a, imm := w / 2 ^ 24 % 2 ^ 8 })
  | 0x06, 0 => some (.shlI6 i6)
  | 0x06, 1 => some (.shrI6 i6)
  | 0x06, 2 => some (.sarI6 i6)
  | 0x06, 3 => some (.rotlI6 i6)
  | 0x0D, 0 => some (.pand r4)
  | 0x0D, 1 => some (.por r4)
  | 0x0D, 2 => some (.pxor r4)
  | 0x0D, 3 => some (.pnot r4)
  | 0x0E, _ => some (.movi { h := h, d := d, y := bit (w / 2 ^ 18 % 2), imm := w / 2 ^ 24 % 2 ^ 8 })
  | 0x2A, _ => some (.bra { h := h, off := w / 2 ^ 12 % 2 ^ 20 })
  | 0x2B, _ => some (.call { h := h, off := w / 2 ^ 12 % 2 ^ 20 })
  | 0x2C, 0 => some (.brx r4)
  | 0x2C, 1 => some (.ret r4)
  | 0x2C, 2 => some (.exit r4)
  | 0x2C, 3 => some (.trigger r4)
  | 0x2D, 0 => some (.regsGrow { s := h.s, cls := a, count := d })
  | 0x2D, 1 => some (.regsShrink { s := h.s, cls := a, count := d })
  | 0x2E, 0 => some (.csrr n)
  | 0x2E, 1 => some (.csrw n)
  | 0x2E, 2 => some (.trap n)
  | 0x2E, 3 =>
    match n.num with
    | 0 => some (.nop n)
    | 1 => some (.tret n)
    | 2 => some (.bkpt n)
    | _ => none
  | _, _ => none

/-- The instructions of shape E; their funct is 0b00 and field d is the sub-operation (R74). -/
def engineOf (major : Nat) (h : Hdr) (sub a b e f : Nat) : Option Instr :=
  match major, sub with
  | 0x30, 0 => mxwOf h a b e
  | 0x30, 1 => (mxaOf h a b e).map .mxa
  | 0x30, 2 => (mxaOf h a b e).map .mxg
  | 0x30, 3 => mxmOf h a e
  | 0x31, 0 => (tileOf h a e false).map .mxtl
  | 0x31, 1 => (tileOf h a e true).map .mxts
  | 0x32, 0 => acczOf h e
  | 0x32, 1 => (accOf h a e true).map .accld
  | 0x32, 2 => (accOf h a e false).map .accst
  | 0x33, 0 => drainOf h a b e f
  | 0x34, 0 => progOf h e
  | 0x36, _ => streamOf h sub a b e f
  | 0x37, _ => farOf h sub a b e
  | 0x38, _ => cluOf h sub a b e
  | 0x39, _ => solOf h sub a b e
  | 0x3A, _ => optOf h sub a e
  | 0x3B, _ => fabOf h sub a b e
  | _, _ => none

/-- The main word's fields: marker, major, S, g, n, d, a, b, f (R66). -/
def mainFields : List Nat := [1, 6, 1, 3, 1, 6, 6, 6, 2]

/-- The instruction that words stand for, before the checks of R75; none where the major, funct, sub-operation,
type code or an extension marker is not one. -/
def instrOf (ws : Words) : Option Instr :=
  let run (w e f : Nat) : Option Instr :=
    match unpackFields mainFields w with
    | [m, major, s, g, n, d, a, b, fn] =>
      let h : Hdr := { n := bit n, g := g, s := bit s }
      if m ≠ 1 ∨ e % 2 ≠ 1 ∨ f % 2 ≠ 1 ∨ !hdrOk h then none
      else if major = 0x0F then
        some (.movl { h := h, d := d, y := bit (w / 2 ^ 19 % 2), const := w / 2 ^ 18 % 2 + e / 2 * 2 })
      else if 0x30 ≤ major then if fn = 0 then engineOf major h d a b e f else none
      else if extWords major = 1 then (xFields h d a b e).bind (xOf major fn)
      else oneOf major h d a b fn w
    | _ => none
  match ws with
  | .half p =>
    match unpackFields [1, 4, 6, 5] p with
    | [_, op, d, b] => shortOf op d b
    | _ => none
  | .one w => run w 1 1
  | .two w e => run w e 1
  | .three w e f => run w e f

/-- The words of a 16-bit instruction (R72). -/
def halfWord (op d b : Nat) : Words := .half (packFields [(1, 0), (4, op), (6, d), (5, b)])

/-- The words of shape R2 (R68). -/
def r2Word (major f : Nat) (x : R2) : Words := .one (mainWord major x.h x.d x.a x.b (f + 2 * x.u.toNat))

/-- The words of shape I8 (R68). -/
def i8Word (major : Nat) (h : Hdr) (d a imm : Nat) : Words :=
  .one (mainWord major h d a (imm % 64) (imm / 64))

/-- The words of shape I6 (R68). -/
def i6Word (f : Nat) (x : I6) : Words := .one (mainWord 0x06 x.h x.d x.a x.count f)

/-- The words of shape R4 (R68). -/
def r4Word (major f : Nat) (x : R4) : Words := .one (mainWord major x.h x.d x.a x.b f)

/-- The words of shape B (R68). -/
def bWord (major : Nat) (x : BOps) : Words :=
  .one (mainWord major x.h (x.off % 64) (x.off / 64 % 64) (x.off / 4096 % 64) (x.off / 262144))

/-- The words of shape N (R68). -/
def nWord (f : Nat) (x : NOps) : Words := .one (mainWord 0x2E x.h x.d (x.num % 64) (x.num / 64) f)

/-- The words of shape REGS (R24). -/
def regsWord (f : Nat) (x : RegsOps) : Words :=
  .one (mainWord 0x2D { n := false, g := 0, s := x.s } x.count x.cls 0 f)

/-- The words of shape X (R69). -/
def xWord (major f : Nat) (x : XOps) : Words := .two (mainWord major x.h x.d x.a x.b f) (modWord x)

/-- The words of shape E with one extension word (R74). -/
def eWord (major sub : Nat) (h : Hdr) (a b e : Nat) : Words := .two (mainWord major h sub a b 0) e

/-- The words of shape E with two extension words (R74). -/
def eWord2 (major sub : Nat) (h : Hdr) (a b e f : Nat) : Words := .three (mainWord major h sub a b 0) e f

/-- The words of an instruction; none for an event of the machine, which no word stands for. -/
def words : Instr → Option Words
  | .mov16 d b => some (halfWord 0 d b)
  | .iadd16 d b => some (halfWord 1 d b)
  | .isub16 d b => some (halfWord 2 d b)
  | .iaddi16 d b => some (halfWord 3 d b)
  | .and16 d b => some (halfWord 4 d b)
  | .or16 d b => some (halfWord 5 d b)
  | .xor16 d b => some (halfWord 6 d b)
  | .shli16 d b => some (halfWord 7 d b)
  | .shri16 d b => some (halfWord 8 d b)
  | .sari16 d b => some (halfWord 9 d b)
  | .fadd16 d b => some (halfWord 10 d b)
  | .fsub16 d b => some (halfWord 11 d b)
  | .fmul16 d b => some (halfWord 12 d b)
  | .fmax16 d b => some (halfWord 13 d b)
  | .fmin16 d b => some (halfWord 14 d b)
  | .movi16 d b => some (halfWord 15 d b)
  | .iaddR2 x => some (r2Word 0x00 0 x)
  | .isubR2 x => some (r2Word 0x00 1 x)
  | .andR2 x => some (r2Word 0x01 0 x)
  | .orR2 x => some (r2Word 0x01 1 x)
  | .xorR2 x => some (r2Word 0x02 0 x)
  | .andnR2 x => some (r2Word 0x02 1 x)
  | .shlR2 x => some (r2Word 0x03 0 x)
  | .shrR2 x => some (r2Word 0x03 1 x)
  | .sarR2 x => some (r2Word 0x04 0 x)
  | .rotlR2 x => some (r2Word 0x04 1 x)
  | .iaddI8 x => some (i8Word 0x05 x.h x.d x.a x.imm)
  | .shlI6 x => some (i6Word 0 x)
  | .shrI6 x => some (i6Word 1 x)
  | .sarI6 x => some (i6Word 2 x)
  | .rotlI6 x => some (i6Word 3 x)
  | .movi x => some (i8Word 0x0E x.h x.d x.y.toNat x.imm)
  | .pand x => some (r4Word 0x0D 0 x)
  | .por x => some (r4Word 0x0D 1 x)
  | .pxor x => some (r4Word 0x0D 2 x)
  | .pnot x => some (r4Word 0x0D 3 x)
  | .bra x => some (bWord 0x2A x)
  | .call x => some (bWord 0x2B x)
  | .brx x => some (r4Word 0x2C 0 x)
  | .ret x => some (r4Word 0x2C 1 x)
  | .exit x => some (r4Word 0x2C 2 x)
  | .trigger x => some (r4Word 0x2C 3 x)
  | .regsGrow x => some (regsWord 0 x)
  | .regsShrink x => some (regsWord 1 x)
  | .csrr x => some (nWord 0 x)
  | .csrw x => some (nWord 1 x)
  | .trap x => some (nWord 2 x)
  | .nop x => some (nWord 3 { x with num := 0 })
  | .tret x => some (nWord 3 { x with num := 1 })
  | .bkpt x => some (nWord 3 { x with num := 2 })
  | .imul x => some (xWord 0x07 0 x)
  | .imulh x => some (xWord 0x07 1 x)
  | .imad x => some (xWord 0x07 2 x)
  | .lea x => some (xWord 0x07 3 x)
  | .idiv x => some (xWord 0x08 0 x)
  | .irem x => some (xWord 0x08 1 x)
  | .imin x => some (xWord 0x08 2 x)
  | .imax x => some (xWord 0x08 3 x)
  | .iabs x => some (xWord 0x09 0 x)
  | .notX x => some (xWord 0x09 1 x)
  | .popc x => some (xWord 0x09 2 x)
  | .clz x => some (xWord 0x09 3 x)
  | .brev x => some (xWord 0x0A 0 x)
  | .bfx x => some (xWord 0x0A 1 x)
  | .bfi x => some (xWord 0x0A 2 x)
  | .iaddX x => some (xWord 0x0B 0 x)
  | .isubX x => some (xWord 0x0B 1 x)
  | .shlX x => some (xWord 0x0B 2 x)
  | .shrX x => some (xWord 0x0B 2 x)
  | .sarX x => some (xWord 0x0B 2 x)
  | .rotlX x => some (xWord 0x0B 2 x)
  | .andX x => some (xWord 0x0B 3 x)
  | .orX x => some (xWord 0x0B 3 x)
  | .xorX x => some (xWord 0x0B 3 x)
  | .andnX x => some (xWord 0x0B 3 x)
  | .icmp x => some (xWord 0x0C 0 x)
  | .sel x => some (xWord 0x0C 1 x)
  | .mov x => some (xWord 0x0C 2 x)
  | .p2v x => some (xWord 0x0C 3 x)
  | .v2p x => some (xWord 0x0C 3 x)
  | .fadd x => some (xWord 0x10 0 x)
  | .fsub x => some (xWord 0x10 1 x)
  | .fmul x => some (xWord 0x10 2 x)
  | .ffma x => some (xWord 0x10 3 x)
  | .fmin x => some (xWord 0x11 0 x)
  | .fmax x => some (xWord 0x11 1 x)
  | .fcmp x => some (xWord 0x11 2 x)
  | .fclass x => some (xWord 0x11 3 x)
  | .fdiv x => some (xWord 0x12 0 x)
  | .fsqrt x => some (xWord 0x12 1 x)
  | .frcp x => some (xWord 0x12 2 x)
  | .frsq x => some (xWord 0x12 3 x)
  | .frnd x => some (xWord 0x13 0 x)
  | .f2f x => some (xWord 0x13 1 x)
  | .f2i x => some (xWord 0x13 2 x)
  | .i2f x => some (xWord 0x13 3 x)
  | .fexp2 x => some (xWord 0x14 0 x)
  | .flog2 x => some (xWord 0x14 1 x)
  | .fexp x => some (xWord 0x14 2 x)
  | .flog x => some (xWord 0x14 3 x)
  | .fsin x => some (xWord 0x15 0 x)
  | .fcos x => some (xWord 0x15 1 x)
  | .ftanh x => some (xWord 0x15 2 x)
  | .fsigm x => some (xWord 0x15 3 x)
  | .ferf x => some (xWord 0x16 0 x)
  | .qscl x => some (xWord 0x17 0 x)
  | .qpk x => some (xWord 0x17 1 x)
  | .qupk x => some (xWord 0x17 2 x)
  | .ctabW x => some (xWord 0x18 0 x)
  | .ctabSwap x => some (xWord 0x18 1 x)
  | .lut4 x => some (xWord 0x18 2 x)
  | .madd x => some (xWord 0x1C 0 x)
  | .msub x => some (xWord 0x1C 1 x)
  | .mmul x => some (xWord 0x1C 2 x)
  | .mfma x => some (xWord 0x1C 3 x)
  | .mscale x => some (xWord 0x1D 0 x)
  | .mclamp x => some (xWord 0x1D 1 x)
  | .mmov x => some (xWord 0x1D 2 x)
  | .mrelu x => some (xWord 0x1E 0 x)
  | .msigm x => some (xWord 0x1E 1 x)
  | .mtanh x => some (xWord 0x1E 2 x)
  | .mexp x => some (xWord 0x1E 3 x)
  | .mset x => some (xWord 0x1F 0 x)
  | .mcoll x => some (xWord 0x1F 1 x)
  | .mld x => some (xWord 0x20 0 x)
  | .mst x => some (xWord 0x20 1 x)
  | .rseed x => some (xWord 0x22 0 x)
  | .rnext x => some (xWord 0x22 1 x)
  | .rctr x => some (xWord 0x22 2 x)
  | .runi x => some (xWord 0x22 3 x)
  | .rmask x => some (xWord 0x23 0 x)
  | .ld x => some (xWord 0x24 0 x)
  | .st x => some (xWord 0x24 1 x)
  | .lds x => some (xWord 0x24 2 x)
  | .atom x => some (xWord 0x24 3 x)
  | .tbinit x => some (xWord 0x25 0 x)
  | .tbarr x => some (xWord 0x25 1 x)
  | .tbwait x => some (xWord 0x25 2 x)
  | .srput x => some (xWord 0x26 0 x)
  | .srputCommit x => some (xWord 0x26 0 x)
  | .srget x => some (xWord 0x26 1 x)
  | .srrel x => some (xWord 0x26 2 x)
  | .join x => some (xWord 0x27 0 x)
  | .leave x => some (xWord 0x27 1 x)
  | .bar x => some (xWord 0x27 2 x)
  | .barBlk x => some (xWord 0x27 2 x)
  | .fence x => some (xWord 0x28 0 x)
  | .rcfence x => some (xWord 0x28 1 x)
  | .layout x => some (xWord 0x28 2 x)
  | .vote x => some (xWord 0x2F 0 x)
  | .shfl x => some (xWord 0x2F 1 x)
  | .cred x => some (xWord 0x2F 2 x)
  | .cscan x => some (xWord 0x2F 3 x)
  | .movl x => some (.two (mainWord 0x0F x.h x.d (x.const % 2 + 2 * x.y.toNat) 0 0) (x.const / 2 * 2 + 1))
  | .mxw x => some (eWord 0x30 0 x.h x.a x.b (mxwWord x))
  | .mxa x => some (eWord 0x30 1 x.h x.a x.b (mxaWord x))
  | .mxg x => some (eWord 0x30 2 x.h x.a x.b (mxaWord x))
  | .mxm x => some (eWord 0x30 3 x.h x.a 0 (mxaWord x))
  | .mxtl x => some (eWord 0x31 0 x.h x.a 0 (tileWord x))
  | .mxts x => some (eWord 0x31 1 x.h x.a 0 (tileWord x))
  | .accz x => some (eWord 0x32 0 x.h 0 0 (acczWord x))
  | .accld x => some (eWord 0x32 1 x.h x.a 0 (accWord x))
  | .accst x => some (eWord 0x32 2 x.h x.a 0 (accWord x))
  | .accdr x => some (eWord2 0x33 0 x.h x.a x.b (drainWord1 x) (drainWord2 x))
  | .mxprog x => some (eWord 0x34 0 x.h 0 0 (progWord x))
  | .cpg x => some (eWord2 0x36 0 x.h x.a x.b (streamWord x false) (packFields [(1, 1), (25, 0), (6, x.m)]))
  | .cps x => some (eWord2 0x36 1 x.h x.a x.b (streamWord x false) (packFields [(1, 1), (25, 0), (6, x.m)]))
  | .cphIn x => some (eWord2 0x36 2 x.h x.a x.b (streamWord x false) (packFields [(1, 1), (25, 0), (6, x.m)]))
  | .cphOut x => some (eWord2 0x36 2 x.h x.a x.b (streamWord x true) (packFields [(1, 1), (25, 0), (6, x.m)]))
  | .ctok x => some (eWord2 0x36 3 x.h x.a x.b (streamWord x false) (packFields [(1, 1), (25, 0), (6, x.m)]))
  | .cwait x => some (eWord2 0x36 4 x.h x.a x.b (streamWord x false) (packFields [(1, 1), (25, 0), (6, x.m)]))
  | .pref x => some (eWord2 0x36 5 x.h x.a x.b (streamWord x false) (packFields [(1, 1), (25, 0), (6, x.m)]))
  | .fatom x => some (eWord2 0x37 0 x.h x.a x.b (farWord x) 1)
  | .fwait x => some (eWord2 0x37 1 x.h x.a x.b (farWord x) 1)
  | .l2lck x => some (eWord2 0x37 2 x.h x.a x.b (farWord x) 1)
  | .l2ulk x => some (eWord2 0x37 3 x.h x.a x.b (farWord x) 1)
  | .publ x => some (eWord2 0x37 4 x.h x.a x.b (farWord x) 1)
  | .compact x => some (eWord2 0x38 0 x.h x.a x.b (cluWord x) 1)
  | .envrst x => some (eWord2 0x38 1 x.h x.a x.b (cluWord x) 1)
  | .bpsort x => some (eWord2 0x38 2 x.h x.a x.b (cluWord x) 1)
  | .bvht x => some (eWord2 0x38 3 x.h x.a x.b (cluWord x) 1)
  | .qpush x => some (eWord2 0x38 4 x.h x.a x.b (cluWord x) 1)
  | .qpushRound x => some (eWord2 0x38 4 x.h x.a x.b (cluWord x) 1)
  | .qpop x => some (eWord2 0x38 5 x.h x.a x.b (cluWord x) 1)
  | .sfact x => some (eWord2 0x39 0 x.h x.a x.b (solWord x) 1)
  | .ssolve x => some (eWord2 0x39 1 x.h x.a x.b (solWord x) 1)
  | .sadj x => some (eWord2 0x39 2 x.h x.a x.b (solWord x) 1)
  | .slsq x => some (eWord2 0x39 3 x.h x.a x.b (solWord x) 1)
  | .sstat x => some (eWord2 0x39 4 x.h x.a x.b (solWord x) 1)
  | .optsub x => some (eWord 0x3A 0 x.h x.a 0 (optWord x))
  | .optwait x => some (eWord 0x3A 1 x.h x.a 0 (optWord x))
  | .coll x => some (eWord2 0x3B 0 x.h x.a x.b (fabWord x false) 1)
  | .csend x => some (eWord2 0x3B 1 x.h x.a x.b (fabWord x false) 1)
  | .csendRwd x => some (eWord2 0x3B 1 x.h x.a x.b (fabWord x false) 1)
  | .crecv x => some (eWord2 0x3B 2 x.h x.a x.b (fabWord x false) 1)
  | .rjopen x => some (eWord2 0x3B 3 x.h x.a x.b (fabWord x false) 1)
  | .rjtick x => some (eWord2 0x3B 4 x.h x.a x.b (fabWord x false) 1)
  | .rjpop x => some (eWord2 0x3B 5 x.h x.a x.b (fabWord x false) 1)
  | .rjstat x => some (eWord2 0x3B 6 x.h x.a x.b (fabWord x false) 1)
  | .rjstatCfg x => some (eWord2 0x3B 6 x.h x.a x.b (fabWord x true) 1)
  | _ => none

/-- The length of words in bytes (R65). -/
def Words.len : Words → Nat
  | .half _ => 2
  | .one _ => 4
  | .two _ _ => 8
  | .three _ _ _ => 12

/-- Words in the byte order of the stream (R65). -/
def Words.bytes : Words → List Byte
  | .half p => natToBytes 2 p
  | .one w => natToBytes 4 w
  | .two w e => natToBytes 4 w ++ natToBytes 4 e
  | .three w e f => natToBytes 4 w ++ natToBytes 4 e ++ natToBytes 4 f

/-- The words at the head of a stream; none where it ends before they do (R65, R67). -/
def frame (bs : List Byte) : Option Words :=
  let w := bytesToNat (bs.take 4)
  let e := bytesToNat ((bs.drop 4).take 4)
  let f := bytesToNat ((bs.drop 8).take 4)
  if bs.length < 2 then none
  else if w % 2 = 0 then some (.half (bytesToNat (bs.take 2)))
  else if bs.length < 4 then none
  else
    match extWords (w / 2 % 64) with
    | 0 => some (.one w)
    | 1 => if bs.length < 8 then none else some (.two w e)
    | _ => if bs.length < 12 then none else some (.three w e f)

/-- Checks 2 and 3 of R75 on framed words: an instruction that its words are the encoding of, or the cause. -/
def decodeWords (ws : Words) : Decoded :=
  match instrOf ws with
  | none => .illegal ws.len
  | some i =>
    if !legal i then .illegal ws.len
    else if clear i && decide (words i = some ws) then .ok i ws.len
    else .reserved ws.len

/-- The decoder: total on any bytes. -/
def decode (bs : List Byte) : Decoded :=
  match frame bs with
  | none => .short
  | some ws => decodeWords ws

/-- The bytes of a well-formed instruction; an event has none. -/
def encode (i : Instr) : List Byte :=
  match words i with
  | some ws => ws.bytes
  | none => []

/-- The instruction the decoder reads from the low `nbits` bits of `w`, every later bit zr. -/
def decodeTableWord (nbits w : Nat) : Option Instr :=
  match decode (natToBytes (nbits / 8) w ++ List.replicate 12 0) with
  | .ok i _ => some i
  | _ => none

end Sys2Proof
end

