-- ==== Sys2Proof/Config.lean ====
section
/-! DEFINITION. What the spec leaves open: the choices and values that no rule fixes, as constants with no body, and
the plain numbers that firmware fixes. Every entry is named in the assumption log. -/

namespace Sys2Proof

/-- Which of several agents that may move does so, at the step of that number (DESIGN CHOICE, log 1). -/
opaque Config.pick : Nat → Nat

/-- How many cycles of the arithmetic clock the step of that number takes; the spec fixes no cost (log 2). -/
opaque Config.elapsed : Nat → Nat

/-- The offset of a unit's own cycle counter; units start at no shared moment (R356, log 2). -/
opaque Config.counterOffset : Nat → Nat

/-- A value the spec does not state, fresh for each number it is applied to (log 3). -/
opaque Config.freeNat : Nat → Nat

/-- The set of a cache in which a line is placed; placement changes only timing (R365, log 5). -/
opaque Config.setOf : Nat → Nat

/-- The capacity-tier channel that holds a device address; the spec fixes no mapping (R425, log 6). -/
opaque Config.channelOf : Nat → Nat

/-- The DRAM row that holds a device address; the spec fixes no mapping (R423, log 59). -/
opaque Config.rowOf : Nat → Nat

/-- The count at which a row's activation counter is saturated; the spec fixes none (R423, log 59). -/
opaque Config.rowMax : Nat

/-- The hash of a pair of endpoints that fixes their path; the spec fixes none (R447, log 7). -/
opaque Config.pathOf : Nat → Nat → Nat

/-- Whether a firmware image carries a valid signature; the keys are fused at manufacture (R433, log 8). -/
opaque Config.imageSigned : List Byte → Bool
/-- The security version of a firmware image (R433, log 8). -/
opaque Config.imageVersion : List Byte → Nat
/-- The SHA-384 digest of bytes (R433, log 8). -/
opaque Config.digest : List Byte → Nat
/-- The SHA-384 digest of the controller's ROM, made at manufacture (R433, R434, log 8). -/
opaque Config.romDigest : Nat
/-- The bytes of the device's certificate chain (R434, log 8). -/
opaque Config.certificate : Nat → Byte
/-- A signature of the device identity key, whose private half the spec keeps secret (R434, log 8). -/
opaque Config.signature : Nat → List Byte → Nat

/-- The base of the control queue in device memory: firmware fixes it (R339; DESIGN CHOICE, log 4). -/
def Config.cqBase : Nat := 0

/-- The entries of the control queue: firmware fixes the number (R339; DESIGN CHOICE, log 4). -/
def Config.cqSize : Nat := 16

end Sys2Proof
end

