-- ==== Sys2Proof/Machine/CrewState.lean ====
section
/-! DEFINITION. The state of one crew (R14 to R34): registers, program counters, trap state, pending bits,
results still outstanding, the store queue and what the crew waits for. -/

namespace Sys2Proof.Machine

/-- A register an instruction names (R14). -/
inductive Reg where
  | v (n : Nat)
  | m (n : Nat)
  | s (n : Nat)
  | p (n : Nat)
  deriving DecidableEq, Repr

/-- One write of a register: a vector or moment register of a lane, a uniform register, a predicate of a lane. -/
inductive Wr where
  | v (r l : Nat) (x : Word)
  | m (r l : Nat) (x : DWord)
  | s (r : Nat) (x : Word)
  | p (k l : Nat) (x : Bool)
  deriving DecidableEq, Repr

/-- A cause with what its entry defines (R166, R169): the code, TRAPC[31:8], TRAPPC, TRAPM and the faulting
virtual address; `next` is the PC after the raising instruction. -/
structure Trap where
  code : Nat
  info : Nat := 0
  pc : Word := 0xFFFFFFFF
  lanes : Word := 0
  va : Nat := 0
  next : Word := 0
  deriving DecidableEq, Repr

/-- A late cause (R477) or a held one (R171): `order` numbers the issue of the instruction it belongs to. -/
structure Late where
  order : Nat
  trap : Trap
  deriving DecidableEq, Repr

/-- A variable-latency result that has not returned (R28): what it will write, the flags and MCLF held with it
(R138, R143), its late cause, and whether it may return. A result computed by an engine stays not ready until
the engine's event fills it. -/
structure Pend where
  order : Nat
  writes : List Wr := []
  flags : Flags := 0
  clamp : Bool := false
  late : Option Trap := none
  ready : Bool := true
  deriving DecidableEq, Repr

/-- One lane's part of an ATOM: lane, address, operand b, operand c. -/
structure AtomLane where
  lane : Nat
  addr : Nat
  b : Nat
  c : Nat
  deriving DecidableEq, Repr

/-- The fields of an environment descriptor (R274). -/
structure EnvDesc where
  tbase : Nat
  sbase : Nat
  ssize : Nat
  epoff : Nat
  curoff : Nat
  rsv : Nat
  deriving DecidableEq, Repr

/-- An entry of a crew's store queue (R194, R233): a store of bytes, or an operation performed at the head. -/
inductive QEntry where
  | store (addr : Nat) (bytes : List Byte)
  | atom (order op : Nat) (t : Ty) (rnd : Nat) (uni : Bool) (d : Nat) (lanes : List AtomLane)
  | tbinit (order addr n : Nat) (pc act : Word)
  | tbarr (addr d : Nat) (inb : Nat) (pc act : Word)
  | envrst (d : EnvDesc) (lanes : List (Nat × Nat))
  /-- An SRPUT.COMMIT of a slot word, or an SRREL, on the ring descriptor at an offset (R241). -/
  | ring (order : Nat) (i : Instr) (addr slotw : Nat) (pc act : Word)
  deriving DecidableEq, Repr

/-- A job that a crew has handed to a unit and whose crew is parked until it returns (R268, R271): the instruction,
its PC, its active and participating lanes, the number of its issue, and the step of its arrival at the unit. Its
operands stay in the parked crew. -/
structure Job where
  i : Instr
  pc : Word
  act : Word
  part : Word
  order : Nat
  since : Nat := 0
  /-- The bytes that a QPUSH read at the head of the store queue, one entry for each lane (R284). -/
  bytes : Option (List (List Byte)) := none
  deriving DecidableEq, Repr

/-- What a crew that issues nothing until its results have returned does then (R30, R477). -/
inductive Park where
  /-- S = 1: the PC after the instruction that parked. -/
  | marker (ret : Word)
  /-- EXIT (R108). -/
  | exit (ret : Word)
  /-- COMPACT before it arrives (R272): the instruction and its active lanes. -/
  | compact (i : Instr) (pc act : Word)
  /-- Trap entry (R169). -/
  | trap (t : Trap)
  deriving DecidableEq, Repr

/-- The state of a crew (R31); the trap routine state stands beside it in `inTrap`. -/
inductive Wait where
  | ready
  | parked (k : Park)
  /-- Barrier wait, far-flag wait, compact wait, grant wait, or an instruction that the crew does not issue past
  until it is complete: the instruction, its PC, its active and its participating lanes. -/
  | waiting (i : Instr) (pc act part : Word)
  | draining
  deriving DecidableEq, Repr

/-- A crew (R14 to R34, R394, R395): `hfaults` holds the faults its next release fence raises, `publ` the list that a waiting
PUBL has read (R400). Tables are sparse: `v` and `m` by 32 × register + lane, `s` by register, `p` by
predicate (a lane mask), `pcv`, `rpcv`, `strm` and `tid` by lane. -/
structure Crew where
  vg : Nat := 1
  mg : Nat := 0
  quad : Nat := 0
  live : Word := 0xFFFFFFFF
  pcv : Sparse Word := []
  v : Sparse Word := []
  m : Sparse DWord := []
  s : Sparse Word := []
  p : Sparse Word := []
  strm : Sparse (BitVec 128) := []
  tid : Sparse Nat := []
  fpc : Word := 0
  mclf : Bool := false
  trapc : Word := 0
  trappc : Word := 0
  trapm : Word := 0
  inTrap : Bool := false
  rpcv : Sparse Word := []
  held : Option Late := none
  late : Option Late := none
  hflags : Flags := 0
  hclamp : Bool := false
  vpend : BitVec 64 := 0
  spend : BitVec 64 := 0
  mpend : BitVec 16 := 0
  ppend : BitVec 8 := 0
  fpcp : Bool := false
  tokc : Nat := 0
  jobs : List Job := []
  hfaults : List Late := []
  publ : List Nat := []
  outs : List Pend := []
  queue : List QEntry := []
  wait : Wait := .ready
  lastIssue : Nat := 0
  issues : Nat := 0
  deriving DecidableEq, Repr

end Sys2Proof.Machine
end

