-- ==== Sys2Proof/Machine/Named.lean ====
section
/-! DEFINITION. What an encoding names: the guard and the switch marker of an instruction, its length, the registers
it reads and writes (R16, R28, R29), the role it requires (R74), whether it is variable-latency (R27), and whether it
can raise floating-point flags. -/

namespace Sys2Proof.Machine

/-- The guard and switch marker of an instruction (R66); a 16-bit instruction has neither (R72). -/
def hdrOf (i : Instr) : Hdr :=
  match xRule false i with
  | some (_, x) => x.h
  | none =>
    match i with
    | .iaddR2 x | .isubR2 x | .andR2 x | .orR2 x | .xorR2 x | .andnR2 x | .shlR2 x | .shrR2 x | .sarR2 x
    | .rotlR2 x => x.h
    | .iaddI8 x => x.h
    | .shlI6 x | .shrI6 x | .sarI6 x | .rotlI6 x => x.h
    | .movi x => x.h
    | .movl x => x.h
    | .pand x | .por x | .pxor x | .pnot x | .brx x | .ret x | .exit x | .trigger x => x.h
    | .bra x | .call x => x.h
    | .regsGrow x | .regsShrink x => ⟨false, 0, x.s⟩
    | .csrr x | .csrw x | .trap x | .nop x | .tret x | .bkpt x => x.h
    | .mxw x | .mxa x | .mxg x | .mxm x => x.h
    | .mxtl x | .mxts x => x.h
    | .accz x | .accld x | .accst x => x.h
    | .accdr x => x.h
    | .mxprog x => x.h
    | .cpg x | .cps x | .cphIn x | .cphOut x | .ctok x | .cwait x | .pref x => x.h
    | .fatom x | .fwait x | .l2lck x | .l2ulk x | .publ x => x.h
    | .compact x | .envrst x | .bpsort x | .bvht x | .qpush x | .qpushRound x | .qpop x => x.h
    | .sfact x | .ssolve x | .sadj x | .slsq x | .sstat x => x.h
    | .optsub x | .optwait x => x.h
    | .coll x | .csend x | .csendRwd x | .crecv x | .rjopen x | .rjtick x | .rjpop x | .rjstat x
    | .rjstatCfg x => x.h
    | _ => ⟨false, 0, false⟩

/-- The length of an instruction in bytes (R65). -/
def lenOf (i : Instr) : Nat := match words i with | some w => w.len | none => 0

/-- `n` consecutive registers from `r`: uniform ones when `uni`, else vector ones. -/
def regRun (uni : Bool) (r n : Nat) : List Reg :=
  (List.range n).map fun k => if uni then .s (r + k) else .v (r + k)

/-- The registers an operand of shape X names. -/
def opdRegs (uni : Bool) (o : Opd) (r : Nat) : List Reg :=
  match o with
  | .none | .num _ => []
  | .v n _ => regRun uni r n
  | .s n _ => regRun true r n
  | .m => [.m r]
  | .p => [.p r]

/-- Whether the field d of a shape-X instruction is a source (R73: ST and MST read their data from d). -/
def dIsSource : Instr → Bool
  | .st _ | .mst _ => true
  | _ => false

/-- The uniform registers of a layout group: a layout word takes three, a shape record's VA two (R190, R191). -/
def layoutRegs (lrec : Bool) (r : Nat) : List Reg := regRun true r (if lrec then 2 else 3)

/-- The scope of a CSR (R112): the lane CSRs name a vector register. -/
def csrLane (n : Nat) : Bool := [0x000, 0x003, 0x004, 0x009, 0x00A].contains n

/-- The registers an instruction reads, besides its guard (R85). `lrec` is the grid's layout form (R189). -/
def sources (lrec : Bool) (i : Instr) : List Reg :=
  match xRule lrec i with
  | some (r, x) =>
    let a := opdRegs (x.y || (x.u && r.aU)) r.a x.a
    let bc := if x.k then [] else opdRegs (x.y || (x.u && !r.aU)) r.b x.b ++ opdRegs x.y r.c x.c
    a ++ bc ++ (if dIsSource i then opdRegs x.y r.d x.d else [])
  | none =>
    match i with
    | .mov16 _ b => [.v b]
    | .movi16 _ _ => []
    | .iaddi16 d _ | .shli16 d _ | .shri16 d _ | .sari16 d _ => [.v d]
    | .iadd16 d b | .isub16 d b | .and16 d b | .or16 d b | .xor16 d b | .fadd16 d b | .fsub16 d b
    | .fmul16 d b | .fmax16 d b | .fmin16 d b => [.v d, .v b]
    | .iaddR2 x | .isubR2 x | .andR2 x | .orR2 x | .xorR2 x | .andnR2 x | .shlR2 x | .shrR2 x | .sarR2 x
    | .rotlR2 x => .v x.a :: regRun x.u x.b 1
    | .iaddI8 x => [.v x.a]
    | .shlI6 x | .shrI6 x | .sarI6 x | .rotlI6 x => [.v x.a]
    | .pand x | .por x | .pxor x => [.p x.a, .p x.b]
    | .pnot x => [.p x.a]
    | .brx x => [.v x.a]
    | .csrw x => [.s x.d]
    | .mxw x => (if x.loc then layoutRegs lrec x.a else []) ++ (if mfmtScaled x.fmt then [.s x.b] else [])
    | .mxa x => (if x.loc then layoutRegs lrec x.a else []) ++ (if mfmtScaled x.fmt then [.s x.b] else [])
    | .mxg x => layoutRegs lrec x.a ++ regRun false x.b 4
    | .mxm x => layoutRegs lrec x.a
    | .mxtl x | .mxts x => layoutRegs lrec x.a
    | .accld x | .accst x => layoutRegs lrec x.a
    | .accdr x => (if x.dst = 0 then layoutRegs lrec x.a else []) ++ (if x.pcs then [.s x.b] else [])
    | .cpg x | .cphIn x => regRun true x.a (if lrec then 2 else 4) ++ layoutRegs lrec x.b
        ++ regRun true x.c x.sync ++ (if x.mx then [.s x.m] else [])
    | .cps x | .cphOut x => regRun true x.a (if lrec then 2 else 4) ++ layoutRegs lrec x.b
    | .ctok x | .cwait x => [.s x.a]
    | .pref x => [.s x.a, .s (x.a + 1), .s x.b]
    | .fatom x => regRun x.y x.a 2 ++ regRun x.y x.b (tyRegs x.t)
        ++ (if x.op = 7 then regRun x.y x.c (tyRegs x.t) else [])
    | .fwait x => regRun true x.a 2 ++ regRun true x.b (tyRegs x.t)
    | .l2lck x | .l2ulk x => [.s x.a, .s (x.a + 1), .s x.b]
    | .publ x => [.s x.a, .s x.b]
    | .compact x => [.v x.a]
    | .envrst x => [.v x.a, .v x.b, .v (x.b + 1), .s x.c]
    | .bpsort x => [.s x.a]
    | .bvht x => .v x.a :: regRun true x.b (if x.opt = 1 then 2 else 1) ++ [.s x.c]
    | .qpush x | .qpop x => [.v x.a, .s x.b]
    | .qpushRound x => [.s x.b]
    | .sfact x => [.s x.a, .s x.b]
    | .ssolve x | .sadj x => [.s x.a, .s x.b, .s x.c]
    | .slsq x | .sstat x => [.s x.a]
    | .optsub x | .optwait x => [.s x.a]
    | .coll x => [.s x.a, .s x.b]
    | .csend x | .csendRwd x | .crecv x => [.s x.a, .s x.b, .s x.c]
    | .rjopen x => [.s x.a, .s (x.a + 1)]
    | .rjtick x | .rjstatCfg x => [.s x.a]
    | _ => []

/-- The registers an instruction writes. -/
def dests (lrec : Bool) (i : Instr) : List Reg :=
  match xRule lrec i with
  | some (r, x) => if dIsSource i then [] else opdRegs x.y r.d x.d
  | none =>
    match i with
    | .mov16 d _ | .iadd16 d _ | .isub16 d _ | .iaddi16 d _ | .and16 d _ | .or16 d _ | .xor16 d _ | .shli16 d _
    | .shri16 d _ | .sari16 d _ | .fadd16 d _ | .fsub16 d _ | .fmul16 d _ | .fmax16 d _ | .fmin16 d _
    | .movi16 d _ => [.v d]
    | .iaddR2 x | .isubR2 x | .andR2 x | .orR2 x | .xorR2 x | .andnR2 x | .shlR2 x | .shrR2 x | .sarR2 x
    | .rotlR2 x => [.v x.d]
    | .iaddI8 x => [.v x.d]
    | .shlI6 x | .shrI6 x | .sarI6 x | .rotlI6 x => [.v x.d]
    | .movi x => regRun x.y x.d 1
    | .movl x => regRun x.y x.d 1
    | .pand x | .por x | .pxor x | .pnot x => [.p x.d]
    | .csrr x => regRun (!csrLane x.num) x.d 1
    | .accdr x =>
      if x.dst = 2 then regRun false x.dreg (x.clen1 + 1)
      else if x.dst = 3 then (List.range (x.clen1 + 1)).map fun k => .m (x.dreg + k) else []
    | .mxprog x => [.s x.d, .s (x.d + 1)]
    | .cps x | .cphOut x | .ctok x => [.s x.d]
    | .fatom x => if x.ret then regRun x.y x.d (tyRegs x.t) else []
    | .l2lck x => [.s x.d]
    | .bpsort x => [.s x.d, .s (x.d + 1)]
    | .bvht x | .qpush x | .qpop x => [.v x.d]
    | .sfact x | .ssolve x | .sadj x => [.s x.d]
    | .sstat x => [.s x.d, .s (x.d + 1)]
    | .optwait x => [.s x.d]
    | .coll x | .csend x | .csendRwd x | .crecv x | .rjopen x => [.s x.d]
    | .rjpop x => regRun true x.d 3
    | .rjstat x => regRun true x.d 4
    | _ => []

/-- The role an instruction requires (R74): 1 copy, 2 matrix, 3 vector, 0 none. -/
def roleOf : Instr → Nat
  | .mxw _ | .mxa _ | .mxg _ | .mxm _ | .mxtl _ | .mxts _ | .accz _ | .accld _ | .accst _ | .accdr _
  | .mxprog _ => 2
  | .cpg _ | .cps _ | .cphIn _ | .cphOut _ | .pref _ => 1
  | .sfact _ | .ssolve _ | .sadj _ | .slsq _ | .sstat _ | .optsub _ | .optwait _ => 3
  | _ => 0

/-- The variable-latency instructions (R27): those whose results set pending bits. -/
def isVariable (i : Instr) : Bool :=
  match i with
  | .ld _ | .lds _ | .atom _ | .fdiv _ | .fsqrt _ | .frcp _ | .frsq _ | .idiv _ | .irem _ | .fexp2 _ | .flog2 _
  | .fexp _ | .flog _ | .fsin _ | .fcos _ | .ftanh _ | .fsigm _ | .ferf _ | .mrelu _ | .msigm _ | .mtanh _
  | .mexp _ | .mcoll _ => true
  | .accdr x => decide (2 ≤ x.dst)
  | .mxprog _ | .cps _ | .cphOut _ | .ctok _ | .l2lck _ | .bpsort _ | .bvht _ | .qpush _ | .qpop _ | .sfact _
  | .ssolve _ | .sadj _ | .sstat _ | .optwait _ | .coll _ | .csend _ | .csendRwd _ | .crecv _ | .rjopen _
  | .rjpop _ | .rjstat _ => true
  | .fatom x => x.ret
  | _ => false

/-- The variable-latency instructions that can raise floating-point flags, and so set the FPC pending bit (R28). -/
def raisesFlags : Instr → Bool
  | .fdiv _ | .fsqrt _ | .frcp _ | .frsq _ | .fexp2 _ | .flog2 _ | .fexp _ | .flog _ | .fsin _ | .fcos _
  | .ftanh _ | .fsigm _ | .ferf _ | .mrelu _ | .msigm _ | .mtanh _ | .mexp _ => true
  | .mcoll x => decide (x.v = 0)
  | .atom x => decide (x.v = 8)
  | .fatom x => x.ret && decide (x.op = 8)
  | _ => false

end Sys2Proof.Machine
end

