-- ==== Sys2Proof/Machine/CoreState.lean ====
section
/-! DEFINITION. The state of a block on its core (R179 to R199): its record, its crews, share, spill area, teams,
barriers, code table, and the errors its storage carries. -/

namespace Sys2Proof.Machine

/-- The role of a team slot (R183). -/
inductive Role where
  | any | copy | matrix | vector
  deriving DecidableEq, Repr

/-- A team slot (R181, R182): valid, its role, its members (bit j for crew j). -/
structure Team where
  valid : Bool := false
  role : Role := .any
  members : BitVec 64 := 0
  deriving DecidableEq, Repr

/-- The storage an error lies in (R199, R200): share and spill area by byte offset of the word, registers by
number and lane, tiles, accumulators and array weights by number and row. -/
inductive Place where
  | share | spill | v | s | p | m | tile | acc | weights
  deriving DecidableEq, Repr

/-- An error in core storage (R199): its place, the crew for a register, the number, the lane, and whether it is
beyond correction. For a tile, an accumulator or a weight slot `lane` is the number of the 64-bit entry in it, in the order of
R225. Errors arrive from outside; the model finds them at a read. -/
structure StoreErr where
  place : Place
  crew : Nat
  num : Nat
  lane : Nat
  hard : Bool
  deriving DecidableEq, Repr

/-- One region entry of a launch (R84, R186). -/
structure Region where
  base : Nat
  stride : Nat
  shape : Nat
  loff : Nat
  dir : Nat
  ew : Nat
  conv : Nat
  chain : Bool
  deriving DecidableEq, Repr

/-- What the grid and block records of a launch say (R82, R83), read when the launch becomes the head (R344). -/
structure LaunchRec where
  nblk : Nat := 1
  det : Bool := false
  lrec : Bool := false
  res : Bool := false
  prio : Nat := 0
  brec : Nat := 0
  code : Nat := 0
  clen : Nat := 0
  entry : Word := 0
  trapr : Word := 0xFFFFFFFF
  dline : Nat := 0
  vg : Nat := 1
  mg : Nat := 0
  ncrew : Nat := 1
  lmem : Nat := 0
  spill : Nat := 0
  vgx : Nat := 0
  mgx : Nat := 0
  teams : List Team := []
  regions : List Region := []
  deriving DecidableEq, Repr

/-- Where a block stands in its life (R349, R174, R359). A held block stands in `held` beside its phase. -/
inductive Phase where
  /-- Placed; its staging waits for the commit frontier or has not begun. -/
  | placed
  | staging (entry : Nat)
  | running
  /-- A save has been asked for at the cycle given (R359). -/
  | saving (since : Nat)
  /-- Saved to its save area (R359). -/
  | saved
  /-- Its last crew has drained; the next region entry to drain, and whether the chained entries are next. -/
  | draining (entry : Nat) (chained : Bool)
  deriving DecidableEq, Repr

/-- What the die keeps of a crew of a saved block beside its record (R33, R398): what it waits for, the faults its next
release fence raises, the number of its issues, whether a lane of it is live, and the TRAPPC of a late cause that the park of a
trap entry holds for TRET (R171), of which the record has no place. -/
structure Stay where
  wait : Wait
  live : Bool
  hfaults : List Late
  issues : Nat
  heldPc : Option Word := none
  deriving DecidableEq, Repr

/-- A host-resolved hold (R174, R176): the cause, the crew that raised it, the number of its record, and the region
entry of a staging or drain that faulted. -/
structure Hold where
  trap : Trap
  crew : Option Nat
  num : Nat
  entry : Nat := 0
  deriving DecidableEq, Repr

/-- A weight slot of the array (R201). `wt` holds the weights by byte, column n at 128 × n (MW at 256 × n), packed
as in a tile row; `sc` holds the scales by byte as R205 arranges them; `ct` the code-table copy. -/
structure WSlot where
  valid : Bool := false
  fmt : MFmt := .e2m1
  klen : Nat := 0
  nlen : Nat := 0
  zw : Nat := 0
  wt : Sparse Byte := []
  sc : Sparse Byte := []
  ct : Sparse (BitVec 16) := []
  deriving DecidableEq, Repr

/-- A layout word or shape record as an instruction reads it (R190, R191); a layout word has no extents. -/
structure Layout where
  base : Nat := 0
  ew : Nat := 0
  perm : Nat := 0
  str1 : Nat := 0
  str2 : Nat := 0
  str3 : Nat := 0
  ext : Option (Nat × Nat × Nat × Nat) := none
  gstr1 : Int := 0
  gstr2 : Int := 0
  gstr3 : Int := 0
  sck : Nat := 0
  scva : Nat := 0
  scloff : Nat := 0
  deriving DecidableEq, Repr

/-- A command in the matrix queue (R206, R225): the instruction, its issuer, the registers a to a+3 and b to b+3
it read at issue, its layout, the row indices of MXG, the code-table copy of MXW, the cause attached to a
follow-on command that failed, the number of its issue, whether it has begun, and the steps it has completed. -/
structure MCmd where
  i : Instr
  crew : Nat
  streamer : Bool := false
  av : List Nat := []
  bv : List Nat := []
  lay : Layout := {}
  rows : List Nat := []
  ct : Sparse (BitVec 16) := []
  fail : Nat := 0
  order : Nat := 0
  begun : Bool := false
  g : Nat := 0
  deriving DecidableEq, Repr

/-- The array, tiles and accumulators of a matrix block (R195, R201, R217, R222). `tiles` holds byte b of row r of
tile t at 16384 × t + 128 × r + b, `accs` entry (m, n) of a at 16384 × a + 128 × m + n, `amode` the mode of a. -/
structure Matrix where
  w0 : WSlot := {}
  w1 : WSlot := {}
  tiles : Sparse Byte := []
  accs : Sparse DWord := []
  amode : Sparse Nat := []
  tdirty : BitVec 8 := 0
  tiu : BitVec 8 := 0
  adirty : BitVec 4 := 0
  aiu : BitVec 4 := 0
  pcnt : Word := 0
  msw : Word := 0
  queue : List MCmd := []
  deriving DecidableEq, Repr

/-- A block of a grid on a core. `share` and `spill` hold bytes by offset; `ctab` holds entry e of bank k at
16 × k + e; `arrive` holds the arrival set of slot k at k and that of the block at 8; `code` holds the fetched
lines of the program image by line number. `asked` marks a task block that has been asked to give way (R358), `sides` the sides that its
staging or drain has taken (R400), `stays` what
the die keeps of the crews of a saved block. -/
structure Block where
  slot : Nat := 0
  grid : Nat := 0
  index : Nat := 0
  die : Nat := 0
  cluster : Nat := 0
  core : Nat := 0
  phase : Phase := .running
  hold : Option Hold := none
  r : LaunchRec := {}
  crews : List (Nat × Crew) := []
  share : Sparse Byte := []
  spill : Sparse Byte := []
  teams : List Team := []
  arrive : Sparse (BitVec 64) := []
  ctab : Sparse (BitVec 16) := []
  bank : Bool := false
  triggered : Bool := false
  asked : Bool := false
  sides : List (Nat × Bool) := []
  stays : List (Nat × Stay) := []
  code : List (Nat × List Byte) := []
  mx : Matrix := {}
  errs : List StoreErr := []
  deriving DecidableEq, Repr

end Sys2Proof.Machine
end

