-- ==== Sys2Proof/Machine/DieState.lean ====
section
/-! DEFINITION. The state of the dies and the package beyond the cores: caches, translation, the two memory tiers,
host requests, streamer copies, ordered queues, the join table, the fabric, contexts and grids. -/

namespace Sys2Proof.Machine

/-- A cached line of L2 or RDC (R365, R399, R421): tag (ASID, VA line number, side), physical address of the line,
bytes by offset, dirty bytes, poisoned 32-byte words, the class of its page, whether it is locked, whether a line of the
host window is owned (R429), and an error of its storage (0 none, 1 correctable, 2 beyond correction, 3 a tag beyond correction,
4 a correctable one of the tag). -/
structure Line where
  asid : Nat
  va : Nat
  side : Bool
  pa : Nat
  bytes : Sparse Byte
  dirty : BitVec 128
  poison : BitVec 4
  cc : Nat
  locked : Bool
  owned : Bool := false
  err : Nat
  deriving DecidableEq, Repr

/-- A TLB entry (R370): the page it translates, its frame, class, permissions and publish-table index. -/
structure TlbEntry where
  asid : Nat
  va : Nat
  size : Nat
  pa : Nat
  cc : Nat
  sh : Bool
  pti : Nat
  pr : Bool
  pw : Bool
  px : Bool
  err : Nat
  deriving DecidableEq, Repr

/-- A non-leaf entry that a walker has cached (R372, R383): its ASID, its address, its bits and an error of its storage. -/
structure WalkEntry where
  asid : Nat
  addr : Nat
  bits : Nat
  err : Nat := 0
  deriving DecidableEq, Repr

/-- A range that PREF asks for (R396): the context, the core whose streamer has the command (R385), the next line, the
lines left, and whether the next one's address has been translated. -/
structure Miss where
  slot : Nat
  core : Nat
  line : Nat
  left : Nat
  walked : Bool
  deriving DecidableEq, Repr

/-- An entry of the event log (R177, R430); `info` is the INFO of the cause, which no byte of the entry holds. -/
structure LogEntry where
  cause : Nat
  loc : Nat
  asid : Nat
  count : Nat
  info : Nat := 0
  deriving DecidableEq, Repr

/-- An entry of an ordered queue (R284): its key and its bytes; `placed` numbers the placement, `err` is an error of its
storage (R287: 0 none, 1 correctable, 2 beyond correction). -/
structure OEntry where
  round : Nat
  block : Nat
  gtid : Nat
  num : Nat
  placed : Nat
  bytes : List Byte
  err : Nat := 0
  deriving DecidableEq, Repr

/-- An ordered queue (R283 to R285): its binding, its producer by (submission queue, SEQ) and by grid once read, its
entries, the ROUND counts by (grid, block index, crew) and the push counts by (round, GTID). -/
structure OQueue where
  slot : Nat
  es : Nat
  cap : Nat
  psq : Nat
  pseq : Nat
  pgrid : Option Nat
  entries : List OEntry
  rounds : List ((Nat × Nat × Nat) × Nat)
  pushes : List ((Nat × Nat) × Nat)
  deriving DecidableEq, Repr

/-- An open segment of the join table (R459, R460). -/
structure Segment where
  slot : Nat
  va : Nat
  key : Nat
  ver : Nat
  len : Nat
  miss : Nat
  tmo : Nat
  opened : Nat
  deriving DecidableEq, Repr

/-- A context's part of a die's join table (R458): close bound, lag, ticks, orphan ring, counters, learner queue; `owed` names the
crews, by block and crew, whose events' Release memory holds up (R424, R463). -/
structure JoinCfg where
  cb : Nat := 0
  lag : Nat := 0xFFFF
  ticks : Nat := 0
  oring : Nat := 0
  orlog : Nat := 0
  orphans : Nat := 0
  stale : Nat := 0
  touts : Nat := 0
  overflows : Nat := 0
  learner : List (Nat × Bool) := []
  owed : List (Nat × Nat) := []
  deriving DecidableEq, Repr

/-- What an event asks of a join table (R457 to R465): a segment to open with the crew's outstanding result, a close
bound and a tick, a configuration, the counters, or reward records still to process with the number of the send and the
endpoint of another package that sent them. -/
inductive TableOp where
  | open_ (va order d : Nat)
  | tick (cb : Nat)
  | config (lag oring orlog : Nat)
  | stat (order d : Nat)
  | rewards (key : Nat) (from_ : Option Nat) (recs : List Nat)
  deriving DecidableEq, Repr

/-- An event on its way to a join table (R458): its context, block and crew. -/
structure TableEvent where
  slot : Nat
  blk : Nat
  crew : Nat
  op : TableOp
  deriving DecidableEq, Repr

/-- A swap in progress (R418): the group and the frame that moves into slot 0. -/
structure SwapJob where
  group : Nat
  frame : Nat
  pin : Bool
  deriving DecidableEq, Repr

/-- The clock sweeper (R419, R420): its table and ring, its position, the HEAD it last saw, and the entries examined since
it last pushed one. -/
structure Sweeper where
  on : Bool := false
  table : Nat := 0
  entries : Nat := 1
  ring : Nat := 0
  log : Nat := 0
  mark : Nat := 0
  hand : Nat := 0
  tail : Nat := 0
  head : Nat := 0
  idle : Nat := 0
  deriving DecidableEq, Repr

/-- A die: caches, TLB and walker, requested lines, event log, tier engine (R415 to R420), retraining requests of its stacks
(R424), ordered queues, join table with the events on their way to it, the dispatcher's last grid served (R355) and the cores held for waiting
blocks as (cluster, core, grid, index) (R357). `relock` holds the tags of the locked lines that a last-use read has
dropped and whose next access fills them again (R382). `remap`, `pin` and `swaps` go by group, `cnt` and `abit` by frame number pa ÷ 65536. `rerr` marks the
words of the remap table that hold an error (1 correctable, 2 not), `uerr` the errors of the job storage of the cluster units by cluster,
unit number of R287 and kind. -/
structure Die where
  l2 : List Line := []
  rdc : List Line := []
  relock : List (Nat × Nat × Bool) := []
  tlb : List TlbEntry := []
  walker : List WalkEntry := []
  misses : List (Nat × Miss) := []
  log : List LogEntry := []
  evtail : Nat := 0
  evread : Bool := true
  remap : Sparse Nat := []
  cnt : Sparse Nat := []
  abit : Sparse Bool := []
  pin : Sparse Bool := []
  swaps : List (Nat × SwapJob) := []
  swapOn : Bool := false
  thr : Nat := 16
  minc : Nat := 32
  epoch : Nat := 3600000
  epochAt : Nat := 0
  sweep : Sweeper := {}
  rates : Sparse Nat := []
  retrain : Sparse Nat := []
  retraining : Sparse Bool := []
  queues : List (Nat × OQueue) := []
  segs : List Segment := []
  tevents : List TableEvent := []
  served : Option (Nat × Nat × Nat) := none
  reserve : List (Nat × Nat × Nat × Nat) := []
  rowcnt : Sparse Nat := []
  rerr : Sparse Nat := []
  uerr : List (Nat × Nat × Bool) := []
  deriving DecidableEq, Repr

/-- A message on the die-to-die interface (R407, R408): a masked write-through on its way, or, `acked`, its acknowledgement; or
the request `ask` of a waiter `owner` for a line of the other die, which has crossed and whose fill is on its way with `back`,
and which is answered with `acked`. -/
structure D2d where
  src : Nat
  asid : Nat
  va : Nat
  side : Bool
  pa : Nat
  cc : Nat
  bytes : List (Nat × Byte)
  acked : Bool
  ask : Bool := false
  back : Bool := false
  owner : Nat := 0
  deriving DecidableEq, Repr

/-- What a request to host space asks (R428, R429). -/
inductive HostKind where
  /-- A line of the host memory window, with ownership. -/
  | line
  /-- A UIO read of so many bytes. -/
  | read (n : Nat)
  /-- A UIO write. -/
  | write (bytes : List Byte)
  /-- A PCIe AtomicOp: the operation code of R231, the width, the operands. -/
  | atomic (op w b c : Nat)
  deriving DecidableEq, Repr

/-- A request to host space: the die that asked, the context's ASID and slot, VA and PA, and the bytes returned once
a completion has arrived. `owner` is the copy or crew that waits for it (0 for PREF), `since` the cycle it was sent. -/
structure HostReq where
  die : Nat
  slot : Nat
  asid : Nat
  va : Nat
  pa : Nat
  kind : HostKind
  done : Option (List Byte)
  owner : Nat
  since : Nat
  deriving DecidableEq, Repr

/-- The streamer's copies (R386). -/
inductive CopyKind where
  | cpg | cps | cphIn | cphOut
  deriving DecidableEq, Repr

/-- A streamer copy (R385 to R398): its block and crew, the number of its issue, its operands as read at issue, the
chunks written, the side taken for each publish entry, its synchronisation, follow-on command and token, and whether the
streamer has taken its next chunk. -/
structure Copy where
  blk : Nat
  crew : Nat
  order : Nat
  kind : CopyKind
  lay : Layout
  va : Nat
  ext : Nat × Nat × Nat × Nat
  s1 : Int
  s2 : Int
  s3 : Int
  trans : Bool
  reblock : Bool
  last : Bool
  scope : Nat
  sync : Nat
  obj : Nat
  slotw : Nat
  follow : Option MCmd
  token : Option Nat
  chunks : Nat
  sides : List (Nat × Bool)
  err : Option Trap
  taken : Bool := false
  deriving DecidableEq, Repr

/-- A live token (R394): its crew, its value, whether its command is complete and the fault it holds. -/
structure Token where
  blk : Nat
  crew : Nat
  tok : Nat
  done : Bool
  fault : Option Trap
  deriving DecidableEq, Repr

/-- What a CPH.OUT has replaced at an address: a read of its crew that nothing orders after it may take these bytes (R379, R411)
until a CWAIT on its token or a release. -/
structure OldBytes where
  blk : Nat
  crew : Nat
  tok : Nat
  va : Nat
  bytes : List Byte
  deriving DecidableEq, Repr

/-- A far atomic that has been issued and not performed (R403): its lane, address and operands, the chained regions its
location lies in, and whether it still waits for the chained order (R380). -/
structure Far where
  blk : Nat
  crew : Nat
  order : Nat
  op : Nat
  t : Ty
  scope : Nat
  ret : Bool
  uni : Bool
  d : Nat
  lane : Nat
  va : Nat
  b : Nat
  c : Nat
  regions : List Nat
  hold : Bool
  deriving DecidableEq, Repr

/-- An SLSQ job under way (R302): the iterate, the damping, the cost, steps used (0 until the first cost is known),
accepted trials, g and H of the outer loop it stands in, and the checkpoints passed since its last step boundary (R289).
Numbers are FP64 patterns. -/
structure SlsqRun where
  p : List Nat
  lam : Nat
  cost : Nat
  used : Nat
  it : Nat
  gh : Option (List Nat × List (List Nat))
  points : Nat := 0
  stop : Option Nat
  deriving DecidableEq, Repr

/-- An SLSQ job (R302, R305): its block and crew, its record, the crews that it is ordered before (R304), the arrivals at
transaction barriers, as (object, generation), that it is ordered before (R239), its
arrival at the unit (a step number), when it started, and its run once started. -/
structure Slsq where
  blk : Nat
  crew : Nat
  record : Nat
  known : BitVec 64
  marks : List (Nat × Nat) := []
  arrived : Nat
  since : Nat
  run : Option SlsqRun
  deriving DecidableEq, Repr

/-- An optimiser job (R307 to R321): the launch and block it is recorded under, the crews that it is ordered before (R315),
the arrivals at transaction barriers, as (object, generation), that it is ordered before (R239), the cluster whose engine runs it and its arrival there, its copy of the card and of the routine, the next block of
elements, the writes that are not performed yet, those of one line together, the side taken for each publish entry, its status
word, and whether it is complete. -/
structure OptJob where
  blk : Nat
  crew : Nat
  known : BitVec 64
  marks : List (Nat × Nat) := []
  die : Nat
  cluster : Nat
  arrived : Nat
  off : Nat
  base : Nat
  count : Nat
  osh : Nat
  flds : List Nat
  hyper : List Nat
  words : List Nat
  next : Nat
  out : List (Nat × List Byte)
  sides : List (Nat × Bool)
  status : Word
  done : Bool
  deriving DecidableEq, Repr

/-- A collective issued here (R450 to R455): block, crew, token, die, key, number on that key, rank, members (their
number and the VA of their list, which is read when the collective is `joined`), kind, addresses, sides taken, whether
the residual buffer counts as fresh, the contribution so far and whether it is complete, the chunks moved, the fault it
holds. -/
structure Coll where
  blk : Nat
  crew : Nat
  slot : Nat
  die : Nat
  token : Nat
  dkey : Nat
  num : Nat
  rank : Nat
  nmem : Nat
  mva : Nat
  k : CollKind
  src : Nat
  dst : Nat
  resv : Nat
  mlist : List Nat := []
  joined : Bool := false
  sides : List (Nat × Bool) := []
  fresh : Bool := false
  vals : List (Nat × Nat) := []
  formed : Bool := false
  chunks : Nat := 0
  fault : Option Trap := none
  deriving DecidableEq, Repr

/-- A contribution of a member of a collective that has reached a die (R451, R452): from this package or another. -/
structure Contrib where
  slot : Nat
  die : Nat
  dkey : Nat
  num : Nat
  rank : Nat
  mlist : List Nat
  k : CollKind
  vals : List (Nat × Nat)
  deriving DecidableEq, Repr

/-- The use of a DKEY at an endpoint (R451): the member list of the first use once it has been read, own rank, COLLs
counted. -/
structure DomainUse where
  slot : Nat
  die : Nat
  dkey : Nat
  mlist : List Nat
  rank : Nat
  count : Nat
  deriving DecidableEq, Repr

/-- The digest of a member's list on a key, as it has reached a die (R451). -/
structure Digest where
  slot : Nat
  die : Nat
  dkey : Nat
  ep : Nat
  mlist : List Nat
  deriving DecidableEq, Repr

/-- A CSEND, CRECV or CSEND.RWD under way (R456, R457): its block, crew, token and die, the endpoint it names, its
tag, its share operand and length. -/
structure Send where
  blk : Nat
  crew : Nat
  slot : Nat
  die : Nat
  token : Nat
  ep : Nat
  tag : Nat
  off : Nat
  len : Nat
  recv : Bool
  reward : Bool
  deriving DecidableEq, Repr

/-- A message that has set out on a port and is not acknowledged (R447): the context it belongs to until that ends, and the
attempts that have failed. -/
structure Outgoing where
  port : Nat
  slot : Option Nat
  tries : Nat
  flit : Flit
  deriving DecidableEq, Repr

/-- A fault or hold record before it is written (R173, R175). -/
structure FaultRec where
  cause : Nat
  flags : Nat
  info : Nat
  loc : Nat
  block : Nat
  pc : Word
  lanes : Word
  va : Nat
  grid : Nat
  deriving DecidableEq, Repr

/-- The states of a context slot (R343). -/
inductive CtxState where
  | free | live | ending | ended
  deriving DecidableEq, Repr

/-- A submission queue (R339, R341). -/
structure SubQ where
  ring : Nat
  entries : Nat
  headwb : Nat
  head : Nat
  tail : Nat
  deriving DecidableEq, Repr

/-- A context slot (R341, R343, R368, R372, R399): its records and vectors, page-table root, lock quota, timing-
exposed bit, the first context-fatal cause and the number of further ones, the number of hold records, of those written
and the records that wait to be written (R175), publish table,
submission queues, and its part of each die's join table. -/
structure Ctx where
  state : CtxState := .free
  asid : Nat := 0
  frec : Nat := 0
  hring : Nat := 0
  fvec : Nat := 0
  hvec : Nat := 0
  cvec : Nat := 0
  root : Nat := 0
  quota : Nat := 65536
  texp : Bool := false
  first : Option FaultRec := none
  more : Nat := 0
  holds : Nat := 0
  holdsW : Nat := 0
  hrecs : List FaultRec := []
  publ : Sparse Bool := []
  sqs : List (Nat × SubQ) := []
  j0 : JoinCfg := {}
  j1 : JoinCfg := {}
  born : Nat := 0
  deriving DecidableEq, Repr

/-- A dependency entry (R346) and whether its condition has held (R354). -/
structure Dep where
  done : Bool
  sq : Nat
  seq : Nat
  met : Bool
  deriving DecidableEq, Repr

/-- A grid: one LAUNCH (R341, R344 to R355). `trig` and `fin` mark by block index the blocks that have triggered or
retired and those that are done; `fly` marks blocks placed once; `waiting` holds the re-queued blocks. -/
structure Grid where
  slot : Nat
  sq : Nat
  seq : Nat
  va : Nat
  saveBase : Nat
  saveStride : Nat
  dieMask : Nat
  irq : Bool
  compl : Nat
  checked : Bool := false
  r : LaunchRec := {}
  deps : List Dep := []
  next : Nat := 0
  waiting : List Nat := []
  trig : Sparse Bool := []
  fin : Sparse Bool := []
  frontier : Nat := 0
  since : Nat := 0
  complete : Bool := false
  deriving DecidableEq, Repr

end Sys2Proof.Machine
end

