-- ==== Sys2Proof/Machine/State.lean ====
section
/-! DEFINITION. The whole state of the module, the reasons a step can stop, and the state right after a cold reset. -/

namespace Sys2Proof.Machine

/-- What stops the machine with a fault. -/
inductive Fault where
  /-- A crew instruction was executed while no crew stands at its issue: the step never does this, only a call of
  `exec` from outside. Safe. -/
  | notAtIssue
  deriving DecidableEq, Repr

/-- What the machine refuses. -/
inductive Refusal where
  /-- An instruction that has no meaning in the model. Safe. -/
  | notModelled (mnemonic : String)
  /-- An event was asked for whose condition does not hold in this state: the step offers only events that may
  happen, a turn placed from outside may ask for another. Safe. -/
  | notEnabled (mnemonic : String)
  deriving DecidableEq, Repr

/-- What moves at a step: a crew issues; an event of the machine or an input from the host happens; the head of the
control queue, an operation that the queue does not carry out, is refused (R341). -/
inductive Turn where
  | issue (b c : Nat)
  | event (i : Instr)
  | refuse
  /-- The host masks a vector of the MSI-X table (R431). -/
  | mask (vec : Nat)
  deriving DecidableEq, Repr

/-- The power states (R435). -/
inductive Power where
  | d0Active | d0Idle | d3hot | d3cold
  deriving DecidableEq, Repr

/-- A measurement block: its index and its value (R434). -/
abbrev Block4 := Nat × Nat

/-- What the device answers to an SPDM request (R434). The bytes of SPDM messages are the standard's. -/
inductive Reply where
  | version
  | capabilities
  /-- Whether ECDSA P-384 and SHA-384 have been selected. -/
  | algorithms (chosen : Bool)
  | digests (chain : Nat)
  /-- A part of the certificate chain: its offset and its bytes. -/
  | certificate (off : Nat) (bytes : List Byte)
  | challenge (signature : Nat)
  | measurements (blocks : List Block4) (signature : Option Nat)
  /-- A request that came out of its order. -/
  | error
  deriving DecidableEq, Repr

/-- The management controller (R433, R434): whether the running image is verified, whether the device is in recovery,
its digest and the ROM's, the fused minimum version, what firmware has configured beside the HDM decoders, whether debug access is enabled, the image staged for the next
cold reset, the running image, how far an SPDM exchange has come, and its answers. -/
structure Mgmt where
  fwok : Bool := true
  recov : Bool := false
  stepping : Nat := 0
  romDigest : Nat := Config.romDigest
  fwDigest : Nat := Config.digest []
  fwVersion : Nat := Config.imageVersion []
  minVersion : Nat := 0
  config : List Byte := []
  debug : Bool := false
  staged : Option (List Byte) := none
  image : List Byte := []
  spdm : Nat := 0
  replies : List Reply := []
  deriving DecidableEq, Repr

/-- The registers of the host window that are not derived from other state (R430, R431, R436), the MSI-X vectors that the
host has unmasked, those held pending, the messages sent, the HDM range, whether a function-level reset waits for
the contexts to end (R437), the lines of device memory that the host's caches may hold (R428, R429), and the device's last
answer to a CXL.mem read: address, bytes, whether they are poisoned. -/
structure HostRegs where
  cqTail : Nat := 0
  cqHead : Nat := 0
  statSeq : Nat := 0
  statOp : Nat := 0
  refused : Bool := false
  pcap : Nat := 2600
  clock : Nat := 3600
  unmasked : Sparse Bool := []
  pending : Sparse Bool := []
  sent : List Nat := []
  hdmBase : Nat := 0
  hdmSize : Nat := 2199023255552
  flr : Bool := false
  copies : List Nat := []
  answer : Option (Nat × List Byte × Bool) := none
  deriving DecidableEq, Repr

/-- The fabric's part of the package (R445 to R447): package id, ports that are up, the routes by destination
endpoint and as firmware configures them, messages that have set out, messages that wait for a receive, the destinations that turned a message away,
by the die, the ASID and the endpoint, the messages that a port has taken and acknowledged, by the port, the source endpoint
and the sequence number, and the digests that have arrived. -/
structure Fabric where
  pkg : Nat := 0
  up : BitVec 16 := 0xFFFF
  routes : List (Nat × List Nat) := []
  conf : List (Nat × List Nat) := []
  leaving : List (Nat × Outgoing) := []
  waiting : List (Nat × Flit) := []
  rejected : List (Nat × (Nat × Nat × Nat)) := []
  acked : List (Nat × Nat × Nat) := []
  digests : List Digest := []
  deriving DecidableEq, Repr

/-- The module. `turns` says who moves next (an empty list leaves the choice open), `cur` the crew at issue, `steps`
the steps taken, `clock` cycles of the arithmetic clock, `fresh` the next unused key. `blocks` holds placed and saved
blocks. `dmem` is device memory by device physical address, `hmem` host memory and expanders by host address.
`poison` and `ecc` mark 32-byte ECC words of device memory that are poisoned or hold a correctable error. -/
structure State where
  turns : List Turn := []
  cur : Option (Nat × Nat) := none
  steps : Nat := 0
  clock : Nat := 0
  fresh : Nat := 1
  ctxs : List (Nat × Ctx) := []
  grids : List (Nat × Grid) := []
  blocks : List (Nat × Block) := []
  die0 : Die := {}
  die1 : Die := {}
  records : List (Nat × Nat × Nat × List Byte) := []
  copies : List (Nat × Copy) := []
  tokens : List Token := []
  olds : List OldBytes := []
  fars : List (Nat × Far) := []
  slsqs : List (Nat × Slsq) := []
  opts : List (Nat × OptJob) := []
  colls : List (Nat × Coll) := []
  contribs : List Contrib := []
  domains : List DomainUse := []
  sends : List (Nat × Send) := []
  d2d : List (Nat × D2d) := []
  d2dDown : Bool := false
  hostReqs : List (Nat × HostReq) := []
  dmem : Sparse Byte := []
  hmem : Sparse Byte := []
  poison : Sparse Bool := []
  ecc : Sparse Bool := []
  stale : List Nat := []
  age0 : Nat := 3600000
  age1 : Nat := 3600000
  host : HostRegs := {}
  fab : Fabric := {}
  mgmt : Mgmt := {}
  power : Power := .d0Active
  deriving DecidableEq, Repr

/-- The module right after a cold reset (R437): every cache, TLB and table empty, every slot FREE, every remap entry
0, SET_AGE and TIER_CTL at their reset values, the event logs empty; memory lists nothing. -/
def State.reset : State := {}

end Sys2Proof.Machine
end

