-- ==== Sys2Proof/Machine/Ops.lean ====
section
/-! DEFINITION. The named operations over the state: the parts of the machine by key, lanes and masks, registers,
causes and their dispositions, entry to the trap routine and the return from it, the unpark, and the issue of an
instruction with the checks of R75 that need the crew. -/

namespace Sys2Proof.Machine

/-- The outcome of one step. -/
abbrev Out := Host.Outcome State Fault Refusal

/-! ### The parts of the state -/

/-- The block of key `b`. -/
def State.block (s : State) (b : Nat) : Option Block := look s.blocks b
/-- The state with block `b` replaced. -/
def State.setBlock (s : State) (b : Nat) (x : Block) : State := { s with blocks := put s.blocks b x }
/-- The state without block `b`. -/
def State.dropBlock (s : State) (b : Nat) : State := { s with blocks := dropAt s.blocks b }
/-- The crew `c` of block `b`. -/
def State.crew (s : State) (b c : Nat) : Option Crew := (s.block b).bind fun x => look x.crews c
/-- The block with crew `c` replaced. -/
def Block.setCrew (x : Block) (c : Nat) (w : Crew) : Block := { x with crews := put x.crews c w }
/-- The state with crew `c` of block `b` replaced. -/
def State.setCrew (s : State) (b c : Nat) (w : Crew) : State :=
  match s.block b with
  | none => s
  | some x => s.setBlock b (x.setCrew c w)
/-- The context in a slot; a slot never created is FREE (R343). -/
def State.ctx (s : State) (slot : Nat) : Ctx := (look s.ctxs slot).getD {}
/-- The state with a context slot replaced. -/
def State.setCtx (s : State) (slot : Nat) (x : Ctx) : State := { s with ctxs := put s.ctxs slot x }
/-- The grid of key `g`. -/
def State.grid (s : State) (g : Nat) : Option Grid := look s.grids g
/-- The state with grid `g` replaced. -/
def State.setGrid (s : State) (g : Nat) (x : Grid) : State := { s with grids := put s.grids g x }
/-- A die by number. -/
def State.die (s : State) (d : Nat) : Die := if d = 0 then s.die0 else s.die1
/-- The state with a die replaced. -/
def State.setDie (s : State) (d : Nat) (x : Die) : State := if d = 0 then { s with die0 := x } else { s with die1 := x }

/-! ### Lanes -/

/-- The lanes in ascending order (R14). -/
def allLanes : List Nat := List.range 32
/-- Lane `l` belongs to the mask. -/
def inMask (m : Word) (l : Nat) : Bool := m.getLsbD l
/-- The lanes of a mask in ascending order. -/
def lanesOf (m : Word) : List Nat := allLanes.filter (inMask m)
/-- The mask of a list of lanes. -/
def maskOf (ls : List Nat) : Word := ls.foldl (fun m l => m ||| (1#32 <<< l)) 0
/-- The lanes of a mask for which a test holds. -/
def maskWhere (m : Word) (f : Nat → Bool) : Word := maskOf ((lanesOf m).filter f)

/-- The PC of a lane; an exited lane reads 0xFFFF_FFFF (R17). -/
def Crew.pcOf (w : Crew) (l : Nat) : Word := if inMask w.live l then getAt 0 w.pcv l else 0xFFFFFFFF
/-- The crew with the PC of every lane of a mask set by a function of the lane. -/
def Crew.setPcs (w : Crew) (m : Word) (f : Nat → Word) : Crew :=
  { w with pcv := (lanesOf m).foldl (fun t l => setAt 0 t l (f l)) w.pcv }

/-- The issue PC: the least PC of a live lane, unsigned (R18). -/
def Crew.ipc (w : Crew) : Word :=
  (lanesOf w.live).foldl (fun m l => let p := getAt 0 w.pcv l; if p.toNat < m.toNat then p else m) 0xFFFFFFFF
/-- The active lanes: the live lanes at the issue PC (R18). -/
def Crew.active (w : Crew) (pc : Word) : Word := maskWhere w.live (fun l => getAt 0 w.pcv l = pc)

/-! ### Registers -/

/-- A vector register of a lane. -/
def Crew.rv (w : Crew) (r l : Nat) : Word := getAt 0 w.v (32 * r + l)
/-- A moment register of a lane. -/
def Crew.rm (w : Crew) (r l : Nat) : DWord := getAt 0 w.m (32 * r + l)
/-- A uniform register. -/
def Crew.rs (w : Crew) (r : Nat) : Word := getAt 0 w.s r
/-- A predicate as a lane mask; p0 reads as true in every lane (R14). -/
def Crew.rp (w : Crew) (k : Nat) : Word := if k = 0 then 0xFFFFFFFF else getAt 0 w.p k
/-- The even–odd pair from `r`, low half first (R14). -/
def Crew.rv2 (w : Crew) (r l : Nat) : Nat := (w.rv r l).toNat + 4294967296 * (w.rv (r + 1) l).toNat
/-- The uniform pair from `r`. -/
def Crew.rs2 (w : Crew) (r : Nat) : Nat := (w.rs r).toNat + 4294967296 * (w.rs (r + 1)).toNat

/-- One register write; a write to p0 is ignored (R14). The write of an element leaves its register's storage error in place; only a
write of a whole tile or accumulator clears it (DESIGN CHOICE, log 37: the spec states clearing for words of local memory). -/
def Crew.write1 (w : Crew) : Wr → Crew
  | .v r l x => { w with v := setAt 0 w.v (32 * r + l) x }
  | .m r l x => { w with m := setAt 0 w.m (32 * r + l) x }
  | .s r x => { w with s := setAt 0 w.s r x }
  | .p k l x =>
    if k = 0 then w else
      let m := getAt 0 w.p k
      { w with p := setAt 0 w.p k (if x then m ||| (1#32 <<< l) else m &&& ~~~(1#32 <<< l)) }
/-- Register writes in order. -/
def Crew.write (w : Crew) (ws : List Wr) : Crew := ws.foldl Crew.write1 w

/-- The lanes in which a guard holds (R66). -/
def Crew.guard (w : Crew) (h : Hdr) : Word := if h.n then ~~~(w.rp h.g) else w.rp h.g

/-- A register's pending bit (R28). -/
def Crew.pending (w : Crew) : Reg → Bool
  | .v n => w.vpend.getLsbD n
  | .m n => w.mpend.getLsbD n
  | .s n => w.spend.getLsbD n
  | .p n => w.ppend.getLsbD n
/-- The crew with a pending bit set (R28). -/
def Crew.setPending (w : Crew) : Reg → Crew
  | .v n => { w with vpend := w.vpend ||| (1#64 <<< n) }
  | .m n => { w with mpend := w.mpend ||| (1#16 <<< n) }
  | .s n => { w with spend := w.spend ||| (1#64 <<< n) }
  | .p n => { w with ppend := w.ppend ||| (1#8 <<< n) }

/-! ### Causes -/

/-- The dispositions (R166); a code that the table of R178 does not assign has none and is never raised. -/
inductive Disp where
  | program | fatal | host | noted | unassigned
  deriving DecidableEq, Repr

/-- The disposition of each cause (R178). -/
def dispOf (code : Nat) : Disp :=
  if [0x48, 0x49, 0x4A, 0x4B, 0x8C, 0xA0, 0xA1, 0xA3, 0xA4, 0xAC, 0xC0, 0xC1, 0xC2, 0xC6, 0xC9, 0xE1, 0xE2,
      0xE3].contains code then .fatal
  else if [0x0F, 0xA2].contains code then .host
  else if [0x4C, 0x8D, 0xAD, 0xC3, 0xC4, 0xC5, 0xC7, 0xC8, 0xE0, 0xE5, 0xE6, 0xE7, 0xE8].contains code then .noted
  else if [0x01, 0x02, 0x03, 0x04, 0x08, 0x09, 0x0A, 0x0B, 0x0C, 0x0D, 0x0E, 0x10, 0x11, 0x12, 0x13, 0x14, 0x15, 0x16,
      0x17, 0x18, 0x19, 0x1A, 0x40, 0x41, 0x42, 0x43, 0x44, 0x45, 0x80, 0x81, 0x82, 0x83, 0x84, 0x85, 0x86, 0x87, 0x88,
      0x89, 0xA5, 0xA6, 0xA7, 0xA8, 0xA9, 0xAA, 0xAB, 0xE4, 0xE9].contains code then .program
  else .unassigned

/-- The bits of the CAUSE word beside the code (R173). -/
def flagNorout : Nat := 0x100
/-- Raised in the trap routine (R173). -/
def flagNested : Nat := 0x200
/-- Raised while the crew was draining (R173). -/
def flagDrain : Nat := 0x400
/-- The host ended a held block (R173). -/
def flagHostk : Nat := 0x800

/-- The WHERE field of R173; a core of 0xF and a crew of 0xFF say that there is none. -/
def locOf (die cluster core crew : Nat) : Nat := die + 2 * cluster + 16 * core + 256 * crew
/-- The WHERE field of a block. -/
def Block.loc (x : Block) (crew : Nat) : Nat := locOf x.die x.cluster x.core crew

/-- An MSI-X message to the host: sent, or held pending while the host masks its vector (R431). -/
def State.sendVec (s : State) (vec : Nat) : State :=
  if getAt false s.host.unmasked vec then { s with host := { s.host with sent := s.host.sent ++ [vec] } }
  else { s with host := { s.host with pending := setAt false s.host.pending vec true } }

/-- The ASID under which a noted cause of no context is logged (R178). -/
def noAsid : Nat := 65535

/-- A noted cause enters the die's event log (R177): the newest entry counts on when code, place and ASID agree. A
first new entry since EVTAIL was read sends vector 0, and so do causes 0xC7 and 0xC8 (R431). -/
def State.note (s : State) (die code loc asid : Nat) (info : Nat := 0) : State :=
  let d := s.die die
  let same := match d.log.getLast? with
    | some e => e.cause = code && e.loc = loc && e.asid = asid
    | none => false
  let d' := if same then
      { d with log := d.log.dropLast ++ (d.log.getLast?.map fun e =>
                        { e with count := min 65535 (e.count + 1), info := info }).toList }
    else
      { d with log := (d.log ++ [({ cause := code, loc := loc, asid := asid, count := 1,
                                    info := info } : LogEntry)]).drop (d.log.length + 1 - 256),
                                    evtail := (d.evtail + 1) % 4294967296, evread := false }
  let s' := s.setDie die d'
  if code = 0xC7 || code = 0xC8 || (!same && d.evread) then s'.sendVec 0 else s'

/-- A context-fatal cause (R172, R173): the context begins to end; the first record is kept, later ones are counted.
A context that CTX_END is ending keeps no record (R343). -/
def State.fatal (s : State) (slot : Nat) (r : FaultRec) : State :=
  let x := s.ctx slot
  match x.state with
  | .live => s.setCtx slot { x with state := .ending, first := some r, more := 0 }
  | .ending => s.setCtx slot { x with more := if x.first.isSome then min 0xFFFFFFFF (x.more + 1) else 0 }
  | _ => s

/-- A cause of a level above the core that no crew raises (R178): the codes from 0x80 on are those of the levels above the core
(R178, column Key). The translation fault of a held block, 0xA2, is the raising block's own (R174, DEDUCED, log 107). -/
def aboveCrews (crew code : Nat) : Bool := crew = 255 && decide (0x80 ≤ code) && code ≠ 0xA2
/-- The record of a cause of a block (R173). One of a level above the core that no crew raises has the "none" values of WHERE
and BLOCK (R178). -/
def faultRec (s : State) (x : Block) (crew : Nat) (flags : Nat) (t : Trap) : FaultRec :=
  { cause := t.code, flags := flags, info := t.info,
    loc := if aboveCrews crew t.code then locOf x.die 0 15 255 else x.loc crew,
    block := if aboveCrews crew t.code then 4294967295 else x.index, pc := t.pc,
    lanes := t.lanes, va := t.va, grid := match s.grid x.grid with | some g => g.va | none => 0 }

/-- The crew drains: no lane of it is live (R32). -/
def Crew.drains (w : Crew) : Bool := w.wait = .draining || w.live = 0
/-- NESTED and DRAIN of a cause that a crew raises (R173). -/
def State.crewFlags (s : State) (b c : Nat) : Nat :=
  match s.crew b c with
  | none => 0
  | some w => (if w.inTrap then flagNested else 0) + (if w.drains then flagDrain else 0)
/-- A context-fatal cause of a block's work: the CAUSE word has the flags given beside NESTED and DRAIN of its crew. -/
def State.fatalBlock (s : State) (b crew flags : Nat) (t : Trap) : State :=
  match s.block b with
  | none => s
  | some x => s.fatal x.slot (faultRec s x crew (flags ||| s.crewFlags b crew) t)

/-- A host-resolved cause holds the block (R174) and takes the next number of the context's hold records (R175). -/
def State.holdBlock (s : State) (b : Nat) (crew : Option Nat) (t : Trap) (entry : Nat) : State :=
  match s.block b with
  | none => s
  | some x =>
    let c := s.ctx x.slot
    (s.setBlock b { x with hold := some ⟨t, crew, c.holds, entry⟩ }).setCtx x.slot
      { c with holds := c.holds + 1, hrecs := c.hrecs ++ [faultRec s x (crew.getD 255) 0 t] }

/-! ### Parks and the trap routine -/

/-- What falls due when outstanding results have returned (R30, R138, R143): flags and MCLF merge, every pending bit
clears. The late cause is left to the caller (R477). -/
def Crew.merge (w : Crew) : Crew :=
  { w with fpc := w.fpc ||| w.hflags.setWidth 32, mclf := w.mclf || w.hclamp, hflags := 0, hclamp := false,
           vpend := 0, spend := 0, mpend := 0, ppend := 0, fpcp := false, late := none }

/-- The enables of FPC as flags (R137). -/
def Crew.enables (w : Crew) : Flags := w.fpc.extractLsb' 8 5

/-- The earlier of two late causes (R477, R171). -/
def earlier (a b : Option Late) : Option Late :=
  match a, b with
  | some x, some y => if y.order < x.order then some y else some x
  | some x, none => some x
  | none, y => y

/-- TRAPC, TRAPPC and TRAPM as a cause defines them (R116, R117, R169). -/
def Crew.noteTrap (w : Crew) (t : Trap) : Crew :=
  { w with trapc := BitVec.ofNat 32 (t.code + 256 * t.info), trappc := t.pc, trapm := t.lanes }

/-- Entry to the trap routine with a cause (R169, steps 2 to 5): what is due merges without cause 0x11, a late cause
is held (R171), RPCV takes the PCs, and every live lane starts at TRAPR. -/
def Crew.enterTrap (w : Crew) (trapr : Word) (t : Trap) : Crew :=
  let late := w.late.map fun l => { l with trap := { l.trap with pc := t.next } }
  let w1 := { w.merge with rpcv := (lanesOf w.live).foldl (fun m l => setAt 0 m l (w.pcOf l)) [],
                           trapc := BitVec.ofNat 32 (t.code + 256 * t.info), trappc := t.pc,
                           trapm := t.lanes, inTrap := true, held := earlier w.held late, wait := .ready }
  w1.setPcs w.live (fun _ => trapr)

/-- A cause that arises for a crew, after the effect its entry defines (R166 to R169, R174). -/
def State.raise (s : State) (b c : Nat) (t : Trap) : State :=
  match s.block b with
  | none => s
  | some x =>
    match look x.crews c with
    | none => s
    | some w =>
      match dispOf t.code with
      | .noted => s.note x.die t.code (x.loc c) (s.ctx x.slot).asid
      | .fatal => s.fatalBlock b c 0 t
      | .host =>
        if w.inTrap then s.fatalBlock b c 0 t
        else (s.setBlock b (x.setCrew c (w.noteTrap t))).holdBlock b (some c) t 0
      | .program =>
        if x.r.trapr = 0xFFFFFFFF || w.inTrap || w.drains then
          s.fatalBlock b c (if x.r.trapr = 0xFFFFFFFF then flagNorout else 0) t
        else if w.outs.isEmpty then s.setBlock b (x.setCrew c (w.enterTrap x.r.trapr t))
        else s.setBlock b (x.setCrew c { w with wait := .parked (.trap t) })
      | .unassigned => s

/-- A cause that becomes due for a crew by work it issued before: during the park of a trap entry it is held (R171). -/
def State.raiseLate (s : State) (b c : Nat) (l : Late) : State :=
  match s.crew b c with
  | none => s
  | some w =>
    if w.wait matches .parked (.trap _) then s.setCrew b c { w with held := earlier w.held (some l) }
    else s.raise b c l.trap

/-- A crew leaves every team (R245). -/
def Block.leaveTeams (x : Block) (c : Nat) : Block :=
  { x with teams := x.teams.map fun t => { t with members := t.members &&& ~~~(1#64 <<< c) } }

/-- A crew with no live lane enters the draining state (R32). A cause that its trap routine still holds (R171) is dropped
with the crew: no rule says what becomes of it (DESIGN CHOICE, log 86). -/
def State.startDrain (s : State) (b c : Nat) : State :=
  match s.block b with
  | none => s
  | some x =>
    match look x.crews c with
    | none => s
    | some w => s.setBlock b ((x.leaveTeams c).setCrew c { w with wait := .draining, inTrap := false })

/-- The flags of the coming merge whose enables are set (R139). -/
def Crew.armed (w : Crew) : Flags := w.hflags &&& w.enables

/-- The end of a park whose outstanding results have all returned (R30, R477). -/
def State.unparkNow (s : State) (b c : Nat) : State :=
  match s.crew b c with
  | none => s
  | some w =>
    match w.wait with
    | .parked (.marker ret) =>
      let s' := s.setCrew b c { w.merge with wait := .ready }
      match w.late with
      | some l => s'.raise b c { l.trap with pc := ret, next := ret }
      | none =>
        if w.armed = 0 then s'
        else s'.raise b c { code := 0x11, info := w.armed.toNat, pc := ret, lanes := 0, next := ret }
    | .parked (.exit ret) =>
      let s' := s.setCrew b c { w.merge with wait := .ready }
      let s1 := if w.live = 0 then s'.startDrain b c else s'
      match w.late with
      | some l => s1.raise b c { l.trap with pc := ret, lanes := 0, next := ret }
      | none => s1
    | .parked (.compact i pc act) =>
      match w.late with
      | some l =>
        (s.setCrew b c { w.merge with wait := .ready }).raise b c { l.trap with pc := pc, lanes := 0, next := pc + 12 }
      | none => s.setCrew b c { w.merge with wait := .waiting i pc act act }
    | .parked (.trap t) =>
      match s.block b with
      | none => s
      | some x => s.setCrew b c (w.enterTrap x.r.trapr t)
    | _ => s

/-- The crew parks (R30); when nothing is outstanding the park ends at once. -/
def State.park (s : State) (b c : Nat) (k : Park) : State :=
  match s.crew b c with
  | none => s
  | some w =>
    let s' := s.setCrew b c { w with wait := .parked k }
    if w.outs.isEmpty then s'.unparkNow b c else s'

/-- The return from the trap routine (R117): the lanes of TRAPM take TRAPPC, the others the PC recorded at entry. -/
def Crew.leaveTrap (w : Crew) : Crew :=
  { ({ w with inTrap := false }.setPcs w.live
      fun l => if inMask w.trapm l then w.trappc else getAt 0 w.rpcv l) with rpcv := [], held := none }

/-! ### Issue -/

/-- An instruction at its issue (R18, R85): the crew, the issue PC, the active and the participating lanes, the
length and the guard. -/
structure Env where
  b : Nat
  c : Nat
  blk : Block
  cw : Crew
  ipc : Word
  act : Word
  part : Word
  len : Nat
  h : Hdr
  deriving DecidableEq, Repr

/-- The PC after the instruction. -/
def Env.next (e : Env) : Word := e.ipc + BitVec.ofNat 32 e.len

/-- The issue of the crew that stands at issue; none when no ready crew with a live lane does, in a running block that
is not held (R174) of a LIVE context (R172). -/
def envOf (s : State) (i : Instr) : Option Env :=
  match s.cur with
  | none => none
  | some (b, c) =>
    match s.block b with
    | none => none
    | some x =>
      match look x.crews c with
      | none => none
      | some w =>
        if w.wait = .ready && w.live ≠ 0 && x.phase = .running && x.hold.isNone && (s.ctx x.slot).state = .live then
          let pc := w.ipc
          let act := w.active pc
          some ⟨b, c, x, w, pc, act, act &&& w.guard (hdrOf i), lenOf i, hdrOf i⟩
        else none

/-- The number of a role. -/
def Role.num : Role → Nat
  | .any => 0
  | .copy => 1
  | .matrix => 2
  | .vector => 3

/-- Some team of the crew holds the role an instruction requires (R74, R183). -/
def roleHeld (x : Block) (c : Nat) (i : Instr) : Bool :=
  roleOf i = 0 || x.teams.any fun t => t.valid && t.role.num = roleOf i && t.members.getLsbD c

/-- A register lies inside the crew's granules (R16). -/
def Crew.owns (w : Crew) : Reg → Bool
  | .v n => decide (n < 8 * w.vg)
  | .m n => decide (n < 4 * w.mg)
  | _ => true

/-- The instruction reads or writes the CSR FPC (R29). -/
def touchesFpc : Instr → Bool
  | .csrr x => x.num = 0x011
  | .csrw x => x.num = 0x011
  | _ => false

/-- The checks of R75 that need the crew, in order: role, register allocation, pending bits. -/
def crewCheck (x : Block) (c : Nat) (w : Crew) (i : Instr) : Option Nat :=
  let regs := sources x.r.lrec i ++ dests x.r.lrec i
  if !roleHeld x c i then some 0x03
  else if regs.any (fun r => !w.owns r) then some 0x09
  else if regs.any w.pending || w.pending (.p (hdrOf i).g) || (touchesFpc i && w.fpcp) then some 0x08
  else none

/-- The storage errors in what the lanes of an instruction read of a register (R199). -/
def Block.regErrors (x : Block) (c : Nat) (part : Word) (r : Reg) : List StoreErr :=
  x.errs.filter fun e =>
    match r with
    | .v n => e.place = .v && e.crew = c && e.num = n && inMask part e.lane
    | .m n => e.place = .m && e.crew = c && e.num = n && inMask part e.lane
    | .s n => e.place = .s && e.crew = c && e.num = n
    | .p _ => e.place = .p && e.crew = c

/-- The class number of a register in INFO of cause 0x4B (R200). -/
def Place.cls : Place → Nat
  | .v => 0
  | .s => 1
  | .p => 2
  | .m => 3
  | .tile => 4
  | .acc => 5
  | .weights => 6
  | _ => 0

/-- The field INFO[14:10] of cause 0x4B (R200): the lane, or the row modulo 32 of an entry of a tile, an accumulator or a
weight slot (DESIGN CHOICE, log 94: R200 gives the field to a lane). -/
def StoreErr.row (e : StoreErr) : Nat :=
  match e.place with
  | .tile | .weights => e.lane / 16 % 32
  | .acc => e.lane / 128 % 32
  | _ => e.lane % 32
/-- INFO of cause 0x4B (R200). -/
def regErrInfo (e : StoreErr) : Nat := e.place.cls + 16 * e.num + 1024 * e.row
/-- The errors of the share or spill area that lie in some of the ranges. -/
def Block.memErrors (x : Block) (place : Place) (rs : List (Nat × Nat)) : List StoreErr :=
  x.errs.filter fun k => k.place = place && rs.any fun r => rangesMeet k.num 4 r.1 r.2

/-- INFO of cause 0x4A (R200). -/
def memErrInfo (k : StoreErr) : Nat := k.num % 2097152 + (if k.place = .spill then 2097152 else 0)

/-- The crew has issued (R180), whatever comes of its instruction. -/
def State.markIssue (s : State) (b c : Nat) : State :=
  match s.crew b c with
  | none => s
  | some w => s.setCrew b c { w with lastIssue := s.steps + 1 }
/-- A cause that an issue raises. -/
def State.raiseIssue (s : State) (b c : Nat) (t : Trap) : State := (s.markIssue b c).raise b c t
/-- A cause raised at the issue, before the instruction has any effect: TRAPPC is its PC, TRAPM its active lanes
unless given (R75, R169). -/
def State.raiseAt (s : State) (e : Env) (code info : Nat) (lanes : Word) : State :=
  s.raiseIssue e.b e.c { code := code, info := info, pc := e.ipc, lanes := lanes, next := e.next }

/-- Correctable errors that a read of a block's work has met are noted, one cause for each (R199). -/
def State.noteErrs (s : State) (x : Block) (crew : Nat) (es : List StoreErr) : State :=
  es.eraseDups.foldl (fun s _ => s.note x.die 0x4C (x.loc crew) (s.ctx x.slot).asid) s
/-- The lanes of a register that an instruction reads: those of P(c); QUPK takes its codes from the lanes that hold them (R132),
and MXG its row indices from every lane (R215). -/
def readLanes (i : Instr) (part : Word) (r : Reg) : Word :=
  match i with
  | .qupk x =>
    if r = .v x.a then
      maskOf ((lanesOf part).map fun l => l / (32 / tyBits x.t)) ||| (if (x.b = x.a ∧ !x.u) ∨ (x.t = .e2m1 ∧ x.c = x.a) then part else 0)
    else part
  | .mxg _ => if part = 0 then 0 else 0xFFFFFFFF
  | _ => part
/-- An uncorrectable error that the instruction's reads meet is context-fatal; correctable ones are corrected and
noted (R199). Every issue counts as a read of the crew's predicate file, with an unguarded or 16-bit instruction too
(DESIGN CHOICE, log 108: the spec does not say whether p0 is read). -/
def meetErrors (s : State) (e : Env) (i : Instr) (k : State → Env → Out) : Out :=
  if e.blk.errs.isEmpty then k s e
  else
    let found := (sources e.blk.r.lrec i ++ [Reg.p e.h.g]).flatMap fun r => e.blk.regErrors e.c (readLanes i e.part r) r
    match found.find? (·.hard) with
    | some x => .next (s.raiseAt e 0x4B (regErrInfo x) e.act)
    | none =>
      if found.isEmpty then k s e
      else
        let blk := { e.blk with errs := e.blk.errs.filter (fun x => !found.contains x) }
        k ((s.setBlock e.b blk).noteErrs blk e.c found) { e with blk := blk }

/-- Errors of a block's registers or of its array storage that a read other than an instruction's own meets (R199): an
uncorrectable one ends the context, correctable ones are corrected and noted. The answer says whether the read failed. -/
def State.meetStore (s : State) (b crew : Nat) (mine : List StoreErr) : State × Bool :=
  match s.block b with
  | none => (s, false)
  | some x =>
    match mine.find? (·.hard) with
    | some e => (s.fatalBlock b crew 0 { code := 0x4B, info := regErrInfo e }, true)
    | none =>
      if mine.isEmpty then (s, false)
      else ((s.setBlock b { x with errs := x.errs.filter fun e => !mine.contains e }).noteErrs x 255 mine, false)

/-- The issue of a crew instruction: its environment, the checks of R75 that need the crew, the errors of what it
reads, then its own effect. -/
def issue (s : State) (i : Instr) (k : State → Env → Out) : Out :=
  match envOf s i with
  | none => .fault .notAtIssue
  | some e =>
    match crewCheck e.blk e.c e.cw i with
    | some code => .next (s.raiseAt e code 0 e.act)
    | none => meetErrors s e i k

/-- What an instruction computes before any register is written: the writes, the flags by lane, whether MCLF is set,
and a cause that keeps it from having any effect. -/
structure Eff where
  wr : List Wr := []
  flags : List (Nat × Flags) := []
  clamp : Bool := false
  late : Option Trap := none
  trap : Option Trap := none
  deriving DecidableEq, Repr

/-- The OR of flags. -/
def orFlags (fs : List (Nat × Flags)) : Flags := fs.foldl (fun a p => a ||| p.2) 0

/-- Every active lane goes on after the instruction; the crew has issued once more (R18, R180). -/
def Env.advance (s : State) (e : Env) (w : Crew) : Crew :=
  { w.setPcs e.act (fun _ => e.next) with issues := w.issues + 1, lastIssue := s.steps + 1 }

/-- The crew has issued once more; its PCs have been set by the instruction. -/
def Env.issued (s : State) (w : Crew) : Crew := { w with issues := w.issues + 1, lastIssue := s.steps + 1 }

/-- What follows the effect of an instruction: the switch marker parks the crew (R30). -/
def finishIssue (s : State) (e : Env) : State := if e.h.s then s.park e.b e.c (.marker e.next) else s

/-- A fixed-latency instruction completes (R138, R139): its writes take place, its flags merge, every active lane
goes on; a flag whose enable is set raises cause 0x11 after the merge. -/
def complete (s : State) (e : Env) (f : Eff) : Out :=
  match f.trap with
  | some t => .next (s.raiseIssue e.b e.c { t with next := e.next })
  | none =>
    let fl := orFlags f.flags
    let w := e.advance s (e.cw.write f.wr)
    let w := { w with fpc := w.fpc ||| fl.setWidth 32, mclf := w.mclf || f.clamp }
    let s' := s.setBlock e.b (e.blk.setCrew e.c w)
    let en := w.enables
    if fl &&& en = 0 then .next (finishIssue s' e)
    else .next (s'.raise e.b e.c { code := 0x11, info := (fl &&& en).toNat, pc := e.next,
                                   lanes := maskOf ((f.flags.filter (fun p => p.2 &&& en ≠ 0)).map (·.1)),
                                   next := e.next })

/-- A variable-latency instruction issues (R28): its results wait to return, with their flags, MCLF and late cause;
the registers it will write are pending. `ready` is false for a result that an engine fills later. -/
def defer (s : State) (e : Env) (i : Instr) (f : Eff) (ready : Bool) : State :=
  let w := e.advance s e.cw
  let p : Pend := { order := e.cw.issues, writes := f.wr, flags := orFlags f.flags, clamp := f.clamp,
                    late := f.late, ready := ready }
  let w := (dests e.blk.r.lrec i).foldl Crew.setPending { w with outs := w.outs ++ [p] }
  s.setBlock e.b (e.blk.setCrew e.c { w with fpcp := w.fpcp || raisesFlags i })

/-- A variable-latency instruction whose value is fixed at issue. -/
def completeLater (s : State) (e : Env) (i : Instr) (f : Eff) : Out :=
  match f.trap with
  | some t => .next (s.raiseIssue e.b e.c { t with next := e.next })
  | none => .next (finishIssue (defer s e i f true) e)

/-- An instruction whose effect is per crew and whose guard holds in no active lane has no effect (R21); the active
lanes go on. -/
def skip (s : State) (e : Env) : Out := complete s e {}

/-- A per-crew instruction (R21): nothing but the advance when no lane participates. -/
def perCrew (s : State) (e : Env) (k : Out) : Out := if e.part = 0 then skip s e else k

/-- A cause that keeps the instruction from having an effect. -/
def trapAt (s : State) (e : Env) (code info : Nat) (lanes : Word) : Out := .next (s.raiseAt e code info lanes)

/-- Keys that no other object holds yet. -/
def State.take (s : State) : Nat × State := (s.fresh, { s with fresh := s.fresh + 1 })

/-- The step offers only events that may happen; a turn placed from outside may name another. -/
def notEnabled (m : String) : Out := .refused (.notEnabled m)

end Sys2Proof.Machine
end

