-- ==== Sys2Proof/Machine/Operands.lean ====
section
/-! DEFINITION. Operand forms (R85 to R87, R119): the values that the fields of an instruction read in a lane, the
short forms as the shape-X form of the same mnemonic, the writes of a result, and the lanes that compute. -/

namespace Sys2Proof.Machine

/-! ### Short forms -/

/-- The shape-X form with T = S32 and every modifier at zero (R87). -/
def xForm (h : Hdr) (d a b : Nat) : XOps :=
  { h := h, d := d, a := a, b := b, c := 0, imm := 0, cov := 0, v := 0, t := .s32, q := false, k := false,
    y := false, u := false, o := false, rnd := 0 }

/-- The header of a 16-bit instruction: no guard, no switch marker (R72). -/
def noHdr : Hdr := ⟨false, 0, false⟩

/-- Shape R2 as its X form (R87). -/
def r2X (x : R2) : XOps := { xForm x.h x.d x.a x.b with u := x.u }
/-- IADD of shape I8 as its X form; the immediate is signed (R88). -/
def i8X (x : I8) : XOps :=
  { xForm x.h x.d x.a 0 with k := true, imm := wrapNat 13 (signedOf 8 x.imm) }
/-- Shape I6 as its X form (R92). -/
def i6X (x : I6) : XOps := { xForm x.h x.d x.a 0 with k := true, imm := x.count }
/-- A 16-bit register form (R72): d is destination and first source. -/
def shortX (d b : Nat) : XOps := xForm noHdr d d b
/-- A 16-bit form with a signed immediate (R72). -/
def shortImmX (d b : Nat) : XOps := { xForm noHdr d d 0 with k := true, imm := wrapNat 13 (signedOf 5 b) }
/-- A 16-bit shift (R72): the count is unsigned. -/
def shortShiftX (d b : Nat) : XOps := { xForm noHdr d d 0 with k := true, imm := b }

/-! ### Reading -/

/-- `n` consecutive registers as one number, lowest first: uniform ones when `uni`, else those of lane `l`. -/
def Crew.regs (w : Crew) (uni : Bool) (r l : Nat) : Nat → Nat
  | 0 => 0
  | n + 1 => (if uni then w.rs r else w.rv r l).toNat + 4294967296 * w.regs uni (r + 1) l n

/-- An operand of type `t` in register `r`: one register, or a pair for a 64-bit type (R86, R119). -/
def Crew.opd (w : Crew) (uni : Bool) (t : Ty) (r l : Nat) : Nat := w.regs uni r l (tyRegs t)

/-- The immediate of an instruction that reads it by type (R87): sign-extended for an S type. -/
def immBits (t : Ty) (imm : Nat) : Nat :=
  if tySigned t then wrapNat (tyBits t) (signedOf 13 imm) else imm % 8192

/-- Operand a of lane `l`. -/
def Crew.opA (w : Crew) (x : XOps) (t : Ty) (l : Nat) : Nat := w.opd x.y t x.a l
/-- Operand b of lane `l`: an immediate by type, a uniform register or a vector register. -/
def Crew.opB (w : Crew) (x : XOps) (t : Ty) (l : Nat) : Nat :=
  if x.k then immBits t x.imm else w.opd (x.y || x.u) t x.b l
/-- Operand b where it is one 32-bit register whatever T, its immediate zero-extended (R87, R92). -/
def Crew.opBz (w : Crew) (x : XOps) (l : Nat) : Nat :=
  if x.k then x.imm % 8192 else w.opd (x.y || x.u) .z32 x.b l
/-- Operand C of lane `l`. -/
def Crew.opC (w : Crew) (x : XOps) (t : Ty) (l : Nat) : Nat := w.opd x.y t x.c l

/-- The value of a bit pattern read as an integer type: S types signed, Z and B types unsigned (R86). -/
def asInt (t : Ty) (x : Nat) : Int := if tySigned t then signedOf (tyBits t) x else (x % 2 ^ tyBits t : Nat)

/-- A value as it stands in its register or pair: S types of less than 32 bits are sign-extended to bit 31 (R86). -/
def extend (t : Ty) (x : Nat) : Nat :=
  if tyBits t < 32 then (if tySigned t then wrapNat 32 (signedOf (tyBits t) x) else x % 2 ^ tyBits t) else x

/-! ### Writing -/

/-- The writes of `n` consecutive registers from a number, lowest first. -/
def regWrites (uni : Bool) (d l x : Nat) : Nat → List Wr
  | 0 => []
  | n + 1 => (if uni then .s d (BitVec.ofNat 32 x) else .v d l (BitVec.ofNat 32 x))
      :: regWrites uni (d + 1) l (x / 4294967296) n

/-- The writes of a result of type `t`. -/
def resultWrites (uni : Bool) (t : Ty) (d l x : Nat) : List Wr := regWrites uni d l (extend t x) (tyRegs t)

/-! ### The lanes that compute (R85) -/

/-- The effect of a per-lane instruction: every lane of the mask computes from the registers as they stood. -/
def perLane (m : Word) (f : Nat → List Wr × Flags) : Eff :=
  let rs := (lanesOf m).map fun l => (l, f l)
  { wr := rs.flatMap (·.2.1), flags := rs.map fun p => (p.1, p.2.2) }

/-- The effect of a uniform form: one computation, which stands for every lane of P(c) (R21, R85). -/
def onceFor (m : Word) (f : Nat → List Wr × Flags) : Eff :=
  match lanesOf m with
  | [] => {}
  | l :: rest => let r := f l; { wr := r.1, flags := (l :: rest).map fun k => (k, r.2) }

/-- A computation per lane, or once in the uniform form. -/
def onLanes (uni : Bool) (m : Word) (f : Nat → List Wr × Flags) : Eff := if uni then onceFor m f else perLane m f

/-- A result of type `t` into d, per lane or once. -/
def toDest (e : Env) (x : XOps) (t : Ty) (f : Nat → Nat × Flags) : Eff :=
  onLanes x.y e.part fun l => let r := f l; (resultWrites x.y t x.d l r.1, r.2)

/-- A result that raises no flag. -/
def toDest0 (e : Env) (x : XOps) (t : Ty) (f : Nat → Nat) : Eff := toDest e x t fun l => (f l, 0)

/-- A predicate result in every lane of P(c) (R97). -/
def toPred (e : Env) (d : Nat) (f : Nat → Bool × Flags) : Eff :=
  perLane e.part fun l => let r := f l; ([.p d l r.1], r.2)

end Sys2Proof.Machine
end

