-- ==== Sys2Proof/Machine/Trans.lean ====
section
/-! DEFINITION. The transcendental functions: the FP64 recipes of the FP32 form (R56 to R60), the exact functions of
every other format (R61), the FP32 helpers (R62) and the SUMAC generator (R63). -/

namespace Sys2Proof.Machine

/-- The nine functions (R56). -/
inductive Fn where
  | exp2 | log2 | exp | log | sin | cos | tanh | sigm | erf
  deriving DecidableEq, Repr, Inhabited

/-- FP64 sum, rounded once (R56). -/
def dAdd (a b : Nat) : Nat := (fAdd .f64 .rn a b).1
/-- FP64 difference. -/
def dSub (a b : Nat) : Nat := (fSub .f64 .rn a b).1
/-- FP64 product. -/
def dMul (a b : Nat) : Nat := (fMul .f64 .rn a b).1
/-- FP64 quotient. -/
def dDiv (a b : Nat) : Nat := (fDiv .f64 .rn a b).1
/-- Exact sign change of an FP64 encoding. -/
def dNeg (a : Nat) : Nat := (a + 2 ^ 63) % 2 ^ 64
/-- The FP64 encoding of a value (RoundF64). -/
def dOf (v : Val) : Nat := (roundTo .f64 v .rn false).1
/-- The value of an FP64 encoding. -/
def dVal (a : Nat) : Val := valueOf .f64 a
/-- FP64 1. -/
def dOne : Nat := 0x3FF0000000000000
/-- FP64 2. -/
def dTwo : Nat := 0x4000000000000000

/-- Horner(c, u, n..0) over the coefficients in ascending order (R56). -/
def horner (c : List Nat) (u : Nat) : Nat :=
  match c.reverse with
  | [] => 0
  | top :: rest => rest.foldl (fun acc k => dAdd (dMul acc u) k) top

/-- c_k = (ln 2)^k ÷ k! in FP64 (R57). -/
def coefExp2 : List Nat :=
  [0x3FF0000000000000, 0x3FE62E42FEFA39EF, 0x3FCEBFBDFF82C58F, 0x3FAC6B08D704A0C0, 0x3F83B2AB6FBA4E77] ++
  [0x3F55D87FE78A6731, 0x3F2430912F86C787, 0x3EEFFCBFC588B0C7, 0x3EB62C0223A5C824, 0x3E7B5253D395E7C4] ++
  [0x3E3E4CF5158B8ECA, 0x3DFE8CAC7351BB25, 0x3DBC3BD650FC2986, 0x3D7816193166D0F9]

/-- e_k = 1 ÷ (k + 1)! in FP64 (R57). -/
def coefExpm1 : List Nat :=
  [0x3FF0000000000000, 0x3FE0000000000000, 0x3FC5555555555555, 0x3FA5555555555555, 0x3F81111111111111] ++
  [0x3F56C16C16C16C17, 0x3F2A01A01A01A01A, 0x3EFA01A01A01A01A, 0x3EC71DE3A556C734, 0x3E927E4FB7789F5C] ++
  [0x3E5AE64567F544E4, 0x3E21EED8EFF8D898, 0x3DE6124613A86D09, 0x3DA93974A8C07C9D, 0x3D6AE7F3E733B81F] ++
  [0x3D2AE7F3E733B81F, 0x3CE952C77030AD4A, 0x3CA6827863B97D97]

/-- d_j = 2 ÷ ((2j + 1) ln 2) in FP64 (R57). -/
def coefLog2 : List Nat :=
  [0x40071547652B82FE, 0x3FEEC709DC3A03FD, 0x3FE2776C50EF9BFE, 0x3FDA61762A7ADED9, 0x3FD484B13D7C02A9] ++
  [0x3FD0C9A84994022D, 0x3FCC68F568D31760, 0x3FC89F3B1694CFFE, 0x3FC5B9AC9B743F0D, 0x3FC3703C1F4D0FFE] ++
  [0x3FC1964EC6FC9491, 0x3FC00ECD7E080215, 0x3FBD8BE0817F5FFE]

/-- a_j = (−1)^j ÷ (2j + 1)! in FP64 (R57). -/
def coefSin : List Nat :=
  [0x3FF0000000000000, 0xBFC5555555555555, 0x3F81111111111111, 0xBF2A01A01A01A01A, 0x3EC71DE3A556C734] ++
  [0xBE5AE64567F544E4, 0x3DE6124613A86D09, 0xBD6AE7F3E733B81F, 0x3CE952C77030AD4A, 0xBC62F49B46814157]

/-- b_j = (−1)^j ÷ (2j)! in FP64 (R57). -/
def coefCos : List Nat :=
  [0x3FF0000000000000, 0xBFE0000000000000, 0x3FA5555555555555, 0xBF56C16C16C16C17, 0x3EFA01A01A01A01A] ++
  [0xBE927E4FB7789F5C, 0x3E21EED8EFF8D898, 0xBDA93974A8C07C9D, 0x3D2AE7F3E733B81F, 0xBCA6827863B97D97] ++
  [0x3C1E542BA4020225]

/-- g_n = (−1)^n ÷ (n! (2n + 1)) in FP64 (R57). -/
def coefErf : List Nat :=
  [0x3FF0000000000000, 0xBFD5555555555555, 0x3FB999999999999A, 0xBF98618618618618, 0x3F72F684BDA12F68] ++
  [0xBF48D3018D3018D3, 0x3F1C01C01C01C01C, 0xBEEBBD779334EF0B, 0x3EB87A00187A0018, 0xBE83777C55568CCD] ++
  [0x3E4C2E3054870B38, 0xBE12B67310AA9F3A, 0x3DD6F448E13E85E1, 0xBD9A289EE7E40F74, 0x3D5BD577E658D020] ++
  [0xBD1BC6250FB14231, 0x3CDA173A167FBA4D, 0xBC97271CBE5863EC, 0x3C5377C2110F2083, 0xBC0F1B4073B34A68] ++
  [0x3BC7ABD72258FB6E, 0xBB813246ABCE1BDD, 0x3B37E6B81382CD42, 0xBAEFD6BEBD65107A, 0x3AA45C0A838EFE59] ++
  [0xBA5909C9DE3A31C5, 0x3A0DA7460554E5DB, 0xB9C0EEF30FA10D2C, 0x3972AC65385F79AC, 0xB923E81BB5701AC5] ++
  [0x38D4899FCDEF0A8D, 0xB88486EEA20C2656, 0x3833E53DEFC4E233, 0xB7E2B778ACC3DEDF, 0x37911AE81077A49E] ++
  [0xB73E6597092CCBF0, 0x36EA47767F2A3C32, 0xB6961F30BC3ACD1A, 0x36422521D98F98A9, 0xB5ED05CC9E3507C9] ++
  [0x3596A513F56F8A2F, 0xB5413F85FC9E143E, 0x34E9AA19D4D16643, 0xB492A8FA59FFEC31, 0x343A8830736A5123] ++
  [0xB3E273D8EDCEC957, 0x33891EF82B367A95, 0xB330BE5A4CD94283, 0x32D5DD4C9219115A, 0xB27BFB10E0F68C50] ++
  [0x32218D952EF00889, 0xB1C59982B2E94840, 0x316A13EC00B39F6F, 0xB10EE6CEFAA5A158, 0x30B1F9DEC94DA5F8] ++
  [0xB0548A6B3820B441, 0x2FF70F41AC13E2A1, 0xAF9970F1CB2AD53F, 0x2F3B97D90D3E603B, 0xAEDD6DB2A7C68DCB] ++
  [0x2E7EDF1E6E4658A9, 0xAE1FDCF88BBF71DB, 0x2DC02EB04E5F82F5, 0xAD602E2BC1B5790E, 0x2CFFDBE706576D5D] ++
  [0xAC9EE3D33862F55B, 0x2C3D80E20102C46E, 0xABDBC3CF47BCA3AF, 0x2B79C00B17FE33C8, 0xAB178A61F51A767F] ++
  [0x2AB537AE8ECB0688, 0xAA52DBAFA5779B80, 0x29F0881626BAD988, 0xA98C97AF0815D1A6, 0x292865904905F0B0] ++
  [0xA8C48AF52425D2F6, 0x286112B4A9E30629, 0xA7FC03D6D5581F37, 0x2796B19F8524F98E, 0xA732275417ECD3C6]

/-- L2E = 1 ÷ ln 2 (R57). -/
def dL2E : Nat := 0x3FF71547652B82FE
/-- LN2 = ln 2 (R58). -/
def dLN2 : Nat := 0x3FE62E42FEFA39EF
/-- T = 2 ÷ √π (R57). -/
def dT : Nat := 0x3FF20DD750429B6D
/-- RS2 = 1 ÷ √2 (R62). -/
def dRS2 : Nat := 0x3FE6A09E667F3BCD
/-- K = 1 ÷ √(2π) (R62). -/
def dK : Nat := 0x3FD9884533D43651
/-- PI8 = RoundTo(FP32, π ÷ 8, RN, INF) (R148). -/
def fPI8 : Nat := 0x3EC90FDB

/-- The scale of the fixed-point constants below. -/
def fixOne : Nat := 2 ^ 320

/-- ⌊π ÷ 2 × 2^320⌋. -/
def fixHalfPi : Nat :=
  ((((0x1 * 2 ^ 64 + 0x921FB54442D18469) * 2 ^ 64
    + 0x898CC51701B839A2) * 2 ^ 64
    + 0x52049C1114CF98E8) * 2 ^ 64
    + 0x04177D4C76273644) * 2 ^ 64
    + 0xA29410F31C6809BB

/-- ⌊ln 2 × 2^320⌋. -/
def fixLn2 : Nat :=
  (((0xB17217F7D1CF79AB * 2 ^ 64 + 0xC9E3B39803F2F6AF) * 2 ^ 64
    + 0x40F343267298B62D) * 2 ^ 64
    + 0x8A0D175B8BAAFA2B) * 2 ^ 64
    + 0xE7B876206DEBAC98

/-- ⌊2 ÷ √π × 2^320⌋. -/
def fixT : Nat :=
  ((((0x1 * 2 ^ 64 + 0x20DD750429B6D11A) * 2 ^ 64
    + 0xE3A914FED7FD8688) * 2 ^ 64
    + 0x281341D7587CEA2E) * 2 ^ 64
    + 0x7342B06199CC4161) * 2 ^ 64
    + 0x80EB39F0B24E1E22

/-- A value times a power of two. -/
def scaleVal (v : Val) (k : Int) : Val :=
  match v with
  | .num s n d => if k < 0 then .num s n (d * 2 ^ k.natAbs) else .num s (n * 2 ^ k.natAbs) d
  | v => v

/-- RoundInt with sign of a fraction (R57). -/
def nearInt (v : Val) : Int :=
  match v with
  | .num s n d => sInt s (roundInt .rn s n d)
  | _ => 0

/-- Exp2D (R57). -/
def exp2D (u : Nat) : Nat :=
  if leVal (.num false 1000 1) (dVal u) then dOf (dyadic false 1 1000)
  else if leVal (dVal u) (.num true 1000 1) then dOf (dyadic false 1 (-1000))
  else
    let n := nearInt (dVal u)
    let f := dOf (addVal false (dVal u) (intVal (-n))).1
    dOf (scaleVal (dVal (horner coefExp2 f)) n)

/-- ExpD (R57). -/
def expD (u : Nat) : Nat := exp2D (dMul u dL2E)

/-- Expm1D (R57). -/
def expm1D (u : Nat) : Nat :=
  if leVal (dVal u).abs (.num false 1 1) then dMul u (horner coefExpm1 u) else dSub (expD u) dOne

/-- Log2D of X > 0 finite (R57). -/
def log2D (x : Nat) : Nat :=
  match dVal x with
  | .num _ n d =>
    let k := floorLog2 n d
    let m := scaleVal (.num false n d) (-k)
    let big := ltVal (.num false 3 2) m
    let m := dOf (if big then scaleVal m (-1) else m)
    let k := if big then k + 1 else k
    let s := dDiv (dSub m dOne) (dAdd m dOne)
    dAdd (dOf (intVal k)) (dMul s (horner coefLog2 (dMul s s)))
  | _ => 0

/-- Reduce (R57): the quadrant and the reduced argument. -/
def reduceD (x : Nat) : Nat × Nat :=
  match dVal x with
  | .num s a b =>
    let n := roundInt .rn s (a * fixOne) (b * fixHalfPi)
    let r := (addVal false (.num s a b) (.num (!s) (n * fixHalfPi) fixOne)).1
    (((sInt s n) % 4).toNat, dOf r)
  | _ => (0, 0)

/-- SinK (R57). -/
def sinK (r : Nat) : Nat := dMul r (horner coefSin (dMul r r))
/-- CosK (R57). -/
def cosK (r : Nat) : Nat := horner coefCos (dMul r r)

/-- ErfD (R57). -/
def erfD (x : Nat) : Nat :=
  let v := x % 2 ^ 63
  let y := if leVal (.num false 4 1) (dVal v) then dOf (.num false (2 ^ 40 - 1) (2 ^ 40))
    else dMul (dMul v (horner coefErf (dMul v v))) dT
  if x / 2 ^ 63 % 2 = 1 then dNeg y else y

/-- The value y of each function for an FP64 argument (R58). -/
def recipe (fn : Fn) (x : Nat) : Val :=
  match fn with
  | .exp2 => dVal (exp2D x)
  | .exp => dVal (expD x)
  | .log2 => dVal (log2D x)
  | .log => dVal (dMul (log2D x) dLN2)
  | .sin =>
    let (q, r) := reduceD x
    dVal (match q with | 0 => sinK r | 1 => cosK r | 2 => dNeg (sinK r) | _ => dNeg (cosK r))
  | .cos =>
    let (q, r) := reduceD x
    dVal (match q with | 0 => cosK r | 1 => dNeg (sinK r) | 2 => dNeg (cosK r) | _ => sinK r)
  | .tanh =>
    let u := dMul dTwo (x % 2 ^ 63)
    let neg : Bool := x / 2 ^ 63 % 2 = 1
    if ltVal (.num false 100 1) (dVal u) then .num neg (2 ^ 100 - 1) (2 ^ 100)
    else
      let e := expm1D u
      let y := dVal (dDiv e (dAdd e dTwo))
      if neg then y.opp else y
  | .sigm =>
    if x / 2 ^ 63 % 2 = 0 ∨ (dVal x).isZero then dVal (dDiv dOne (dAdd dOne (expD (dNeg x))))
    else let e := expD x; dVal (dDiv e (dAdd dOne e))
  | .erf => dVal (erfD x)

/-- The special values (R59): the result and its flags. -/
def fnSpecial (fn : Fn) (x : Val) : Option (Val × Flags) :=
  match x with
  | .nan => some (.nan, 0)
  | .inf s =>
    some (match fn with
      | .exp2 | .exp => (if s then .num false 0 1 else .inf false, 0)
      | .log2 | .log => if s then (.nan, flagNV) else (.inf false, 0)
      | .sin | .cos => (.nan, flagNV)
      | .tanh | .erf => (.num s 1 1, 0)
      | .sigm => (.num false (if s then 0 else 1) 1, 0))
  | .num s n d =>
    if n = 0 then
      some (match fn with
        | .exp2 | .exp | .cos => (.num false 1 1, 0)
        | .log2 | .log => (.inf true, flagDZ)
        | .sin | .tanh | .erf => (x, 0)
        | .sigm => (.num false 1 2, 0))
    else if fn = .log2 ∨ fn = .log then
      if s then some (.nan, flagNV) else if n = d then some (.num false 0 1, 0) else none
    else none

/-- The FP32 form (R56 to R59). -/
def fnF32 (fn : Fn) (mode : Rnd) (a : Nat) : Nat × Flags :=
  match fnSpecial fn (valueOf .f32 a) with
  | some (v, fl) => finish .f32 mode false v (fl ||| snanFlag .f32 [a])
  | none => roundTo .f32 (recipe fn (dOf (valueOf .f32 a))) mode false

/-- A fraction in fixed point, to the nearest below its magnitude. -/
def fixOf (v : Val) : Int :=
  match v with
  | .num s n d => sInt s (n * fixOne / d)
  | _ => 0

/-- Product of two fixed-point numbers. -/
def fixMul (a b : Int) : Int := a * b / (fixOne : Int)

/-- Σ rᵏ ÷ k! in fixed point. -/
def fixExpSum (r : Int) : Nat → Nat → Int → Int → Int
  | 0, _, _, acc => acc
  | fuel + 1, k, term, acc => fixExpSum r fuel (k + 1) (fixMul term r / (k + 1 : Nat)) (acc + term)

/-- e^r for a small fixed-point r. -/
def fixExp (r : Int) : Int := fixExpSum r 90 0 fixOne 0

/-- Σ ± r^(2j) ÷ … of the sine and cosine, alternating: the term is divided by (k + 1)(k + 2). -/
def fixTrigSum (r2 : Int) : Nat → Nat → Int → Int → Int
  | 0, _, _, acc => acc
  | fuel + 1, k, term, acc =>
    fixTrigSum r2 fuel (k + 2) (-(fixMul term r2) / ((k + 1) * (k + 2) : Nat)) (acc + term)

/-- Σ s^(2j) ÷ (2j + 1). -/
def fixAtanhSum (s2 : Int) : Nat → Nat → Int → Int → Int
  | 0, _, _, acc => acc
  | fuel + 1, j, pow, acc => fixAtanhSum s2 fuel (j + 1) (fixMul pow s2) (acc + pow / (2 * j + 1 : Nat))

/-- Σ (−1)ⁿ v^(2n) ÷ (n! (2n + 1)). -/
def fixErfSum (v2 : Int) : Nat → Nat → Int → Int → Int
  | 0, _, _, acc => acc
  | fuel + 1, n, term, acc =>
    fixErfSum v2 fuel (n + 1) (-(fixMul term v2) / (n + 1 : Nat)) (acc + term / (2 * n + 1 : Nat))

/-- A fixed-point number times a power of two, as a value. -/
def fixVal (x : Int) (k : Int) : Val := scaleVal (.num (x < 0) x.natAbs fixOne) k

/-- e^x as m × 2^k for |x| ≤ 1000. -/
def expApprox (x : Int) : Int × Int :=
  let k := nearInt (.num (x < 0) x.natAbs fixLn2)
  (fixExp (x - k * (fixLn2 : Int)), k)

/-- A value of tiny magnitude 2^-90 with a sign, added to v. -/
def nudge (v : Val) (neg : Bool) : Val := (addVal false v (.num neg 1 (2 ^ 90))).1

/-- f(x) for finite x that R59 does not settle: exactly where the function value is a fraction, and otherwise a value
so near to it that no rounding boundary of a format of at most 16 bits lies between the two (R61). -/
def fnApprox (fn : Fn) (x : Val) : Val :=
  match x with
  | .num s n d =>
    let one : Val := .num false 1 1
    let tiny := n * 2 ^ 40 < d
    let big := 1000 * d < n
    let fx := fixOf x
    match fn with
    | .exp2 =>
      if big then dyadic false 1 (if s then -1000 else 1000)
      else
        let k := nearInt x
        let f := (addVal false x (intVal (-k))).1
        if f.isZero then dyadic false 1 k
        else if tiny then nudge one s
        else fixVal (fixExp (fixMul (fixOf f) fixLn2)) k
    | .exp =>
      if big then dyadic false 1 (if s then -1000 else 1000)
      else if tiny then nudge one s
      else let (m, k) := expApprox fx; fixVal m k
    | .log2 | .log =>
      let k0 := floorLog2 n d
      let m0 := scaleVal x (-k0)
      let up := ltVal (.num false 3 2) m0
      let k := if up then k0 + 1 else k0
      let m := if up then scaleVal m0 (-1) else m0
      let t := (addVal false m one.opp).1
      if t.isZero ∧ fn = .log2 then intVal k
      else
        let q := fixOf (divVal t (addVal false m one).1).1
        let at2 := 2 * fixMul q (fixAtanhSum (fixMul q q) 90 0 fixOne 0)
        if fn = .log then fixVal (k * (fixLn2 : Int) + at2) 0
        else fixVal (k * (fixOne : Int) + at2 * (fixOne : Int) / (fixLn2 : Int)) 0
    | .sin | .cos =>
      if tiny then (if fn = .cos then nudge one true else (mulVal x (nudge one true)).1)
      else
        let j := roundInt .rn s (n * fixOne) (d * fixHalfPi)
        let r := fixOf (addVal false x (.num (!s) (j * fixHalfPi) fixOne)).1
        let r2 := fixMul r r
        let sn := fixTrigSum r2 60 1 r 0
        let cs := fixTrigSum r2 60 0 fixOne 0
        let quad := ((sInt s j) % 4).toNat
        let quad := if fn = .cos then (quad + 1) % 4 else quad
        fixVal (match quad with | 0 => sn | 1 => cs | 2 => -sn | _ => -cs) 0
    | .tanh =>
      if tiny then (mulVal x (nudge one true)).1
      else if 100 * d < n then (mulVal (.num s 1 1) (nudge one true)).1
      else
        let (m, k) := expApprox (2 * fx)
        let e := fixVal m k
        (divVal (addVal false e one.opp).1 (addVal false e one).1).1
    | .sigm =>
      if tiny then nudge (.num false 1 2) s
      else if big then (if s then dyadic false 1 (-1000) else nudge one true)
      else
        let (m, k) := expApprox fx
        let e := fixVal m k
        (divVal e (addVal false e one).1).1
    | .erf =>
      if tiny then (mulVal (mulVal x (nudge one true)).1 (.num false fixT fixOne)).1
      else if 8 * d < n then (mulVal (.num s 1 1) (nudge one true)).1
      else
        let sum := fixErfSum (fixMul fx fx) 420 0 fixOne 0
        (mulVal (mulVal x (fixVal sum 0)).1 (.num false fixT fixOne)).1
  | v => v

/-- A function in a format other than FP32 (R61). -/
def fnExact (f : Fmt) (fn : Fn) (mode : Rnd) (sat : Bool) (a : Nat) : Nat × Flags :=
  match fnSpecial fn (valueOf f a) with
  | some (v, fl) => finish f mode sat v (fl ||| snanFlag f [a])
  | none => roundTo f (fnApprox fn (valueOf f a)) mode sat

/-- One element of a transcendental (R128). -/
def fTrans (f : Fmt) (fn : Fn) (mode : Rnd) (sat : Bool) (a : Nat) : Nat × Flags :=
  if f = .f32 then fnF32 fn mode a else fnExact f fn mode sat a

/-- Phi (R62). -/
def phi32 (z : Nat) : Nat × Flags :=
  match valueOf .f32 z with
  | .nan => (Fmt.f32.nan, snanFlag .f32 [z])
  | .inf s => (if s then 0 else 0x3F800000, 0)
  | v =>
    let h := 0x3FE0000000000000
    roundTo .f32 (dVal (dAdd h (dMul h (erfD (dMul (dOf v) dRS2))))) .rn false

/-- Pdf (R62). -/
def pdf32 (z : Nat) : Nat × Flags :=
  match valueOf .f32 z with
  | .nan => (Fmt.f32.nan, snanFlag .f32 [z])
  | .inf _ => (0, 0)
  | v =>
    let x := dOf v
    roundTo .f32 (dVal (dMul (expD (dMul (dMul x x) 0xBFE0000000000000)) dK)) .rn false

/-- Exp32 (R62). -/
def exp32 (x : Nat) : Nat × Flags := fnF32 .exp .rn x
/-- Sig32 (R62). -/
def sig32 (x : Nat) : Nat × Flags := fnF32 .sigm .rn x
/-- Sqrt32 (R62). -/
def sqrt32 (x : Nat) : Nat × Flags := fSqrt .f32 .rn x

/-- Rotl (R63). -/
def rotl32 (x : Word) (n : Nat) : Word := x.rotateLeft n

/-- The four words of a counter or a draw (R63). -/
structure Quad where
  x0 : Word
  x1 : Word
  x2 : Word
  x3 : Word
  deriving DecidableEq, Repr

/-- One round of SUMAC (R63). -/
def sumacRound (q : Quad) (k0 k1 : Word) : Quad :=
  let x0 := q.x0 + q.x1 + k0
  let x3 := rotl32 (q.x3 ^^^ x0) 13
  let x2 := q.x2 + x3 + k1
  let x1 := rotl32 (q.x1 ^^^ x2) 9
  let x0 := x0 + x1
  let x3 := rotl32 (x3 ^^^ x0) 11
  let x2 := x2 + x3
  let x1 := rotl32 (x1 ^^^ x2) 5
  { x0 := x0, x1 := x1, x2 := x2, x3 := x3 }

/-- The rounds that are left, the keys stepped after each (R63). -/
def sumacRounds : Nat → Quad → Word → Word → Quad
  | 0, q, _, _ => q
  | n + 1, q, k0, k1 => sumacRounds n (sumacRound q k0 k1) (k0 + 0x6A3D95E1) (k1 + 0xC2B48F17)

/-- Sumac (R63). -/
def sumac (q : Quad) (k0 k1 : Word) : Quad := sumacRounds 6 q k0 k1

end Sys2Proof.Machine
end

