-- ==== Sys2Proof/Machine/Flags.lean ====
section
/-! DEFINITION. The flag computations: FPC and MODE as CSRs (R114, R137), a float operation on one value or on each
element of a packed register with the OR of the elements' flags (R119), and the flags of a fold (R102). -/

namespace Sys2Proof.Machine

/-- The writable bits of FPC (R137). -/
def fpcMask : Word := 0x00001F1F

/-- A write of FPC by CSRW: flags and enables together; it is no merge (R137). -/
def Crew.setFpc (w : Crew) (x : Word) : Crew := { w with fpc := x &&& fpcMask }

/-- MODE as it reads (R114). -/
def Crew.mode (w : Crew) (r : LaunchRec) : Word :=
  (if w.mclf then 1 else 0) ||| (if r.det then 0x100 else 0) ||| (if r.res then 0x200 else 0)

/-- A write of MODE: MCLF takes bit 0, the other fields keep their values (R114). -/
def Crew.setMode (w : Crew) (x : Word) : Crew := { w with mclf := x.getLsbD 0 }

/-- The element format of a float type and the number of elements (R119). -/
def elemFmt : Ty → Fmt × Nat
  | .f64 => (.f64, 1) | .f32 => (.f32, 1) | .f16 => (.f16, 1) | .bf16 => (.bf16, 1) | .e4m3 => (.e4m3, 1)
  | .e5m2 => (.e5m2, 1) | .e2m1 => (.e2m1, 1) | .f16x2 => (.f16, 2) | .bf16x2 => (.bf16, 2)
  | .e4m3x4 => (.e4m3, 4) | .e5m2x4 => (.e5m2, 4) | .e2m1x8 => (.e2m1, 8) | _ => (.f32, 1)

/-- Element `i` of a register value of a float type (R41, R119). -/
def elemOf (f : Fmt) (x i : Nat) : Nat := bitsOf x (i * f.bits) f.bits

/-- `n` element results, element 0 lowest, and the OR of their flags (R119). -/
def packElems (f : Fmt) : List (Nat × Flags) → Nat × Flags
  | [] => (0, 0)
  | (x, fl) :: rest => let r := packElems f rest; (x + 2 ^ f.bits * r.1, fl ||| r.2)

/-- An operation on each element of a value of type `t`; `g` takes the element's format and number. -/
def byElem (t : Ty) (g : Fmt → Nat → Nat × Flags) : Nat × Flags :=
  let (f, n) := elemFmt t
  packElems f ((List.range n).map (g f))

/-- A unary float operation (R119). -/
def float1 (t : Ty) (op : Fmt → Nat → Nat × Flags) (a : Nat) : Nat × Flags :=
  byElem t fun f i => op f (elemOf f a i)
/-- A dyadic float operation. -/
def float2 (t : Ty) (op : Fmt → Nat → Nat → Nat × Flags) (a b : Nat) : Nat × Flags :=
  byElem t fun f i => op f (elemOf f a i) (elemOf f b i)
/-- A float operation of three operands. -/
def float3 (t : Ty) (op : Fmt → Nat → Nat → Nat → Nat × Flags) (a b c : Nat) : Nat × Flags :=
  byElem t fun f i => op f (elemOf f a i) (elemOf f b i) (elemOf f c i)

end Sys2Proof.Machine
end

