-- ==== Sys2Proof/Machine/Quant.lean ====
section
/-! DEFINITION. Block quantisation (R42 to R45, R129 to R132) and the code table (R133 to R136). -/

namespace Sys2Proof.Machine

/-! ### Scales and codes -/

/-- The value of an E3M5 micro-scale (R42); 0xFF is invalid and has none. -/
def microVal (x : Nat) : Val :=
  let e := bitsOf x 5 3
  let m := bitsOf x 0 5
  if x % 256 = 0xFF then .nan
  else if e = 0 then dyadic false m (-7)
  else dyadic false (32 + m) ((e : Int) - 8)

/-- The value of a BF16 scale. -/
def bandVal (x : Nat) : Val := valueOf .bf16 (x % 65536)

/-- A finite value above zero. -/
def Val.positive : Val → Bool
  | .num false n _ => n ≠ 0
  | _ => false

/-- The exact quotient of two finite values, the divisor not zero. -/
def divExact (x y : Val) : Val := (divVal x y).1

/-- The greater of two magnitudes. -/
def maxVal (x y : Val) : Val := if leVal x y then y else x

/-- The given-scale coding of Q8S and Q8Q (R45): the code and its flags; the scale is finite and positive. -/
def q8Code (sq : Bool) (x : Nat) (scale : Val) : Nat × Flags :=
  let fl := snanFlag .f32 [x]
  let lo : Int := if sq then 0 else -127
  let hi : Int := if sq then 255 else 127
  match valueOf .f32 x with
  | .nan => (0, fl)
  | .inf neg => (wrapNat 8 (if neg then (if sq then 0 else lo) else hi), 0)
  | .num neg n d =>
    if sq && neg && n ≠ 0 then (0, 0)
    else
      let r : Val := if sq then valueOf .f32 (roundTo .f32 (sqrtVal (.num neg n d)).1 .rn false).1 else .num neg n d
      match valueOf .f32 (roundTo .f32 (divExact r scale) .rn false).1 with
      | .num s p q => (wrapNat 8 (max lo (min hi (sInt s (roundInt .rn s p q)))), 0)
      | .inf s => (wrapNat 8 (if s then lo else hi), 0)
      | .nan => (0, 0)

/-- The decoding of a Q8S or Q8Q code with the flags of its rounding (R45, R50). It overflows to an infinity, as R45 has it; R51
would take the O = 1 of the instruction (R129), which gives the greatest number (DESIGN CHOICE, log 111). -/
def q8Value (sq : Bool) (code : Nat) (scale : Nat) : Nat × Flags :=
  match bandVal scale with
  | .num s n d =>
    let q : Int := if sq then (code % 256 : Nat) else signedOf 8 code
    let p := (mulVal (intVal q) (.num s n d)).1
    roundTo .f32 (if sq then (mulVal p p).1 else p) .rn false
  | _ => (Fmt.f32.nan, 0)

/-- The scale of a Q8S or Q8Q block (R45), as a BF16 pattern. -/
def q8Scale (sq : Bool) (xs : List Nat) : Nat :=
  let vs := xs.map (valueOf .f32)
  let bad := vs.any fun v => match v with
    | .num neg n _ => sq && neg && n ≠ 0
    | _ => true
  if bad then Fmt.bf16.nan
  else
    let rs := vs.map fun v => if sq then valueOf .f32 (roundTo .f32 (sqrtVal v).1 .rn false).1 else v.abs
    let a := rs.foldl maxVal (.num false 0 1)
    if a.isZero then 0
    else (roundTo .bf16 (divExact a (intVal (if sq then 255 else 127))) .ru false).1

/-- The scale of an FP8 block (R130). -/
def fp8Scale (f : Fmt) (xs : List Nat) : Nat :=
  let vs := xs.map fun x => (valueOf .f32 x).abs
  if vs.any fun v => match v with
    | .num _ _ _ => false
    | _ => true then Fmt.bf16.nan
  else
    let a := vs.foldl maxVal (.num false 0 1)
    if a.isZero then 0 else (roundTo .bf16 (divExact a (valueOf f f.maxBits)) .ru false).1

/-- The least valid micro-scale that is at least a value (R130); none when the value is above 31. -/
def microAtLeast (q : Val) : Option Nat := (List.range 255).find? fun m => leVal q (microVal m)

/-- The micro-scale of a native FP4 group and its flags (R130): a band scale that is not finite and positive raises NV
whatever the elements; a = 0 gives 0x00 before the band gives 0xFF (log 18). -/
def microScale (xs : List Nat) (band : Nat) : Nat × Flags :=
  let vs := xs.map fun x => (valueOf .f32 x).abs
  let bad := flagIf (!(bandVal band).positive) flagNV
  if vs.any fun v => match v with
    | .num _ _ _ => false
    | _ => true then (0xFF, bad)
  else
    let a := vs.foldl maxVal (.num false 0 1)
    if a.isZero then (0, bad)
    else if !(bandVal band).positive then (0xFF, flagNV)
    else
      match microAtLeast (divExact a (mulVal (intVal 6) (bandVal band)).1) with
      | some m => (m, 0)
      | none => (0xFE, flagOF)

/-! ### QSCL, QPK, QUPK -/

/-- The lanes of the group of a lane that contribute (R129). -/
def groupOf (e : Env) (t : Ty) (l : Nat) : List Nat :=
  (lanesOf e.part).filter fun k => t ≠ .e2m1 || k / 8 = l / 8

/-- QSCL of the group of a lane: the scale and its flags beyond those of operands (R130). -/
def groupScale (e : Env) (x : XOps) (l : Nat) : Nat × Flags :=
  let ls := groupOf e x.t l
  let xs := ls.map fun k => (e.cw.rv x.a k).toNat
  match x.t with
  | .e2m1 => microScale xs (e.cw.opB x .z32 (ls.headD l))
  | .s8 => (q8Scale false xs, 0)
  | .z8 => (q8Scale true xs, 0)
  | t => (fp8Scale (elemFmt t).1 xs, 0)

/-- QSCL (R130). The flags of a group's scale arise in every lane of P(c) in the group (DESIGN CHOICE, log 93: it shows in
TRAPM of cause 0x11 only). -/
def qsclEff (e : Env) (x : XOps) : Eff :=
  perLane e.part fun l =>
    let r := groupScale e x l
    (regWrites false x.d l r.1 1, r.2 ||| snanFlag .f32 [(e.cw.rv x.a l).toNat])

/-- The scale of QPK and QUPK in a lane (R131): its value, and whether the micro-scale is the invalid one. -/
def laneScale (e : Env) (x : XOps) (l : Nat) : Val × Bool :=
  let b := e.cw.opB x .z32 l
  if x.t = .e2m1 then
    let c := e.cw.opC x .z32 l % 256
    if c = 0xFF then (.nan, true) else ((mulVal (microVal c) (bandVal b)).1, false)
  else (bandVal b, false)

/-- The code of one lane of QPK (R131). A scale that is neither +0 nor finite and positive raises NV for S8 and Z8 too, as the
pseudocode has it; the sentence on these types names only signalling NaNs (DESIGN CHOICE, log 112). -/
def qpkCode (e : Env) (x : XOps) (l : Nat) : Nat × Flags :=
  let v := (e.cw.rv x.a l).toNat
  let (sc, bad) := laneScale e x l
  if !bad && sc.isZero && !sc.neg then (0, snanFlag .f32 [v])
  else if bad || !sc.positive then (0, flagNV)
  else
    match x.t with
    | .s8 => q8Code false v sc
    | .z8 => q8Code true v sc
    | t =>
      let f := (elemFmt t).1
      let r := divVal (valueOf .f32 v) sc
      finish f (rndOf x.rnd) x.o r.1 (r.2 ||| snanFlag .f32 [v])

/-- The bits of a code (R129). -/
def codeBits (t : Ty) : Nat := if t = .e2m1 then 4 else 8

/-- QPK (R131): word j of the packed codes goes to lane j. -/
def qpkEff (e : Env) (x : XOps) : Eff :=
  let n := codeBits x.t
  let per := 32 / n
  let code (l : Nat) : Nat := if inMask e.part l then (qpkCode e x l).1 % 2 ^ n else 0
  perLane e.part fun l =>
    let w := if l < n then (List.range per).foldr (fun k r => code (l * per + k) + 2 ^ n * r) 0 else 0
    (regWrites false x.d l w 1, (qpkCode e x l).2)

/-- NV of a decoding of QUPK (R39, R121): a signalling operand, or 0 × ∞ in the scale or in the product. -/
def qupkInvalid (e : Env) (x : XOps) (code l : Nat) : Flags :=
  let f := (elemFmt x.t).1
  let b := e.cw.opB x .z32 l
  let (sc, bad) := laneScale e x l
  let band := if x.t = .e2m1 && !bad then (mulVal (microVal (e.cw.opC x .z32 l % 256)) (bandVal b)).2 else false
  snanFlag f [code] ||| snanFlag .bf16 [b % 65536] ||| flagIf (band || (mulVal (valueOf f code) sc).2) flagNV

/-- QUPK (R132): each lane decodes its element of the packed words, whatever the state of the lane that holds it. -/
def qupkEff (e : Env) (x : XOps) : Eff :=
  let n := codeBits x.t
  let per := 32 / n
  perLane e.part fun l =>
    let code := bitsOf (e.cw.rv x.a (l / per)).toNat (l % per * n) n
    match x.t with
    | .s8 => let r := q8Value false code (e.cw.opB x .z32 l); (regWrites false x.d l r.1 1, r.2)
    | .z8 => let r := q8Value true code (e.cw.opB x .z32 l); (regWrites false x.d l r.1 1, r.2)
    | t =>
      let r := roundTo .f32 (mulVal (valueOf (elemFmt t).1 code) (laneScale e x l).1).1 (rndOf x.rnd) x.o
      (regWrites false x.d l r.1 1, r.2 ||| qupkInvalid e x code l)

/-- QSCL (R130). -/
def execQscl (x : XOps) (s : State) : Out := issue s (.qscl x) fun s e => complete s e (qsclEff e x)
/-- QPK (R131). -/
def execQpk (x : XOps) (s : State) : Out := issue s (.qpk x) fun s e => complete s e (qpkEff e x)
/-- QUPK (R132). -/
def execQupk (x : XOps) (s : State) : Out := issue s (.qupk x) fun s e => complete s e (qupkEff e x)

/-! ### The code table -/

/-- Entry `k` of a bank (R133). -/
def Block.ctEntry (x : Block) (bank : Bool) (k : Nat) : BitVec 16 := getAt 0 x.ctab (16 * bank.toNat + k)

/-- CTAB.W (R134): the lanes write the inactive bank in ascending order, the uniform form writes once. -/
def ctabWritten (e : Env) (x : XOps) : Sparse (BitVec 16) :=
  ((lanesOf e.part).take (if x.y then 1 else 32)).foldl (fun m l =>
    setAt 0 m (16 * (!e.blk.bank).toNat + e.cw.opB x .z32 l % 16) (BitVec.ofNat 16 (e.cw.opA x .z32 l))) e.blk.ctab

/-- CTAB.W (R134). -/
def execCtabW (x : XOps) (s : State) : Out :=
  issue s (.ctabW x) fun s e =>
    .next (finishIssue (s.setBlock e.b
      ({ e.blk with ctab := ctabWritten e x }.setCrew e.c (e.advance s e.cw))) e)

/-- CTAB.SWAP (R134). -/
def execCtabSwap (x : XOps) (s : State) : Out :=
  issue s (.ctabSwap x) fun s e => perCrew s e <|
    .next (finishIssue (s.setBlock e.b ({ e.blk with bank := !e.blk.bank }.setCrew e.c (e.advance s e.cw))) e)

/-- The BF16 entry of a code as it is used: a NaN entry decodes to the canonical NaN (R133). -/
def ctValue (x : Block) (code : Nat) : Nat :=
  let v := (x.ctEntry x.bank (code % 16)).toNat
  if valueOf .bf16 v = .nan then Fmt.bf16.nan else v

/-- LUT4 (R136). -/
def execLut4 (x : XOps) (s : State) : Out :=
  issue s (.lut4 x) fun s e => complete s e (toDest0 e x .z32 fun l =>
    let a := e.cw.opA x .z32 l
    if x.t = .f32 then (fCvt .bf16 .f32 .rn false (ctValue e.blk (bitsOf a (4 * x.v) 4))).1
    else ctValue e.blk (bitsOf a (8 * x.v) 4) + 65536 * ctValue e.blk (bitsOf a (8 * x.v + 4) 4))

end Sys2Proof.Machine
end

