-- ==== Sys2Proof/Machine/Translate.lean ====
section
/-! DEFINITION. Homing, the physical memory of the two tiers with its errors, translation by the home die, and the
resolution of a virtual address for an access (R363 to R375, R399, R415 to R422). -/

namespace Sys2Proof.Machine

/-- The result of an access to global memory: done, waiting for the host link or a stack, or failed with a cause. -/
inductive Got (α : Type) where
  | ok (s : State) (x : α)
  | wait (s : State)
  | fail (s : State) (t : Trap)

/-- One access after another. -/
def Got.bind {α β : Type} (g : Got α) (f : State → α → Got β) : Got β :=
  match g with
  | .ok s x => f s x
  | .wait s => .wait s
  | .fail s t => .fail s t

/-! ### Homing and frames -/

/-- The XOR of `n` bits of a number from bit `lo`. -/
def parityOf (x lo n : Nat) : Bool := (List.range n).foldl (fun p i => p != bitOf x (lo + i)) false
/-- The home die of a virtual address (R363). -/
def homeDie (va : Nat) : Nat := if parityOf va 16 41 then 1 else 0
/-- The die that holds a device address (R364). -/
def dieOf (pa : Nat) : Nat := if parityOf pa 16 25 then 1 else 0
/-- The first address past device memory (R364). -/
def hostBase : Nat := 2199023255552
/-- The first address of the expander window (R428). -/
def expanderBase : Nat := 70368744177664
/-- The first reserved address (R428). -/
def reservedBase : Nat := 140737488355328

/-- The congruence group of a device address (R415). -/
def groupNo (pa : Nat) : Nat := 2 * bitsOf pa 19 22 + (if parityOf pa 16 3 then 1 else 0)
/-- The frame number pa ÷ 65536 of frame k of a group (R415). -/
def frameOf (g k : Nat) : Nat :=
  8 * (g / 2) + (if (g % 2 + k % 2 + k / 2 % 2) % 2 = 1 then 4 else 0) + k % 4
/-- The package stack that holds the fast slot of a group (R413). -/
def stackOf (g : Nat) : Nat := 4 * (if parityOf g 0 23 then 1 else 0) + bitsOf g 1 2
/-- A list without an element. -/
def without (x : Nat) (l : List Nat) : List Nat := l.filter (· != x)
/-- The permutation that a remap entry encodes: the slots of frames 0 to 3 (R416). -/
def permOf (r : Nat) : List Nat :=
  let p0 := r / 6 % 4
  let l1 := without p0 [0, 1, 2, 3]
  let p1 := l1.getD (r / 2 % 3) 0
  let l2 := without p1 l1
  let p2 := l2.getD (r % 2) 0
  [p0, p1, p2, (without p2 l2).headD 0]
/-- The rank of an element among those of a list. -/
def rankIn (x : Nat) (l : List Nat) : Nat := (l.filter (· < x)).length
/-- The remap entry of a permutation (R416). -/
def permCode (p : List Nat) : Nat :=
  let p0 := p.getD 0 0
  let p1 := p.getD 1 0
  6 * p0 + 2 * rankIn p1 (without p0 [0, 1, 2, 3]) + rankIn (p.getD 2 0) (without p1 (without p0 [0, 1, 2, 3]))
/-- The slot of a group in which the frame of a device address lies. -/
def slotOfPa (d : Die) (pa : Nat) : Nat := (permOf (getAt 0 d.remap (groupNo pa))).getD (bitsOf pa 16 2) 0
/-- The frame of a group that lies in its fast slot. -/
def fastFrame (d : Die) (g : Nat) : Nat := (permOf (getAt 0 d.remap g)).idxOf 0

/-! ### Causes of the die -/

/-- WHERE of a cause that arises on a die and at no core (R173). -/
def dieLoc (die : Nat) : Nat := locOf die 0 15 255
/-- The record of a cause that no block raises (R173). GRID has no "none" value; it is 0 (DESIGN CHOICE, log 114). -/
def dieRec (die : Nat) (t : Trap) : FaultRec :=
  { cause := t.code, flags := 0, info := t.info, loc := dieLoc die, block := 4294967295, pc := 0xFFFFFFFF,
    lanes := 0, va := t.va, grid := 0 }
/-- A context-fatal cause for a context, raised on a die. -/
def State.fatalDie (s : State) (die slot : Nat) (t : Trap) : State := s.fatal slot (dieRec die t)
/-- The slot of the context that owns an ASID. -/
def State.slotOfAsid (s : State) (asid : Nat) : Option Nat :=
  (s.ctxs.find? fun p => p.2.asid = asid && p.2.state ≠ .free).map (·.1)
/-- A context-fatal cause for the context whose ASID tags a line. -/
def State.fatalAsid (s : State) (die asid : Nat) (t : Trap) : State :=
  match s.slotOfAsid asid with
  | none => s
  | some k => s.fatalDie die k t
/-- A context-fatal cause for every live context of the package. -/
def State.fatalAll (s : State) (die : Nat) (t : Trap) : State :=
  (s.ctxs.filter fun p => p.2.state = .live).foldl (fun s p => s.fatalDie die p.1 t) s

/-! ### Physical memory (R413 to R422) -/

/-- The word of the remap table that holds a group's entry (R416). -/
def remapWord (pa : Nat) : Nat := groupNo pa / 2 / 12
/-- INFO[5:0] of a cause of device memory (R425): the stack, or the capacity channel and bit 5. -/
def memUnit (s : State) (pa : Nat) : Nat :=
  if slotOfPa (s.die (dieOf pa)) pa = 0 then stackOf (groupNo pa) else 32 + Config.channelOf pa % 32
/-- The VA of the line of an address, which the causes of device memory name (R425). -/
def lineVa (va : Nat) : Nat := va - va % 128
/-- The cause of consumed poison at a device address (R421, R425). -/
def poisonTrap (s : State) (pa va : Nat) : Trap :=
  { code := if slotOfPa (s.die (dieOf pa)) pa = 0 then 0xC0 else 0xC2, info := memUnit s pa, va := lineVa va }
/-- No context: the number that stands for the ASID of an access of none (R178). -/
def contextless : Nat := 65536
/-- A noted cause of a die's memory for the ASID of the access, or for none (R178). -/
def State.noteMem (s : State) (die code asid info : Nat) : State := s.note die code (dieLoc die) (min asid noAsid) info
/-- The log of a die and the messages to the host as another state has them. -/
def State.takeNotes (s t : State) (die : Nat) : State :=
  let d := t.die die
  { s.setDie die { s.die die with log := d.log, evtail := d.evtail, evread := d.evread } with
    host := { s.host with sent := t.host.sent, pending := t.host.pending } }
/-- The number of the row in which a device address lies: its unit and the row there (R423). -/
def rowNo (s : State) (pa : Nat) : Nat := 4294967296 * memUnit s pa + Config.rowOf pa
/-- Accesses activate the rows of device addresses one after another (R423; every access counts as an activation, log 59): the
counters after, and the addresses whose row had a saturated counter, which a targeted refresh cleared first. -/
def activations (s : State) : List Nat → Sparse Nat → Sparse Nat × List Nat
  | [], c => (c, [])
  | pa :: rest, c =>
    let n := getAt 0 c (rowNo s pa)
    let full := n ≠ 0 && decide (Config.rowMax ≤ n)
    let next := activations s rest (setAt 0 c (rowNo s pa) (if full then 1 else n + 1))
    (next.1, if full then pa :: next.2 else next.2)
/-- The rows of device addresses of a die are activated (R423): a refresh that comes before an activation notes cause 0xC4. -/
def State.activate (s : State) (die : Nat) (pas : List Nat) : State :=
  let r := activations s pas (s.die die).rowcnt
  let noted := r.2.foldl (fun t pa => t.noteMem die 0xC4 contextless (memUnit s pa)) s
  let s := s.takeNotes noted die
  s.setDie die { s.die die with rowcnt := r.1 }
/-- The stack of the fast slot serves no access while it retrains (R424). -/
def retrainingAt (s : State) (pa : Nat) : Bool :=
  let d := s.die (dieOf pa)
  slotOfPa d pa = 0 && getAt false d.retraining (stackOf (groupNo pa))
/-- The remap table's word for an address: an uncorrectable error fails the access, a correctable one is corrected and
noted (R421, R425). -/
def remapCheck (s : State) (asid pa va : Nat) : Got Unit :=
  let die := dieOf pa
  let d := s.die die
  match getAt 0 d.rerr (remapWord pa) with
  | 0 => .ok s ()
  | 1 => .ok ((s.setDie die { d with rerr := setAt 0 d.rerr (remapWord pa) 0 }).noteMem die 0xC3 asid (64 + memUnit s pa)) ()
  | _ => .fail s { code := 0xC2, info := 64 + memUnit s pa, va := lineVa va }
/-- The poisoned words of a line of device memory as bits. -/
def poisonAt (s : State) (pa : Nat) : BitVec 4 :=
  (List.range 4).foldl (fun m w => if getAt false s.poison (pa / 32 + w) then m ||| (1#4 <<< w) else m) 0
/-- The bytes of a line of device memory by offset. -/
def lineBytes (m : Sparse Byte) (pa : Nat) : Sparse Byte :=
  (List.range 128).filterMap fun i => let x := getByte m (pa + i); if x = 0 then none else some (i, x)
/-- Correctable errors of the ECC words from `w` are corrected, each noted (R421). -/
def eccClean (s : State) (asid w n : Nat) : State :=
  let hit := (List.range n).filter fun i => getAt false s.ecc (w + i)
  if hit.isEmpty then s
  else
    let die := dieOf (32 * w)
    hit.foldl (fun s i => s.noteMem die 0xC3 asid (memUnit s (32 * (w + i))))
      { s with ecc := hit.foldl (fun t i => setAt false t (w + i) false) s.ecc }

/-- A fill or a write-back of a frame counts and sets its accessed bit (R417, R419); a fill may schedule a swap. -/
def State.touch (s : State) (pa : Nat) (fill : Bool) : State :=
  let die := dieOf pa
  let d := s.die die
  let f := pa / 65536
  let g := groupNo pa
  let c := min 255 (getAt 0 d.cnt f + 1)
  let d := { d with cnt := setAt 0 d.cnt f c, abit := setAt false d.abit f true }
  let fast := frameOf g (fastFrame d g)
  let go := fill && d.swapOn && slotOfPa d pa ≠ 0 && decide (d.minc ≤ c) && decide (getAt 0 d.cnt fast + d.thr ≤ c)
    && !getAt false d.pin g && (look d.swaps g).isNone && decide (d.swaps.length < 16)
  s.setDie die (if go then { d with swaps := put d.swaps g ⟨g, bitsOf pa 16 2, false⟩ } else d)

/-- A line of device memory is read by its die's memory controller (R421): bytes and poison. -/
def dramRead (s : State) (asid pa va : Nat) : Got (Sparse Byte × BitVec 4) :=
  if retrainingAt s pa then .wait s
  else (remapCheck s asid pa va).bind fun s _ =>
    .ok (eccClean (s.activate (dieOf pa) [pa]) asid (pa / 32) 4) (lineBytes s.dmem pa, poisonAt s pa)
/-- Bytes of device memory are read and consumed by physical address, all in one ECC word (R368, R421). -/
def physRead (s : State) (asid pa va n : Nat) : Got Nat :=
  if retrainingAt s pa then .wait s
  else (remapCheck s asid pa va).bind fun s _ =>
    let s := s.activate (dieOf pa) [pa]
    if getAt false s.poison (pa / 32) then .fail s (poisonTrap s pa va)
    else .ok (eccClean s asid (pa / 32) 1) (readLE s.dmem pa n)

/-- Bytes of one ECC word are written: a whole word replaces it and clears its poison, a part of a poisoned word is not
written and raises cause 0xC1 (R422). -/
def dramWord (s : State) (asid pa va : Nat) (bs : List (Nat × Byte)) (w : Nat) : State :=
  let mine := bs.filter fun p => p.1 / 32 = w
  let k := pa / 32 + w
  let put (s : State) : State := { s with dmem := mine.foldl (fun m p => setByte m (pa + p.1) p.2) s.dmem }
  if mine.isEmpty then s
  else if mine.length = 32 then
    { put s with poison := setAt false s.poison k false, ecc := setAt false s.ecc k false }
  else if getAt false s.poison k then
    s.fatalAsid (dieOf pa) asid { code := 0xC1, info := memUnit s pa, va := lineVa va }
  else put (eccClean s asid k 1)

/-- Bytes of one line of device memory are written, by offset; an uncorrectable error of the remap entry ends the context
that the line belongs to (R425). -/
def dramWrite (s : State) (asid pa va : Nat) (bs : List (Nat × Byte)) : State :=
  match remapCheck s asid pa va with
  | .ok s _ => [0, 1, 2, 3].foldl (fun s w => dramWord s asid pa va bs w) (s.activate (dieOf pa) [pa])
  | .wait s => s
  | .fail s t => s.fatalAsid (dieOf pa) asid t

/-! ### Translation (R368 to R371) -/

/-- A translation fault (R371): its reason and level. -/
def walkFault (va : Nat) (fetch : Bool) (reason lvl : Nat) : Trap :=
  { code := 0xA3, info := 256 * reason + 4096 * lvl + (if fetch then 64 else 0), va := va }
/-- The index of a virtual address at a level (R368). -/
def walkIndex (va lvl : Nat) : Nat := if lvl = 4 then bitsOf va 16 5 else bitsOf va (48 - 9 * lvl) 9
/-- The size of a page whose leaf stands at a level (R368). -/
def pageSize (lvl : Nat) : Nat := if lvl = 4 then 65536 else if lvl = 3 then 2097152 else 1073741824
/-- The walker's cached copy of an entry, with the errors of its storage (R383). -/
def walkCached (s : State) (die asid a : Nat) : State × Option Nat :=
  let d := s.die die
  let mine (e : WalkEntry) : Bool := e.asid = asid && e.addr = a
  match d.walker.find? mine with
  | none => (s, none)
  | some e =>
    if e.err = 0 then (s, some e.bits)
    else
      let s := (s.setDie die { d with walker := (d.walker.filter fun f => !(mine f && e.err ≠ 1)).map fun f => if mine f then { f with err := 0 } else f }).noteMem
        die 0xAD asid 5
      (s, if e.err = 1 then some e.bits else none)
/-- A page-table entry: the walker's copy, or the one in device memory, read by physical address; poison in it is consumed
(R368, R421). -/
def walkEntry (s : State) (asid a va : Nat) : Got Nat :=
  match walkCached s (homeDie va) asid a with
  | (s, some e) => .ok s e
  | (s, none) => physRead s asid a va 8
/-- The walker caches a non-leaf entry. -/
def State.cacheWalk (s : State) (die asid a e : Nat) : State :=
  let d := s.die die
  if d.walker.any fun f => f.asid = asid && f.addr = a then s
  else s.setDie die { d with walker := d.walker ++ [{ asid := asid, addr := a, bits := e }] }
/-- ADDR of an entry (R369). -/
def entryAddr (e : Nat) : Nat := 256 * bitsOf e 8 40
/-- A leaf breaks a check of R370. -/
def leafBad (e lvl va : Nat) : Bool :=
  let pa := entryAddr e
  let sh := bitOf e 7
  lvl < 2 || bitsOf e 58 6 ≠ 0 || (!sh && bitsOf e 48 10 ≠ 0)
    || pa % (if sh then 4 * pageSize lvl else pageSize lvl) ≠ 0 || bitsOf e 5 2 = 3
    || (decide (bitsOf e 5 2 < 2) && decide (hostBase ≤ pa))
    || (decide (pa < hostBase) && dieOf (pa + va % pageSize lvl) ≠ homeDie va)
/-- The TLB entry of a leaf. -/
def leafEntry (asid e lvl va : Nat) : TlbEntry :=
  { asid := asid, va := va - va % pageSize lvl, size := pageSize lvl, pa := entryAddr e, cc := bitsOf e 5 2,
    sh := bitOf e 7, pti := bitsOf e 48 10, pr := bitOf e 2, pw := bitOf e 3, px := bitOf e 4, err := 0 }
/-- The walk of R370 from a table of a level. -/
def walkFrom (asid va : Nat) (fetch : Bool) : List Nat → Nat → State → Got TlbEntry
  | [], _, s => .fail s (walkFault va fetch 2 4)
  | lvl :: rest, t, s =>
    let a := t + 8 * walkIndex va lvl
    (walkEntry s asid a va).bind fun s e =>
      if !bitOf e 0 then .fail s (walkFault va fetch 1 lvl)
      else if !bitOf e 1 then
        let n := entryAddr e
        if lvl = 4 || bitsOf e 48 16 ≠ 0 || bitsOf e 2 6 ≠ 0 || (lvl < 3 && n % 4096 ≠ 0) || hostBase ≤ n then
          .fail s (walkFault va fetch 2 lvl)
        else walkFrom asid va fetch rest n (s.cacheWalk (homeDie va) asid a e)
      else if leafBad e lvl va then .fail s (walkFault va fetch 2 lvl)
      else .ok s (leafEntry asid e lvl va)
/-- A TLB entry covers an address of an ASID. -/
def TlbEntry.covers (e : TlbEntry) (asid va : Nat) : Bool :=
  e.asid = asid && decide (e.va ≤ va) && decide (va < e.va + e.size)
/-- The home die's translation of an address: the TLB's entry, else a walk whose result the TLB takes (R370). An error
in a TLB entry is corrected, or drops the entry, and is noted (R383). -/
def translate (s : State) (slot va : Nat) (fetch : Bool) : Got TlbEntry :=
  let asid := (s.ctx slot).asid
  let die := homeDie va
  if va / 2 ^ 57 ≠ 0 then .fail s (walkFault va fetch 4 0)
  else
    let d := s.die die
    let bad := d.tlb.filter fun e => e.covers asid va && e.err ≠ 0
    let s := if bad.isEmpty then s
      else (s.setDie die { d with tlb := (d.tlb.filter fun e => !(e.covers asid va && e.err = 2)).map fun e => if e.covers asid va then { e with err := 0 } else e }).noteMem die 0xAD asid 4
    match (s.die die).tlb.find? fun e => e.covers asid va with
    | some e => .ok s e
    | none =>
      if (s.ctx slot).root = 0 then .fail s (walkFault va fetch 3 0)
      else (walkFrom asid va fetch [0, 1, 2, 3, 4] (s.ctx slot).root s).bind fun s e =>
        .ok (s.setDie die { s.die die with tlb := (s.die die).tlb ++ [e] }) e

/-! ### Resolution of an access -/

/-- How an access uses the sides of a shadowed page (R399): the visible one, the invisible one, the invisible one of a
page that must be shadowed, or no shadowed page at all. -/
inductive Shadow where
  | visible | hidden | mustHide | forbid
  deriving DecidableEq, Repr

/-- An access of a context from a die: its kinds, whether it acts at package scope (R410), its scope if it is a scoped
operation (R375), the width and operation of a far atomic, whether it needs class SC (R393) or DC (R450), its use of sides and
the sides it has taken (R400), and who waits for its host requests. -/
structure Acc where
  die : Nat
  slot : Nat
  rd : Bool := false
  wr : Bool := false
  px : Bool := false
  pkg : Bool := false
  scope : Option Nat := none
  atom : Option (Nat × Nat) := none
  sc : Bool := false
  dc : Bool := false
  use : Shadow := .visible
  sides : List (Nat × Bool) := []
  owner : Nat := 0
  deriving DecidableEq, Repr

/-- Where an access lands: virtual and physical address, home, class and side. -/
structure Spot where
  va : Nat
  pa : Nat
  home : Nat
  cc : Nat
  side : Bool
  sh : Bool
  pti : Nat
  deriving DecidableEq, Repr

/-- The scopes a class permits (R374). -/
def scopeOk (cc scope : Nat) : Bool :=
  match cc with
  | 0 => scope ≤ 5
  | 1 => scope ≤ 6 || (9 ≤ scope && scope ≤ 11)
  | _ => true
/-- The check of a scoped operation against a page's class (R375, R393, R429): its reason. -/
def classFault (a : Acc) (home : Nat) (cc pa : Nat) : Option Nat :=
  match a.scope with
  | none => none
  | some sc =>
    if !scopeOk cc sc || (a.sc && cc ≠ 2) || (a.dc && cc ≠ 1) then some 1
    else match a.atom with
      | none => none
      | some (w, op) =>
        if cc = 2 && w = 2 || decide (expanderBase ≤ pa) && decide (pa < reservedBase) && !([0, 6, 7].contains op) then some 2
        else if cc = 0 && home ≠ a.die then some 3 else none
/-- The shadowing rules of R399: their reason. -/
def shadowFault (a : Acc) (e : TlbEntry) : Option Nat :=
  if e.sh && e.cc = 2 then some 5
  else if e.sh && a.use = .forbid then some 4
  else if !e.sh && a.use = .mustHide then some 3 else none
/-- The kinds of an access that a page forbids, as INFO of cause 0xA4 (R384). -/
def permFault (a : Acc) (e : TlbEntry) : Nat :=
  if (a.rd && !e.pr) || (a.wr && !e.pw) || (a.px && !e.px) then
    (if a.rd then 1 else 0) + (if a.wr then 2 else 0) + (if a.px then 4 else 0)
  else 0
/-- The side an access takes of an entry of the publish table: the one it took before, else the one of now (R400). -/
def takeSide (s : State) (a : Acc) (pti : Nat) : Bool × Acc :=
  match look a.sides pti with
  | some x => (x, a)
  | none =>
    let v := getAt false (s.ctx a.slot).publ pti
    let x := if a.use = .hidden || a.use = .mustHide then !v else v
    (x, { a with sides := a.sides ++ [(pti, x)] })
/-- The home die resolves an address for an access: translation, permission, class, shadowing, window (R370, R375,
R399, R432). -/
def resolve (s : State) (a : Acc) (va : Nat) : Got (Spot × Acc) :=
  (translate s a.slot va a.px).bind fun s e =>
    let home := homeDie va
    let pa := e.pa + (va - e.va)
    if permFault a e ≠ 0 then .fail s { code := 0xA4, info := permFault a e, va := va }
    else match classFault a home e.cc pa with
      | some r => .fail s { code := 0xA5, info := r + 16 * e.cc, va := va }
      | none =>
        match shadowFault a e with
        | some r => .fail s { code := 0xA6, info := r, va := va }
        | none =>
          if reservedBase ≤ pa then .fail s { code := 0xC6, info := 4, va := va - va % 128 }
          else
            let (side, a) := if e.sh then takeSide s a e.pti else (false, a)
            .ok s (⟨va, pa + (if side then 3 * e.size else 0), home, e.cc, side, e.sh, e.pti⟩, a)

end Sys2Proof.Machine
end

