-- ==== Sys2Proof/Machine/Memory.lean ====
section
/-! DEFINITION. Global memory (R365 to R383, R407 to R412, R428 to R432): cached lines, write-back, write-through over the
die-to-die interface, lines of the host window, requests to host space, and reads, writes and atomic operations
of any length by virtual address. -/

namespace Sys2Proof.Machine

/-! ### Lines -/

/-- A byte by its offset is written: a dirty byte of the line. -/
def Line.putByte (l : Line) (p : Nat × Byte) : Line :=
  { l with bytes := setByte l.bytes p.1 p.2, dirty := l.dirty ||| (1#128 <<< p.1) }
/-- Some of the bytes fall into a poisoned ECC word without covering it (R422). -/
def Line.partPoison (l : Line) (bs : List (Nat × Byte)) : List Nat :=
  (List.range 4).filter fun w =>
    let n := (bs.filter fun p => p.1 / 32 = w).length
    l.poison.getLsbD w && decide (0 < n) && decide (n < 32)
/-- Bytes are written into a line; a word wholly written loses its poison. Words in `skip` are not written. -/
def Line.put (l : Line) (bs : List (Nat × Byte)) (skip : List Nat) : Line :=
  let l1 := (bs.filter fun p => !skip.contains (p.1 / 32)).foldl Line.putByte l
  { l1 with poison := (List.range 4).foldl (fun m w => if (bs.filter fun p => p.1 / 32 = w).length = 32 then m &&& ~~~(1#4 <<< w) else m) l1.poison }
/-- The dirty bytes of a line by offset. -/
def Line.dirtyBytes (l : Line) : List (Nat × Byte) :=
  ((List.range 128).filter fun i => l.dirty.getLsbD i).map fun i => (i, getByte l.bytes i)
/-- Some of `n` bytes from an offset are poisoned. -/
def Line.poisoned (l : Line) (off n : Nat) : Bool :=
  (List.range 4).any fun w => l.poison.getLsbD w && rangesMeet (32 * w) 32 off n
/-- The line is the one of a tag (R365). -/
def Line.tagged (asid va : Nat) (side : Bool) (l : Line) : Bool := l.asid = asid && l.va = va && l.side = side

/-- The lines of a die's L2 or RDC. -/
def State.cache (s : State) (die : Nat) (rdc : Bool) : List Line := if rdc then (s.die die).rdc else (s.die die).l2
/-- The state with a die's L2 or RDC replaced. -/
def State.setCache (s : State) (die : Nat) (rdc : Bool) (ls : List Line) : State :=
  s.setDie die (if rdc then { s.die die with rdc := ls } else { s.die die with l2 := ls })
/-- A line leaves a cache. -/
def State.dropLine (s : State) (die : Nat) (rdc : Bool) (l : Line) : State :=
  s.setCache die rdc ((s.cache die rdc).filter fun k => !k.tagged l.asid l.va l.side)
/-- A line enters a cache or takes the place of itself. -/
def State.putLine (s : State) (die : Nat) (rdc : Bool) (l : Line) : State :=
  s.setCache die rdc (((s.cache die rdc).filter fun k => !k.tagged l.asid l.va l.side) ++ [l])

/-- A line that a cache reads or writes back, with the errors of its storage (R383): what is left of it. -/
def State.meetLine (s : State) (die : Nat) (rdc : Bool) (l : Line) : State × Option Line :=
  let k := if rdc then 2 else 0
  match l.err with
  | 0 => (s, some l)
  | 1 =>
    let l' := { l with err := 0 }
    ((s.putLine die rdc l').noteMem die 0xAD l.asid k, some l')
  | 4 =>
    let l' := { l with err := 0 }
    ((s.putLine die rdc l').noteMem die 0xAD l.asid (k + 1), some l')
  | 2 =>
    let s' := s.dropLine die rdc l
    if l.dirty = 0 && !l.locked then (s'.noteMem die 0xAD l.asid (k + 256), none)
    else (s'.fatalAsid die l.asid { code := 0xAC, info := k, va := 128 * l.va }, none)
  | _ => ((s.dropLine die rdc l).fatalAll die { code := 0xAC, info := k + 1 }, none)
/-- The lookup of a line. -/
def State.lookLine (s : State) (die : Nat) (rdc : Bool) (asid va : Nat) (side : Bool) : State × Option Line :=
  match (s.cache die rdc).find? (Line.tagged asid va side) with
  | none => (s, none)
  | some l => s.meetLine die rdc l

/-- The dirty bytes of a line reach device memory, or host memory (R365, R417, R429). -/
def State.writeBack (s : State) (l : Line) : State :=
  if l.dirty = 0 then s
  else if hostBase ≤ l.pa then
    { s with hmem := l.dirtyBytes.foldl (fun m p => setByte m (l.pa - hostBase + p.1) p.2) s.hmem }
  else dramWrite (s.touch l.pa false) l.asid l.pa (128 * l.va) l.dirtyBytes

/-- The dirty bytes of an RDC line set out on the die-to-die interface (R408). -/
def State.sendThrough (s : State) (src : Nat) (l : Line) : State :=
  if l.dirty = 0 then s
  else
    let (k, s) := s.take
    { s with d2d := put s.d2d k { src := src, asid := l.asid, va := l.va, side := l.side, pa := l.pa,
                                  cc := l.cc, bytes := l.dirtyBytes, acked := false } }

/-- A line leaves a cache to make room: dirty bytes are written back, or written through from an RDC (R408). A write-back
to a stack in retraining waits (R424). -/
def State.evict (s : State) (die : Nat) (rdc : Bool) (l : Line) : Got Unit :=
  match s.meetLine die rdc l with
  | (s, none) => .ok s ()
  | (s, some l) =>
    if rdc && decide (l.pa < hostBase) then .ok ((s.sendThrough die l).dropLine die rdc l) ()
    else if !rdc && l.dirty ≠ 0 && retrainingAt s l.pa then .wait s
    else .ok ((s.writeBack l).dropLine die rdc l) ()

/-- Room for one more line in the set of a line (R365): 65,536 sets in L2, 16,384 in the RDC. -/
def State.makeRoom (s : State) (die : Nat) (rdc : Bool) (va : Nat) : Got Unit :=
  let n := if rdc then 16384 else 65536
  let mates := (s.cache die rdc).filter fun l => Config.setOf l.va % n = Config.setOf va % n
  if mates.length < 16 then .ok s ()
  else match mates.find? fun l => !l.locked with
    | none => .ok s ()
    | some l => s.evict die rdc l

/-! ### The home copy (R376, R377, R408) -/

/-- The home L2's copy of a line, filled from device memory on a miss (R365, R417). A locked line that a last-use read has
dropped is filled again with its lock (R382). -/
def homeLine (s : State) (asid va : Nat) (side : Bool) (pa cc : Nat) : Got Line :=
  let die := dieOf pa
  match s.lookLine die false asid va side with
  | (s, some l) => .ok s l
  | (s, none) =>
    (dramRead s asid pa (128 * va)).bind fun s d =>
      let pin := (s.die die).relock.any (· = (asid, va, side))
      let l : Line := { asid := asid, va := va, side := side, pa := pa, bytes := d.1, dirty := 0,
                        poison := d.2, cc := cc, locked := pin, err := 0 }
      ((s.touch pa true).makeRoom die false va).bind fun s _ =>
        let d := s.die die
        .ok ((s.setDie die { d with relock := d.relock.filter (· ≠ (asid, va, side)) }).putLine die false l) l

/-- The copies of a system-coherent line of device memory that the other die and the host hold are snooped before a write
of its home counts as performed (R429): a clean copy goes, a dirty one takes the bytes that it has not written itself. -/
def State.snoopCopies (s : State) (pa : Nat) (bs : List (Nat × Byte)) : State :=
  let other := 1 - dieOf pa
  let s := ((s.cache other true).filter fun l => l.pa = pa && l.cc = 2).foldl (fun s l =>
    match s.meetLine other true l with
    | (s, none) => s
    | (s, some l) =>
      if l.dirty = 0 then s.dropLine other true l
      else s.putLine other true { l with bytes := (bs.filter fun p => !l.dirty.getLsbD p.1).foldl (fun m p => setByte m p.1 p.2) l.bytes }) s
  { s with host := { s.host with copies := s.host.copies.filter (· ≠ pa) } }

/-- Bytes are written at the home L2; a part of a poisoned word is not written and raises cause 0xC1 (R422). -/
def homeWrite (s : State) (asid va : Nat) (side : Bool) (pa cc : Nat) (bs : List (Nat × Byte)) : Got Unit :=
  (homeLine s asid va side pa cc).bind fun s l =>
    let skip := l.partPoison bs
    let s := s.putLine (dieOf pa) false (l.put bs skip)
    let s := if cc = 2 then s.snoopCopies pa (bs.filter fun p => !skip.contains (p.1 / 32)) else s
    .ok (if skip.isEmpty then s
      else s.fatalAsid (dieOf pa) asid { code := 0xC1, info := memUnit s pa, va := 128 * va }) ()

/-- A write-through arrives at its home and is performed there (R407); a failure of the memory ends its context. -/
def deliver (s : State) (k : Nat) (m : D2d) : Got Unit :=
  match homeWrite s m.asid m.va m.side m.pa m.cc m.bytes with
  | .ok s _ => .ok { s with d2d := put s.d2d k { m with acked := true } } ()
  | .wait s => .wait s
  | .fail s t => .ok ({ s with d2d := dropAt s.d2d k }.fatalAsid (dieOf m.pa) m.asid t) ()

/-- The write-throughs of a line that are under way from a die, oldest first. -/
def inFlight (s : State) (src asid va : Nat) (side : Bool) : List (Nat × D2d) :=
  s.d2d.filter fun p => p.2.src = src && p.2.asid = asid && p.2.va = va && p.2.side = side && !p.2.acked && !p.2.ask

/-- Before an access at package scope from the other die: what that die has written to the line is sent to the home and
awaited, and its copy goes (R410). -/
def syncLine (s : State) (src asid va : Nat) (side : Bool) : Got Unit :=
  let s := match s.lookLine src true asid va side with
    | (s, none) => s
    | (s, some l) => (s.sendThrough src l).dropLine src true l
  if (inFlight s src asid va side).isEmpty then .ok s () else .wait s

/-! ### Host space (R428 to R432) -/

/-- A request to host space that a waiter has already made. -/
def findReq (s : State) (a : Acc) (pa : Nat) (kind : HostKind) : Option HostReq :=
  (s.hostReqs.find? fun p => p.2.die = a.die && p.2.slot = a.slot && p.2.pa = pa && p.2.kind = kind
    && (kind = .line || p.2.owner = a.owner)).map (·.2)
/-- A request goes out, unless the waiter has made it before. -/
def askHost (s : State) (a : Acc) (va pa : Nat) (kind : HostKind) : State :=
  if (findReq s a pa kind).isSome then s
  else
    let (k, s) := s.take
    { s with hostReqs := put s.hostReqs k { die := a.die, slot := a.slot, asid := (s.ctx a.slot).asid,
                                            va := va, pa := pa, kind := kind, done := none, owner := a.owner,
                                            since := s.clock } }
/-- The completed requests of a waiter go once its access is done. -/
def State.forget (s : State) (owner : Nat) : State :=
  { s with hostReqs := s.hostReqs.filter fun p => !(p.2.owner = owner && p.2.done.isSome),
           d2d := s.d2d.filter fun p => !(p.2.ask && p.2.owner = owner && p.2.acked) }

/-- A request of a waiter has been answered, by the host or by the other die. -/
def State.answered (s : State) (owner : Nat) : Bool :=
  s.hostReqs.any (fun p => p.2.owner = owner && p.2.done.isSome)
    || s.d2d.any fun p => p.2.ask && p.2.owner = owner && p.2.acked

/-- The outcome of a step that waits: it is one when a request or a write-through has set out, which takes a fresh key. -/
def ifAsked (s s' : State) (m : String) : Out := if s'.fresh = s.fresh then notEnabled m else .next s'

/-! ### Requests to the other die (R407) -/

/-- The request of a waiter for a line of the other die. -/
def findAsk (s : State) (a : Acc) (p : Spot) : Option (Nat × D2d) :=
  s.d2d.find? fun q => q.2.ask && q.2.src = a.die && q.2.asid = (s.ctx a.slot).asid && q.2.va = p.va / 128
    && q.2.side = p.side && q.2.owner = a.owner
/-- A request sets out for the line. -/
def askDie (s : State) (a : Acc) (p : Spot) : State :=
  let (k, s) := s.take
  { s with d2d := put s.d2d k { src := a.die, asid := (s.ctx a.slot).asid, va := p.va / 128, side := p.side,
                                pa := p.pa - p.pa % 128, cc := p.cc, bytes := [], acked := false, ask := true,
                                owner := a.owner } }
/-- The access of a die to a line of the other die waits until its request has crossed, behind what the die has written to
the line before, and the fill has come back (R407). -/
def crossed (s : State) (a : Acc) (p : Spot) : Got Unit :=
  if s.d2dDown then .wait s
  else match findAsk s a p with
    | none => .wait (askDie s a p)
    | some (k, m) =>
      if !m.acked then .wait s
      else if (inFlight s a.die m.asid m.va m.side).isEmpty then .ok s ()
      else .wait (askDie { s with d2d := dropAt s.d2d k } a p)
/-- The request of a waiter for a line has been answered. -/
def State.endAsk (s : State) (a : Acc) (p : Spot) : State :=
  match findAsk s a p with
  | none => s
  | some (k, _) => { s with d2d := dropAt s.d2d k }

/-! ### One line -/

/-- An access acts on the home copy: from the home die, or at package scope (R376, R410). -/
def atHome (a : Acc) (p : Spot) : Bool := p.home = a.die || a.pkg
/-- An access that acts on the home copy of the other die has reached it (R407, R410). -/
def reachHome (s : State) (a : Acc) (p : Spot) : Got Unit :=
  if p.home = a.die then .ok s ()
  else (syncLine s a.die (s.ctx a.slot).asid (p.va / 128) p.side).bind fun s _ => crossed s a p
/-- The line an access reads: the home copy, the copy in its die's RDC (filled from the home L2), or the host line its
die owns (R365, R410, R429). -/
def readLine (s : State) (a : Acc) (p : Spot) : Got Line :=
  let asid := (s.ctx a.slot).asid
  let va := p.va / 128
  let pa := p.pa - p.pa % 128
  if hostBase ≤ p.pa then
    match s.lookLine a.die true asid va p.side with
    | (s, some l) => if a.wr && !l.owned then .wait (askHost s a (128 * va) pa .line) else .ok s l
    | (s, none) => .wait (askHost s a (128 * va) pa .line)
  else if atHome a p then (reachHome s a p).bind fun s _ => homeLine s asid va p.side pa p.cc
  else
    match s.lookLine a.die true asid va p.side with
    | (s, some l) => .ok s l
    | (s, none) =>
      (crossed s a p).bind fun s _ =>
        (homeLine s asid va p.side pa p.cc).bind fun s l =>
          let c := { l with dirty := 0, locked := false }
          (s.makeRoom a.die true va).bind fun s _ => .ok ((s.endAsk a p).putLine a.die true c) c

/-- Bytes are written into a line: at its home, or in the RDC of the die that writes (R376, R410). -/
def writeLine (s : State) (a : Acc) (p : Spot) (bs : List Byte) : Got Unit :=
  let off := p.va % 128
  let w := (List.range bs.length).zip bs |>.map fun q => (off + q.1, q.2)
  let asid := (s.ctx a.slot).asid
  if p.pa < hostBase && atHome a p then
    (reachHome s a p).bind fun s _ => homeWrite s asid (p.va / 128) p.side (p.pa - p.pa % 128) p.cc w
  else (readLine s a p).bind fun s l => .ok (s.putLine a.die true (l.put w [])) ()

/-! ### Accesses of any length -/

/-- A part of an access that lies in one line: its address, its length, and the bytes a write stores. -/
structure Piece where
  va : Nat
  n : Nat
  bytes : List Byte
  deriving DecidableEq, Repr

/-- The parts of an access. -/
def piecesOf : Nat → Nat → Nat → List Byte → List Piece
  | 0, _, _, _ => []
  | f + 1, va, n, bs =>
    if n = 0 then []
    else
      let k := min n (128 - va % 128)
      ⟨va, k, bs.take k⟩ :: piecesOf f (va + k) (n - k) (bs.drop k)
/-- The parts of a read or write of `n` bytes. -/
def pieces (va n : Nat) (bs : List Byte) : List Piece := piecesOf (n / 128 + 2) va n bs

/-- A part lies in the expander window, which is never cached (R429). -/
def Spot.expander (p : Spot) : Bool := decide (expanderBase ≤ p.pa)
/-- The request of a part of an expander access. -/
def expKind (q : Piece) : HostKind := if q.bytes.isEmpty then .read q.n else .write q.bytes
/-- A part is made ready: its line is present, or its expander request has completed; else it waits. The answer says
whether it is ready. -/
def readyPart (s : State) (a : Acc) (p : Spot) (q : Piece) : Got Bool :=
  if p.expander then
    match findReq s a p.pa (expKind q) with
    | some r => .ok s r.done.isSome
    | none => .ok (askHost s a p.va p.pa (expKind q)) false
  else
    match readLine s a p with
    | .ok s _ => .ok s true
    | .wait s => .ok s false
    | .fail s t => .fail s t
/-- The parts of an access are resolved and made ready, before any takes effect. -/
def readyAll : List Piece → State → Acc → Got (List (Spot × Piece) × Acc × Bool)
  | [], s, a => .ok s ([], a, true)
  | q :: rest, s, a =>
    (resolve s a q.va).bind fun s (p, a) => (readyPart s a p q).bind fun s r =>
      (readyAll rest s a).bind fun s (ps, a, ok) => .ok s ((p, q) :: ps, a, r && ok)
/-- One part is read: poison in its bytes is consumed (R421). -/
def readPart (s : State) (a : Acc) (p : Spot) (q : Piece) : Got (List Byte) :=
  if p.expander then .ok s (((findReq s a p.pa (expKind q)).bind (·.done)).getD [])
  else
    (readLine s a p).bind fun s l =>
      if l.poisoned (p.va % 128) q.n then .fail s (poisonTrap s p.pa p.va)
      else .ok s (readBytes l.bytes (p.va % 128) q.n)
/-- The parts are read. -/
def readParts (a : Acc) : List (Spot × Piece) → State → Got (List Byte)
  | [], s => .ok s []
  | (p, q) :: rest, s =>
    (readPart s a p q).bind fun s bs => (readParts a rest s).bind fun s more => .ok s (bs ++ more)
/-- The parts are written. -/
def writeParts (a : Acc) : List (Spot × Piece) → State → Got Unit
  | [], s => .ok s ()
  | (p, q) :: rest, s =>
    (if p.expander then .ok s () else writeLine s a p q.bytes).bind fun s _ => writeParts a rest s

/-- A read of `n` bytes of global memory: the bytes and the access with the sides it has taken. The completed requests
of the waiter stay until the work that reads and writes under its name is done (`State.forget`). -/
def State.gread (s : State) (a : Acc) (va n : Nat) : Got (List Byte × Acc) :=
  (readyAll (pieces va n []) s a).bind fun s (ps, a, ok) =>
    if ok then (readParts a ps s).bind fun s bs => .ok s (bs, a) else .wait s
/-- A write of bytes to global memory. -/
def State.gwrite (s : State) (a : Acc) (va : Nat) (bs : List Byte) : Got Acc :=
  (readyAll (pieces va bs.length bs) s a).bind fun s (ps, a, ok) =>
    if ok then (writeParts a ps s).bind fun s _ => .ok s a else .wait s

/-- Several ranges are read, each once all of them are ready: their bytes one after another. -/
def State.greadAll (s : State) (a : Acc) (rs : List (Nat × Nat)) : Got (List Byte × Acc) :=
  (readyAll (rs.flatMap fun r => pieces r.1 r.2 []) s a).bind fun s (ps, a, ok) =>
    if ok then (readParts a ps s).bind fun s bs => .ok s (bs, a) else .wait s
/-- Several ranges are written, none before all of them are ready. -/
def State.gwriteAll (s : State) (a : Acc) (ws : List (Nat × List Byte)) : Got Acc :=
  (readyAll (ws.flatMap fun w => pieces w.1 w.2.length w.2) s a).bind fun s (ps, a, ok) =>
    if ok then (writeParts a ps s).bind fun s _ => .ok s a else .wait s

/-- A read-modify-write at the home of a location, or at the RDC that owns a host line (R377, R403, R429): the old
value. The location lies in one line. -/
def State.gatomic (s : State) (a : Acc) (va n op b c : Nat) (f : Nat → Nat) : Got Nat :=
  (resolve s a va).bind fun s (p, a) =>
    if p.expander then
      match findReq s a p.pa (.atomic op n b c) with
      | some r => match r.done with
        | some bs => .ok s (bytesToNat bs)
        | none => .wait s
      | none => .wait (askHost s a va p.pa (.atomic op n b c))
    else
      (readLine s a p).bind fun s l =>
        if l.poisoned (va % 128) n then .fail s (poisonTrap s p.pa va)
        else
          let old := readLE l.bytes (va % 128) n
          let die := p.home
          let s := if p.pa < hostBase then
              s.setDie die { s.die die with abit := setAt false (s.die die).abit (p.pa / 65536) true }
            else s
          (writeLine s a p (natToBytes n (f old))).bind fun s _ => .ok s old

/-! ### Release and acquire (R408, R409) -/

/-- A line of an RDC that a release writes through: DC, or SC in device memory, of the context. -/
def released (asid : Nat) (l : Line) : Bool :=
  l.asid = asid && l.dirty ≠ 0 && decide (1 ≤ l.cc) && decide (l.pa < hostBase)
/-- The dirty lines of a context in a die's RDC set out to their home (R408), each read with the errors of its storage (R383). -/
def State.writeThrough (s : State) (die asid : Nat) : State :=
  ((s.cache die true).filter (released asid)).foldl
    (fun s l => match s.meetLine die true l with
      | (s, none) => s
      | (s, some l) => (s.sendThrough die l).putLine die true { l with dirty := 0 }) s
/-- Every write-through of a context from a die has been acknowledged. -/
def State.allAcked (s : State) (die asid : Nat) : Bool :=
  !(s.d2d.any fun p => p.2.src = die && p.2.asid = asid && !p.2.ask)
/-- An acquire at package scope or wider (R409): dirty bytes set out, and every DC line of the context goes. -/
def State.selfInvalidate (s : State) (die asid : Nat) : State :=
  let s := s.writeThrough die asid
  s.setCache die true ((s.cache die true).filter fun l => !(l.asid = asid && l.cc = 1 && decide (l.pa < hostBase)))

end Sys2Proof.Machine
end

