-- ==== Sys2Proof/Machine/Control.lean ====
section
/-! DEFINITION. Control flow and the spill stack (R103 to R110), CSRs (R111 to R115), traps, breakpoints and the
return from the trap routine (R116, R117), and the growth and shrinkage of a crew's registers (R24, R25). -/

namespace Sys2Proof.Machine

/-! ### Branches -/

/-- A control instruction completes: a lane of P(c) goes to `f`, every other active lane to the next instruction. -/
def goTo (s : State) (e : Env) (blk : Block) (f : Nat → Word) : Out :=
  let w := e.cw.setPcs e.act fun l => if inMask e.part l then f l else e.next
  .next (finishIssue (s.setBlock e.b (blk.setCrew e.c (Env.issued s w))) e)

/-- The target of shape B: ipc + 2 × the signed offset (R103). -/
def branchTarget (e : Env) (x : BOps) : Word := e.ipc + BitVec.ofInt 32 (2 * signedOf 20 x.off)

/-! ### The spill stack (R104) -/

/-- The thread index of a lane (R104). -/
def Crew.tidOf (w : Crew) (l : Nat) : Nat := getAt 0 w.tid l
/-- The first byte of a lane's spill slot in the spill area (R187). -/
def slotBase (x : Block) (w : Crew) (l : Nat) : Nat := x.r.spill * w.tidOf l
/-- The spill depth D of a lane; a slot of no bytes reads as depth 0. -/
def depthOf (x : Block) (w : Crew) (l : Nat) : Nat := if x.r.spill = 0 then 0 else readLE x.spill (slotBase x w l) 4

/-- Spill words read in the lanes of P(c): an uncorrectable error ends the context with cause 0x4A, a correctable one is
corrected and noted (R199, R200). -/
def spillChecked (s : State) (e : Env) (f : Nat → List Nat) (k : State → Env → Out) : Out :=
  let found := e.blk.memErrors .spill (((lanesOf e.part).flatMap f).map fun a => (a, 4))
  match found.find? (·.hard) with
  | some x => trapAt s e 0x4A (memErrInfo x) e.act
  | none =>
    if found.isEmpty then k s e
    else
      let blk := { e.blk with errs := e.blk.errs.filter fun x => !found.contains x }
      k ((s.setBlock e.b blk).noteErrs blk e.c found) { e with blk := blk }
/-- The block after spill words have been written in the lanes of P(c): a whole word clears its error (R199). -/
def Block.spilled (x : Block) (spill : Sparse Byte) (e : Env) (f : Nat → List Nat) : Block :=
  let ws := (lanesOf e.part).flatMap f
  { x with spill := spill, errs := x.errs.filter fun k => !(k.place = .spill && ws.contains k.num) }

/-- BRA (R103). -/
def execBra (x : BOps) (s : State) : Out := issue s (.bra x) fun s e => goTo s e e.blk fun _ => branchTarget e x

/-- The lanes that have no room for one more return PC (R105). -/
def overrun (e : Env) : Word := maskWhere e.part fun l => 4 + depthOf e.blk e.cw l + 4 > e.blk.r.spill

/-- The spill area after a CALL: each lane of P(c) pushes the return PC (R105). -/
def pushed (e : Env) : Sparse Byte :=
  (lanesOf e.part).foldl (fun m l =>
    let d := depthOf e.blk e.cw l
    let a := slotBase e.blk e.cw l
    writeLE (writeLE m (a + 4 + d) 4 e.next.toNat) a 4 (d + 4)) e.blk.spill

/-- CALL (R105). -/
def execCall (x : BOps) (s : State) : Out :=
  issue s (.call x) fun s e =>
    spillChecked s e (fun l => [slotBase e.blk e.cw l]) fun s e =>
    if overrun e ≠ 0 then trapAt s e 0x0C 0 (overrun e)
    else goTo s e (e.blk.spilled (pushed e) e fun l => [slotBase e.blk e.cw l + 4 + depthOf e.blk e.cw l])
      fun _ => branchTarget e x

/-- BRX (R107). -/
def execBrx (x : R4) (s : State) : Out :=
  issue s (.brx x) fun s e => goTo s e e.blk fun l => e.cw.rv x.a l &&& 0xFFFFFFFE

/-- The lanes with nothing to return to (R106). -/
def atBottom (e : Env) : Word := maskWhere e.part fun l => depthOf e.blk e.cw l = 0

/-- The spill area after a RET. -/
def popped (e : Env) : Sparse Byte :=
  (lanesOf e.part).foldl (fun m l => writeLE m (slotBase e.blk e.cw l) 4 (depthOf e.blk e.cw l - 4)) e.blk.spill

/-- The return PC of a lane: the word below its depth (R106). -/
def returnPc (e : Env) (l : Nat) : Word :=
  BitVec.ofNat 32 (readLE e.blk.spill (slotBase e.blk e.cw l + depthOf e.blk e.cw l) 4)

/-- RET (R106). -/
def execRet (x : R4) (s : State) : Out :=
  issue s (.ret x) fun s e =>
    spillChecked s e (fun l => [slotBase e.blk e.cw l, slotBase e.blk e.cw l + depthOf e.blk e.cw l]) fun s e =>
    if atBottom e ≠ 0 then trapAt s e 0x0D 0 (atBottom e)
    else goTo s e { e.blk with spill := popped e } (returnPc e)

/-- EXIT (R108): the lanes of P(c) leave Live(c), and the crew parks. -/
def execExit (x : R4) (s : State) : Out :=
  issue s (.exit x) fun s e => perCrew s e <|
    let w := e.advance s e.cw
    .next ((s.setBlock e.b (e.blk.setCrew e.c { w with live := w.live &&& ~~~e.part })).park e.b e.c (.exit e.next))

/-- The most recent LAUNCH of a submission queue with a SEQ that the dispatcher has read (R347). -/
def State.latest (s : State) (slot sq seq : Nat) : Option (Nat × Grid) :=
  (s.grids.filter fun p => p.2.slot = slot && p.2.sq = sq && p.2.seq = seq).getLast?
/-- The trigger of a grid holds (R354). -/
def Grid.triggered (g : Grid) : Bool := g.checked && decide (g.r.nblk ≤ g.trig.length)
/-- The condition of a dependency holds (R346, R354). -/
def depHolds (s : State) (slot : Nat) (d : Dep) : Bool :=
  match s.latest slot d.sq d.seq with
  | none => false
  | some p => p.2.complete || (!d.done && p.2.triggered)
/-- A dependency whose condition holds stays met (R354). -/
def State.settleDeps (s : State) : State :=
  let settle (g : Grid) : Grid :=
    { g with deps := g.deps.map fun d => { d with met := d.met || depHolds s g.slot d } }
  { s with grids := s.grids.map fun p => (p.1, settle p.2) }
/-- The block counts as triggered (R109). -/
def State.trigger (s : State) (b : Nat) : State :=
  match s.block b with
  | none => s
  | some x =>
    let s := s.setBlock b { x with triggered := true }
    match s.grid x.grid with
    | none => s
    | some g => (s.setGrid x.grid { g with trig := setAt false g.trig x.index true }).settleDeps

/-- TRIGGER (R109). -/
def execTrigger (x : R4) (s : State) : Out :=
  issue s (.trigger x) fun s e =>
    let s' := s.setBlock e.b (e.blk.setCrew e.c (e.advance s e.cw))
    .next (finishIssue (if e.part = 0 then s' else s'.trigger e.b) e)

/-- NOP (R110). -/
def execNop (x : NOps) (s : State) : Out := issue s (.nop x) fun s e => complete s e {}

/-! ### CSRs -/

/-- The global thread id of a lane (R113). -/
def gtidOf (x : Block) (w : Crew) (l : Nat) : Nat := x.index * 32 * x.r.ncrew + w.tidOf l

/-- The cycle count of a core: the arithmetic clock and the core's own offset (R112, R356). -/
def cycleOf (s : State) (x : Block) : Nat := s.clock + Config.counterOffset (locOf x.die x.cluster x.core 0)

/-- The value of a CSR of scope lane (R112). -/
def csrOfLane (x : Block) (w : Crew) (n l : Nat) : Nat :=
  match n with
  | 0x000 => l
  | 0x003 => gtidOf x w l % 4294967296
  | 0x004 => gtidOf x w l / 4294967296 % 65536
  | 0x009 => (w.pcOf l).toNat
  | _ => depthOf x w l

/-- The teams of a crew as bits (R112). -/
def teamBits (x : Block) (c : Nat) : Nat :=
  (List.range 8).foldr (fun k n => (if (x.teams.getD k {}).members.getLsbD c then 1 else 0) + 2 * n) 0

/-- The value of a CSR of scope crew (R112). -/
def csrOfCrew (s : State) (x : Block) (c : Nat) (w : Crew) (n : Nat) : Nat :=
  match n with
  | 0x001 => c
  | 0x002 => x.index
  | 0x005 => x.r.nblk
  | 0x006 => x.r.ncrew
  | 0x007 => teamBits x c
  | 0x008 => w.live.toNat
  | 0x00B => x.r.spill
  | 0x010 => (w.mode x.r).toNat
  | 0x011 => w.fpc.toNat
  | 0x012 => w.trapc.toNat
  | 0x013 => w.trappc.toNat
  | 0x014 => w.trapm.toNat
  | 0x015 => if x.r.dline = 0 then 180000 else x.r.dline
  | 0x020 => cycleOf s x % 4294967296
  | _ => cycleOf s x / 4294967296 % 4294967296

/-- A read of the cycle count makes the context timing-exposed (R115, R7). -/
def exposed (s : State) (e : Env) (n : Nat) : State :=
  if (n = 0x020 || n = 0x021) && e.part ≠ 0 then
    s.setCtx e.blk.slot { s.ctx e.blk.slot with texp := true }
  else s

/-- CSRR (R111). -/
def execCsrr (x : NOps) (s : State) : Out :=
  issue s (.csrr x) fun s e =>
    if csrLane x.num then
      spillChecked s e (fun l => if x.num = 0x00A then [slotBase e.blk e.cw l] else []) fun s e =>
      complete s e (perLane e.part fun l => (regWrites false x.d l (csrOfLane e.blk e.cw x.num l) 1, 0))
    else
      complete (exposed s e x.num) e
        (onceFor e.part fun l => (regWrites true x.d l (csrOfCrew s e.blk e.c e.cw x.num) 1, 0))

/-- The crew after a CSRW: the writable fields take the value, reserved fields follow R11 (R111, R112). -/
def Crew.csrWrite (w : Crew) (n : Nat) (v : Word) : Crew :=
  match n with
  | 0x010 => w.setMode v
  | 0x011 => w.setFpc v
  | _ => { w with trappc := v &&& 0xFFFFFFFE }

/-- CSRW (R111). -/
def execCsrw (x : NOps) (s : State) : Out :=
  issue s (.csrw x) fun s e => perCrew s e <|
    .next (finishIssue (s.setBlock e.b (e.blk.setCrew e.c
      ((e.advance s e.cw).csrWrite x.num (e.cw.rs x.d)))) e)

/-! ### Traps -/

/-- The instruction completes for every active lane, then raises a cause with TRAPPC after it (R116, R117). -/
def completeThenRaise (s : State) (e : Env) (code info : Nat) : State :=
  (s.setBlock e.b (e.blk.setCrew e.c (e.advance s e.cw))).raise e.b e.c
    { code := code, info := info, pc := e.next, lanes := e.part, next := e.next }

/-- TRAP N (R116). -/
def execTrap (x : NOps) (s : State) : Out :=
  issue s (.trap x) fun s e => perCrew s e (.next (completeThenRaise s e 0x0E x.num))

/-- BKPT (R117): the block is held; the marker still parks the crew. -/
def execBkpt (x : NOps) (s : State) : Out :=
  issue s (.bkpt x) fun s e => perCrew s e (.next (finishIssue (completeThenRaise s e 0x0F 0) e))

/-- TRET (R117): a held cause enters the routine again, with its park, before any lane issues (R171). Outside the trap
routine it raises cause 0x10; no rule gives its TRAPPC, which is the PC of the TRET here (DESIGN CHOICE, log 32). -/
def execTret (x : NOps) (s : State) : Out :=
  issue s (.tret x) fun s e => perCrew s e <|
    if e.cw.inTrap then
      let s' := s.setBlock e.b (e.blk.setCrew e.c (Env.issued s e.cw.leaveTrap))
      .next (match e.cw.held with
        | none => finishIssue s' e
        | some l => s'.park e.b e.c (.trap { l.trap with next := e.next }))
    else trapAt s e 0x10 0 e.act

/-! ### Register granules -/

/-- The save ceilings (R184). -/
def LaunchRec.vgc (r : LaunchRec) : Nat := max r.vg r.vgx
/-- The save ceiling of the moment granules. -/
def LaunchRec.mgc (r : LaunchRec) : Nat := max r.mg r.mgx

/-- Max(class) of R25: 8 and 4, or the save ceilings in a resident kernel. -/
def growMax (r : LaunchRec) (cls : Nat) : Nat :=
  if r.res then (if cls = 0 then r.vgc else r.mgc) else (if cls = 0 then 8 else 4)

/-- The granules a crew holds of a class. -/
def Crew.granules (w : Crew) (cls : Nat) : Nat := if cls = 0 then w.vg else w.mg

/-- The crew with another granule count; registers beyond it are gone, and new ones read zero (R25). -/
def Crew.setGranules (w : Crew) (cls k : Nat) : Crew :=
  if cls = 0 then { w with vg := k, v := w.v.filter fun p => decide (p.1 < 256 * k) }
  else { w with mg := k, m := w.m.filter fun p => decide (p.1 < 128 * k) }

/-- Some register of the granules from `k` on has its pending bit set (R25). -/
def Crew.pendingFrom (w : Crew) (cls k : Nat) : Bool :=
  if cls = 0 then (List.range (8 * w.vg)).any fun r => decide (8 * k ≤ r) && w.vpend.getLsbD r
  else (List.range (4 * w.mg)).any fun r => decide (4 * k ≤ r) && w.mpend.getLsbD r

/-- REGS.GROW (R25): a target above the maximum traps, one not above the present count has nothing to do, and any
other request waits for its grant (R26). -/
def execRegsGrow (x : RegsOps) (s : State) : Out :=
  issue s (.regsGrow x) fun s e =>
    if x.count > growMax e.blk.r x.cls then trapAt s e 0x0A 0 e.act
    else if x.count ≤ e.cw.granules x.cls then complete s e {}
    else
      .next (s.setBlock e.b (e.blk.setCrew e.c
        { e.cw with wait := .waiting (.regsGrow x) e.ipc e.act e.part, lastIssue := s.steps + 1 }))

/-- REGS.SHRINK (R25). -/
def execRegsShrink (x : RegsOps) (s : State) : Out :=
  issue s (.regsShrink x) fun s e =>
    if e.cw.pendingFrom x.cls x.count then trapAt s e 0x08 0 e.act
    else if x.count < e.cw.granules x.cls then
      .next (finishIssue (s.setBlock e.b (e.blk.setCrew e.c
        ((e.advance s e.cw).setGranules x.cls x.count))) e)
    else complete s e {}

end Sys2Proof.Machine
end

