-- ==== Sys2Proof/Machine/Random.lean ====
section
/-! DEFINITION. Random streams (R156 to R163). -/

namespace Sys2Proof.Machine

/-- A stream state: STRM in [127:112], POS in [111:64], KEY in [63:0] (R156). -/
def streamOfParts (strm pos key : Nat) : BitVec 128 :=
  BitVec.ofNat 128 (key % 2 ^ 64 + 2 ^ 64 * (pos % 2 ^ 48) + 2 ^ 112 * (strm % 65536))
/-- KEY. -/
def strmKey (x : BitVec 128) : Nat := bitsOf x.toNat 0 64
/-- POS. -/
def strmPos (x : BitVec 128) : Nat := bitsOf x.toNat 64 48
/-- STRM. -/
def strmNum (x : BitVec 128) : Nat := bitsOf x.toNat 112 16

/-- A lane's stream state. -/
def Crew.strmOf (w : Crew) (l : Nat) : BitVec 128 := getAt 0 w.strm l
/-- The crew with a lane's stream state replaced. -/
def Crew.setStrm (w : Crew) (l : Nat) (x : BitVec 128) : Crew := { w with strm := setAt 0 w.strm l x }

/-- The stream counter (R157). -/
def strmCounter (x : BitVec 128) (gtid : Nat) : Quad :=
  { x0 := BitVec.ofNat 32 (strmPos x), x1 := BitVec.ofNat 32 (strmPos x / 4294967296),
    x2 := BitVec.ofNat 32 gtid, x3 := BitVec.ofNat 32 (strmNum x * 65536 + gtid / 4294967296 % 65536) }

/-- A draw as one number, y0 lowest. -/
def Quad.toNat (q : Quad) : Nat :=
  q.x0.toNat + 4294967296 * (q.x1.toNat + 4294967296 * (q.x2.toNat + 4294967296 * q.x3.toNat))

/-- Four words of a number. -/
def quadOf (x : Nat) : Quad :=
  { x0 := BitVec.ofNat 32 x, x1 := BitVec.ofNat 32 (x / 2 ^ 32), x2 := BitVec.ofNat 32 (x / 2 ^ 64),
    x3 := BitVec.ofNat 32 (x / 2 ^ 96) }

/-- The draw of a stream state (R160). -/
def strmDraw (x : BitVec 128) (gtid : Nat) : Quad :=
  sumac (strmCounter x gtid) (BitVec.ofNat 32 (strmKey x)) (BitVec.ofNat 32 (strmKey x / 4294967296))

/-- RSEED (R159). -/
def execRseed (x : XOps) (s : State) : Out :=
  issue s (.rseed x) fun s e =>
    let w := (lanesOf e.part).foldl (fun w l => w.setStrm l
      (streamOfParts (e.cw.opC x .z32 l) 0 (e.cw.opA x .z32 l + 4294967296 * e.cw.opB x .z32 l))) e.cw
    .next (finishIssue (s.setBlock e.b (e.blk.setCrew e.c (e.advance s w))) e)

/-- RNEXT (R160): each participating lane draws once and its position advances. -/
def execRnext (x : XOps) (s : State) : Out :=
  issue s (.rnext x) fun s e =>
    let w := (lanesOf e.part).foldl (fun w l =>
      let st := e.cw.strmOf l
      let y := strmDraw st (gtidOf e.blk e.cw l)
      (w.write (regWrites false x.d l y.toNat (if x.v = 0 then 4 else 1))).setStrm l
        (streamOfParts (strmNum st) (strmPos st + 1) (strmKey st))) e.cw
    .next (finishIssue (s.setBlock e.b (e.blk.setCrew e.c (e.advance s w))) e)

/-- RCTR (R161). -/
def execRctr (x : XOps) (s : State) : Out :=
  issue s (.rctr x) fun s e => complete s e (onLanes x.y e.part fun l =>
    let key := e.cw.regs (x.y || x.u) x.b l 2
    let y := sumac (quadOf (e.cw.regs x.y x.a l 4)) (BitVec.ofNat 32 key) (BitVec.ofNat 32 (key / 4294967296))
    (regWrites x.y x.d l y.toNat 4, 0))

/-- RUNI (R162): (a ≫ 8) × 2⁻²⁴, exact. -/
def execRuni (x : XOps) (s : State) : Out :=
  issue s (.runi x) fun s e => complete s e (toDest0 e x .z32 fun l =>
    (roundTo .f32 (dyadic false (e.cw.opA x .z32 l / 256) (-24)) .rn false).1)

/-- RMASK (R163). -/
def execRmask (x : XOps) (s : State) : Out :=
  issue s (.rmask x) fun s e => complete s e (toDest0 e x .z32 fun l =>
    let p := min 256 (e.cw.opBz x l)
    let a := e.cw.regs false x.a l 4
    (List.range 16).foldr (fun i n => (if bitsOf a (8 * i) 8 ≥ p then 1 else 0) + 2 * n) 0)

end Sys2Proof.Machine
end

