-- ==== Sys2Proof/Machine/LocalOps.lean ====
section
/-! DEFINITION. The shared operations on local memory (R194, R199, R227 to R243): the share with its storage errors, the
store queue and what its entries do at the head, transaction barriers, and the waits that they end. -/

namespace Sys2Proof.Machine

/-! ### The share and its errors (R199) -/

/-- A read of ranges of the share or spill area: an uncorrectable error ends the context with cause 0x4A, a correctable
one is corrected and noted (R199). The answer says whether the read failed. -/
def State.meetRead (s : State) (b crew : Nat) (place : Place) (rs : List (Nat × Nat)) : State × Bool :=
  match s.block b with
  | none => (s, false)
  | some x =>
    if x.errs.isEmpty then (s, false)
    else
      let found := x.memErrors place rs
      match found.find? (·.hard) with
      | some k => (s.fatalBlock b crew 0 { code := 0x4A, info := memErrInfo k }, true)
      | none =>
        if found.isEmpty then (s, false)
        else ((s.setBlock b { x with errs := x.errs.filter fun k => !found.contains k }).noteErrs x 255 found, false)

/-- A write of bytes into the share: a whole word clears its error, a part of a word with an uncorrectable error is
not written and ends the context with cause 0x4A (R199). -/
def State.storeShare (s : State) (b crew a : Nat) (bs : List Byte) : State :=
  match s.block b with
  | none => s
  | some x =>
    let n := bs.length
    let x' := { x with share := writeBytes x.share a bs }
    if x.errs.isEmpty then s.setBlock b x'
    else
      let met := x.memErrors .share [(a, n)]
      let part := met.filter fun k => !(a ≤ k.num && k.num + 4 ≤ a + n)
      match part.find? (·.hard) with
      | some k => s.fatalBlock b crew 0 { code := 0x4A, info := memErrInfo k }
      | none =>
        let s' := s.setBlock b { x' with errs := x.errs.filter fun k => !met.contains k }
        if part.isEmpty then s' else s'.noteErrs x 255 part

/-- A byte of the share. -/
def Block.byteAt (x : Block) (a : Nat) : Byte := getByte x.share a

/-! ### The store queue (R194, R233) -/

/-- The youngest byte that the stores of a queue hold for an address. -/
def queueByte (q : List QEntry) (a : Nat) : Option Byte :=
  q.foldl (fun r e => match e with
    | .store p bs => if p ≤ a then (match bs[a - p]? with
        | some y => some y
        | none => r) else r
    | _ => r) none

/-- What a read of a crew returns for a byte: its own youngest store, else local memory (R233). -/
def crewByte (x : Block) (w : Crew) (a : Nat) : Byte := (queueByte w.queue a).getD (x.byteAt a)

/-- `n` bytes as the crew reads them. -/
def crewBytes (x : Block) (w : Crew) (a : Nat) : Nat → List Byte
  | 0 => []
  | n + 1 => crewByte x w a :: crewBytes x w (a + 1) n

/-- `n` bytes as a number, as the crew reads them. -/
def crewRead (x : Block) (w : Crew) (a n : Nat) : Nat := bytesToNat (crewBytes x w a n)

/-- The bytes of a read that no store of the crew's own queue supplies, as ranges: they are read from the share (R194). -/
def fromShare (w : Crew) (a n : Nat) : List (Nat × Nat) :=
  ((List.range n).filter fun j => (queueByte w.queue (a + j)).isNone).map fun j => (a + j, 1)

/-- A queue entry that is more than a store (R233): no later read takes its point before it has been performed. -/
def QEntry.blocks : QEntry → Bool
  | .store _ _ => false
  | _ => true

/-- The crew with an entry added to its queue. -/
def Crew.enqueue (w : Crew) (q : QEntry) : Crew := { w with queue := w.queue ++ [q] }

/-- The crew with the outstanding result of an issue filled in. -/
def Crew.fill (w : Crew) (order : Nat) (f : Pend → Pend) : Crew :=
  { w with outs := w.outs.map fun p => if p.order = order then f p else p }

/-! ### Atomic operations (R231, R403) -/

/-- The value an operation writes, and its flags (R231). -/
def atomOp (op : Nat) (t : Ty) (rnd old b c : Nat) : Nat × Flags :=
  let m := 2 ^ tyBits t
  match op with
  | 0 => ((old + b) % m, 0)
  | 1 => (if asInt t b < asInt t old then b % m else old, 0)
  | 2 => (if asInt t old < asInt t b then b % m else old, 0)
  | 3 => (old &&& (b % m), 0)
  | 4 => (old ||| (b % m), 0)
  | 5 => (old ^^^ (b % m), 0)
  | 6 => (b % m, 0)
  | 7 => (if old = c % m then b % m else old, 0)
  | _ => fAdd .f32 (rndOf rnd) old b

/-- The lanes of an ATOM in ascending order: the state, the writes and the flags (R231). -/
def atomLanes (s : State) (b crew op : Nat) (t : Ty) (rnd : Nat) (uni : Bool) (d : Nat) :
    List AtomLane → State × List Wr × Flags
  | [] => (s, [], 0)
  | k :: rest =>
    let n := tyBits t / 8
    let (s1, bad) := s.meetRead b crew .share [(k.addr, n)]
    if bad then (s1, [], 0)
    else
      let old := match s1.block b with
        | some x => readLE x.share k.addr n
        | none => 0
      let r := atomOp op t rnd old k.b k.c
      let (s2, ws, fl) := atomLanes (s1.storeShare b crew k.addr (natToBytes n r.1)) b crew op t rnd uni d rest
      (s2, resultWrites uni t d k.lane old ++ ws, r.2 ||| fl)

/-! ### Transaction barriers (R234 to R239) -/

/-- A transaction barrier read from its 16 bytes. -/
structure TBar where
  gen : Nat
  owed : Nat
  inbound : Int
  fault : Nat
  quota : Nat
  rsv : Nat
  deriving DecidableEq, Repr

/-- The object of 16 bytes. -/
def tbarOf (x : Nat) : TBar :=
  { gen := bitsOf x 0 4, owed := bitsOf x 4 20, inbound := signedOf 48 (bitsOf x 24 48),
    fault := bitsOf x 72 8, quota := bitsOf x 80 20, rsv := bitsOf x 100 28 }

/-- The bits of an object. INBOUND stands modulo 2^48: the streamer's subtraction below −2^47 wraps (DESIGN CHOICE, log 104:
the spec gives it no outcome). -/
def TBar.bits (o : TBar) : Nat :=
  o.gen % 16 + 2 ^ 4 * (o.owed % 2 ^ 20) + 2 ^ 24 * wrapNat 48 o.inbound + 2 ^ 72 * (o.fault % 256)
    + 2 ^ 80 * (o.quota % 2 ^ 20) + 2 ^ 100 * (o.rsv % 2 ^ 28)

/-- A malformed object (R234). -/
def TBar.malformed (o : TBar) : Bool := o.rsv ≠ 0 || o.quota = 0 || decide (o.owed > o.quota)

/-- Turnover (R236). -/
def TBar.turnover (o : TBar) : TBar := { o with gen := (o.gen + 1) % 16, owed := o.quota, inbound := 0 }

/-- The turnover that both counts at zero bring about (R236, R237). -/
def TBar.settle (o : TBar) : TBar := if o.owed = 0 ∧ o.inbound = 0 then o.turnover else o

/-- The barrier at an offset of a block's share. -/
def Block.tbar (x : Block) (a : Nat) : TBar := tbarOf (readLE x.share a 16)

/-- The state with a barrier written. -/
def State.setTbar (s : State) (b a : Nat) (o : TBar) : State := s.storeShare b 255 a (natToBytes 16 o.bits)

/-- The order of a block's jobs (R304, R315) changes: `f` gives the crews and the arrivals that each is ordered before. -/
def State.mapSeen (s : State) (b : Nat) (f : BitVec 64 → List (Nat × Nat) → BitVec 64 × List (Nat × Nat)) : State :=
  { s with opts := s.opts.map fun p =>
             if p.2.blk = b then let r := f p.2.known p.2.marks; (p.1, { p.2 with known := r.1, marks := r.2 }) else p,
           slsqs := s.slsqs.map fun p =>
             if p.2.blk = b then let r := f p.2.known p.2.marks; (p.1, { p.2 with known := r.1, marks := r.2 }) else p }
/-- No arrival has been made in some generations of the barrier at `a`. -/
def State.noArrivals (s : State) (b a : Nat) (g : Nat → Bool) : State :=
  s.mapSeen b fun m t => (m, t.filter fun p => !(p.1 = a && g p.2))
/-- Crew `c` arrives in generation `g` of the barrier at `a` (R239): the jobs that come before the crew come before its
arrival. The first arrival of a generation starts the generation's arrivals. -/
def State.arrives (s : State) (b c a : Nat) (o : TBar) : State :=
  (if o.owed = o.quota then s.noArrivals b a (· = o.gen) else s).mapSeen b fun m t =>
    (m, if m.getLsbD c && !t.contains (a, o.gen) then t ++ [(a, o.gen)] else t)

/-- Why an arrival fails, with its information (R236): cause and TRAPC[31:8]. -/
def tbarrCheck (o : TBar) (inb : Nat) : Option (Nat × Nat) :=
  let t := o.inbound + inb
  if o.malformed then some (0x18, 1)
  else if o.fault ≠ 0 then some (0x19, o.fault)
  else if o.owed = 0 then some (0x18, 2)
  else if t < -(2 ^ 47 : Nat) ∨ (2 ^ 47 : Nat) ≤ t then some (0x18, 3)
  else none

/-- The object after an arrival (R236). -/
def tbarrNext (o : TBar) (inb : Nat) : TBar := { o with inbound := o.inbound + inb, owed := o.owed - 1 }.settle

/-- The end of a waiting instruction: its writes, the advance of its active lanes, then the switch marker (R30). -/
def State.resume (s : State) (b c : Nat) (i : Instr) (pc act : Word) (wr : List Wr) : State :=
  match s.crew b c with
  | none => s
  | some w =>
    let next := pc + BitVec.ofNat 32 (lenOf i)
    let w := (w.write wr).setPcs act fun _ => next
    let s' := s.setCrew b c { w with wait := .ready, issues := w.issues + 1 }
    if (hdrOf i).s then s'.park b c (.marker next) else s'

/-- A waiting instruction raises a cause before it has any effect: the crew's PCs still stand at it. -/
def State.failWait (s : State) (b c : Nat) (i : Instr) (pc act : Word) (code info : Nat) : State :=
  match s.crew b c with
  | none => s
  | some w =>
    (s.setCrew b c { w with wait := .ready }).raise b c
      { code := code, info := info, pc := pc, lanes := act, next := pc + BitVec.ofNat 32 (lenOf i) }

/-! ### ENVRST at the head (R275) -/

/-- The descriptor of 16 bytes. -/
def envDescOf (x : Nat) : EnvDesc :=
  { tbase := bitsOf x 0 21, sbase := bitsOf x 32 21, ssize := bitsOf x 64 32, epoff := bitsOf x 96 12,
    curoff := bitsOf x 112 12, rsv := bitsOf x 21 11 + bitsOf x 53 11 + bitsOf x 108 4 + bitsOf x 124 4 }

/-- The slot of one lane takes the template, the episode number and a zero cursor (R275). -/
def envWrite (s : State) (b crew : Nat) (d : EnvDesc) (slot ep : Nat) : State :=
  let (s1, bad) := s.meetRead b crew .share [(d.tbase, d.ssize)]
  if bad then s1
  else
    match s1.block b with
    | none => s1
    | some x =>
      ((s1.storeShare b crew slot (readBytes x.share d.tbase d.ssize)).storeShare b crew (slot + d.epoff)
        (natToBytes 8 ep)).storeShare b crew (slot + d.curoff) (natToBytes 4 0)

/-- The slots of an ENVRST entry in ascending lane order: `lanes` holds slot and episode of each. -/
def envLanes (s : State) (b crew : Nat) (d : EnvDesc) : List (Nat × Nat) → State
  | [] => s
  | (slot, ep) :: rest => envLanes (envWrite s b crew d slot ep) b crew d rest

/-! ### Stage rings (R240 to R242) -/

/-- A ring descriptor read from its 32 bytes. -/
structure Ring where
  sbase : Nat
  ssize : Nat
  nslot : Nat
  count : Nat
  nget : Nat
  head : Nat
  tail : Nat
  gph : Nat
  phb : Nat
  opn : Nat
  rsv : Nat
  deriving DecidableEq, Repr

/-- The descriptor of 32 bytes (R240). -/
def ringOf (x : Nat) : Ring :=
  { sbase := bitsOf x 0 21, ssize := bitsOf x 32 20, nslot := bitsOf x 52 5 + 1, count := bitsOf x 64 6,
    nget := bitsOf x 72 6, head := bitsOf x 80 5, tail := bitsOf x 88 5, gph := bitsOf x 93 1,
    phb := bitsOf x 128 32, opn := bitsOf x 160 32,
    rsv := bitsOf x 21 11 + bitsOf x 57 7 + bitsOf x 70 2 + bitsOf x 78 2 + bitsOf x 85 3 + bitsOf x 94 34 + bitsOf x 192 64 }

/-- The bits of a descriptor without reserved bits. -/
def Ring.bits (r : Ring) : Nat :=
  r.sbase + 2 ^ 32 * r.ssize + 2 ^ 52 * (r.nslot - 1) + 2 ^ 64 * r.count + 2 ^ 72 * r.nget + 2 ^ 80 * r.head
    + 2 ^ 88 * r.tail + 2 ^ 93 * r.gph + 2 ^ 128 * r.phb + 2 ^ 160 * r.opn

/-- A malformed descriptor (R240). -/
def Ring.malformed (r : Ring) (lmem : Nat) : Bool :=
  r.rsv ≠ 0 || r.ssize = 0 || r.ssize % 16 ≠ 0 || r.sbase % 16 ≠ 0 || decide (r.sbase + r.nslot * r.ssize > lmem)
  || decide (r.head ≥ r.nslot) || decide (r.tail ≥ r.nslot) || decide (r.count > r.nslot)
  || decide (r.nget > r.count) || r.phb / 2 ^ r.nslot ≠ 0 || r.opn / 2 ^ r.nslot ≠ 0

/-- The slot word (R240). -/
def Ring.slotWord (r : Ring) (k : Nat) : Nat := r.sbase + k * r.ssize + 2 ^ 24 * k

/-- What a ring instruction does with a descriptor (R242): a reason, a new descriptor with a value, or a wait. -/
inductive RingAct where
  | fail (reason : Nat)
  | done (r : Ring) (v : Nat)
  | wait
  deriving DecidableEq, Repr

/-- SRPUT (R242). -/
def ringPut (r : Ring) : RingAct :=
  if r.count = r.nslot then .wait
  else .done { r with opn := if bitOf r.opn r.head then r.opn else r.opn + 2 ^ r.head,
                      head := (r.head + 1) % r.nslot, count := r.count + 1,
                      nget := r.nget + 1 } (r.slotWord r.head)

/-- SRPUT.COMMIT of a slot word (R242). -/
def ringCommit (r : Ring) (slotw : Nat) : RingAct :=
  let k := bitsOf slotw 24 5
  if k ≥ r.nslot || !bitOf r.opn k then .fail 2
  else .done { r with opn := r.opn - 2 ^ k, phb := r.phb ^^^ 2 ^ k } 0

/-- SRGET (R242). -/
def ringGet (r : Ring) : RingAct :=
  if r.nget = 0 || bitsOf r.phb r.tail 1 = r.gph then .wait
  else
    let t := (r.tail + 1) % r.nslot
    .done { r with tail := t, gph := if t = 0 then 1 - r.gph else r.gph, nget := r.nget - 1 } (r.slotWord r.tail)

/-- SRREL (R242). -/
def ringRel (r : Ring) : RingAct := if r.count = r.nget then .fail 3 else .done { r with count := r.count - 1 } 0

/-- A ring operation on the descriptor at an offset of a block's share; a malformed one fails with reason 1. -/
def ringAct (x : Block) (a : Nat) (f : Ring → RingAct) : RingAct :=
  let r := ringOf (readLE x.share a 32)
  if r.malformed x.r.lmem then .fail 1 else f r

/-- What SRPUT.COMMIT of a slot word or SRREL does at the head of the queue (R242). -/
def ringHead (i : Instr) (slotw : Nat) (r : Ring) : RingAct :=
  if i matches .srrel _ then ringRel r else ringCommit r slotw

/-! ### The head of the queue -/

/-- The head of a crew's store queue is performed (R194, R231, R236, R275). -/
def State.performHead (s : State) (b c : Nat) : State :=
  match s.crew b c with
  | none => s
  | some w =>
    match w.queue with
    | [] => s
    | h :: q =>
      let s0 := s.setCrew b c { w with queue := q }
      match h with
      | .store a bs => s0.storeShare b c a bs
      | .atom order op t rnd uni d lanes =>
        let (s1, ws, fl) := atomLanes s0 b c op t rnd uni d lanes
        match s1.crew b c with
        | none => s1
        | some w1 => s1.setCrew b c (w1.fill order fun p => { p with writes := ws, flags := fl, ready := true })
      | .tbinit order a n pc act =>
        if n = 0 ∨ n > 1048575 then
          s0.raiseLate b c ⟨order, { code := 0x18, info := 4, pc := pc, lanes := act, next := pc + 8 }⟩
        else (s0.noArrivals b a fun _ => true).setTbar b a { gen := 0, owed := n, inbound := 0, fault := 0, quota := n, rsv := 0 }
      | .tbarr a d inb pc act =>
        match s0.block b, w.wait with
        | some x, .waiting i _ _ _ =>
          let (s1, bad) := s0.meetRead b c .share [(a, 16)]
          let o := x.tbar a
          if bad then s1
          else
            match tbarrCheck o inb with
            | some (code, info) => s1.failWait b c i pc act code info
            | none => ((s1.arrives b c a o).setTbar b a (tbarrNext o inb)).resume b c i pc act (regWrites true d 0 o.gen 1)
        | _, _ => s0
      | .envrst d lanes => envLanes s0 b c d lanes
      | .ring order i a w pc act =>
        let (s1, bad) := s0.meetRead b c .share [(a, 32)]
        match bad, s1.block b with
        | false, some x =>
          match ringAct x a (ringHead i w) with
          | .done r _ => s1.storeShare b c a (natToBytes 32 r.bits)
          | .fail k => s1.raiseLate b c ⟨order, { code := 0x17, info := k, pc := pc, lanes := act, next := pc + 8 }⟩
          | .wait => s1
        | _, _ => s1

/-- So many entries of a crew's queue are performed. -/
def State.performMany (s : State) (b c : Nat) : Nat → State
  | 0 => s
  | n + 1 => (s.performHead b c).performMany b c n

/-- Every entry of a crew's queue is performed, in order. -/
def State.drainQueue (s : State) (b c : Nat) : State :=
  match s.crew b c with
  | none => s
  | some w => s.performMany b c w.queue.length

/-- An instruction that takes its place after every entry of the crew's own queue: the queue drains, and the
instruction follows unless a cause of an entry came first (R233). -/
def afterQueue (s : State) (e : Env) (i : Instr) (k : State → Env → Out) : Out :=
  if e.cw.queue.isEmpty then k s e
  else
    let s' := s.drainQueue e.b e.c
    match envOf s' i with
    | some e' => if e'.ipc = e.ipc ∧ e'.cw.inTrap = e.cw.inTrap then k s' e' else .next s'
    | none => .next s'

/-- A read of local memory by a crew: entries of its queue that are more than stores are performed first (R233). -/
def beforeRead (s : State) (e : Env) (i : Instr) (k : State → Env → Out) : Out :=
  if e.cw.queue.any QEntry.blocks then afterQueue s e i k else k s e

/-! ### Addresses (R229) -/

/-- The lanes of P(c) whose access of `n` bytes lies outside the share. -/
def outsideLanes (e : Env) (n : Nat) (f : Nat → Int) : Word :=
  maskWhere e.part fun l => f l < 0 ∨ f l + n > e.blk.r.lmem
/-- The lanes of P(c) whose access is misaligned. -/
def misalignedLanes (e : Env) (n : Nat) (f : Nat → Int) : Word := maskWhere e.part fun l => f l % n ≠ 0

/-- The address checks of R229: cause 0x13, then cause 0x14, before any effect. -/
def addressed (s : State) (e : Env) (n : Nat) (f : Nat → Int) (k : Out) : Out :=
  if outsideLanes e n f ≠ 0 then trapAt s e 0x13 0 (outsideLanes e n f)
  else if misalignedLanes e n f ≠ 0 then trapAt s e 0x14 0 (misalignedLanes e n f)
  else k

end Sys2Proof.Machine
end

