-- ==== Sys2Proof/Machine/Local.lean ====
section
/-! DEFINITION. LD, ST, LDS, ATOM (R227 to R232), MLD and MST (R155), and the events of the store queue. -/

namespace Sys2Proof.Machine

/-- The byte offset of a memory operand (R227). -/
def offOf (x : XOps) : Int := signedOf 13 x.imm

/-- The address of a lane: a, uniform under U or Y, plus the offset; exact, never wrapped (R229). -/
def memAddr (e : Env) (x : XOps) (l : Nat) : Int := (e.cw.opd (x.y || x.u) .z32 x.a l : Nat) + offOf x

/-- The lanes that access memory: every lane of P(c), or one lane in the uniform form. -/
def memLanes (e : Env) (uni : Bool) : List Nat := (lanesOf e.part).take (if uni then 1 else 32)

/-- The reads of an access meet no uncorrectable error of the share (R199); bytes that the crew's own queue supplies are not read
from it (R194). -/
def readable (s : State) (e : Env) (n : Nat) (f : Nat → Int) (k : State → Out) : Out :=
  let (s', bad) := s.meetRead e.b e.c .share ((lanesOf e.part).flatMap fun l => fromShare e.cw (f l).toNat n)
  if bad then .next s' else k s'

/-- The environment with its block and crew as they stand in a state. -/
def Env.refresh (e : Env) (s : State) : Env :=
  match s.block e.b with
  | none => e
  | some x => { e with blk := x }

/-- The bytes that LD loads in a lane (R230). -/
def loaded (e : Env) (x : XOps) (l : Nat) : Nat := crewRead e.blk e.cw (memAddr e x l).toNat (tyBits x.t / 8)

/-- LD (R230). -/
def execLd (x : XOps) (s : State) : Out :=
  issue s (.ld x) fun s e =>
    addressed s e (tyBits x.t / 8) (memAddr e x) <| beforeRead s e (.ld x) fun s e =>
      if x.y && e.part = 0 then skip s e
      else readable s e (tyBits x.t / 8) (memAddr e x) fun s =>
        completeLater s (e.refresh s) (.ld x) (toDest0 e x x.t (loaded e x))

/-- The stores of a lane list, in the order they enter the queue. -/
def storeEntries (ls : List Nat) (a : Nat → Int) (bs : Nat → List Byte) : List QEntry :=
  ls.map fun l => .store (a l).toNat (bs l)

/-- A store instruction completes: its stores enter the queue (R194, R230). -/
def queueStores (s : State) (e : Env) (qs : List QEntry) : Out :=
  let w := e.advance s e.cw
  .next (finishIssue (s.setBlock e.b (e.blk.setCrew e.c { w with queue := w.queue ++ qs })) e)

/-- The bytes ST stores from a lane (R230). -/
def stored (e : Env) (x : XOps) (l : Nat) : List Byte := natToBytes (tyBits x.t / 8) (e.cw.opd x.y x.t x.d l)

/-- ST (R230). -/
def execSt (x : XOps) (s : State) : Out :=
  issue s (.st x) fun s e =>
    addressed s e (tyBits x.t / 8) (memAddr e x) <|
    queueStores s e (storeEntries (memLanes e x.y) (memAddr e x) (stored e x))

/-- LDS (R230). -/
def execLds (x : XOps) (s : State) : Out :=
  issue s (.lds x) fun s e =>
    addressed s e (4 * ldsWords x) (memAddr e x) <| beforeRead s e (.lds x) fun s e =>
      readable s e (4 * ldsWords x) (memAddr e x) fun s =>
        completeLater s (e.refresh s) (.lds x) (perLane e.part fun l =>
          (regWrites false x.d l (crewRead e.blk e.cw (memAddr e x l).toNat (4 * ldsWords x)) (ldsWords x), 0))

/-- The address of an ATOM: a alone (R231). -/
def atomAddr (e : Env) (x : XOps) (l : Nat) : Int := (e.cw.opd x.y .z32 x.a l : Nat)

/-- The lanes of an ATOM with their operands. -/
def atomOperands (e : Env) (x : XOps) : List AtomLane :=
  (memLanes e x.y).map fun l =>
    { lane := l, addr := (atomAddr e x l).toNat, b := e.cw.opB x x.t l, c := if x.v = 7 then e.cw.opC x x.t l else 0 }

/-- ATOM enters the store queue (R233); its result waits for the head. -/
def atomIssue (s : State) (e : Env) (x : XOps) : Out :=
  let s' := defer s e (.atom x) {} (e.part = 0)
  .next (finishIssue (match s'.crew e.b e.c with
    | none => s'
    | some w =>
      if e.part = 0 then s'
      else s'.setCrew e.b e.c (w.enqueue (.atom e.cw.issues x.v x.t x.rnd x.y x.d (atomOperands e x)))) e)

/-- ATOM (R231, R232). -/
def execAtom (x : XOps) (s : State) : Out :=
  issue s (.atom x) fun s e =>
    if x.v = 8 ∧ e.blk.r.det ∧ e.part ≠ 0 then trapAt s e 0x15 0 e.part
    else addressed s e (tyBits x.t / 8) (atomAddr e x) <|
      if x.y && e.part = 0 then skip s e else atomIssue s e x

/-- MLD (R155): fixed-latency, ordered like LD. -/
def execMld (x : XOps) (s : State) : Out :=
  issue s (.mld x) fun s e =>
    addressed s e 8 (memAddr e x) <| beforeRead s e (.mld x) fun s e =>
      readable s e 8 (memAddr e x) fun s =>
        complete s (e.refresh s) (perLane e.part fun l =>
          ([.m x.d l (BitVec.ofNat 64 (crewRead e.blk e.cw (memAddr e x l).toNat 8))], 0))

/-- MST (R155). -/
def execMst (x : XOps) (s : State) : Out :=
  issue s (.mst x) fun s e =>
    addressed s e 8 (memAddr e x) <|
    queueStores s e (storeEntries (memLanes e false) (memAddr e x)
      fun l => natToBytes 8 (e.cw.rm x.d l).toNat)

/-! ### Events of the store queue -/

/-- The event that performs the head of a crew's queue, when the head is of its kind. -/
def headEvent (s : State) (b c : Nat) (m : String) (kind : QEntry → Bool) : Out :=
  match s.crew b c with
  | none => notEnabled m
  | some w =>
    match w.queue.head? with
    | none => notEnabled m
    | some h => if kind h then .next (s.performHead b c) else notEnabled m

/-- A store. -/
def isStore : QEntry → Bool
  | .store _ _ => true
  | _ => false
/-- An ATOM. -/
def isAtom : QEntry → Bool
  | .atom _ _ _ _ _ _ _ => true
  | _ => false
/-- A TBINIT. -/
def isTbinit : QEntry → Bool
  | .tbinit _ _ _ _ _ => true
  | _ => false
/-- A TBARR. -/
def isTbarr : QEntry → Bool
  | .tbarr _ _ _ _ _ => true
  | _ => false
/-- An SRPUT.COMMIT or SRREL. -/
def isRing : QEntry → Bool
  | .ring _ _ _ _ _ _ => true
  | _ => false
/-- An ENVRST. -/
def isEnvrst : QEntry → Bool
  | .envrst _ _ => true
  | _ => false

/-- STORE_QUEUE_WRITE (R194): the head is a store, or an operation on a stage ring, which is performed in its place among
the stores (R233, R241). -/
def execStoreQueueWrite (b c : Nat) (s : State) : Out :=
  headEvent s b c "STORE_QUEUE_WRITE" fun h => isStore h || isRing h
/-- ATOM_PERFORM (R231). -/
def execAtomPerform (b c : Nat) (s : State) : Out := headEvent s b c "ATOM_PERFORM" isAtom
/-- TBINIT_PERFORM (R236). -/
def execTbinitPerform (b c : Nat) (s : State) : Out := headEvent s b c "TBINIT_PERFORM" isTbinit
/-- TBARR_PERFORM (R236). -/
def execTbarrPerform (b c : Nat) (s : State) : Out := headEvent s b c "TBARR_PERFORM" isTbarr
/-- ENVRST_PERFORM (R275). -/
def execEnvrstPerform (b c : Nat) (s : State) : Out := headEvent s b c "ENVRST_PERFORM" isEnvrst

end Sys2Proof.Machine
end

