-- ==== Sys2Proof/Machine/Sync.lean ====
section
/-! DEFINITION. Transaction barriers, stage rings, teams and team barriers (R234 to R246). -/

namespace Sys2Proof.Machine

/-- The crew waits with its PCs at the instruction (R31). -/
def waitAt (s : State) (e : Env) (i : Instr) : State :=
  s.setBlock e.b (e.blk.setCrew e.c { e.cw with wait := .waiting i e.ipc e.act e.part, lastIssue := s.steps + 1 })

/-- The waiting instruction of a crew, with its PC, its active and its participating lanes; a context that ends abandons
its waits (R172). -/
def State.waitOf (s : State) (b c : Nat) : Option (Instr × Word × Word × Word) :=
  match s.block b with
  | none => none
  | some x => match (look x.crews c).map Crew.wait with
    | some (Wait.waiting i pc act part) => if (s.ctx x.slot).state = .live then some (i, pc, act, part) else none
    | _ => none

/-- The address of an object in a uniform register (R235). -/
def objAddr (e : Env) (a : Nat) (_ : Nat) : Int := ((e.cw.rs a).toNat : Nat)

/-- Operand b of a barrier instruction: a uniform register or the zero-extended immediate (R235). -/
def uniB (e : Env) (x : XOps) : Nat := if x.k then x.imm % 8192 else (e.cw.rs x.b).toNat

/-! ### Transaction barriers -/

/-- TBINIT (R235): the operation enters the store queue. -/
def execTbinit (x : XOps) (s : State) : Out :=
  issue s (.tbinit x) fun s e => perCrew s e <| addressed s e 16 (objAddr e x.a) <|
    queueStores s e [.tbinit e.cw.issues (e.cw.rs x.a).toNat (uniB e x) e.ipc e.act]

/-- TBARR (R235): the crew goes on once its arrival has been performed, since its ticket is interlocked. -/
def execTbarr (x : XOps) (s : State) : Out :=
  issue s (.tbarr x) fun s e => perCrew s e <| addressed s e 16 (objAddr e x.a) <| afterQueue s e (.tbarr x) fun s e =>
    let s' := waitAt s e (.tbarr x)
    .next (match s'.crew e.b e.c with
      | none => s'
      | some w => s'.setCrew e.b e.c (w.enqueue
          (.tbarr (e.cw.rs x.a).toNat x.d (if x.q then uniB e x else 0) e.ipc e.act)))

/-- What a TBWAIT finds (R238): malformed, left (with its FAULT), or none while it still waits. -/
def tbwaitNow (o : TBar) (ticket : Nat) : Option (Nat × Nat) :=
  if o.malformed then some (1, 1) else if o.gen ≠ ticket % 16 then some (0, o.fault) else none

/-- A crew has left generation `g` of the transaction barrier at `a` (R239): it comes after the jobs that an arrival of that
generation came after (R304, R315; log 91). -/
def State.seeJobs (s : State) (b c a g : Nat) : State :=
  s.mapSeen b fun m t => (if t.contains (a, g) then m ||| (1#64 <<< c) else m, t)

/-- The end of a TBWAIT on a ticket of the barrier at `a`: cause 0x18 at the instruction, or its completion, with cause 0x19
after it when FAULT stands (R238). -/
def tbwaitEnd (s : State) (b c : Nat) (i : Instr) (pc act : Word) (a ticket : Nat) (r : Nat × Nat) : State :=
  if r.1 = 1 then s.failWait b c i pc act 0x18 1
  else
    let s := s.seeJobs b c a (ticket % 16)
    if r.2 = 0 then s.resume b c i pc act []
    else
      match s.crew b c with
      | none => s
      | some w =>
        let next := pc + BitVec.ofNat 32 (lenOf i)
        (s.setCrew b c { w.setPcs act (fun _ => next) with wait := .ready, issues := w.issues + 1 }).raise b c
          { code := 0x19, info := r.2, pc := next, lanes := act, next := next }

/-- TBWAIT (R238): it completes at once or the crew waits. -/
def execTbwait (x : XOps) (s : State) : Out :=
  issue s (.tbwait x) fun s e => perCrew s e <| addressed s e 16 (objAddr e x.a) <| beforeRead s e (.tbwait x) fun s e =>
    readable s e 16 (objAddr e x.a) fun s =>
      let s' := waitAt s (e.refresh s) (.tbwait x)
      match tbwaitNow (tbarOf (crewRead e.blk e.cw (e.cw.rs x.a).toNat 16)) (uniB e x) with
      | some r => .next (tbwaitEnd s' e.b e.c (.tbwait x) e.ipc e.act (e.cw.rs x.a).toNat (uniB e x) r)
      | none => .next s'

/-- TBWAIT_COMPLETE (R238): the object has changed so that the wait ends. -/
def execTbwaitComplete (b c : Nat) (s : State) : Out :=
  match s.waitOf b c, s.block b with
  | some (.tbwait x, pc, act, _), some blk =>
    match look blk.crews c with
    | none => notEnabled "TBWAIT_COMPLETE"
    | some w =>
      let ticket := if x.k then x.imm else (w.rs x.b).toNat
      match tbwaitNow (tbarOf (crewRead blk w (w.rs x.a).toNat 16)) ticket, s.meetRead b c .share (fromShare w (w.rs x.a).toNat 16) with
      | some _, (s, true) => .next s
      | some r, (s, false) => .next (tbwaitEnd s b c (.tbwait x) pc act (w.rs x.a).toNat ticket r)
      | none, _ => notEnabled "TBWAIT_COMPLETE"
  | _, _ => notEnabled "TBWAIT_COMPLETE"

/-! ### Stage rings (R240 to R243) -/

/-- A waiting ring instruction takes its step at the head of the queue: cause 0x17 at the instruction, its completion, or
it goes on waiting. -/
def ringStep (s : State) (b c : Nat) (i : Instr) (pc act : Word) (a d : Nat) (f : Ring → RingAct) : Option State :=
  match s.meetRead b c .share [(a, 32)] with
  | (s, true) => some s
  | (s, false) =>
    match s.block b with
    | none => none
    | some x =>
      match ringAct x a f with
      | .wait => none
      | .fail k => some (s.failWait b c i pc act 0x17 k)
      | .done r v =>
        some ((s.storeShare b c a (natToBytes 32 r.bits)).resume b c i pc act (regWrites true d 0 v 1))

/-- A ring instruction at its issue (R241, R242): the descriptor, as the crew reads it, is checked, and the instruction
enters the store queue (R233). -/
def ringIssue (s : State) (i : Instr) (a : Nat) (k : State → Env → Out) : Out :=
  issue s i fun s e => perCrew s e <| addressed s e 32 (objAddr e a) <| beforeRead s e i fun s e =>
    readable s e 32 (objAddr e a) fun s =>
      let e := e.refresh s
      if (ringOf (crewRead e.blk e.cw (e.cw.rs a).toNat 32)).malformed e.blk.r.lmem then trapAt s e 0x17 1 e.act
      else k s e
/-- SRPUT and SRGET: the crew waits at the instruction, the last of its queue, which takes its step at once when it stands
at the head. -/
def ringWait (s : State) (i : Instr) (a d : Nat) (f : Ring → RingAct) : Out :=
  ringIssue s i a fun s e =>
    let s' := waitAt s e i
    .next (if e.cw.queue.isEmpty then (ringStep s' e.b e.c i e.ipc e.act (e.cw.rs a).toNat d f).getD s' else s')
/-- SRPUT.COMMIT and SRREL: an entry of the queue; the crew goes on. -/
def ringQueue (s : State) (i : Instr) (a : Nat) (slotw : Env → Nat) : Out :=
  ringIssue s i a fun s e =>
    queueStores s e [.ring e.cw.issues i (e.cw.rs a).toNat (slotw e) e.ipc e.act]

/-- SRPUT (R242). -/
def execSrput (x : XOps) (s : State) : Out := ringWait s (.srput x) x.a x.d ringPut
/-- SRPUT.COMMIT (R242). -/
def execSrputCommit (x : XOps) (s : State) : Out :=
  ringQueue s (.srputCommit x) x.a fun e => (e.cw.rs x.b).toNat
/-- SRGET (R242). -/
def execSrget (x : XOps) (s : State) : Out := ringWait s (.srget x) x.a x.d ringGet
/-- SRREL (R242). -/
def execSrrel (x : XOps) (s : State) : Out := ringQueue s (.srrel x) x.a fun _ => 0

/-- SRPUT_WAKE (R242): every earlier entry of the crew's queue has been performed, and a slot is free. -/
def execSrputWake (b c : Nat) (s : State) : Out :=
  match s.waitOf b c, s.crew b c with
  | some (.srput x, pc, act, _), some w =>
    match if w.queue.isEmpty then ringStep s b c (.srput x) pc act (w.rs x.a).toNat x.d ringPut else none with
    | some s' => .next s'
    | none => notEnabled "SRPUT_WAKE"
  | _, _ => notEnabled "SRPUT_WAKE"

/-- SRGET_WAKE (R242): every earlier entry of the crew's queue has been performed, and a committed slot is next. -/
def execSrgetWake (b c : Nat) (s : State) : Out :=
  match s.waitOf b c, s.crew b c with
  | some (.srget x, pc, act, _), some w =>
    match if w.queue.isEmpty then ringStep s b c (.srget x) pc act (w.rs x.a).toNat x.d ringGet else none with
    | some s' => .next s'
    | none => notEnabled "SRGET_WAKE"
  | _, _ => notEnabled "SRGET_WAKE"

/-! ### Teams and barriers (R244 to R246) -/

/-- A team slot. -/
def Block.team (x : Block) (k : Nat) : Team := x.teams.getD k {}
/-- The block with a team slot's members changed. -/
def Block.setMembers (x : Block) (k : Nat) (f : BitVec 64 → BitVec 64) : Block :=
  { x with teams := (List.range x.teams.length).zip x.teams |>.map fun p => if p.1 = k then { p.2 with members := f p.2.members } else p.2 }

/-- JOIN (R245). -/
def execJoin (x : XOps) (s : State) : Out :=
  issue s (.join x) fun s e => perCrew s e <|
    if !(e.blk.team x.v).valid then trapAt s e 0x16 1 e.act
    else
      let blk := (e.blk.setMembers x.v fun m => m ||| (1#64 <<< e.c)).setCrew e.c (e.advance s e.cw)
      .next (finishIssue (s.setBlock e.b blk) e)

/-- LEAVE (R245). -/
def execLeave (x : XOps) (s : State) : Out :=
  issue s (.leave x) fun s e => perCrew s e <|
    if !(e.blk.team x.v).valid then trapAt s e 0x16 1 e.act
    else if !(e.blk.team x.v).members.getLsbD e.c then trapAt s e 0x16 2 e.act
    else
      let blk := (e.blk.setMembers x.v fun m => m &&& ~~~(1#64 <<< e.c)).setCrew e.c (e.advance s e.cw)
      .next (finishIssue (s.setBlock e.b blk) e)

/-- The arrival set of slot k, and of the block at k = 8 (R246). -/
def Block.arrived (x : Block) (k : Nat) : BitVec 64 := getAt 0 x.arrive k

/-- A crew arrives, after every earlier store of it has been written, and waits (R246). -/
def arriveAt (s : State) (e : Env) (i : Instr) (k : Nat) : Out :=
  afterQueue s e i fun s e =>
    let s' := waitAt s e i
    .next (match s'.block e.b with
      | none => s'
      | some x => s'.setBlock e.b { x with arrive := setAt 0 x.arrive k (x.arrived k ||| (1#64 <<< e.c)) })

/-- BAR (R246). -/
def execBar (x : XOps) (s : State) : Out :=
  issue s (.bar x) fun s e => perCrew s e <|
    if (e.blk.team x.v).members.getLsbD e.c then arriveAt s e (.bar x) x.v else trapAt s e 0x16 2 e.act

/-- BAR.BLK (R246). -/
def execBarBlk (x : XOps) (s : State) : Out :=
  issue s (.barBlk x) fun s e => perCrew s e (arriveAt s e (.barBlk x) 8)

/-- The crews that a barrier needs: the members of the slot, or every crew of the block that is not draining. -/
def Block.needed (x : Block) (k : Nat) : BitVec 64 :=
  if k < 8 then (x.team k).members
  else x.crews.foldl (fun m p => if p.2.wait = .draining then m else m ||| (1#64 <<< p.1)) 0

/-- The crews of a set in ascending order. -/
def crewsIn (m : BitVec 64) : List Nat := (List.range 64).filter fun j => m.getLsbD j

/-- A barrier has joined a set of crews of a block: a job that one of them submitted, or was ordered after, is ordered before
all of them (R304, R315). -/
def State.joinJobs (s : State) (b : Nat) (m : BitVec 64) : State :=
  s.mapSeen b fun k t => (if k &&& m ≠ 0 then k ||| m else k, t)

/-- One arrived crew goes on. -/
def releaseCrew (s : State) (b c : Nat) : State :=
  match s.waitOf b c with
  | some (.bar x, pc, act, _) => s.resume b c (.bar x) pc act []
  | some (.barBlk x, pc, act, _) => s.resume b c (.barBlk x) pc act []
  | _ => s

/-- BARRIER_RELEASE (R246): the set holds every crew it needs, is emptied, and its crews go on. -/
def execBarrierRelease (b k : Nat) (s : State) : Out :=
  match s.block b with
  | none => notEnabled "BARRIER_RELEASE"
  | some x =>
    let m := x.arrived k
    if m ≠ 0 ∧ x.needed k &&& ~~~m = 0 ∧ k ≤ 8 then
      .next ((crewsIn m).foldl (fun s c => releaseCrew s b c)
        ((s.setBlock b { x with arrive := setAt 0 x.arrive k 0 }).joinJobs b m))
    else notEnabled "BARRIER_RELEASE"

end Sys2Proof.Machine
end

