-- ==== Sys2Proof/Machine/Records.lean ====
section
/-! DEFINITION. Layouts (R189 to R193): the swizzle, layout words and shape records with their checks, the record cache,
LAYOUT and RCFENCE (R249, R250), and accesses to global memory on behalf of a block. -/

namespace Sys2Proof.Machine

/-! ### Addresses -/

/-- The swizzle of an offset relative to the layout's base (R189). -/
def swizzle (m o : Nat) : Nat :=
  if m = 0 then o
  else
    let g := m % 4
    let h := m / 4 % 4
    let x := bitsOf o 8 13 / 2 ^ h % 2 ^ (6 - g) * 2 ^ g
    o - o % 256 + 4 * (bitsOf o 2 6 ^^^ x) + o % 4

/-- The half-bytes of an element of a width code (R84): code 0 is half a byte. -/
def ewNibbles (ew : Nat) : Nat := 2 ^ ew
/-- The bytes of an element, at least one. -/
def ewBytes (ew : Nat) : Nat := max 1 (2 ^ ew / 2)

/-- The offset of an element before the swizzle (R192). -/
def Layout.off (l : Layout) (i0 i1 i2 i3 : Nat) : Nat :=
  i0 * ewNibbles l.ew / 2 + i1 * l.str1 + i2 * l.str2 + i3 * l.str3
/-- The local byte address of an element (R192). -/
def Layout.addr (l : Layout) (i0 i1 i2 i3 : Nat) : Nat := l.base + swizzle l.perm (l.off i0 i1 i2 i3)

/-! ### Checks -/

/-- A layout word of 96 bits; none when it is invalid (R190, R192). -/
def wordLayout (x : Nat) : Option Layout :=
  let ew := bitsOf x 21 3
  let l : Layout := { base := bitsOf x 0 21, ew := ew, perm := bitsOf x 24 4, str1 := bitsOf x 32 21,
                      str2 := bitsOf x 53 21, str3 := bitsOf x 74 21 }
  if bitsOf x 28 4 ≠ 0 ∨ bitsOf x 95 1 ≠ 0 ∨ ew ≥ 5 then none
  else if [l.str1, l.str2, l.str3].any fun k => k % ewBytes ew ≠ 0 then none
  else if l.perm ≠ 0 ∧ l.base % 256 ≠ 0 then none
  else some l

/-- A dimension at or beyond NDIM has extent 1 and strides 0 (R192). -/
def dimOk (ndim d ext ls : Nat) (gs : Int) : Bool := decide (d < ndim) || (ext = 1 && ls = 0 && gs = 0)

/-- A shape record of 192 bytes read as a number; none when it is invalid (R191, R192). `ew` is the width code of the
local element, `loff` a base added to the record's own. -/
def shapeLayout (x : Nat) (localEw loff : Nat) : Option Layout :=
  let ew := bitsOf x 8 8
  let f (o n : Nat) : Nat := bitsOf x (8 * o) (8 * n)
  let e0 := f 0x08 4
  let e1 := f 0x0C 4
  let e2 := f 0x10 4
  let e3 := f 0x14 4
  let g1 := signedOf 64 (f 0x18 8)
  let g2 := signedOf 64 (f 0x20 8)
  let g3 := signedOf 64 (f 0x28 8)
  let nd := bitsOf x 0 8
  let sck := bitsOf x 24 8
  let l : Layout := { base := bitsOf x 32 21 + loff, ew := localEw, perm := bitsOf x 16 4, str1 := f 0x30 4,
                      str2 := f 0x34 4, str3 := f 0x38 4, ext := some (e0, e1, e2, e3), gstr1 := g1,
                      gstr2 := g2, gstr3 := g3, sck := sck, scva := f 0x40 8, scloff := f 0x48 4 }
  let lim := 2097152
  if bitsOf x 20 4 ≠ 0 ∨ f 0x04 4 ≥ lim ∨ l.str1 ≥ lim ∨ l.str2 ≥ lim ∨ l.str3 ≥ lim ∨ f 0x3C 4 ≠ 0
      ∨ l.scloff ≥ lim ∨ f 0x4C 116 ≠ 0 ∨ sck ≥ 3 then none
  else if ew ≥ 5 ∨ nd = 0 ∨ nd > 4 ∨ e0 = 0 ∨ e1 = 0 ∨ e2 = 0 ∨ e3 = 0 then none
  else if !(dimOk nd 1 e1 l.str1 g1 && dimOk nd 2 e2 l.str2 g2 && dimOk nd 3 e3 l.str3 g3) then none
  else if ew = 0 ∧ e0 % 2 = 1 then none
  else if [l.str1, l.str2, l.str3].any fun k => k % ewBytes localEw ≠ 0 then none
  else if [g1, g2, g3].any fun k => k % (ewBytes ew : Nat) ≠ 0 then none
  else if l.perm ≠ 0 ∧ l.base % 256 ≠ 0 then none
  else if (sck = 1 ∧ ew ≠ 0) ∨ (sck = 2 ∧ ew ≠ 1) then none
  else some l

/-- The width code of a shape record. -/
def shapeEw (x : Nat) : Nat := bitsOf x 8 8

/-! ### Global memory for a block -/

/-- An access on behalf of a block. -/
def accOf (x : Block) (owner : Nat) : Acc := { die := x.die, slot := x.slot, owner := owner }
/-- The owner number of a crew's own accesses. -/
def crewOwner (b c : Nat) : Nat := 2 * (64 * b + c) + 1
/-- The number of a core, under which its record cache goes. -/
def Block.coreNo (x : Block) : Nat := locOf x.die x.cluster x.core 0

/-- A cause of an access made for a crew at the issue of its instruction. -/
def gotAt {α : Type} (s0 : Env) (g : Got α) (k : State → α → Out) : Out :=
  match g with
  | .ok s x => k (s.forget (crewOwner s0.b s0.c)) x
  | .wait s => .next s
  | .fail s t => .next (s.raiseIssue s0.b s0.c { t with pc := s0.ipc, lanes := s0.act, next := s0.next })

/-! ### The record cache (R193) -/

/-- The bytes of a shape record as an engine of a core reads it: from the record cache, filled on the first use. A
full cache of 64 drops the record it filled earliest (DESIGN CHOICE, log 95: R193 says only that a record stays until it is
replaced). -/
def State.recordAt (s : State) (x : Block) (va owner : Nat) : Got Nat :=
  let asid := (s.ctx x.slot).asid
  match s.records.find? fun r => r.1 = x.coreNo && r.2.1 = asid && r.2.2.1 = va with
  | some r => .ok s (bytesToNat r.2.2.2)
  | none =>
    (s.gread { accOf x owner with rd := true } va 192).bind fun s (bs, _) =>
      let mine := s.records.filter fun r => r.1 = x.coreNo
      let rest := s.records.filter fun r => r.1 ≠ x.coreNo
      .ok { s with records := rest ++ mine.drop (mine.length - 63) ++ [(x.coreNo, asid, va, bs)] } (bytesToNat bs)

/-- The layout that a layout group names: the word itself, or the record whose VA the first two registers hold. None
when it is invalid (R189 to R192). `vals` are the values of the group's registers. -/
def State.layoutOf (s : State) (x : Block) (vals : List Nat) (owner : Nat) : Got (Option Layout) :=
  let lo := vals.getD 0 0 + 4294967296 * vals.getD 1 0
  if x.r.lrec then
    if lo % 64 ≠ 0 then .ok s none
    else (s.recordAt x lo owner).bind fun s r => .ok s (shapeLayout r (shapeEw r) 0)
  else .ok s (wordLayout (lo + 18446744073709551616 * vals.getD 2 0))

/-- The values of four uniform registers from `k`. -/
def Crew.group (w : Crew) (k : Nat) : List Nat := (List.range 4).map fun j => (w.rs (k + j)).toNat

/-! ### LAYOUT and RCFENCE -/

/-- The address that LAYOUT writes in a lane (R250). -/
def layoutResult (w : Crew) (l : Layout) (a lane : Nat) : Nat :=
  let i (k : Nat) : Nat := (w.rv (a + k) lane).toNat
  let out : Bool := match l.ext with
    | none => false
    | some (e0, e1, e2, e3) => decide (e0 ≤ i 0) || decide (e1 ≤ i 1) || decide (e2 ≤ i 2) || decide (e3 ≤ i 3)
  if out then 0xFFFFFFFF else l.addr (i 0) (i 1) (i 2) (i 3) % 4294967296

/-- LAYOUT (R250). -/
def execLayout (x : XOps) (s : State) : Out :=
  issue s (.layout x) fun s e =>
    gotAt e (s.layoutOf e.blk (e.cw.group x.b) (crewOwner e.b e.c)) fun s l =>
      match l with
      | none => trapAt s e 0x1A 0 e.act
      | some l => complete s (e.refresh s) (perLane e.part fun k =>
          (regWrites false x.d k (layoutResult e.cw l x.a k) 1, 0))

/-- The records of a core that belong to an ASID leave its cache (R249). -/
def State.dropRecords (s : State) (core asid : Nat) : State :=
  { s with records := s.records.filter fun r => !(r.1 = core && r.2.1 = asid) }

/-- RCFENCE (R249). -/
def execRcfence (x : XOps) (s : State) : Out :=
  issue s (.rcfence x) fun s e => perCrew s e <| afterQueue s e (.rcfence x) fun s e =>
    complete (s.dropRecords e.blk.coreNo (s.ctx e.blk.slot).asid) e {}

end Sys2Proof.Machine
end

