-- ==== Sys2Proof/Machine/MatrixOps.lean ====
section
/-! DEFINITION. The matrix array (R201 to R220): formats and classes, operand placement and scales, the checks at issue
against what the queue will leave behind, the step rules, and the conversion of a drained entry. -/

namespace Sys2Proof.Machine

/-! ### Formats -/

/-- The classes of R202. -/
inductive MClass where
  | narrow | integer | half | single | double | moment
  deriving DecidableEq, Repr

/-- The class of a format (R202). -/
def mclass : MFmt → MClass
  | .e2m1 | .e4m3 | .e5m2 | .e4m3s | .e5m2s | .lut4 => .narrow
  | .s8 | .z8 => .integer
  | .bf16 | .f16 => .half
  | .f32 => .single
  | .f64 => .double
  | .mw => .moment

/-- The step size of a class (R203). -/
def stepSize (c : MClass) : Nat := if c = .double then 16 else 32

/-- The element format of a float matrix format. -/
def mfmtFmt : MFmt → Fmt
  | .e2m1 => .e2m1
  | .e4m3 | .e4m3s => .e4m3
  | .e5m2 | .e5m2s => .e5m2
  | .bf16 | .lut4 => .bf16
  | .f16 => .f16
  | .f64 => .f64
  | _ => .f32

/-- The width code of a type's elements (R84, R218). -/
def tyEW (t : Ty) : Nat :=
  match tyBits t with
  | 64 => 4
  | 32 => 3
  | 16 => 2
  | 8 => 1
  | _ => 0

/-! ### Elements in bytes -/

/-- Element `i` of a width code in packed bytes from an address (R36, R204). -/
def packedElem (m : Sparse Byte) (a ew i : Nat) : Nat :=
  if ew = 0 then bitsOf (getByte m (a + i / 2)).toNat (4 * (i % 2)) 4 else readLE m (a + i * ewBytes ew) (ewBytes ew)
/-- The packed bytes with element `i` replaced. -/
def putPacked (m : Sparse Byte) (a ew i x : Nat) : Sparse Byte :=
  if ew = 0 then
    let old := (getByte m (a + i / 2)).toNat
    let new := if i % 2 = 0 then old / 16 * 16 + x % 16 else old % 16 + 16 * (x % 16)
    setByte m (a + i / 2) (BitVec.ofNat 8 new)
  else writeLE m (a + i * ewBytes ew) (ewBytes ew) x

/-- The element of a layout in the share (R192): i0 chooses the half of a byte under EW 0. -/
def Block.elem (x : Block) (l : Layout) (i0 i1 : Nat) : Nat :=
  let a := l.addr i0 i1 0 0
  if l.ew = 0 then bitsOf (getByte x.share a).toNat (4 * (i0 % 2)) 4 else readLE x.share a (ewBytes l.ew)

/-- Write of an element of a layout in the share; one narrower than a word is a store of a part of it (R199; DESIGN CHOICE, log 116). -/
def State.putElem (s : State) (b : Nat) (l : Layout) (i0 i1 v : Nat) : State :=
  let a := l.addr i0 i1 0 0
  if l.ew = 0 then
    match s.block b with
    | none => s
    | some x =>
      let old := (getByte x.share a).toNat
      s.storeShare b 255 a [BitVec.ofNat 8 (if i0 % 2 = 0 then old / 16 * 16 + v % 16 else old % 16 + 16 * (v % 16))]
  else s.storeShare b 255 a (natToBytes (ewBytes l.ew) v)

/-- The pairs (i, j) below two bounds, i outermost. -/
def pairs (n m : Nat) : List (Nat × Nat) := (List.range n).flatMap fun i => (List.range m).map fun j => (i, j)

/-- Every element (i0, i1) below two extents lies in the share. -/
def Layout.inShare (l : Layout) (lmem n0 n1 : Nat) : Bool :=
  (pairs n1 n0).all fun p => decide (l.addr p.2 p.1 0 0 + ewBytes l.ew ≤ lmem)

/-! ### The values of a slot -/

/-- The bytes of a weight column in a slot (R225): 128, or 256 for MW. -/
def wPitch (f : MFmt) : Nat := if f = .mw then 256 else 128
/-- The raw weight (k, n) of a slot. -/
def WSlot.raw (w : WSlot) (k n : Nat) : Nat := packedElem w.wt (wPitch w.fmt * n) (mfmtEW w.fmt) k
/-- Two bytes of a scale area as a BF16 value. -/
def scaleAt (m : Sparse Byte) (a : Nat) : Val := valueOf .bf16 (readLE m a 2)
/-- The value of a weight without its band or block scale (R43, R44, R53). -/
def WSlot.val (w : WSlot) (k n : Nat) : Val :=
  match w.fmt with
  | .e2m1 => (mulVal (valueOf .e2m1 (w.raw k n)) (microVal (getByte w.sc (128 * (k / 8) + n)).toNat)).1
  | .lut4 => valueOf .bf16 (getAt 0 w.ct (w.raw k n)).toNat
  | f => valueOf (mfmtFmt f) (w.raw k n)
/-- The value 1. -/
def oneVal : Val := .num false 1 1
/-- The band or block scale of a weight column at a step (R205). -/
def WSlot.scale (w : WSlot) (g n : Nat) : Val :=
  match w.fmt with
  | .e2m1 => scaleAt w.sc (4096 + 2 * (32 * g / 64))
  | .e4m3s | .e5m2s => scaleAt w.sc (256 * g + 2 * n)
  | _ => oneVal
/-- NV of the signalling weights and scales of a column at a step over some K indices (R39): elements, table entries, and
the BF16 band or block scale. -/
def WSlot.snan (w : WSlot) (g n : Nat) (ks : List Nat) : Flags :=
  (match w.fmt with
    | .lut4 => snanFlag .bf16 (ks.map fun k => (getAt 0 w.ct (w.raw k n)).toNat)
    | f => snanFlag (mfmtFmt f) (ks.map fun k => w.raw k n))
  ||| (match w.fmt with
    | .e2m1 => snanFlag .bf16 [readLE w.sc (4096 + 2 * (32 * g / 64)) 2]
    | .e4m3s | .e5m2s => snanFlag .bf16 [readLE w.sc (256 * g + 2 * n) 2]
    | _ => 0)
/-- The moment weight (k, n) of a slot: mean and variance. -/
def WSlot.pair (w : WSlot) (k n : Nat) : Nat × Nat :=
  let x := w.raw k n
  if w.fmt = .mw then (x % 4294967296, x / 4294967296) else (x, 0)
/-- Slot 0 or 1. -/
def Matrix.slot (m : Matrix) (k : Nat) : WSlot := if k = 0 then m.w0 else m.w1
/-- The matrix with a slot replaced. -/
def Matrix.setSlot (m : Matrix) (k : Nat) (w : WSlot) : Matrix := if k = 0 then { m with w0 := w } else { m with w1 := w }
/-- Entry (r, n) of an accumulator. -/
def Matrix.entry (m : Matrix) (a r n : Nat) : DWord := getAt 0 m.accs (16384 * a + 128 * r + n)
/-- The matrix with an entry replaced. -/
def Matrix.setEntry (m : Matrix) (a r n : Nat) (x : DWord) : Matrix :=
  { m with accs := setAt 0 m.accs (16384 * a + 128 * r + n) x }
/-- The mode of an accumulator (R217). -/
def Matrix.mode (m : Matrix) (a : Nat) : Nat := getAt 0 m.amode a
/-- An accumulator is zeroed. -/
def Matrix.zeroAcc (m : Matrix) (a : Nat) : Matrix := { m with accs := m.accs.filter fun p => p.1 / 16384 ≠ a }
/-- A tile is zeroed. -/
def Matrix.zeroTile (m : Matrix) (t : Nat) : Matrix := { m with tiles := m.tiles.filter fun p => p.1 / 16384 ≠ t }
/-- The DIRTY flag of a tile is set or cleared. -/
def Matrix.dirtyTile (m : Matrix) (t : Nat) (x : Bool) : Matrix :=
  { m with tdirty := if x then m.tdirty ||| (1#8 <<< t) else m.tdirty &&& ~~~(1#8 <<< t) }
/-- The DIRTY flag of an accumulator is set or cleared. -/
def Matrix.dirtyAcc (m : Matrix) (a : Nat) (x : Bool) : Matrix :=
  { m with adirty := if x then m.adirty ||| (1#4 <<< a) else m.adirty &&& ~~~(1#4 <<< a) }
/-- A release form zeroes a tile and clears its flag. -/
def Matrix.relTile (m : Matrix) (t : Nat) : Matrix := (m.zeroTile t).dirtyTile t false
/-- A release form zeroes an accumulator and clears its flag. -/
def Matrix.relAcc (m : Matrix) (a : Nat) : Matrix := (m.zeroAcc a).dirtyAcc a false
/-- Flags are ORed into MSW (R213, R222). -/
def Matrix.orMsw (m : Matrix) (f : Word) : Matrix := { m with msw := m.msw ||| f }
/-- The latched cause (R222). -/
def Matrix.lcause (m : Matrix) : Nat := (m.msw.extractLsb' 8 8).toNat

/-! ### The checks at issue (R207) -/

/-- What the queue will leave of a slot: VALID, FMT, KLEN, NLEN. -/
structure SlotView where
  valid : Bool
  fmt : MFmt
  klen : Nat
  nlen : Nat
  deriving DecidableEq, Repr

/-- What the queue will leave behind, as far as the checks need it. -/
structure MView where
  s0 : SlotView
  s1 : SlotView
  amode : Sparse Nat
  latched : Bool
  deriving DecidableEq, Repr

/-- A slot as it stands. -/
def WSlot.view (w : WSlot) : SlotView := ⟨w.valid, w.fmt, w.klen, w.nlen⟩
/-- KLEN of MXW (R210). -/
def klenOf (x : MxOps) : Nat := 16 * (x.kq + 1)
/-- NLEN of MXW. -/
def nlenOf (x : MxOps) : Nat := x.nlen1 + 1
/-- MLEN of a stream. -/
def mlenOf (x : MxOps) : Nat := x.mlen1 + 1
/-- A slot of the view. -/
def MView.slot (v : MView) (k : Nat) : SlotView := if k = 0 then v.s0 else v.s1

/-- What a queued command leaves behind; nothing while a cause is latched (R209). -/
def MView.after (v : MView) (q : MCmd) : MView :=
  match q.i with
  | .mxprog _ => { v with latched := false }
  | i =>
    if v.latched || q.fail ≠ 0 then { v with latched := true }
    else match i with
      | .mxw x =>
        let w : SlotView := ⟨true, x.fmt, klenOf x, nlenOf x⟩
        if x.slot = 0 then { v with s0 := w } else { v with s1 := w }
      | .accz x =>
        let m := setAt 0 v.amode x.acc x.mode
        { v with amode := if x.mode = 4 then setAt 0 m (x.acc + 1) 4 else m }
      | .accld x => { v with amode := setAt 0 v.amode x.acc x.mode }
      | _ => v
/-- The state before the queue. -/
def Matrix.now (m : Matrix) : MView := ⟨m.w0.view, m.w1.view, m.amode, decide (m.lcause ≠ 0)⟩
/-- The state that the queue will leave behind. -/
def Matrix.view (m : Matrix) : MView := m.queue.foldl MView.after m.now

/-- The layout a command uses, if it uses one. -/
def usesLayout : Instr → Bool
  | .mxw x | .mxa x => x.loc
  | .mxg _ | .mxm _ | .mxtl _ | .mxts _ | .accld _ | .accst _ => true
  | .accdr x => x.dst = 0
  | _ => false

/-- A stream's slot, format, whether it is MXM, accumulator and rows. -/
def streamOf : Instr → Option (MxOps × Bool)
  | .mxa x | .mxg x => some (x, false)
  | .mxm x => some (x, true)
  | _ => none

/-! ### Step rules -/

/-- The sum of a group (R53): a NaN, an infinity, or the exact sum, whose zero is +0. -/
def groupSum (ps : List Val) : Val := ps.foldl (fun g p => (addVal false g p).1) (.num false 0 1)
/-- RoundF64 of C plus a term, with its flags; a signalling C raises NV (R39, R49, R53). The NaN of ∞ − ∞ raises none (R50). -/
def accAdd (c : Nat) (p : Val) : Nat × Flags :=
  let r := roundTo .f64 (addVal false (valueOf .f64 c) p).1 .rn false
  (r.1, r.2 ||| snanFlag .f64 [c])
/-- One narrow step of an entry (R53); `fl` is NV for a signalling operand of it (R39). -/
def narrowStep (c : Nat) (ps : List Val) (sa sw : Val) (fl : Flags) : Nat × Flags :=
  let r := accAdd c (mulVal (mulVal (groupSum ps) sa).1 sw).1
  (r.1, r.2 ||| fl)
/-- The products of a step added one at a time; a signalling operand raises NV (R39, R54). The NaN of ∞ − ∞ or of 0 × ∞ raises
none (R50). -/
def seqStep (f : Fmt) (fw : Fmt) : List (Nat × Nat) → Nat → Nat × Flags
  | [], c => (c, 0)
  | (a, w) :: rest, c =>
    let r := roundTo .f64 (fmaVal false (valueOf f a) (valueOf fw w) (valueOf .f64 c)).1 .rn false
    let (c', fl) := seqStep f fw rest r.1
    (c', r.2 ||| snanFlag f [a] ||| snanFlag fw [w] ||| snanFlag .f64 [c] ||| fl)
/-- The integer a byte of S8 or Z8 stands for (R214). -/
def byteInt (f : MFmt) (x : Nat) : Int := if f = .s8 then signedOf 8 x else (x % 256 : Nat)
/-- One integer step: the new entry and whether S32S saturated (R55, R214). -/
def intStep (mode : Nat) (c : Nat) (g : Int) : Nat × Bool :=
  match mode with
  | 3 => (wrapNat 64 (signedOf 64 c + g), false)
  | 2 => (wrapNat 64 (signedOf 32 (wrapNat 32 (signedOf 32 c + g))), false)
  | _ => let t := signedOf 32 c + g
    (wrapNat 64 (satInt true 32 t), decide (satInt true 32 t ≠ t))
/-- The terms of MXM for one K index: mean and variance terms, and flags (R216). -/
def momTerms (w : WSlot) (k n a : Nat) : Val × Val × Flags :=
  let mu := valueOf .f32 (a % 4294967296)
  let v := valueOf .f32 (a / 4294967296)
  let p := w.pair k n
  let sn := snanFlag .f32 [a % 4294967296, a / 4294967296, p.1, p.2]
  let wm := valueOf .f32 p.1
  let wv := valueOf .f32 p.2
  let x (a b : Val) : Val := (mulVal a b).1
  let tv := if w.fmt = .mw then
      (addVal false (addVal false (x (x wm wm) v) (x (x wv mu) mu)).1 (x wv v)).1
    else x (x wm wm) v
  let r := roundTo .f64 tv .rn false
  let neg (y : Val) : Bool := ltVal y (.num false 0 1)
  if neg v || (w.fmt = .mw && neg wv) then (x wm mu, .nan, r.2 ||| flagNV ||| sn)
  else (x wm mu, valueOf .f64 r.1, r.2 ||| sn)
/-- The moment step of a pair of entries over its K indices (R216). -/
def momStep (w : WSlot) (n : Nat) : List (Nat × Nat) → Nat → Nat → Nat × Nat × Flags
  | [], cm, cv => (cm, cv, 0)
  | (k, a) :: rest, cm, cv =>
    let (tm, tv, f0) := momTerms w k n a
    let rm := accAdd cm tm
    let rv := accAdd cv tv
    let (m, v, fl) := momStep w n rest rm.1 rv.1
    (m, v, f0 ||| rm.2 ||| rv.2 ||| fl)

/-- The raw stream element (m, k) of a command (R204, R215). -/
def streamElem (x : Block) (q : MCmd) (m k : Nat) : Nat :=
  match q.i with
  | .mxa y => if y.loc then x.elem q.lay k m else packedElem x.mx.tiles (16384 * y.tile + 128 * m) (mfmtEW y.fmt) k
  | .mxg _ => let u := q.rows.getD m 0xFFFFFFFF
    if u = 0xFFFFFFFF then 0 else x.elem q.lay k u
  | _ => x.elem q.lay k m
/-- The value of a stream element without its band or block scale. -/
def streamVal (x : Block) (q : MCmd) (f : MFmt) (sb m k : Nat) : Val :=
  let v := valueOf (mfmtFmt f) (streamElem x q m k)
  if f = .e2m1 then (mulVal v (microVal (getByte x.share (sb + 128 * (k / 8) + m)).toNat)).1 else v
/-- The band or block scale of a stream row at a step (R205). -/
def streamScale (x : Block) (f : MFmt) (sb g m : Nat) : Val :=
  match f with
  | .e2m1 => scaleAt x.share (sb + 4096 + 2 * (m / 64))
  | .e4m3s | .e5m2s => scaleAt x.share (sb + 256 * g + 2 * m)
  | _ => oneVal

/-- NV of the signalling elements and scale of a stream row at a step (R39). -/
def streamSnan (x : Block) (q : MCmd) (f : MFmt) (sb g m : Nat) (ks : List Nat) : Flags :=
  snanFlag (mfmtFmt f) (ks.map fun k => streamElem x q m k)
  ||| (match f with
    | .e2m1 => snanFlag .bf16 [readLE x.share (sb + 4096 + 2 * (m / 64)) 2]
    | .e4m3s | .e5m2s => snanFlag .bf16 [readLE x.share (sb + 256 * g + 2 * m) 2]
    | _ => 0)

/-- One step of MXA or MXG on one entry (R213): the new entry, flags, saturation. -/
def entryStep (x : Block) (q : MCmd) (y : MxOps) (g m n : Nat) : DWord × Flags × Bool :=
  let w := x.mx.slot y.slot
  let sb := q.bv.getD 0 0
  let c := (x.mx.entry y.acc m n).toNat
  let cl := mclass y.fmt
  let ks := (List.range (stepSize cl)).map fun j => g * stepSize cl + j
  match cl with
  | .narrow =>
    let r := narrowStep c (ks.map fun k => (mulVal (streamVal x q y.fmt sb m k) (w.val k n)).1)
      (streamScale x y.fmt sb g m) (w.scale g n) (streamSnan x q y.fmt sb g m ks ||| w.snan g n ks)
    (BitVec.ofNat 64 r.1, r.2, false)
  | .integer =>
    let za := byteInt y.fmt y.za
    let zw := byteInt w.fmt w.zw
    let gs := ks.foldl (fun t k =>
      t + (byteInt y.fmt (streamElem x q m k) - za) * (byteInt w.fmt (w.raw k n) - zw)) (0 : Int)
    let r := intStep (x.mx.mode y.acc) c gs
    (BitVec.ofNat 64 r.1, 0, r.2)
  | _ =>
    let r := seqStep (mfmtFmt y.fmt) (mfmtFmt w.fmt) (ks.map fun k => (streamElem x q m k, w.raw k n)) c
    (BitVec.ofNat 64 r.1, r.2, false)

/-- One step of MXA or MXG on every entry: they all read the state before the step, and each writes its own. -/
def gemmStep (x : Block) (q : MCmd) (y : MxOps) (g : Nat) : Matrix :=
  (pairs (mlenOf y) (x.mx.slot y.slot).nlen).foldl (fun m p =>
    let r := entryStep x q y g p.1 p.2
    (m.setEntry y.acc p.1 p.2 r.1).orMsw (r.2.1.setWidth 32 ||| (if r.2.2 then 0x20#32 else 0))) x.mx

/-- One step of MXM on every pair of entries (R216). -/
def momentStep (x : Block) (q : MCmd) (y : MxOps) (g : Nat) : Matrix :=
  let w := x.mx.slot y.slot
  (pairs (mlenOf y) w.nlen).foldl (fun m p =>
    let ks := (List.range 32).map fun j => let k := 32 * g + j; (k, streamElem x q p.1 k)
    let (cm, cv, fl) := momStep w p.2 ks (x.mx.entry y.acc p.1 p.2).toNat (x.mx.entry (y.acc + 1) p.1 p.2).toNat
    ((m.setEntry y.acc p.1 p.2 (BitVec.ofNat 64 cm)).setEntry (y.acc + 1) p.1 p.2 (BitVec.ofNat 64 cv)).orMsw
      (fl.setWidth 32)) x.mx

/-! ### Draining (R219, R220) -/

/-- A type of ACCDR is an integer type. -/
def drainInt (t : Ty) : Bool := [Ty.s8, .z8, .s16, .z16, .s32, .z32].contains t
/-- The value of an entry under its mode. -/
def entryInt (mode : Nat) (c : Nat) : Int := if mode = 3 then signedOf 64 c else signedOf 32 c
/-- The requantised integer of R220. -/
def requant (c : Int) (e : Nat) : Int :=
  let p := c * signedOf 32 (bitsOf e 0 32)
  sInt (p < 0) (roundInt .rn (p < 0) p.natAbs (2 ^ (31 + bitsOf e 32 6))) + signedOf 16 (bitsOf e 48 16)
/-- One drained entry as the bits of T, with the flags for MSW (R219, R220). `e` is its column-table entry. -/
def drainVal (d : DrainOps) (mode c e : Nat) : Nat × Flags :=
  if drainInt d.t then
    let y := if d.pcs then requant (entryInt mode c) e else entryInt mode c
    let o := satInt (tySigned d.t) (tyBits d.t) y
    (wrapNat (tyBits d.t) o, flagIf (o ≠ y) flagOF)
  else
    let v := if mode = 0 then valueOf .f64 c else intVal (entryInt mode c)
    let v := if d.pcs then (mulVal v (valueOf .f32 (e % 4294967296))).1 else v
    finish (elemFmt d.t).1 (rndOf d.rnd) d.o v
      ((if mode = 0 then snanFlag .f64 [c] else 0) ||| (if d.pcs then snanFlag .f32 [e % 4294967296] else 0))
/-- The drained moment element of a pair of entries (R219). -/
def drainPair (d : DrainOps) (cm cv : Nat) : Nat × Flags :=
  let a := finish .f32 (rndOf d.rnd) d.o (valueOf .f64 cm) (snanFlag .f64 [cm])
  let b := finish .f32 (rndOf d.rnd) d.o (valueOf .f64 cv) (snanFlag .f64 [cv])
  (a.1 + 4294967296 * b.1, a.2 ||| b.2)
/-- The drained element of window position (r, j). -/
def drained (x : Block) (d : DrainOps) (sT r j : Nat) : Nat × Flags :=
  let m := x.mx
  let c := (m.entry d.acc (d.row0 + r) (d.col0 + j)).toNat
  if m.mode d.acc = 4 then drainPair d c (m.entry (d.acc + 1) (d.row0 + r) (d.col0 + j)).toNat
  else drainVal d (m.mode d.acc) c (if d.pcs then readLE x.share (sT + 8 * (d.col0 + j)) 8 else 0)

end Sys2Proof.Machine
end

