-- ==== Sys2Proof/Machine/Matrix.lean ====
section
/-! DEFINITION. The matrix commands at their issue (R206 to R211) and at their turn in the queue (R209, R212 to R222,
R224), the turns being events of the array. -/

namespace Sys2Proof.Machine

/-! ### The queue -/

/-- The tiles a command names (R206). -/
def tilesOf : Instr → List Nat
  | .mxw x | .mxa x => if x.loc then [] else [x.tile]
  | .mxtl x | .mxts x => [x.tile]
  | .accdr x => if x.dst = 1 then [x.tile] else []
  | _ => []
/-- The accumulators a command names (R206), in the modes that the commands before it leave. -/
def accsOf (v : MView) : Instr → List Nat
  | .mxa x | .mxg x => [x.acc]
  | .mxm x => [x.acc, x.acc + 1]
  | .accz x => if x.mode = 4 then [x.acc, x.acc + 1] else [x.acc]
  | .accld x | .accst x => [x.acc]
  | .accdr x => if getAt 0 v.amode x.acc = 4 then [x.acc, x.acc + 1] else [x.acc]
  | _ => []
/-- The accumulators that the commands of a queue name. -/
def namedAccs : MView → List MCmd → List Nat
  | _, [] => []
  | v, q :: qs => accsOf v q.i ++ namedAccs (v.after q) qs
/-- The IU flags: set while a queued command names the register (R195, R206). -/
def Matrix.setIu (m : Matrix) : Matrix :=
  { m with tiu := (m.queue.flatMap fun q => tilesOf q.i).foldl (fun w t => w ||| (1#8 <<< t)) 0,
           aiu := (namedAccs m.now m.queue).foldl (fun w a => w ||| (1#4 <<< a)) 0 }
/-- A block's matrix replaced. -/
def State.setMx (s : State) (b : Nat) (m : Matrix) : State :=
  match s.block b with
  | none => s
  | some x => s.setBlock b { x with mx := m }
/-- A command enters the queue (R206). -/
def Block.mxEnter (x : Block) (q : MCmd) : Block :=
  { x with mx := { x.mx with queue := x.mx.queue ++ [q] }.setIu }
/-- The head leaves the queue. -/
def Matrix.pop (m : Matrix) : Matrix := { m with queue := m.queue.drop 1 }.setIu

/-! ### What a command does to the array -/

/-- The bytes of a slot that MXW latches (R204, R212), columns in the pitch of R225. -/
def latchBytes (x : Block) (q : MCmd) (y : MxOps) : Sparse Byte :=
  let ew := mfmtEW y.fmt
  let val (k n : Nat) : Nat :=
    if klenOf y ≤ k then 0
    else if y.loc then x.elem q.lay k n
    else packedElem x.mx.tiles (16384 * y.tile + wPitch y.fmt * n) ew k
  (pairs (nlenOf y) (wPitch y.fmt)).filterMap fun p =>
    let j := p.2
    let v := if ew = 0 then val (2 * j) p.1 + 16 * val (2 * j + 1) p.1
      else val (j / ewBytes ew) p.1 / 256 ^ (j % ewBytes ew) % 256
    if v = 0 then none else some (wPitch y.fmt * p.1 + j, BitVec.ofNat 8 v)
/-- The scale offsets of a weight slot (R205). -/
def scaleOffs (f : MFmt) (k n : Nat) : List Nat :=
  match f with
  | .e2m1 => (pairs ((k + 7) / 8) n).map (fun p => 128 * p.1 + p.2)
    ++ (pairs ((k + 63) / 64) 2).map fun p => 4096 + 2 * p.1 + p.2
  | .e4m3s | .e5m2s => (pairs ((k + 31) / 32) (2 * n)).map fun p => 256 * p.1 + p.2
  | _ => []
/-- The scales that MXW copies (R212). -/
def latchScales (x : Block) (q : MCmd) (y : MxOps) : Sparse Byte :=
  (scaleOffs y.fmt (klenOf y) (nlenOf y)).foldl (fun t o => setByte t o (getByte x.share (q.bv.getD 0 0 + o))) []

/-- MXW takes its turn (R212): a slot of a format other than LUT4 keeps its code-table copy. -/
def mxwEffect (x : Block) (q : MCmd) (y : MxOps) : Matrix :=
  let w : WSlot := { valid := true, fmt := y.fmt, klen := klenOf y, nlen := nlenOf y, zw := y.zw,
                     wt := latchBytes x q y, sc := latchScales x q y, ct := if y.fmt = .lut4 then q.ct else (x.mx.slot y.slot).ct }
  let m := x.mx.setSlot y.slot w
  (if y.rel then m.relTile y.tile else m).pop
/-- The head with its progress changed. -/
def Matrix.setHead (m : Matrix) (q : MCmd) : Matrix := { m with queue := q :: m.queue.drop 1 }
/-- ZERO clears the entries of a stream's window before its first step (R213). -/
def streamZero (m : Matrix) (y : MxOps) (mom : Bool) : Matrix :=
  let n := (m.slot y.slot).nlen
  let clear (m : Matrix) (a : Nat) : Matrix :=
    ({ m with accs := m.accs.filter fun p => !(p.1 / 16384 = a && decide (p.1 / 128 % 128 < mlenOf y) && decide (p.1 % 128 < n)) }).dirtyAcc a true
  if mom then clear (clear m y.acc) (y.acc + 1) else clear m y.acc
/-- The number of steps of a stream (R203). -/
def streamSteps (x : Block) (y : MxOps) (mom : Bool) : Nat :=
  (x.mx.slot y.slot).klen / (if mom then 32 else stepSize (mclass y.fmt))
/-- The matrix after a step, with PCNT counted; after the last one the command is done (R213). -/
def streamEffect (x : Block) (q : MCmd) (y : MxOps) (mom : Bool) : Matrix :=
  let m := if mom then ((momentStep x q y q.g).dirtyAcc y.acc true).dirtyAcc (y.acc + 1) true
    else (gemmStep x q y q.g).dirtyAcc y.acc true
  let m := { m with pcnt := m.pcnt + 1 }
  if q.g + 1 < streamSteps x y mom then m.setHead { q with g := q.g + 1 }
  else
    let rel := y.rel && !mom && (q.i matches .mxa _)
    (if rel then m.relTile y.tile else m).pop
/-- The tile that MXTL loads (R217). -/
def tileLoaded (x : Block) (q : MCmd) (y : TileOps) : Matrix :=
  let n := 256 / ewNibbles q.lay.ew
  let m := x.mx.zeroTile y.tile
  ({ m with tiles := (pairs (y.rlen1 + 1) n).foldl (fun t (p : Nat × Nat) => putPacked t (16384 * y.tile + 128 * p.1) q.lay.ew p.2 (if y.trans then x.elem q.lay p.1 p.2 else x.elem q.lay p.2 p.1)) m.tiles }.dirtyTile y.tile true).pop
/-- ACCZ on one register. -/
def accZero (m : Matrix) (a mode : Nat) (rel : Bool) : Matrix :=
  let m := (m.zeroAcc a).dirtyAcc a (!rel)
  { m with amode := setAt 0 m.amode a mode }
/-- The accumulator that ACCLD loads (R217). -/
def accLoaded (x : Block) (q : MCmd) (y : AccOps) : Matrix :=
  let m := (pairs (y.rlen1 + 1) (y.clen1 + 1)).foldl (fun m p =>
    m.setEntry y.acc p.1 p.2 (BitVec.ofNat 64 (x.elem q.lay p.2 p.1))) (x.mx.zeroAcc y.acc)
  ({ m with amode := setAt 0 m.amode y.acc y.mode }.dirtyAcc y.acc true).pop
/-- The flags of every drained entry. -/
def drainFlags (x : Block) (d : DrainOps) (sT : Nat) : Flags :=
  (pairs (d.rlen1 + 1) (d.clen1 + 1)).foldl (fun f p => f ||| (drained x d sT p.1 p.2).2) 0
/-- The matrix after a drain: flags, a tile destination, the release (R218, R219). -/
def drainMatrix (x : Block) (d : DrainOps) (sT : Nat) : Matrix :=
  let m := x.mx.orMsw ((drainFlags x d sT).setWidth 32)
  let m := if d.dst = 1 then
      { m with tiles := (pairs (d.rlen1 + 1) (d.clen1 + 1)).foldl (fun t (p : Nat × Nat) => putPacked t (16384 * d.tile + 128 * p.1) (tyEW d.t) p.2 (drained x d sT p.1 p.2).1) m.tiles }.dirtyTile
        d.tile true
    else m
  let m := if d.rel then (if x.mx.mode d.acc = 4 then (m.relAcc d.acc).relAcc (d.acc + 1) else m.relAcc d.acc) else m
  m.pop
/-- The matrix after an MXPROG (R221). -/
def progMatrix (m : Matrix) (clr : Bool) : Matrix :=
  let w := m.msw &&& 0xFFFF00FF
  { m with msw := if clr then w &&& ~~~0x3F#32 else w }.pop
/-- A share with an element of a layout written. -/
def elemWrite (l : Layout) (sh : Sparse Byte) (i0 i1 v : Nat) : Sparse Byte :=
  let a := l.addr i0 i1 0 0
  if l.ew = 0 then
    let old := (getByte sh a).toNat
    setByte sh a (BitVec.ofNat 8 (if i0 % 2 = 0 then old / 16 * 16 + v % 16 else old % 16 + 16 * (v % 16)))
  else writeBytes sh a (natToBytes (ewBytes l.ew) v)
/-- The share after a command (R217, R218). -/
def shareAfter (x : Block) (q : MCmd) : Sparse Byte :=
  match q.i with
  | .mxts y => (pairs (y.rlen1 + 1) (256 / ewNibbles q.lay.ew)).foldl (fun t p =>
      let v := packedElem x.mx.tiles (16384 * y.tile + 128 * p.1) q.lay.ew p.2
      if y.trans then elemWrite q.lay t p.1 p.2 v else elemWrite q.lay t p.2 p.1 v) x.share
  | .accst y => (pairs (y.rlen1 + 1) (y.clen1 + 1)).foldl (fun t p =>
      elemWrite q.lay t p.2 p.1 (x.mx.entry y.acc p.1 p.2).toNat) x.share
  | .accdr d => if d.dst = 0 then (pairs (d.rlen1 + 1) (d.clen1 + 1)).foldl (fun t p =>
      elemWrite q.lay t p.2 p.1 (drained x d (q.bv.getD 0 0) p.1 p.2).1) x.share
    else x.share
  | _ => x.share
/-- The remaining steps of the stream at the head. -/
def streamRest (y : MxOps) (mom : Bool) : Nat → Block → Block
  | 0, x => x
  | n + 1, x => match x.mx.queue with
    | [] => x
    | q :: _ => streamRest y mom n { x with mx := streamEffect x q y mom }
/-- The matrix after ACCZ (R217). -/
def accCleared (m : Matrix) (y : AccOps) : Matrix :=
  let z := accZero m y.acc y.mode y.rel
  (if y.mode = 4 then accZero z (y.acc + 1) y.mode y.rel else z).pop
/-- The block after the head of its queue has taken its turn and met no error (R206, R209). -/
def Block.after (x : Block) (q : MCmd) : Block :=
  match q.i with
  | .mxprog y => { x with mx := progMatrix x.mx y.clr }
  | i =>
    if q.fail ≠ 0 || x.mx.lcause ≠ 0 then
      { x with mx := (if x.mx.lcause = 0 then x.mx.orMsw (BitVec.ofNat 32 (256 * q.fail)) else x.mx).pop }
    else match i with
    | .mxw y => { x with mx := mxwEffect x q y }
    | .mxa y | .mxg y => streamRest y false (streamSteps x y false - q.g)
        (if y.zero && q.g = 0 then { x with mx := streamZero x.mx y false } else x)
    | .mxm y => streamRest y true (streamSteps x y true - q.g)
        (if y.zero && q.g = 0 then { x with mx := streamZero x.mx y true } else x)
    | .mxtl y => { x with mx := tileLoaded x q y }
    | .mxts y => { x with mx := (if y.rel then x.mx.relTile y.tile else x.mx).pop, share := shareAfter x q }
    | .accz y => { x with mx := accCleared x.mx y }
    | .accld y => { x with mx := accLoaded x q y }
    | .accst y => { x with mx := (if y.rel then x.mx.relAcc y.acc else x.mx).pop, share := shareAfter x q }
    | .accdr d => { x with mx := drainMatrix x d (q.bv.getD 0 0), share := shareAfter x q }
    | _ => { x with mx := x.mx.pop }
/-- The share that the commands in the queue will leave behind (R207). -/
def Block.leftShare (x : Block) : Sparse Byte := (x.mx.queue.foldl Block.after x).share

/-! ### The checks at issue (R207) -/

/-- A format pair of R203, with KLEN within the stream's KD. -/
def pairOk (w : SlotView) (x : MxOps) (mom : Bool) : Bool :=
  if mom then (w.fmt = .f32 || w.fmt = .mw) && decide (w.klen ≤ 32)
  else mclass w.fmt = mclass x.fmt && mclass x.fmt ≠ .moment && decide (w.klen ≤ mfmtKD x.fmt)

/-- The element width a command requires of its layout (R202, R204, R217, R218); MXTL and MXTS take any. -/
def widthOk (i : Instr) (v : MView) (l : Layout) : Bool :=
  match i with
  | .mxw x | .mxa x | .mxg x => l.ew = mfmtEW x.fmt
  | .mxm _ | .accld _ | .accst _ => l.ew = 4
  | .accdr x => if getAt 0 v.amode x.acc = 4 then l.ew = 4 else l.ew = tyEW x.t
  | _ => true

/-- The accumulator modes a command requires (R203, R217 to R219). -/
def modeOk (i : Instr) (v : MView) : Bool :=
  let mode (a : Nat) : Nat := getAt 0 v.amode a
  match i with
  | .mxa x | .mxg x =>
    if mclass x.fmt = .integer then decide (1 ≤ mode x.acc) && decide (mode x.acc ≤ 3) else mode x.acc = 0
  | .mxm x => mode x.acc = 4 && mode (x.acc + 1) = 4
  | .accdr x =>
    match mode x.acc with
    | 0 => !drainInt x.t && x.dst ≠ 3
    | 4 => (x.dst = 0 || x.dst = 3) && x.t = .f32 && !x.pcs && x.acc % 2 = 0 && mode (x.acc + 1) = 4
    | _ => x.dst ≠ 3
  | _ => true

/-- The greatest scale address a command reads, plus one; its scale operand lies at an offset that is a multiple of 4
and inside the share (R205). -/
def scalesOk (f : MFmt) (lmem sS k n : Nat) : Bool :=
  if !mfmtScaled f then true
  else sS % 4 = 0 &&
    (if f = .e2m1 then decide (sS + 128 * ((k - 1) / 8) + n ≤ lmem) && decide (sS + 4096 + 2 * ((k - 1) / 64) + 2 ≤ lmem)
     else decide (sS + 256 * ((k - 1) / 32) + 2 * n ≤ lmem))
/-- The stream's band scales go by M bands (R205). -/
def streamScalesOk (f : MFmt) (lmem sS k m : Nat) : Bool :=
  if f = .e2m1 then sS % 4 = 0 && decide (sS + 128 * ((k - 1) / 8) + m ≤ lmem)
    && decide (sS + 4096 + 2 * ((m - 1) / 64) + 2 ≤ lmem)
  else scalesOk f lmem sS k m

/-- The column table of an ACCDR (R218): its place, alignment, and reserved bits as the queue will leave them (R207). The table
that is checked is that of the drained columns, COL0 to COL0 + CLEN − 1, not of all 128 (DESIGN CHOICE, log 37: the spec does not
say). -/
def tableOk (x : Block) (d : DrainOps) (sT : Nat) : Bool :=
  !d.pcs || (sT % 8 = 0 && decide (sT + 8 * (d.col0 + d.clen1 + 1) ≤ x.r.lmem)
    && (let sh := x.leftShare
    (List.range (d.clen1 + 1)).all fun j =>
      let e := readLE sh (sT + 8 * (d.col0 + j)) 8
      if drainInt d.t then bitsOf e 38 10 = 0 else bitsOf e 32 32 = 0))

/-- Every operand of a command lies inside the share (R204, R205, R215, R218). -/
def boundsOk (x : Block) (v : MView) (i : Instr) (l : Layout) (sb : Nat) (rows : List Nat) : Bool :=
  let lm := x.r.lmem
  match i with
  | .mxw y => (!y.loc || l.inShare lm (klenOf y) (nlenOf y)) && scalesOk y.fmt lm sb (klenOf y) (nlenOf y)
  | .mxa y => let k := (v.slot y.slot).klen
    (!y.loc || l.inShare lm k (mlenOf y)) && streamScalesOk y.fmt lm sb k (mlenOf y)
  | .mxg y => (rows.take (mlenOf y)).all fun u =>
    u = 0xFFFFFFFF || ((match l.ext with
      | none => true
      | some e => decide (u < e.2.1)) &&
      (List.range (v.slot y.slot).klen).all fun k => decide (l.addr k u 0 0 + ewBytes l.ew ≤ lm))
  | .mxm y => l.inShare lm (v.slot y.slot).klen (mlenOf y)
  | .mxtl y | .mxts y =>
    let n := 256 / ewNibbles l.ew
    if y.trans then l.inShare lm (y.rlen1 + 1) n else l.inShare lm n (y.rlen1 + 1)
  | .accld y | .accst y => l.inShare lm (y.clen1 + 1) (y.rlen1 + 1)
  | .accdr y => (y.dst ≠ 0 || l.inShare lm (y.clen1 + 1) (y.rlen1 + 1)) && tableOk x y sb
  | _ => true

/-- The words of the share that the checks of a command read (R199, R218): the column table of an ACCDR, unless a queued
command that writes the share may replace them first. -/
def checkRanges (x : Block) (i : Instr) (sb : Nat) : List (Nat × Nat) :=
  match i with
  | .accdr d =>
    if d.pcs && !(x.mx.queue.any fun q => match q.i with
        | .mxts _ | .accst _ => true
        | .accdr d => d.dst = 0
        | _ => false) then [(sb + 8 * d.col0, 8 * (d.clen1 + 1))] else []
  | _ => []
/-- The checks of R207 in order: the cause of the first that fails. -/
def matrixCheck (x : Block) (i : Instr) (l : Option Layout) (sb : Nat) (rows : List Nat) : Option Nat :=
  let v := x.mx.view
  if usesLayout i && l.isNone then some 0x1A
  else
    let l := l.getD {}
    let st := streamOf i
    if st.any fun p => !(v.slot p.1.slot).valid then some 0x41
    else if (st.any fun p => !pairOk (v.slot p.1.slot) p.1 p.2) || (usesLayout i && !widthOk i v l) then some 0x40
    else if !modeOk i v then some 0x42
    else if !boundsOk x v i l sb rows then some 0x43 else none

/-! ### Issue -/

/-- Field a of a command. -/
def mxA : Instr → Nat
  | .mxw x | .mxa x | .mxg x | .mxm x => x.a
  | .mxtl x | .mxts x => x.a
  | .accld x | .accst x => x.a
  | .accdr x => x.a
  | _ => 0
/-- Field b of a command. -/
def mxB : Instr → Nat
  | .mxw x | .mxa x | .mxg x => x.b
  | .accdr x => x.b
  | _ => 0
/-- The row indices of MXG as read at issue, in every lane (R215). -/
def mxRows (w : Crew) : Instr → List Nat
  | .mxg x => (List.range 128).map fun m => (w.rv (x.b + m / 32) (m % 32)).toNat
  | _ => []
/-- The values of field b's registers: the scale offset or the column table stands first. MXG reads its b as vector registers, the
row indices: four zeros stand for its b registers (DESIGN CHOICE, log 96). -/
def mxBv (w : Crew) : Instr → List Nat
  | .mxg _ => [0, 0, 0, 0]
  | i => w.group (mxB i)
/-- The code-table copy of an MXW, taken at issue from the active bank (R135, R212). -/
def codeCopy (x : Block) : Sparse (BitVec 16) :=
  (List.range 16).foldl (fun t k => setAt 0 t k (x.ctEntry x.bank k)) []
/-- The result of a command returns to its crew's registers (R218, R221). -/
def mxReturns : Instr → Bool
  | .mxprog _ => true
  | .accdr x => decide (2 ≤ x.dst)
  | _ => false

/-- The layout of a command, read at issue. -/
def mxLayout (s : State) (e : Env) (i : Instr) (k : State → Option Layout → Out) : Out :=
  if usesLayout i then gotAt e (s.layoutOf e.blk (e.cw.group (mxA i)) (crewOwner e.b e.c)) k else k s (some {})

/-- The command as it enters the queue. -/
def mxCmd (e : Env) (i : Instr) (l : Layout) : MCmd :=
  { i := i, crew := e.c, av := e.cw.group (mxA i), bv := mxBv e.cw i, lay := l, rows := mxRows e.cw i,
    ct := codeCopy e.blk, order := e.cw.issues }

/-- A matrix command that has passed its checks enters the queue; its crew goes on. -/
def mxAccept (s : State) (e : Env) (i : Instr) (l : Layout) : Out :=
  let blk := e.blk.mxEnter (mxCmd e i l)
  let s' := s.setBlock e.b blk
  let e' := { e with blk := blk }
  if mxReturns i then .next (finishIssue (defer s' e' i {} false) e') else complete s' e' {}

/-- A matrix command at its issue (R206, R207): earlier stores reach the share, a full queue delays it, the checks are
made in their order. -/
def matrixIssue (s : State) (i : Instr) : Out :=
  issue s i fun s e => perCrew s e <| afterQueue s e i fun s e =>
    if 64 ≤ e.blk.mx.queue.length then .next s
    else mxLayout s e i fun s l =>
      let sb := (mxBv e.cw i).getD 0 0
      let (s, bad) := s.meetRead e.b e.c .share (checkRanges e.blk i sb)
      if bad then .next s
      else
        let e := e.refresh s
        match matrixCheck e.blk i l sb (mxRows e.cw i) with
        | some code => trapAt s e code 0 e.act
        | none => mxAccept s e i (l.getD {})

/-- MXW (R212). -/
def execMxw (x : MxOps) (s : State) : Out := matrixIssue s (.mxw x)
/-- MXA (R213). -/
def execMxa (x : MxOps) (s : State) : Out := matrixIssue s (.mxa x)
/-- MXG (R215). -/
def execMxg (x : MxOps) (s : State) : Out := matrixIssue s (.mxg x)
/-- MXM (R216). -/
def execMxm (x : MxOps) (s : State) : Out := matrixIssue s (.mxm x)
/-- MXTL (R217). -/
def execMxtl (x : TileOps) (s : State) : Out := matrixIssue s (.mxtl x)
/-- MXTS (R217). -/
def execMxts (x : TileOps) (s : State) : Out := matrixIssue s (.mxts x)
/-- ACCZ (R217). -/
def execAccz (x : AccOps) (s : State) : Out := matrixIssue s (.accz x)
/-- ACCLD (R217). -/
def execAccld (x : AccOps) (s : State) : Out := matrixIssue s (.accld x)
/-- ACCST (R217). -/
def execAccst (x : AccOps) (s : State) : Out := matrixIssue s (.accst x)
/-- ACCDR (R218). -/
def execAccdr (x : DrainOps) (s : State) : Out := matrixIssue s (.accdr x)
/-- MXPROG (R221). -/
def execMxprog (x : ProgOps) (s : State) : Out := matrixIssue s (.mxprog x)

/-- A follow-on command is issued by the streamer (R209, R391): the stores of the crew that counts as its issuer reach the share
first (R208), and a failure of R207 is attached to it. What its checks read of the share carries its errors (R199). -/
def State.mxFollow (s : State) (b : Nat) (q : MCmd) (owner : Nat) : Got Unit :=
  match s.block b with
  | none => .ok s ()
  | some x =>
    if 64 ≤ x.mx.queue.length then .wait s
    else
      (if usesLayout q.i then s.layoutOf x q.av owner else .ok s (some {})).bind fun s l =>
        let s := s.drainQueue b q.crew
        let (s, bad) := s.meetRead b q.crew .share (((s.block b).map fun x => checkRanges x q.i (q.bv.getD 0 0)).getD [])
        match bad, s.block b with
        | false, some x =>
          let fail := (matrixCheck x q.i l (q.bv.getD 0 0) q.rows).getD 0
          .ok (s.setBlock b (x.mxEnter { q with lay := l.getD {}, fail := fail, ct := codeCopy x })) ()
        | _, _ => .ok s ()

/-! ### The turn of a command -/

/-- The queue may run: the block runs, or it is being saved and a command that a crew waits for still stands in the
queue (R224), and its context lives. -/
def mxMayRun (s : State) (x : Block) : Bool :=
  (s.ctx x.slot).state = .live &&
    (match x.phase with
     | .running => true
     | .saving _ => x.mx.queue.any fun q => mxReturns q.i
     | _ => false)

/-- The turn of the head when it is of a kind, no cause is latched (R209) and nothing failed about it. -/
def mxTurn (s : State) (b : Nat) (m : String) (kind : Instr → Bool) (f : State → Block → MCmd → State) : Out :=
  match s.block b with
  | none => notEnabled m
  | some x =>
    match x.mx.queue with
    | [] => notEnabled m
    | q :: _ =>
      if mxMayRun s x && kind q.i && q.fail = 0 && (x.mx.lcause = 0 || q.i matches .mxprog _) then .next (f s x q)
      else notEnabled m

/-- The K indices that the turn of a command reads, as first and end: all of MXW's, those of the step of a stream (R203). -/
def turnKs (q : MCmd) : Nat × Nat :=
  match q.i, streamOf q.i with
  | .mxw y, _ => (0, klenOf y)
  | _, some (y, mom) =>
    let n := if mom then 32 else stepSize (mclass y.fmt)
    (n * q.g, n * q.g + n)
  | _, none => (0, 0)
/-- The bytes of a row that hold its elements from `k0` to `k1`, as offset and length. -/
def rowSpan (ew k0 k1 : Nat) : Nat × Nat := (k0 * ewNibbles ew / 2, (k1 - k0) * ewNibbles ew / 2)
/-- The scale bytes of K indices `k0` to `k1` for `n` rows or columns, and the band scales, as (offset, length) (R205). -/
def scaleParts (f : MFmt) (k0 k1 n : Nat) (bands : Nat × Nat) : List (Nat × Nat) :=
  match f with
  | .e2m1 => ((List.range ((k1 + 7) / 8 - k0 / 8)).map fun j => (128 * (k0 / 8 + j), n)) ++ [(4096 + 2 * bands.1, 2 * bands.2)]
  | .e4m3s | .e5m2s => (List.range ((k1 + 31) / 32 - k0 / 32)).map fun j => (256 * (k0 / 32 + j), 2 * n)
  | _ => []
/-- The scales of weights go by K bands. -/
def weightScales (f : MFmt) (k0 k1 n : Nat) : List (Nat × Nat) := scaleParts f k0 k1 n (k0 / 64, (k1 + 63) / 64 - k0 / 64)
/-- The scales of a stream go by M bands. -/
def streamScales (f : MFmt) (k0 k1 m : Nat) : List (Nat × Nat) := scaleParts f k0 k1 m (0, (m + 63) / 64)
/-- An 8-byte entry of rows of a pitch meets what is read of them: rows below `n`, the bytes of a span of each. -/
def entryRead (pitch n : Nat) (span : Nat × Nat) (off : Nat) : Bool :=
  decide (off / pitch < n) && rangesMeet (off % pitch) 8 span.1 span.2
/-- A command reads the entry of a tile, an accumulator or a weight slot that an error lies in (R199, R204, R213, R217 to R219). -/
def mxReads (m : Matrix) (q : MCmd) (e : StoreErr) : Bool :=
  let (k0, k1) := turnKs q
  let row := e.lane / 128
  let col := e.lane % 128
  match e.place with
  | .tile =>
    (match q.i with
      | .mxw y => !y.loc && e.num = y.tile && entryRead (wPitch y.fmt) (nlenOf y) (rowSpan (mfmtEW y.fmt) k0 k1) (8 * e.lane)
      | .mxa y => !y.loc && e.num = y.tile && entryRead 128 (mlenOf y) (rowSpan (mfmtEW y.fmt) k0 k1) (8 * e.lane)
      | .mxts y => e.num = y.tile && decide (e.lane / 16 ≤ y.rlen1)
      | _ => false)
  | .acc =>
    (match q.i, streamOf q.i with
      | .accst y, _ => e.num = y.acc && decide (row ≤ y.rlen1) && decide (col ≤ y.clen1)
      | .accdr d, _ => (e.num = d.acc || (m.mode d.acc = 4 && e.num = d.acc + 1)) && decide (d.row0 ≤ row)
          && decide (row ≤ d.row0 + d.rlen1) && decide (d.col0 ≤ col) && decide (col ≤ d.col0 + d.clen1)
      | _, some (y, mom) => (e.num = y.acc || (mom && e.num = y.acc + 1)) && decide (row < mlenOf y)
          && decide (col < (m.slot y.slot).nlen)
      | _, none => false)
  | .weights =>
    (match streamOf q.i with
      | some (y, _) =>
        let w := m.slot y.slot
        e.num = y.slot && (if e.lane < 2048 then entryRead (wPitch w.fmt) w.nlen (rowSpan (mfmtEW w.fmt) k0 k1) (8 * e.lane)
          else (weightScales w.fmt k0 k1 w.nlen).any fun p => rangesMeet (8 * (e.lane - 2048)) 8 p.1 p.2)
      | none => false)
  | _ => false
/-- The element addresses of a layout of which index 0 runs from `k0` to `k1` and index 1 below `n1`, as ranges. -/
def Layout.ranges (l : Layout) (k0 k1 n1 : Nat) : List (Nat × Nat) :=
  (pairs n1 (k1 - k0)).map fun p => (l.addr (k0 + p.2) p.1 0 0, ewBytes l.ew)
/-- The ranges of the share that the turn of a command reads. -/
def mxRanges (q : MCmd) : List (Nat × Nat) :=
  let sb := q.bv.getD 0 0
  let (k0, k1) := turnKs q
  let at_ (ps : List (Nat × Nat)) : List (Nat × Nat) := ps.map fun p => (sb + p.1, p.2)
  match q.i with
  | .mxw y => (if y.loc then q.lay.ranges k0 k1 (nlenOf y) else []) ++ at_ (weightScales y.fmt k0 k1 (nlenOf y))
  | .mxa y => (if y.loc then q.lay.ranges k0 k1 (mlenOf y) else []) ++ at_ (streamScales y.fmt k0 k1 (mlenOf y))
  | .mxg y => (q.rows.take (mlenOf y)).flatMap fun u => if u = 0xFFFFFFFF then [] else
    (List.range (k1 - k0)).map fun j => (q.lay.addr (k0 + j) u 0 0, ewBytes q.lay.ew)
  | .mxm y => q.lay.ranges k0 k1 (mlenOf y)
  | .mxtl y => if y.trans then q.lay.ranges 0 (y.rlen1 + 1) (256 / ewNibbles q.lay.ew)
    else q.lay.ranges 0 (256 / ewNibbles q.lay.ew) (y.rlen1 + 1)
  | .accld y => q.lay.ranges 0 (y.clen1 + 1) (y.rlen1 + 1)
  | .accdr y => if y.pcs then [(sb + 8 * y.col0, 8 * (y.clen1 + 1))] else []
  | _ => []
/-- A command reads its operands: an uncorrectable error ends the context, correctable ones are corrected and noted
(R199). -/
def mxRead (s : State) (b : Nat) (x : Block) (q : MCmd) (k : State → Block → State) : State :=
  if x.errs.isEmpty then k s x
  else
    let (s1, bad) := s.meetStore b q.crew (x.errs.filter (mxReads x.mx q))
    if bad then s1
    else
      let (s2, bad) := s1.meetRead b q.crew .share (mxRanges q)
      if bad then s2
      else match s2.block b with
        | none => s2
        | some y => k s2 y

/-- MXW_TURN (R212). -/
def execMxwTurn (b : Nat) (s : State) : Out :=
  mxTurn s b "MXW_TURN" (· matches .mxw _) fun s x q =>
    mxRead s b x q fun s x =>
      match q.i with
      | .mxw y => s.setBlock b { x with mx := mxwEffect x q y,
                                        errs := x.errs.filter fun e => !(e.place = .weights && e.num = y.slot) }
      | _ => s

/-- A stream command has begun. -/
def isStream (i : Instr) : Bool := (streamOf i).isSome
/-- STREAM_COMMAND_TURN (R213): the stream begins, at step 0 or at the step where it stopped (R224). -/
def execStreamCommandTurn (b : Nat) (s : State) : Out :=
  match (s.block b).bind fun x => x.mx.queue.head? with
  | none => notEnabled "STREAM_COMMAND_TURN"
  | some h =>
    if h.begun then notEnabled "STREAM_COMMAND_TURN"
    else mxTurn s b "STREAM_COMMAND_TURN" isStream fun s x q =>
      match streamOf q.i with
      | none => s
      | some (y, mom) =>
        let m := if y.zero && q.g = 0 then streamZero x.mx y mom else x.mx
        s.setBlock b { x with mx := m.setHead { q with begun := true } }

/-- STREAM_STEP (R213). -/
def execStreamStep (b : Nat) (s : State) : Out :=
  match (s.block b).bind fun x => x.mx.queue.head? with
  | none => notEnabled "STREAM_STEP"
  | some h =>
    if !h.begun then notEnabled "STREAM_STEP"
    else mxTurn s b "STREAM_STEP" isStream fun s x q =>
      mxRead s b x q fun s x =>
        match streamOf q.i with
        | none => s
        | some (y, mom) => s.setBlock b { x with mx := streamEffect x q y mom }

/-- MXTL_TURN (R217). -/
def execMxtlTurn (b : Nat) (s : State) : Out :=
  mxTurn s b "MXTL_TURN" (· matches .mxtl _) fun s x q =>
    mxRead s b x q fun s x =>
      match q.i with
      | .mxtl y => s.setBlock b { x with mx := tileLoaded x q y,
                                         errs := x.errs.filter fun e => !(e.place = .tile && e.num = y.tile) }
      | _ => s

/-- MXTS_TURN (R217). -/
def execMxtsTurn (b : Nat) (s : State) : Out :=
  mxTurn s b "MXTS_TURN" (· matches .mxts _) fun s x q =>
    mxRead s b x q fun s x =>
      match q.i with
      | .mxts y =>
        let n := 256 / ewNibbles q.lay.ew
        let s := (pairs (y.rlen1 + 1) n).foldl (fun s p =>
          let v := packedElem x.mx.tiles (16384 * y.tile + 128 * p.1) q.lay.ew p.2
          if y.trans then s.putElem b q.lay p.1 p.2 v else s.putElem b q.lay p.2 p.1 v) s
        s.setMx b (if y.rel then x.mx.relTile y.tile else x.mx).pop
      | _ => s

/-- ACCZ_TURN (R217). -/
def execAcczTurn (b : Nat) (s : State) : Out :=
  mxTurn s b "ACCZ_TURN" (· matches .accz _) fun s x q =>
    match q.i with
    | .accz y =>
      s.setBlock b { x with mx := accCleared x.mx y,
                            errs := x.errs.filter fun e => !(e.place = .acc && (e.num = y.acc || (y.mode = 4 && e.num = y.acc + 1))) }
    | _ => s

/-- ACCLD_TURN (R217). -/
def execAccldTurn (b : Nat) (s : State) : Out :=
  mxTurn s b "ACCLD_TURN" (· matches .accld _) fun s x q =>
    mxRead s b x q fun s x =>
      match q.i with
      | .accld y => s.setBlock b { x with mx := accLoaded x q y,
                                          errs := x.errs.filter fun e => !(e.place = .acc && e.num = y.acc) }
      | _ => s

/-- ACCST_TURN (R217). -/
def execAccstTurn (b : Nat) (s : State) : Out :=
  mxTurn s b "ACCST_TURN" (· matches .accst _) fun s x q =>
    mxRead s b x q fun s x =>
      match q.i with
      | .accst y =>
        let s := (pairs (y.rlen1 + 1) (y.clen1 + 1)).foldl (fun s p =>
          s.putElem b q.lay p.2 p.1 (x.mx.entry y.acc p.1 p.2).toNat) s
        s.setMx b (if y.rel then x.mx.relAcc y.acc else x.mx).pop
      | _ => s

/-- The register writes of a drain to registers (R218): a value stands in the low bits, the others zero (R119). -/
def drainWrites (x : Block) (d : DrainOps) (sT : Nat) : List Wr :=
  (pairs (d.clen1 + 1) (d.rlen1 + 1)).map fun p =>
    let v := (drained x d sT p.2 p.1).1
    if d.dst = 3 then .m (d.dreg + p.1) p.2 (BitVec.ofNat 64 v)
    else .v (d.dreg + p.1) p.2 (BitVec.ofNat 32 v)
/-- The result of a command for its crew: the outstanding result it waits for is filled (R28). -/
def State.fillCrew (s : State) (b c order : Nat) (f : Pend → Pend) : State :=
  match s.crew b c with
  | none => s
  | some w => s.setCrew b c (w.fill order f)
/-- ACCDR_TURN (R219). -/
def execAccdrTurn (b : Nat) (s : State) : Out :=
  mxTurn s b "ACCDR_TURN" (· matches .accdr _) fun s x q =>
    mxRead s b x q fun s x =>
      match q.i with
      | .accdr d =>
        let sT := q.bv.getD 0 0
        let s := if d.dst = 0 then (pairs (d.rlen1 + 1) (d.clen1 + 1)).foldl (fun s p =>
            s.putElem b q.lay p.2 p.1 (drained x d sT p.1 p.2).1) s
          else if 2 ≤ d.dst then
            s.fillCrew b q.crew q.order fun p => { p with writes := drainWrites x d sT, ready := true }
          else s
        s.setMx b (drainMatrix x d sT)
      | _ => s

/-- The late cause of an MXPROG that finds a latched cause (R221). -/
def latchTrap (m : Matrix) : Option Trap := if m.lcause = 0 then none else some { code := m.lcause, info := 1, lanes := 0 }
/-- MXPROG_TURN (R221). -/
def execMxprogTurn (b : Nat) (s : State) : Out :=
  mxTurn s b "MXPROG_TURN" (· matches .mxprog _) fun s x q =>
    match q.i with
    | .mxprog y =>
      (s.fillCrew b q.crew q.order fun p =>
        { p with writes := [.s y.d x.mx.pcnt, .s (y.d + 1) x.mx.msw], late := latchTrap x.mx, ready := true }).setMx b
        (progMatrix x.mx y.clr)
    | _ => s

/-- LATCHED_COMMAND_TURN (R209): a follow-on command that failed latches its cause; while a cause is latched, every
command but MXPROG has no effect. -/
def execLatchedCommandTurn (b : Nat) (s : State) : Out :=
  match s.block b with
  | none => notEnabled "LATCHED_COMMAND_TURN"
  | some x =>
    match x.mx.queue with
    | [] => notEnabled "LATCHED_COMMAND_TURN"
    | q :: _ =>
      if mxMayRun s x && (q.fail ≠ 0 || (x.mx.lcause ≠ 0 && !(q.i matches .mxprog _))) then
        let m := if x.mx.lcause = 0 then x.mx.orMsw (BitVec.ofNat 32 (256 * q.fail)) else x.mx
        let s := if mxReturns q.i then s.fillCrew b q.crew q.order fun p => { p with ready := true } else s
        .next (s.setMx b m.pop)
      else notEnabled "LATCHED_COMMAND_TURN"

end Sys2Proof.Machine
end

