-- ==== Sys2Proof/Machine/Streamer.lean ====
section
/-! DEFINITION. The streamer (R385 to R398): the checks of a copy at its issue, the element mapping, the chunks and the
completion of a copy with its synchronisation, follow-on command and token, and CTOK, CWAIT and PREF. -/

namespace Sys2Proof.Machine

/-! ### Operands and mapping (R387, R388) -/

/-- The granule of a width code (R388). -/
def granuleOf (ew : Nat) : Nat := match ew with
  | 0 => 64
  | 1 | 2 => 32
  | 3 => 16
  | _ => 8

/-- The elements of a copy. -/
def Copy.elems (k : Copy) : Nat := k.ext.1 * k.ext.2.1 * k.ext.2.2.1 * k.ext.2.2.2
/-- The local index of element number `e`: i0 fastest (R388). -/
def Copy.idx (k : Copy) (e : Nat) : Nat × Nat × Nat × Nat :=
  (e % k.ext.1, e / k.ext.1 % k.ext.2.1, e / (k.ext.1 * k.ext.2.1) % k.ext.2.2.1,
   e / (k.ext.1 * k.ext.2.1 * k.ext.2.2.1))
/-- The local byte address of an element. -/
def Copy.localAddr (k : Copy) (e : Nat) : Nat :=
  let i := k.idx e
  k.lay.addr i.1 i.2.1 i.2.2.1 i.2.2.2
/-- The half of its byte that an element of half a byte takes locally. -/
def Copy.localHalf (k : Copy) (e : Nat) : Nat := (k.idx e).1 % 2
/-- The global extents 0 and 1. -/
def Copy.gext (k : Copy) : Nat × Nat := if k.trans then (k.ext.2.1, k.ext.1) else (k.ext.1, k.ext.2.1)
/-- The global address of an element in half-bytes (R388). -/
def Copy.globalNib (k : Copy) (e : Nat) : Int :=
  let i := k.idx e
  let j0 := if k.trans then i.2.1 else i.1
  let j1 := if k.trans then i.1 else i.2.1
  let n := ewNibbles k.lay.ew
  let g := granuleOf k.lay.ew
  let head : Int :=
    if k.reblock then
      ((j1 / g * ((k.gext.1 + g - 1) / g) + j0 / g) * (g * g * n) + (j1 % g * g + j0 % g) * n : Nat)
    else ((j0 * n : Nat) : Int) + (j1 : Int) * (2 * k.s1)
  2 * (k.va : Int) + head + (i.2.2.1 : Int) * (2 * k.s2) + (i.2.2.2 : Int) * (2 * k.s3)
/-- The global byte address of an element. -/
def Copy.globalAddr (k : Copy) (e : Nat) : Nat := (k.globalNib e / 2).toNat
/-- The elements of a chunk of 4,096 bytes (R385). -/
def Copy.perChunk (k : Copy) : Nat := 8192 / ewNibbles k.lay.ew
/-- The chunks of a copy. -/
def Copy.total (k : Copy) : Nat := (k.elems + k.perChunk - 1) / k.perChunk
/-- The elements of a chunk by number. -/
def Copy.chunkElems (k : Copy) (c : Nat) : List Nat :=
  (List.range k.perChunk).filterMap fun j => let e := c * k.perChunk + j; if e < k.elems then some e else none
/-- The copy writes the share. -/
def Copy.inbound (k : Copy) : Bool := k.kind matches .cpg | .cphIn

/-! ### The checks at issue (R389, R391) -/

/-- The block owns the array: some team holds the role matrix (R183). -/
def Block.isMatrix (x : Block) : Bool := x.teams.any fun t => t.valid && t.role = .matrix
/-- The follow-on command of a record of 48 bytes, or none when it fails (R391). -/
def followOf (x : Block) (c order a : Nat) (bs : List Byte) : Option MCmd :=
  let w := bytesToNat (bs.take 16)
  match decode (bs.take 12) with
  | .ok i len =>
    let ok := match i with
      | .mxw _ | .mxa _ | .mxm _ | .mxtl _ | .mxts _ | .accz _ | .accld _ | .accst _ => true
      | .accdr d => decide (d.dst < 2)
      | _ => false
    let val (o j : Nat) : Nat := bytesToNat ((bs.drop (o + 4 * j)).take 4)
    if ok && bitsOf w 7 5 = 0 && bitsOf w (8 * len) (128 - 8 * len) = 0 && x.isMatrix && a % 16 = 0 then
      some { i := i, crew := c, streamer := true, av := (List.range 4).map (val 16),
             bv := (List.range 4).map (val 32), order := order }
    else none
  | _ => none

/-- The extents of a G group without a record (R387). -/
def groupExt (g : List Nat) : Nat × Nat × Nat × Nat :=
  let a := g.getD 2 0
  let b := g.getD 3 0
  (a % 65536, a / 65536, b % 65536, b / 65536)

/-- The copy that a command stands for, from its operands as read at issue (R387, R388). -/
def copyOf (e : Env) (x : StreamOps) (kind : CopyKind) (l : Layout) : Copy :=
  let g := e.cw.group x.a
  let ext := (l.ext).getD (groupExt g)
  let ge := if x.t then (ext.2.1, ext.1) else (ext.1, ext.2.1)
  let n := ewNibbles l.ew
  let d1 : Nat := ge.1 * n / 2
  let d2 : Nat := ge.1 * ge.2 * n / 2
  let lrec := e.blk.r.lrec
  { blk := e.b, crew := e.c, order := e.cw.issues, kind := kind, lay := l,
    va := g.getD 0 0 + 4294967296 * g.getD 1 0, ext := ext, s1 := if lrec then l.gstr1 else d1,
    s2 := if lrec then l.gstr2 else d2, s3 := if lrec then l.gstr3 else d2 * ext.2.2.1, trans := x.t,
    reblock := x.rb, last := x.last, scope := x.scope, sync := x.sync, obj := (e.cw.rs x.c).toNat,
    slotw := (e.cw.rs (x.c + 1)).toNat, follow := none, token := none, chunks := 0, sides := [], err := none }

/-- The conditions of cause 0x44 for a copy in the order of R389: the reason of the first that holds. -/
def copyReason (x : Block) (k : Copy) (follow : Bool) : Option Nat :=
  let lm := x.r.lmem
  let w := ewBytes k.lay.ew
  let g := granuleOf k.lay.ew
  if !x.r.res then some 1
  else if k.elems = 0 || (k.lay.ew = 0 && k.gext.1 % 2 = 1) then some 2
  else if (k.trans || k.reblock) && (k.gext.1 % g ≠ 0 || k.gext.2 % g ≠ 0) then some 3
  else if (List.range k.elems).any fun e => decide (lm < k.localAddr e + w) then some 4
  else if (List.range k.elems).any fun e =>
      let a := k.globalNib e
      decide (a < 0) || decide (2 ^ 58 < a + ewNibbles k.lay.ew) || a % (ewNibbles k.lay.ew : Nat) ≠ 0 then some 5
  else if (k.sync = 1 && (k.obj % 16 ≠ 0 || decide (lm < k.obj + 16)))
      || (k.sync = 2 && (k.obj % 32 ≠ 0 || decide (lm < k.obj + 32))) then some 6
  else if follow then some 7 else none

/-- The copies outstanding on the core of a block, those that a save has stopped among them (R385). -/
def coreCopies (s : State) (x : Block) : List (Nat × Copy) :=
  s.copies.filter fun p => match s.block p.2.blk with
    | some y => y.coreNo = x.coreNo
    | none => false
/-- The streamer's commands outstanding on the core of a block: its copies and its prefetches (R385). -/
def coreLoad (s : State) (x : Block) : Nat :=
  (coreCopies s x).length + ((s.die x.die).misses.filter fun p => p.2.core = x.coreNo).length

/-- The token of a crew's next token-returning command (R394). -/
def nextToken (e : Env) : Nat := 1024 * e.c + e.cw.tokc % 1024
/-- A token of a crew is live. -/
def State.liveToken (s : State) (b c tok : Nat) : Option Token :=
  s.tokens.find? fun t => t.blk = b && t.crew = c && t.tok = tok
/-- The token-returning command goes on: sD takes the token at once, with its pending bit set, and the count advances
(R386, R394). -/
def giveToken (s : State) (e : Env) (d : Nat) : Out :=
  let w := (e.advance s e.cw).write [.s d (BitVec.ofNat 32 (nextToken e))]
  let w := { w.setPending (.s d) with tokc := (e.cw.tokc + 1) % 1024 }
  let t : Token := ⟨e.b, e.c, nextToken e, false, none⟩
  let s := { s with tokens := s.tokens ++ [t] }
  .next (finishIssue (s.setBlock e.b (e.blk.setCrew e.c w)) e)

/-- A copy that has passed its checks enters the streamer. -/
def copyEnter (s : State) (e : Env) (k : Copy) (d : Option Nat) : Out :=
  let (n, s) := s.take
  match d with
  | none => complete { s with copies := put s.copies n k } e {}
  | some d =>
    if (s.liveToken e.b e.c (nextToken e)).isSome then trapAt s e 0x45 2 e.act
    else giveToken { s with copies := put s.copies n { k with token := some (nextToken e) } } e d

/-- A copy at its issue (R385, R389): earlier stores reach the share, a 65th command waits, the layout is read, the checks
are made in their order. -/
def copyIssue (s : State) (i : Instr) (x : StreamOps) (kind : CopyKind) (d : Option Nat) : Out :=
  issue s i fun s e => perCrew s e <| afterQueue s e i fun s e =>
    if 64 ≤ coreLoad s e.blk then .next s
    else gotAt e (s.layoutOf e.blk (e.cw.group x.b) (crewOwner e.b e.c)) fun s l =>
      match l with
      | none => trapAt s e 0x1A 0 e.act
      | some l =>
        let m := (e.cw.rs x.m).toNat
        let (s, bad) := if x.mx then s.meetRead e.b e.c .share [(m, 48)] else (s, false)
        if bad then .next s
        else
          let e := e.refresh s
          let k := copyOf e x kind l
          let fo := if x.mx then followOf e.blk e.c e.cw.issues m (readBytes e.blk.share m 48) else none
          match copyReason e.blk k (x.mx && (fo.isNone || decide (e.blk.r.lmem < m + 48))) with
          | some r => trapAt s e 0x44 r e.act
          | none => copyEnter s e { k with follow := fo } d

/-- CPG (R390). -/
def execCpg (x : StreamOps) (s : State) : Out := copyIssue s (.cpg x) x .cpg none
/-- CPS (R392). -/
def execCps (x : StreamOps) (s : State) : Out := copyIssue s (.cps x) x .cps (some x.d)
/-- CPH.IN (R393). -/
def execCphIn (x : StreamOps) (s : State) : Out := copyIssue s (.cphIn x) x .cphIn none
/-- CPH.OUT (R393). -/
def execCphOut (x : StreamOps) (s : State) : Out := copyIssue s (.cphOut x) x .cphOut (some x.d)

/-! ### Chunks -/

/-- The streamer error code of a cause (R395). -/
def errCode (code : Nat) : Nat := if code = 0xA5 then 1 else if code = 0xA6 then 2 else if code = 0x17 then 3 else 0
/-- The access of a copy (R390 to R393, R410). -/
def Copy.acc (k : Copy) (x : Block) (key : Nat) : Acc :=
  { die := x.die, slot := x.slot, rd := k.inbound, wr := !k.inbound, pkg := decide (6 ≤ k.scope),
    scope := some k.scope, sc := k.kind matches .cphIn | .cphOut,
    use := match k.kind with | .cps => .mustHide | .cphOut => .hidden | _ => .visible, sides := k.sides,
    owner := 2 * key }
/-- The global pieces of a chunk, in element order; `src` gives the bytes a write stores. -/
def Copy.pieces (k : Copy) (c : Nat) (src : Nat → List Byte) : List Piece :=
  (k.chunkElems c).map fun e => ⟨k.globalAddr e, ewBytes k.lay.ew, src e⟩
/-- The element's local bytes. -/
def Copy.bytesOf (k : Copy) (x : Block) (e : Nat) : List Byte := readBytes x.share (k.localAddr e) (ewBytes k.lay.ew)
/-- A half-byte put into a byte. -/
def putHalf (old : Byte) (half v : Nat) : Byte :=
  BitVec.ofNat 8 (if half = 0 then old.toNat / 16 * 16 + v % 16 else old.toNat % 16 + 16 * (v % 16))
/-- The half-byte of a byte. -/
def getHalf (x : Byte) (half : Nat) : Nat := bitsOf x.toNat (4 * half) 4
/-- The elements of a chunk are written to the share from the bytes that were read, one element after another. An element narrower
than a word is a store of a part of it, whatever its neighbours are (R199; DESIGN CHOICE, log 116). -/
def copyIn (b : Nat) (k : Copy) : List Nat → List Byte → State → State
  | [], _, s => s
  | e :: es, bs, s =>
    let w := ewBytes k.lay.ew
    let a := k.localAddr e
    let new := if k.lay.ew = 0 then
        match s.block b with
        | none => []
        | some x => [putHalf (x.byteAt a) (k.localHalf e) (getHalf (bs.getD 0 0) (k.globalNib e % 2).toNat)]
      else bs.take w
    copyIn b k es (bs.drop w) (s.storeShare b 255 a new)
/-- The bytes that the parts of a write stand to replace. Those of the expander window are not on the device. -/
def replaced (s : State) (a : Acc) (ps : List (Spot × Piece)) : List (Nat × List Byte) :=
  ps.filterMap fun p =>
    if p.1.expander then none
    else match readLine s a p.1 with
      | .ok _ l => some (p.2.va, readBytes l.bytes (p.1.va % 128) p.2.n)
      | _ => none
/-- A CPH.OUT replaces bytes, which stay known until its crew orders what follows after it (R379, R411). -/
def State.keepOld (s : State) (k : Copy) (ws : List (Nat × List Byte)) : State :=
  match k.kind, k.token with
  | .cphOut, some tok => { s with olds := s.olds ++ ws.map fun w => ⟨k.blk, k.crew, tok, w.1, w.2⟩ }
  | _, _ => s
/-- The byte that a copy of the crew replaced at an address. -/
def olderByte (os : List OldBytes) (va : Nat) : Option Byte :=
  os.findSome? fun o => if o.va ≤ va then o.bytes[va - o.va]? else none
/-- The bytes that a chunk has read, by address: where no order puts the read after an earlier CPH.OUT of the crew, it may have
taken the bytes that this replaced (R379, R411, R444; a free value, log 98). Bytes once read anew are never older again (R377). -/
def readOlder (s : State) (k : Copy) (as : List Nat) (bs : List Byte) : State × List Byte :=
  let mine := s.olds.filter fun o => o.blk = k.blk && o.crew = k.crew
  if mine.isEmpty then (s, bs)
  else if Config.freeNat s.steps % 2 = 1 then (s, (as.zip bs).map fun p => (olderByte mine p.1).getD p.2)
  else
    ({ s with olds := s.olds.filter fun o =>
        !(mine.contains o && as.any fun v => decide (o.va ≤ v) && decide (v < o.va + o.bytes.length)) }, bs)
/-- Half-bytes of a chunk are merged into global bytes, one element after another (R36). -/
def copyHalves (x : Block) (k : Copy) (es : List Nat) (s : State) (a : Acc) : Got Acc :=
  let as := (es.map k.globalAddr).eraseDups
  (s.greadAll a (as.map fun v => (v, 1))).bind fun s (bs, a) =>
    let old : Sparse Byte := (as.zip bs).foldl (fun m p => setByte m p.1 p.2) []
    let new := es.foldl (fun m e =>
      let v := getHalf (x.byteAt (k.localAddr e)) (k.localHalf e)
      setByte m (k.globalAddr e) (putHalf (getByte m (k.globalAddr e)) (k.globalNib e % 2).toNat v)) old
    (s.gwriteAll a (as.map fun v => (v, [getByte new v]))).bind fun s a =>
      .ok ((s.keepOld k ((as.zip bs).map fun p => (p.1, [p.2]))).forget a.owner) a
/-- The bytes of a chunk, counted in local elements (R385, R390). -/
def Copy.chunkBytes (k : Copy) (c : Nat) : Nat := (k.chunkElems c).length * ewNibbles k.lay.ew / 2
/-- A chunk's bytes are subtracted from a transaction barrier (R237). -/
def State.debit (s : State) (b a n : Nat) : State :=
  match s.meetRead b 255 .share [(a, 16)] with
  | (s, true) => s
  | (s, false) =>
    match s.block b with
    | none => s
    | some x => let o := x.tbar a; s.setTbar b a { o with inbound := o.inbound - n }.settle

/-- One chunk moves (R385, R390, R392). -/
def moveChunk (s : State) (x : Block) (key : Nat) (k : Copy) : Got Acc :=
  let es := k.chunkElems k.chunks
  let a := k.acc x key
  if k.inbound then
    (readyAll (k.pieces k.chunks fun _ => []) s a).bind fun s (ps, a, ok) =>
      if !ok then .wait s
      else (readParts a ps s).bind fun s bs =>
        let (s, bs) := readOlder s k ((k.pieces k.chunks fun _ => []).flatMap fun q => (List.range q.n).map (q.va + ·)) bs
        let s := copyIn k.blk k es bs (s.forget a.owner)
        .ok (if k.sync = 1 then s.debit k.blk k.obj (k.chunkBytes k.chunks) else s) a
  else
    let (s, bad) := s.meetRead k.blk k.crew .share (es.map fun e => (k.localAddr e, ewBytes k.lay.ew))
    if bad then .ok s a
    else if k.lay.ew = 0 then copyHalves x k es s a
    else
      (readyAll (k.pieces k.chunks (k.bytesOf x)) s a).bind fun s (ps, a, ok) =>
        if !ok then .wait s
        else
          let old := replaced s a ps
          (writeParts a ps s).bind fun s _ => .ok ((s.keepOld k old).forget a.owner) a

/-- The copy whose chunk a core's streamer takes next: the highest base level, then the first issued (R385). -/
def nextCopy (s : State) (x : Block) : Option Nat :=
  let open_ := (coreCopies s x).filter fun p => !p.2.taken && p.2.err.isNone && decide (p.2.chunks < p.2.total)
    && ((s.block p.2.blk).any fun y => y.phase = .running)
  let prio (p : Nat × Copy) : Nat := ((s.block p.2.blk).map (·.r.prio)).getD 0
  let top := open_.foldl (fun m p => max m (prio p)) 0
  (open_.find? fun p => prio p = top).map (·.1)

/-- A last-use read has taken a line: it leaves the home L2 and every RDC, dirty bytes and all. A locked line keeps its
lock, and its next access fills it (R382). -/
def dropLast (s : State) (asid line : Nat) (side : Bool) : State :=
  let drop (s : State) (die : Nat) (rdc : Bool) : State :=
    let (out, rest) := (s.cache die rdc).partition (Line.tagged asid line side)
    let s := s.setCache die rdc rest
    if out.any (·.locked) then
      let d := s.die die
      s.setDie die { d with relock := d.relock ++ [(asid, line, side)] }
    else s
  drop (drop (drop (drop s 0 false) 1 false) 0 true) 1 true
/-- The lines of the chunks from `c` on, so many of them. -/
def Copy.linesOf (k : Copy) (c n : Nat) : List Nat :=
  (((List.range n).flatMap fun j => k.chunkElems (c + j)).map fun e => k.globalAddr e / 128).eraseDups
/-- LAST (R382, R390): lines of a copy go, each on the side that the copy took. -/
def copyLast (s : State) (x : Block) (k : Copy) (lines : List Nat) : State :=
  if !k.last then s
  else lines.foldl (fun s l =>
    match translate s x.slot (128 * l) false with
    | .ok _ e => dropLast s (s.ctx x.slot).asid l (e.sh && ((look k.sides e.pti).getD false))
    | _ => s) s
/-- The lines whose last byte chunk `c` reads: no later chunk meets them. -/
def Copy.lastLines (k : Copy) (c : Nat) : List Nat :=
  (k.linesOf c 1).filter fun l => !(k.linesOf (c + 1) (k.total - c - 1)).contains l
/-- The lines that the chunks before `c` have read and that wait for later ones. -/
def Copy.halfRead (k : Copy) (c : Nat) : List Nat :=
  (k.linesOf 0 c).filter fun l => (k.linesOf c (k.total - c)).contains l

/-- STREAMER_CHUNK (R385, R390, R398): the streamer takes a chunk in the order of R385; a chunk that it has taken moves, and
those of other commands may pass it while it waits. A fault of the chunk stops the copy; one that is context-fatal ends the
context (R395). -/
def execStreamerChunk (b k : Nat) (s : State) : Out :=
  match s.block b, look s.copies k with
  | some x, some c =>
    if c.blk ≠ b ∨ (s.ctx x.slot).state ≠ .live then notEnabled "STREAMER_CHUNK"
    else if !c.taken then
      if nextCopy s x = some k then .next { s with copies := put s.copies k { c with taken := true } }
      else notEnabled "STREAMER_CHUNK"
    else if x.phase ≠ .running ∧ !(x.phase matches .saving _) then notEnabled "STREAMER_CHUNK"
    else match moveChunk s x k c with
      | .ok s a =>
        let c := { c with sides := a.sides }
        .next { copyLast s x c (c.lastLines c.chunks) with
                  copies := put s.copies k { c with chunks := c.chunks + 1, taken := false } }
      | .wait s' => ifAsked s s' "STREAMER_CHUNK"
      | .fail s t =>
        if errCode t.code = 0 then .next (s.fatalBlock b c.crew 0 t)
        else .next { copyLast s x c (c.halfRead c.chunks) with copies := put s.copies k { c with err := some t, taken := false } }
  | _, _ => notEnabled "STREAMER_CHUNK"

/-! ### Completion -/

/-- A fault is added to those that a crew of a saved block holds. -/
def Stay.addFault (y : Stay) (l : Late) : Stay := { y with hfaults := y.hfaults ++ [l] }
/-- A held fault of a crew (R395). The die keeps that of a crew whose block is saved, as it keeps those held before (R321, R398). -/
def State.holdFault (s : State) (b c order : Nat) (t : Trap) : State :=
  let l : Late := ⟨order, { t with pc := 0, lanes := 0 }⟩
  match s.block b with
  | none => s
  | some x =>
    match look x.crews c, look x.stays c with
    | some w, _ => s.setBlock b (x.setCrew c { w with hfaults := w.hfaults ++ [l] })
    | none, some y => s.setBlock b { x with stays := put x.stays c (y.addFault l) }
    | none, none => s
/-- A token's command completes, with the fault it holds (R394, R395). -/
def State.endToken (s : State) (b c tok : Nat) (f : Option Trap) : State :=
  { s with tokens := s.tokens.map fun t => if t.blk = b && t.crew = c && t.tok = tok then { t with done := true, fault := f } else t }
/-- The synchronisation of a copy that has written its last byte: the ring commit of SYNC 2 (R390), whose failure is a
fault of the copy (R395). -/
def copyCommit (s : State) (k : Copy) : State × Option Trap :=
  if k.sync ≠ 2 then (s, none)
  else
    match s.meetRead k.blk 255 .share [(k.obj, 32)] with
    | (s, true) => (s, none)
    | (s, false) =>
      match s.block k.blk with
      | none => (s, none)
      | some x =>
        match ringAct x k.obj fun r => ringCommit r k.slotw with
        | .done r _ => (s.storeShare k.blk 255 k.obj (natToBytes 32 r.bits), none)
        | _ => (s, some { code := 0x17, info := 2 })
/-- The fault of a copy is delivered (R395). -/
def copyFault (s : State) (k : Copy) (t : Trap) : State :=
  match k.token with
  | some tok => s.endToken k.blk k.crew tok (some t)
  | none =>
    if k.sync = 1 then
      match s.meetRead k.blk 255 .share [(k.obj, 16)] with
      | (s, true) => s
      | (s, false) =>
        match s.block k.blk with
        | none => s
        | some x =>
          let o := x.tbar k.obj
          (if o.owed = o.quota then s.noArrivals k.blk k.obj (· = o.gen) else s).setTbar k.blk k.obj
            { o with fault := errCode t.code }.turnover
    else s.holdFault k.blk k.crew k.order t
/-- A copy without a fault ends: the follow-on command, then the commit, then the token (R390, R391). -/
def endCopy (s : State) (key : Nat) (k : Copy) : Got Unit :=
  (match k.follow with
   | none => Got.ok s ()
   | some q => s.mxFollow k.blk q (2 * key)).bind fun s _ =>
    let (s, f) := copyCommit s k
    let s := match f with
      | some t => copyFault s k t
      | none => match k.token with
        | some tok => s.endToken k.blk k.crew tok none
        | none => s
    .ok { s.forget (2 * key) with copies := dropAt s.copies key } ()

/-- STREAMER_COPY_COMPLETE (R390, R395). -/
def execStreamerCopyComplete (b k : Nat) (s : State) : Out :=
  match s.block b, look s.copies k with
  | some x, some c =>
    if c.blk = b ∧ (s.ctx x.slot).state = .live ∧ x.phase = .running then
      match c.err with
      | some t =>
        let s := { s with copies := dropAt s.copies k }
        .next (copyFault (if c.sync = 2 then (copyCommit s c).1 else s) c t)
      | none =>
        if c.total ≤ c.chunks then
          match endCopy s k c with
          | .ok s _ => .next s
          | .wait s' => ifAsked s s' "STREAMER_COPY_COMPLETE"
          | .fail s t => .next (s.fatalBlock b c.crew 0 t)
        else notEnabled "STREAMER_COPY_COMPLETE"
    else notEnabled "STREAMER_COPY_COMPLETE"
  | _, _ => notEnabled "STREAMER_COPY_COMPLETE"

/-! ### Tokens and prefetch -/

/-- CTOK (R394): the result is formed at issue and counts as returned at once. -/
def execCtok (x : StreamOps) (s : State) : Out :=
  issue s (.ctok x) fun s e => perCrew s e <|
    match s.liveToken e.b e.c (e.cw.rs x.a).toNat with
    | none => trapAt s e 0x45 1 e.act
    | some t =>
      let v := (if t.done then 1 else 0) + 256 * (match t.fault with
        | some f => if t.done then errCode f.code else 0
        | none => 0)
      let w := ((e.advance s e.cw).write [.s x.d (BitVec.ofNat 32 v)]).setPending (.s x.d)
      .next (finishIssue (s.setBlock e.b (e.blk.setCrew e.c w)) e)

/-- The end of a CWAIT: the token goes; its fault is raised after the instruction (R394). -/
def cwaitEnd (s : State) (b c : Nat) (i : Instr) (pc act : Word) (t : Token) : State :=
  let s := { s with tokens := s.tokens.filter (fun k => !(k.blk = b && k.crew = c && k.tok = t.tok)),
                    olds := s.olds.filter fun o => !(o.blk = b && o.crew = c && o.tok = t.tok) }
  match t.fault with
  | none => s.resume b c i pc act []
  | some f =>
    match s.crew b c with
    | none => s
    | some w =>
      let next := pc + BitVec.ofNat 32 (lenOf i)
      (s.setCrew b c { w.setPcs act (fun _ => next) with wait := .ready, issues := w.issues + 1 }).raise b c
        { f with pc := next, lanes := 0, next := next }
/-- CWAIT (R394): the crew waits unless the command is complete. -/
def execCwait (x : StreamOps) (s : State) : Out :=
  issue s (.cwait x) fun s e => perCrew s e <|
    match s.liveToken e.b e.c (e.cw.rs x.a).toNat with
    | none => trapAt s e 0x45 1 e.act
    | some t =>
      let s' := waitAt s e (.cwait x)
      .next (if t.done then cwaitEnd s' e.b e.c (.cwait x) e.ipc e.act t else s')
/-- CWAIT_COMPLETE (R394). -/
def execCwaitComplete (b c : Nat) (s : State) : Out :=
  match s.waitOf b c, s.crew b c with
  | some (.cwait x, pc, act, _), some w =>
    match s.liveToken b c (w.rs x.a).toNat with
    | some t => if t.done then .next (cwaitEnd s b c (.cwait x) pc act t) else notEnabled "CWAIT_COMPLETE"
    | none => notEnabled "CWAIT_COMPLETE"
  | _, _ => notEnabled "CWAIT_COMPLETE"

/-- PREF (R385, R396): the home caches are asked for the lines of the range; a 65th command waits. -/
def execPref (x : StreamOps) (s : State) : Out :=
  issue s (.pref x) fun s e => perCrew s e <|
    let va := e.cw.rs2 x.a
    let n := (e.cw.rs x.b).toNat
    if !e.blk.r.res then trapAt s e 0x44 1 e.act
    else if n = 0 ∨ 2 ^ 30 < n then trapAt s e 0x44 8 e.act
    else if 64 ≤ coreLoad s e.blk then .next s
    else
      let (k, s) := s.take
      let d := s.die e.blk.die
      let m : Miss := ⟨e.blk.slot, e.blk.coreNo, va / 128, (va + n - 1) / 128 + 1 - va / 128, false⟩
      complete (s.setDie e.blk.die { d with misses := put d.misses k m }) e {}

end Sys2Proof.Machine
end

