-- ==== Sys2Proof/Machine/Far.lean ====
section
/-! DEFINITION. FENCE (R248, R378), far atomics with the chained order (R380, R403), far-flag waits (R404), line locks
(R381, R405) and publication (R399, R400), each with the event that ends it. -/

namespace Sys2Proof.Machine

/-! ### Waiting for earlier operations (R378) -/

/-- A Release that an event of a crew has started is not done: memory holds it up (R424, R463). -/
def State.releaseOwed (s : State) (b c : Nat) : Bool :=
  match s.block b with
  | none => false
  | some x => ((s.ctx x.slot).j0.owed ++ (s.ctx x.slot).j1.owed).contains (b, c)
/-- A crew's tick or rewards have not been processed by a join table, which reads and writes segment records for them (R461,
R463, R465), or the Release of an event of it is not done. -/
def State.tableWork (s : State) (b c : Nat) : Bool :=
  (s.die0.tevents ++ s.die1.tevents).any (fun t => t.blk = b && t.crew = c && (t.op matches .tick _))
    || s.sends.any (fun p => p.2.blk = b && p.2.crew = c && p.2.reward) || s.releaseOwed b c
/-- Some operation of a crew still has global writes to perform: copies, far atomics, optimiser jobs, collectives, and events of
the join tables. -/
def State.writesOut (s : State) (b c : Nat) : Bool :=
  s.copies.any (fun p => p.2.blk = b && p.2.crew = c) || s.fars.any (fun p => p.2.blk = b && p.2.crew = c)
    || s.opts.any (fun p => p.2.blk = b && p.2.crew = c && !p.2.done)
    || s.colls.any (fun p => p.2.blk = b && p.2.crew = c) || s.tableWork b c
/-- Some operation of a crew still has global reads to complete. -/
def State.readsOut (s : State) (b c : Nat) : Bool :=
  s.copies.any (fun p => p.2.blk = b && p.2.crew = c && p.2.inbound && p.2.err.isNone
      && decide (p.2.chunks < p.2.total))
    || s.fars.any (fun p => p.2.blk = b && p.2.crew = c)
    || s.opts.any (fun p => p.2.blk = b && p.2.crew = c && !p.2.done)
    || s.colls.any (fun p => p.2.blk = b && p.2.crew = c && !p.2.formed) || s.tableWork b c
/-- A send of a crew, data or reward, is not complete (R458). -/
def State.sendsOut (s : State) (b c : Nat) : Bool := s.sends.any fun p => p.2.blk = b && p.2.crew = c && !p.2.recv
/-- What a crew issues from now on comes after the writes of its earlier copies (R379, R411). -/
def State.noOlds (s : State) (b c : Nat) : State := { s with olds := s.olds.filter fun o => !(o.blk = b && o.crew = c) }
/-- The release of a crew at a scope (R378, R408, R458): at package scope or wider, dirty bytes set out and are awaited;
at NODE or wider, so are the crew's sends. -/
def State.released (s : State) (x : Block) (b c scope : Nat) : State × Bool :=
  if s.writesOut b c || (decide (9 ≤ scope) && s.sendsOut b c) then (s, false)
  else if scope < 6 then (s.noOlds b c, true)
  else
    let asid := (s.ctx x.slot).asid
    let s := s.writeThrough x.die asid
    if s.allAcked x.die asid then (s.noOlds b c, true) else (s, false)
/-- A waiting instruction ends with a fault that was held: its lanes go on and the crew traps (R395). -/
def State.resumeFault (s : State) (b c : Nat) (i : Instr) (pc act : Word) (t : Trap) : State :=
  match s.crew b c with
  | none => s
  | some w =>
    let next := pc + BitVec.ofNat 32 (lenOf i)
    (s.setCrew b c { w.setPcs act (fun _ => next) with wait := .ready, issues := w.issues + 1 }).raise b c
      { t with pc := next, lanes := 0, next := next }
/-- The held fault of the command issued first; the others are discarded (R395). -/
def firstFault (fs : List Late) : Option Trap := (fs.foldl (fun r f => earlier r (some f)) none).map (·.trap)
/-- The end of an instruction that releases: the held fault of the crew is raised after it (R395, R400). -/
def endRelease (s : State) (b c : Nat) (i : Instr) (pc act : Word) : State :=
  match s.crew b c with
  | none => s
  | some w =>
    match firstFault w.hfaults with
    | none => s.resume b c i pc act []
    | some t => (s.setCrew b c { w with hfaults := [] }).resumeFault b c i pc act t

/-- A waiting FENCE takes its step (R378, R409): the new state, and whether the fence is complete. -/
def fenceStep (s : State) (x : Block) (b c : Nat) (f : XOps) (pc act : Word) : State × Bool :=
  let scope := f.v % 16
  let (s, rel) := if f.d = 0 then (s, true) else s.released x b c scope
  let acq := f.d = 1 || !s.readsOut b c
  if rel && acq then
    let s := if f.d ≠ 1 && decide (6 ≤ scope) then s.selfInvalidate x.die (s.ctx x.slot).asid else s
    (if f.d = 0 then s.resume b c (.fence f) pc act [] else endRelease s b c (.fence f) pc act, true)
  else (s, false)

/-- FENCE (R248, R378): FULL drains the store queue; the crew goes on at once or waits. -/
def execFence (x : XOps) (s : State) : Out :=
  issue s (.fence x) fun s e => perCrew s e <|
    if x.d = 2 then afterQueue s e (.fence x) fun s e =>
      .next (fenceStep (waitAt s e (.fence x)) e.blk e.b e.c x e.ipc e.act).1
    else .next (fenceStep (waitAt s e (.fence x)) e.blk e.b e.c x e.ipc e.act).1
/-- FENCE_COMPLETE (R378). -/
def execFenceComplete (b c : Nat) (s : State) : Out :=
  match s.waitOf b c, s.block b with
  | some (.fence f, pc, act, _), some x =>
    match fenceStep s x b c f pc act with
    | (s', true) => .next s'
    | (s', false) => ifAsked s s' "FENCE_COMPLETE"
  | _, _ => notEnabled "FENCE_COMPLETE"

/-! ### Far atomics (R380, R403) -/

/-- The bytes that an element of a shape record occupies in memory overlap a location (R380, R192). -/
def regionHit (l : Layout) (va loc n : Nat) : Bool :=
  match l.ext with
  | none => false
  | some (e0, e1, e2, e3) =>
    (pairs (e2 * e3) (e0 * e1)).any fun p =>
      let nib : Int := 2 * (va : Int) + ((p.2 % e0 * ewNibbles l.ew : Nat) : Int)
        + 2 * (((p.2 / e0 : Nat) : Int) * l.gstr1 + ((p.1 % e2 : Nat) : Int) * l.gstr2 + ((p.1 / e2 : Nat) : Int) * l.gstr3)
      rangesMeet (nib / 2).toNat (ewBytes l.ew) loc n
/-- The chained regions of a block in which a location lies (R380): every chained entry whose elements meet it. -/
def chainedRegions (x : Block) (loc n owner : Nat) : List (Nat × Region) → State → Got (List Nat)
  | [], s => .ok s []
  | (j, r) :: rest, s =>
    if !r.chain then chainedRegions x loc n owner rest s
    else
      (s.gread { accOf x owner with rd := true, pkg := true } r.shape 192).bind fun s (bs, _) =>
        let l := shapeLayout (bytesToNat bs) (shapeEw (bytesToNat bs)) 0
        let hit := l.any fun l => regionHit l ((r.base + r.stride * x.index) % 2 ^ 64) loc n
        (chainedRegions x loc n owner rest s).bind fun s js => .ok s (if hit then j :: js else js)
/-- The entries of a list with their numbers. -/
def numbered {α : Type} (l : List α) : List (Nat × α) := (List.range l.length).zip l

/-- The address of a lane of FATOM. -/
def farAddr (e : Env) (x : FarOps) (l : Nat) : Nat := if x.y then e.cw.rs2 x.a else e.cw.rv2 x.a l
/-- The bytes of a far operand. -/
def farBytes (t : Ty) : Nat := tyBits t / 8
/-- The lanes for which FATOM performs an operation: every lane of P(c), or one under Y. -/
def farLanes (e : Env) (x : FarOps) : List Nat := (lanesOf e.part).take (if x.y then 1 else 32)
/-- The operation of one lane of a FATOM. -/
def farOf (e : Env) (x : FarOps) (l : Nat) (regions : List Nat) : Far :=
  { blk := e.b, crew := e.c, order := e.cw.issues, op := x.op, t := x.t, scope := x.scope, ret := x.ret,
    uni := x.y, d := x.d, lane := l, va := farAddr e x l, b := e.cw.opd x.y x.t x.b l,
    c := e.cw.opd x.y x.t x.c l, regions := regions, hold := !regions.isEmpty && (x.ret || x.op = 6 || x.op = 7) }
/-- The operations of a FATOM with their chained regions, in ascending lane order. -/
def farAll (e : Env) (x : FarOps) : List Nat → State → Got (List Far)
  | [], s => .ok s []
  | l :: ls, s =>
    (if e.blk.r.det && e.blk.r.res then
      chainedRegions e.blk (farAddr e x l) (farBytes x.t) (crewOwner e.b e.c) (numbered e.blk.r.regions) s
     else .ok s []).bind fun s r => (farAll e x ls s).bind fun s fs => .ok s (farOf e x l r :: fs)
/-- The operations set out to their homes. -/
def State.addFars (s : State) (fs : List Far) : State :=
  fs.foldl (fun s f => let (k, s) := s.take; { s with fars := put s.fars k f }) s
/-- The lanes whose far address is not a multiple of the width (R403). -/
def farBad (e : Env) (x : FarOps) : Word := maskWhere e.part fun l => farAddr e x l % farBytes x.t ≠ 0

/-- FATOM (R403). -/
def execFatom (x : FarOps) (s : State) : Out :=
  issue s (.fatom x) fun s e => perCrew s e <|
    if !e.blk.r.res then trapAt s e 0x44 1 e.act
    else if x.op = 8 ∧ e.blk.r.det then trapAt s e 0x15 0 e.part
    else if farBad e x ≠ 0 then trapAt s e 0x44 5 (farBad e x)
    else gotAt e (farAll e x (farLanes e x) s) fun s fs =>
      let e := e.refresh s
      if x.ret then .next (finishIssue ((defer s e (.fatom x) {} false).addFars fs) e)
      else complete (s.addFars fs) e {}

/-- An earlier operation of the same crew to the same line is still on its way (R377). -/
def farBehind (s : State) (k : Nat) (f : Far) : Bool :=
  s.fars.any fun p => decide (p.1 < k) && p.2.blk = f.blk && p.2.crew = f.crew && p.2.va / 128 = f.va / 128
/-- The result of one lane of a far atomic for its crew: writes and flags join the outstanding result, which is ready
once the last lane has been performed (R403). -/
def farReturn (s : State) (f : Far) (old : Nat) (fl : Flags) : State :=
  let last := !(s.fars.any fun p => p.2.blk = f.blk && p.2.crew = f.crew && p.2.order = f.order)
  if !f.ret then s
  else s.fillCrew f.blk f.crew f.order fun p =>
    { p with writes := p.writes ++ resultWrites f.uni f.t f.d f.lane old, flags := p.flags ||| fl,
             ready := last }
/-- A fault of a far atomic (R403): a late cause of its result, or a held fault without RET. -/
def farFault (s : State) (f : Far) (t : Trap) : State :=
  let last := !(s.fars.any fun p => p.2.blk = f.blk && p.2.crew = f.crew && p.2.order = f.order)
  if f.ret then s.fillCrew f.blk f.crew f.order fun p =>
      { p with late := some (p.late.getD { t with pc := 0, lanes := 0 }), ready := last }
  else s.holdFault f.blk f.crew f.order t
/-- The access of a far atomic (R377, R402). -/
def farAcc (x : Block) (key : Nat) (f : Far) : Acc :=
  { die := x.die, slot := x.slot, rd := true, wr := true, pkg := true, scope := some f.scope,
    atom := some (farBytes f.t, f.op), use := .forbid, owner := 2 * key }
/-- A far operation is performed with the ATOM table; FADD rounds with RN (R403). -/
def farOp (f : Far) (old : Nat) : Nat × Flags := atomOp f.op f.t 0 old f.b f.c

/-- FAR_ATOMIC_PERFORM (R377, R403). -/
def execFarAtomicPerform (b c k : Nat) (s : State) : Out :=
  match s.block b, look s.fars k with
  | some x, some f =>
    if f.blk = b ∧ f.crew = c ∧ f.hold = false ∧ farBehind s k f = false ∧ (s.ctx x.slot).state = .live then
      match s.gatomic (farAcc x k f) f.va (farBytes f.t) f.op f.b f.c fun old => (farOp f old).1 with
      | .ok s old => let s := s.forget (2 * k); .next (farReturn { s with fars := dropAt s.fars k } f old (farOp f old).2)
      | .wait s' => ifAsked s s' "FAR_ATOMIC_PERFORM"
      | .fail s t =>
        let s := { s with fars := dropAt s.fars k }
        if errCode t.code = 0 then .next (s.fatalBlock b c 0 t) else .next (farFault s f t)
    else notEnabled "FAR_ATOMIC_PERFORM"
  | _, _ => notEnabled "FAR_ATOMIC_PERFORM"

/-- Every block of lower index has triggered or retired, and its far atomics on each of the regions have been performed (R380). -/
def chainOpen (s : State) (x : Block) (regions : List Nat) : Bool :=
  (match s.grid x.grid with
   | none => true
   | some g => (List.range x.index).all fun j => getAt false g.trig j)
    && !(s.fars.any fun p => p.2.regions.any regions.contains && (match s.block p.2.blk with
      | some y => y.grid = x.grid && decide (y.index < x.index)
      | none => false))
/-- CHAINED_ATOMIC_RELEASE (R380). -/
def execChainedAtomicRelease (b c k : Nat) (s : State) : Out :=
  match s.block b, look s.fars k with
  | some x, some f =>
    if f.blk = b ∧ f.crew = c ∧ f.hold = true ∧ chainOpen s x f.regions = true then
      .next { s with fars := put s.fars k { f with hold := false } }
    else notEnabled "CHAINED_ATOMIC_RELEASE"
  | _, _ => notEnabled "CHAINED_ATOMIC_RELEASE"

/-! ### Far-flag waits (R404) -/

/-- The condition of an FWAIT (R404). -/
def farCond (t : Ty) (cond word value : Nat) : Bool :=
  match cond with
  | 0 => word = value
  | 1 => word ≠ value
  | 2 => decide (value ≤ word)
  | _ => decide (signedOf (tyBits t) value ≤ signedOf (tyBits t) word)
/-- FWAIT (R404): the crew waits. -/
def execFwait (x : FarOps) (s : State) : Out :=
  issue s (.fwait x) fun s e => perCrew s e <|
    if !e.blk.r.res then trapAt s e 0x44 1 e.act
    else if e.cw.rs2 x.a % farBytes x.t ≠ 0 then trapAt s e 0x44 5 e.act
    else .next (waitAt s e (.fwait x))
/-- FWAIT_SATISFIED (R404): a read at the home satisfies the condition, or meets a fault, which is a late cause of the park
that the switch marker of FWAIT brings (R375, R477). -/
def execFwaitSatisfied (b c : Nat) (s : State) : Out :=
  match s.waitOf b c, s.block b with
  | some (.fwait x, pc, act, _), some blk =>
    match look blk.crews c with
    | none => notEnabled "FWAIT_SATISFIED"
    | some w =>
      let a : Acc := { accOf blk (crewOwner b c) with rd := true, pkg := true, scope := some x.scope, use := .forbid }
      match s.gread a (w.rs2 x.a) (farBytes x.t) with
      | .ok s (bs, _) =>
        if farCond x.t x.cond (bytesToNat bs) (if farBytes x.t = 8 then w.rs2 x.b else (w.rs x.b).toNat) then
          .next ((s.forget (crewOwner b c)).resume b c (.fwait x) pc act [])
        else if s.answered (crewOwner b c) then .next (s.forget (crewOwner b c))
        else notEnabled "FWAIT_SATISFIED"
      | .wait s' => ifAsked s s' "FWAIT_SATISFIED"
      | .fail s t =>
        if errCode t.code = 0 then .next (s.fatalBlock b c 0 t)
        else
          let late : Late := ⟨w.issues, { t with pc := 0, lanes := 0 }⟩
          .next ((s.setCrew b c { w with late := earlier w.late (some late) }).resume b c (.fwait x) pc act [])
  | _, _ => notEnabled "FWAIT_SATISFIED"

/-! ### Line locks (R381, R405) -/

/-- The misuse of a line-lock range (R405): its reason. -/
def lockReason (va n : Nat) : Option Nat :=
  if va % 128 ≠ 0 then some 1 else if n = 0 ∨ n % 128 ≠ 0 ∨ 2 ^ 30 < n then some 2 else none
/-- The lines of a range are resolved, in ascending order. -/
def resolveLines (a : Acc) : List Nat → State → Got (List Spot)
  | [], s => .ok s []
  | l :: ls, s => (resolve s a (128 * l)).bind fun s (p, _) => (resolveLines a ls s).bind fun s ps => .ok s (p :: ps)
/-- The line numbers of a range. -/
def linesFrom (va n : Nat) : List Nat := (List.range (n / 128)).map fun j => va / 128 + j
/-- The tags of the lines that a die has locked, those among them that a last-use read has dropped (R381, R382). -/
def lockTags (s : State) (die : Nat) : List (Nat × Nat × Bool) :=
  ((s.cache die false).filter (·.locked)).map (fun l => (l.asid, l.va, l.side)) ++ (s.die die).relock
/-- A line of a context is locked in its home L2. -/
def lockedAt (s : State) (asid : Nat) (p : Spot) : Bool := (lockTags s p.home).contains (asid, p.va / 128, p.side)
/-- The status of a lock (R381). -/
def lockStatus (s : State) (slot : Nat) (ps : List Spot) : Nat :=
  let asid := (s.ctx slot).asid
  let fresh := ps.filter fun p => !lockedAt s asid p
  let held (die : Nat) : Nat := ((lockTags s die).filter fun t => t.1 = asid).length
  let more (die : Nat) : Nat := (fresh.filter fun p => p.home = die).length
  let setNo (va : Nat) : Nat := Config.setOf va % 65536
  let full (p : Spot) : Bool :=
    decide (12 < ((lockTags s p.home).filter fun t => setNo t.2.1 = setNo (p.va / 128)).length
      + (fresh.filter fun q => q.home = p.home && setNo (q.va / 128) = setNo (p.va / 128)).length)
  if ps.any fun p => decide (hostBase ≤ p.pa) then 3
  else if (s.ctx slot).quota < held 0 + more 0 ∨ (s.ctx slot).quota < held 1 + more 1 then 1
  else if fresh.any full then 2 else 0
/-- The lines are filled into their home L2 and pinned. -/
def lockLines (asid : Nat) : List Spot → State → Got Unit
  | [], s => .ok s ()
  | p :: ps, s =>
    (homeLine s asid (p.va / 128) p.side (p.pa - p.pa % 128) p.cc).bind fun s l =>
      lockLines asid ps (s.putLine p.home false { l with locked := true })
/-- The requests for the lines that the other die holds have crossed (R407). -/
def crossAll (a : Acc) : List Spot → State → Got Unit
  | [], s => .ok s ()
  | p :: ps, s =>
    match reachHome s a p with
    | .ok s _ => crossAll a ps s
    | .wait s => (crossAll a ps s).bind fun s _ => .wait s
    | .fail s t => .fail s t
/-- L2LCK (R405): the crew parks until the lock is performed. -/
def execL2lck (x : FarOps) (s : State) : Out :=
  issue s (.l2lck x) fun s e => perCrew s e <|
    if !e.blk.r.res then trapAt s e 0x44 1 e.act
    else match lockReason (e.cw.rs2 x.a) (e.cw.rs x.b).toNat with
      | some r => trapAt s e 0xA7 r e.act
      | none =>
        let s' := defer s e (.l2lck x) {} false
        .next (finishIssue (match s'.crew e.b e.c with
          | none => s'
          | some w => s'.setCrew e.b e.c { w with jobs := w.jobs ++ [⟨.l2lck x, e.ipc, e.act, e.part, e.cw.issues, s.steps, none⟩] }) e)
/-- The job of a crew that a unit's event works on. -/
def Crew.jobOf (w : Crew) (f : Instr → Bool) : Option Job := w.jobs.find? fun j => f j.i
/-- A job of a crew ends: its outstanding result is filled. -/
def State.endJob (s : State) (b c : Nat) (j : Job) (f : Pend → Pend) : State :=
  match s.crew b c with
  | none => s
  | some w => s.setCrew b c ({ w with jobs := w.jobs.filter (· ≠ j) }.fill j.order fun p => { f p with ready := true })
/-- L2LCK_COMPLETE (R381): all-or-nothing. -/
def execL2lckComplete (b c : Nat) (s : State) : Out :=
  match s.block b, s.crew b c with
  | some blk, some w =>
    match w.jobOf (· matches .l2lck _) with
    | some j =>
      match j.i with
      | .l2lck x =>
        let a : Acc := { accOf blk (crewOwner b c) with rd := true, use := .forbid }
        let asid := (s.ctx blk.slot).asid
        let n := (w.rs x.b).toNat
        match (resolveLines a (linesFrom (w.rs2 x.a) n) s).bind fun s ps =>
            let st := lockStatus s blk.slot ps
            if st ≠ 0 then .ok s st
            else match crossAll a ps s with
              | .ok s _ => match lockLines asid ps s with
                | .ok s _ => .ok (s.forget (crewOwner b c)) 0
                | .wait _ => .wait s
                | .fail s t => .fail s t
              | .wait s => .wait s
              | .fail s t => .fail s t with
        | .ok s st => .next (s.endJob b c j fun p => { p with writes := [.s x.d (BitVec.ofNat 32 st)] })
        | .wait s' => ifAsked s s' "L2LCK_COMPLETE"
        | .fail s t =>
          if errCode t.code = 0 then .next (s.fatalBlock b c 0 t)
          else .next (s.endJob b c j fun p => { p with late := some { t with pc := 0, lanes := 0 } })
      | _ => notEnabled "L2LCK_COMPLETE"
    | none => notEnabled "L2LCK_COMPLETE"
  | _, _ => notEnabled "L2LCK_COMPLETE"

/-- Lines are unlocked. -/
def unlockLines (s : State) (asid : Nat) (ps : List Spot) : State :=
  ps.foldl (fun s p =>
    let mine := Line.tagged asid (p.va / 128) p.side
    let d := s.die p.home
    s.setDie p.home { d with l2 := d.l2.map fun l => if mine l then { l with locked := false } else l,
                             relock := d.relock.filter (· ≠ (asid, p.va / 128, p.side)) }) s
/-- The lines of a range that may be unlocked, and the fault of the first line that may not: a line of a shadowed page is
passed over (R405). -/
def unlockable (a : Acc) : List Nat → State → Got (List Spot × Option Trap)
  | [], s => .ok s ([], none)
  | l :: ls, s =>
    match resolve s a (128 * l) with
    | .ok s (p, _) => (unlockable a ls s).bind fun s (ps, f) => .ok s (p :: ps, f)
    | .wait s => .wait s
    | .fail s t =>
      if errCode t.code = 0 then .fail s t
      else (unlockable a ls s).bind fun s (ps, _) => .ok s (ps, some t)
/-- L2ULK (R405): its cause 0xA6 is held. -/
def execL2ulk (x : FarOps) (s : State) : Out :=
  issue s (.l2ulk x) fun s e => perCrew s e <|
    if !e.blk.r.res then trapAt s e 0x44 1 e.act
    else match lockReason (e.cw.rs2 x.a) (e.cw.rs x.b).toNat with
      | some r => trapAt s e 0xA7 r e.act
      | none =>
        let a : Acc := { accOf e.blk (crewOwner e.b e.c) with use := .forbid }
        match unlockable a (linesFrom (e.cw.rs2 x.a) (e.cw.rs x.b).toNat) s with
        | .wait s => .next s
        | .fail s t => .next (s.raiseIssue e.b e.c { t with pc := e.ipc, lanes := e.act, next := e.next })
        | .ok s (ps, f) =>
          let late := f.toList.map fun t => ({ order := e.cw.issues, trap := { t with pc := 0, lanes := 0 } } : Late)
          complete (unlockLines s (s.ctx e.blk.slot).asid ps)
            { e with cw := { e.cw with hfaults := e.cw.hfaults ++ late } } {}

/-! ### Publication (R399, R400) -/

/-- The entries of a PUBL list. -/
def publList (x : Block) (w : Crew) (a n : Nat) : List Nat := (List.range n).map fun j => crewRead x w (a + 2 * j) 2
/-- The bytes that a PUBL list takes of the share, when it is one that is read. -/
def publRange (w : Crew) (a n : Nat) : List (Nat × Nat) := if n = 0 ∨ 64 < n then [] else fromShare w a (2 * n)
/-- The fault of a PUBL at its issue (R399): its reason. -/
def publReason (x : Block) (w : Crew) (a n : Nat) : Option Nat :=
  if a % 8 ≠ 0 ∨ x.r.lmem < a + 2 * n then some 1
  else if n = 0 ∨ 64 < n then some 2
  else
    let ps := publList x w a n
    if (ps.any fun p => decide (1024 ≤ p)) || ps.eraseDups.length ≠ n then some 2 else none
/-- What a function finds for each number of a list, one after another. -/
def gather (f : Nat → State → Got (List TlbEntry)) : List Nat → State → Got (List TlbEntry)
  | [], s => .ok s []
  | i :: is, s => (f i s).bind fun s xs => (gather f is s).bind fun s ys => .ok s (xs ++ ys)
/-- The leaves of a page table, read by a home die (R368): its levels, the table, the address its entries start at. -/
def leavesFrom (asid : Nat) : List Nat → Nat → Nat → State → Got (List TlbEntry)
  | [], _, _, s => .ok s []
  | lvl :: rest, t, va, s =>
    gather (fun i s =>
      let a := va + i * (if lvl = 4 then 65536 else 2 ^ (48 - 9 * lvl))
      (physRead s asid (t + 8 * i) a 8).bind fun s e =>
        if !bitOf e 0 then .ok s []
        else if bitOf e 1 then .ok s (if leafBad e lvl a then [] else [leafEntry asid e lvl a])
        else leavesFrom asid rest (entryAddr e) a s) (List.range (if lvl = 4 then 32 else 512)) s
/-- The pages of a context that belong to listed regions. -/
def publPages (s : State) (slot : Nat) (ps : List Nat) : Got (List TlbEntry) :=
  if (s.ctx slot).root = 0 then .ok s []
  else (leavesFrom (s.ctx slot).asid [0, 1, 2, 3, 4] (s.ctx slot).root 0 s).bind fun s es =>
    .ok s (es.filter fun e => e.sh && ps.contains e.pti)
/-- The listed bits of the publish table are inverted (R400). -/
def flip (x : Ctx) (ps : List Nat) : Ctx :=
  { x with publ := ps.foldl (fun t p => setAt false t p (!getAt false t p)) x.publ }
/-- PUBL (R400): its list is read and checked (R399), then the crew waits for its release. -/
def execPubl (x : FarOps) (s : State) : Out :=
  issue s (.publ x) fun s e => perCrew s e <|
    if !e.blk.r.res then trapAt s e 0x44 1 e.act
    else beforeRead s e (.publ x) fun s e =>
      let a := (e.cw.rs x.a).toNat
      let n := (e.cw.rs x.b).toNat
      let (s, bad) := s.meetRead e.b e.c .share (publRange e.cw a n)
      if bad then .next s
      else
        let e := e.refresh s
        match publReason e.blk e.cw a n with
        | some r => trapAt s e 0xA6 r e.act
        | none => .next (waitAt s { e with cw := { e.cw with publ := publList e.blk e.cw a n } } (.publ x))
/-- PUBL_FLIP (R400): the release has been performed; the class of every page is checked, and the bits of the list that was read at
the issue flip in one step. -/
def execPublFlip (b c : Nat) (s : State) : Out :=
  match s.waitOf b c, s.block b with
  | some (.publ x, pc, act, _), some blk =>
    match look blk.crews c with
    | none => notEnabled "PUBL_FLIP"
    | some w =>
      match s.released blk b c x.scope with
      | (s', false) => ifAsked s s' "PUBL_FLIP"
      | (s, true) =>
        match publPages s blk.slot w.publ with
        | .wait _ => notEnabled "PUBL_FLIP"
        | .fail s t => .next (s.fatalBlock b c 0 t)
        | .ok s pages => match pages.find? fun e => !scopeOk e.cc x.scope with
          | some e => .next (s.resumeFault b c (.publ x) pc act { code := 0xA5, info := 1 + 16 * e.cc })
          | none => .next (endRelease (s.setCtx blk.slot (flip (s.ctx blk.slot) w.publ)) b c (.publ x) pc act)
  | _, _ => notEnabled "PUBL_FLIP"

end Sys2Proof.Machine
end

