-- ==== Sys2Proof/Machine/Cluster.lean ====
section
/-! DEFINITION. The compactor, the sort unit, the traversal unit and ENVRST (R268 to R282, R287): their issue, and the
events that run their jobs. -/

namespace Sys2Proof.Machine

/-! ### Jobs and unit storage -/

/-- An instruction whose crew parks while a unit works on it (R271): its result waits to be filled by the unit. -/
def jobIssue (s : State) (e : Env) (i : Instr) (bytes : Option (List (List Byte)) := none) : Out :=
  let s' := defer s e i {} false
  .next (finishIssue (match s'.crew e.b e.c with
    | none => s'
    | some w => s'.setCrew e.b e.c { w with jobs := w.jobs ++ [⟨i, e.ipc, e.act, e.part, e.cw.issues, s.steps, bytes⟩] }) e)

/-- WHERE of a cause of a cluster unit: above the core, and of no crew (R173, R178). -/
def unitLoc (die cluster : Nat) : Nat := locOf die cluster 15 255
/-- The record of a cause that work of a block raises above the core: no core, crew or block, the block's grid (R173, R178). -/
def aboveCore (s : State) (x : Block) (loc : Nat) (t : Trap) : FaultRec :=
  { faultRec s x 255 0 t with loc := loc, block := 4294967295, pc := 0xFFFFFFFF }
/-- The storage of a cluster unit is read (R287): an uncorrectable error ends the context of the job, a correctable one is
corrected and noted. `unit` is the number of R287. -/
def unitCheck (s : State) (x : Block) (die unit : Nat) (k : State → State) : State :=
  let d := s.die die
  let mine := d.uerr.filter fun e => e.2.1 = unit && e.1 = x.cluster
  if mine.isEmpty then k s
  else
    let s := s.setDie die { d with uerr := d.uerr.filter fun e => !mine.contains e }
    if mine.any (·.2.2) then s.fatal x.slot (aboveCore s x (unitLoc die x.cluster) { code := 0x8C, info := unit })
    else k (mine.foldl (fun s _ => s.note die 0x8D (unitLoc die x.cluster) (s.ctx x.slot).asid unit) s)

/-- The block works: it runs and its context lives. -/
def State.runs (s : State) (x : Block) : Bool := x.phase = .running && (s.ctx x.slot).state = .live
/-- One waiting job comes before another at a unit (R268): the higher level, then the earlier arrival, then the lower block
key and crew. A job is (level, arrival, block, crew). -/
def jobBefore (a b : Nat × Nat × Nat × Nat) : Bool :=
  decide (b.1 < a.1) || (a.1 = b.1 && (decide (a.2.1 < b.2.1) || (a.2.1 = b.2.1 && (decide (a.2.2.1 < b.2.2.1)
    || (a.2.2.1 = b.2.2.1 && decide (a.2.2.2 < b.2.2.2))))))
/-- The blocks of a cluster that work. -/
def State.workers (s : State) (x : Block) : List (Nat × Block) :=
  s.blocks.filter fun p => p.2.die = x.die && p.2.cluster = x.cluster && s.runs p.2
/-- The jobs of crews that wait at a unit of the cluster of a block. -/
def unitJobs (s : State) (x : Block) (kind : Instr → Bool) : List (Nat × Nat × Nat × Nat) :=
  (s.workers x).flatMap fun p => p.2.crews.flatMap fun q =>
    (q.2.jobs.filter fun j => kind j.i).map fun j => (p.2.r.prio, j.since, p.1, q.1)
/-- The job of a crew is the one that its unit takes next (R268). -/
def jobFirst (s : State) (b c : Nat) (x : Block) (j : Job) (kind : Instr → Bool) : Bool :=
  !((unitJobs s x kind).any fun a => jobBefore a (x.r.prio, j.since, b, c))

/-! ### COMPACT (R272, R273) -/

/-- COMPACT (R272): the crew parks, then waits at the barrier with its active lanes arrived. -/
def execCompact (x : CluOps) (s : State) : Out :=
  issue s (.compact x) fun s e =>
    .next ((s.setBlock e.b (e.blk.setCrew e.c (Env.issued s e.cw))).park e.b e.c (.compact (.compact x) e.ipc e.act))

/-- A crew has arrived at COMPACT with every live lane. As at BAR (R246), the arrival counts only once every earlier store of
the crew has been written (DEDUCED, log 89). -/
def compactReady (w : Crew) : Bool :=
  match w.wait with
  | .waiting (.compact _) _ act _ => act = w.live && w.queue.isEmpty
  | _ => false
/-- The crews of a block that hold a live lane, in ascending order. -/
def liveCrews (x : Block) : List (Nat × Crew) := x.crews.filter fun p => p.2.live ≠ 0
/-- An error lies in a register that the compactor moves (R199, R273): of a live lane, or in a predicate file. -/
def moved (ps : List (Nat × Crew)) (e : StoreErr) : Bool :=
  ps.any fun p => p.1 = e.crew && (match e.place with
    | .v => decide (e.num < 8 * p.2.vg) && inMask p.2.live e.lane
    | .m => decide (e.num < 4 * p.2.mg) && inMask p.2.live e.lane
    | .p => true
    | _ => false)
/-- Why the regrouping fails (R272): the lowest reason that holds (DESIGN CHOICE, log 103: the spec orders no reasons). -/
def compactReason (ps : List (Nat × Crew)) : Option Nat :=
  match ps with
  | [] => none
  | p :: rest =>
    if rest.any fun q => q.2.ipc ≠ p.2.ipc then some 1
    else if rest.any fun q => q.2.vg ≠ p.2.vg || q.2.mg ≠ p.2.mg then some 2
    else if ps.any fun q => q.2.inTrap then some 3 else none

/-- A lane of a block with its sort key (R273). -/
structure LaneKey where
  crew : Nat
  lane : Nat
  key : Nat
  gtid : Nat
  deriving DecidableEq, Repr

/-- A lane stands before another: by key, then GTID (R273). -/
def LaneKey.before (a b : LaneKey) : Bool := decide (a.key < b.key) || (a.key = b.key && decide (a.gtid < b.gtid))
/-- Insertion into a sorted list of lanes. -/
def insertLane (a : LaneKey) : List LaneKey → List LaneKey
  | [] => [a]
  | b :: rest => if a.before b then a :: b :: rest else b :: insertLane a rest
/-- The live lanes of a block in the order of R273. -/
def sortedLanes (x : Block) (ps : List (Nat × Crew)) (va : Nat → Nat) : List LaneKey :=
  (ps.flatMap fun p => (lanesOf p.2.live).map fun l =>
    ({ crew := p.1, lane := l, key := (p.2.rv (va p.1) l).toNat % 65536, gtid := gtidOf x p.2 l } : LaneKey)).foldl
    (fun t a => insertLane a t) []
/-- A per-lane table with the entries of some lanes taken from other crews: `key` splits into a stride and the lane. -/
def regroupTable {α : Type} (t : Crew → Sparse α) (x : Block) (w : Crew) (from_ : List (Nat × LaneKey)) : Sparse α :=
  let kept := (t w).filter fun p => !(from_.any fun q => q.1 = p.1 % 32)
  from_.foldl (fun m q =>
    match look x.crews q.2.crew with
    | none => m
    | some v => ((t v).filter fun p => p.1 % 32 = q.2.lane).foldl
        (fun m p => insertAt m (p.1 - q.2.lane + q.1) p.2) m) kept
/-- The crew whose lanes take the state of other lanes (R273): `from_` pairs a lane with its source. -/
def regroupCrew (x : Block) (w : Crew) (pc : Word) (from_ : List (Nat × LaneKey)) : Crew :=
  let live := maskOf (from_.map (·.1))
  let pred (k : Nat) : Word :=
    maskOf ((from_.filter fun q => ((look x.crews q.2.crew).map fun v => inMask (v.rp k) q.2.lane).getD false).map (·.1))
      ||| (w.rp k &&& ~~~live)
  { w with live := live, v := regroupTable Crew.v x w from_, m := regroupTable Crew.m x w from_,
           strm := regroupTable Crew.strm x w from_, tid := regroupTable Crew.tid x w from_, p := [1, 2, 3,
           4, 5, 6, 7].foldl (fun t k => setAt 0 t k (pred k)) [],
           pcv := (lanesOf live).foldl (fun t l => setAt 0 t l (pc + 12)) [], wait := .ready,
           issues := w.issues + 1 }
/-- The block after the regrouping (R273). -/
def regroup (x : Block) (ps : List (Nat × Crew)) (pc : Word) (ls : List LaneKey) : Block :=
  (numbered ps).foldl (fun y q =>
    let mine := (List.range 32).filterMap fun l => (ls[32 * q.1 + l]?).map fun a => (l, a)
    y.setCrew q.2.1 (regroupCrew x q.2.2 pc mine)) x

/-- Every live lane of a block has arrived (R272). -/
def compactDue (s : State) (x : Block) : Bool :=
  let ps := liveCrews x
  !ps.isEmpty && ps.all (fun p => compactReady p.2) && s.runs x
/-- The arrival of a block's regrouping at the compactor: its last crew's. -/
def compactSince (x : Block) : Nat := (liveCrews x).foldl (fun m p => max m p.2.lastIssue) 0
/-- The compactor of the cluster takes this block's regrouping next (R268). -/
def compactFirst (s : State) (b : Nat) (x : Block) : Bool :=
  !((s.workers x).any fun p => compactDue s p.2
    && jobBefore (p.2.r.prio, compactSince p.2, p.1, 0) (x.r.prio, compactSince x, b, 0))
/-- The regrouping takes effect (R273): the lanes move, and a crew that is left without a live lane drains. -/
def compacted (s : State) (b : Nat) (x : Block) (ps : List (Nat × Crew)) : State :=
  let va (c : Nat) : Nat := match s.waitOf b c with
    | some (.compact y, _, _, _) => y.a
    | _ => 0
  let pc := match ps with
    | p :: _ => p.2.ipc
    | [] => 0
  let y := regroup x ps pc (sortedLanes x ps va)
  (ps.filter fun p => (look y.crews p.1).any fun w => w.live = 0).foldl (fun s p => s.startDrain b p.1)
    ((s.setBlock b y).joinJobs b (ps.foldl (fun m p => m ||| (1#64 <<< p.1)) 0))
/-- COMPACT_COMPLETE (R268, R273): every live lane of the block has arrived. -/
def execCompactComplete (b : Nat) (s : State) : Out :=
  match s.block b with
  | none => notEnabled "COMPACT_COMPLETE"
  | some x =>
    let ps := liveCrews x
    if compactDue s x && compactFirst s b x then
      .next (unitCheck s x x.die 0 fun s =>
        match compactReason ps with
        | some r => ps.foldl (fun s p =>
            match p.2.wait with
            | .waiting i pc act _ => s.failWait b p.1 i pc act 0x80 r
            | _ => s) s
        | none =>
          let (s, bad) := s.meetStore b 255 (x.errs.filter (moved ps))
          if bad then s else compacted s b ((s.block b).getD x) ps)
    else notEnabled "COMPACT_COMPLETE"

/-! ### ENVRST (R274, R275) -/

/-- The descriptor is malformed (R275, reason 1). -/
def EnvDesc.malformed (d : EnvDesc) : Bool :=
  d.rsv ≠ 0 || d.tbase % 16 ≠ 0 || d.sbase % 16 ≠ 0 || d.ssize % 16 ≠ 0 || decide (d.ssize < 16) || decide (65536 < d.ssize)
    || d.epoff % 8 ≠ 0 || d.curoff % 4 ≠ 0 || decide (d.ssize < d.epoff + 8) || decide (d.ssize < d.curoff + 4)
    || rangesMeet d.epoff 8 d.curoff 4
/-- The slot of environment `e`. -/
def EnvDesc.slotAt (d : EnvDesc) (e : Nat) : Nat := d.sbase + e * d.ssize
/-- The lowest reason that some lane fails, with the lanes that fail for it (R275). -/
def envFail (x : Block) (part : Word) (d : EnvDesc) (env : Nat → Nat) : Option (Nat × Word) :=
  let lm := x.r.lmem
  let out := maskWhere part fun l => decide (lm < d.slotAt (env l) + d.ssize) || decide (lm < d.tbase + d.ssize)
  let lap := maskWhere part fun l => rangesMeet (d.slotAt (env l)) d.ssize d.tbase d.ssize
  if part = 0 then none
  else if d.malformed then some (1, part)
  else if out ≠ 0 then some (2, out)
  else if lap ≠ 0 then some (3, lap) else none
/-- The episode number of a lane (R275). -/
def episode (w : Crew) (b l : Nat) : Nat := w.rv2 b l % 2 ^ 40
/-- ENVRST (R275). -/
def execEnvrst (x : CluOps) (s : State) : Out :=
  issue s (.envrst x) fun s e =>
    let a : Nat := (e.cw.rs x.c).toNat
    addressed s e 16 (fun _ => (a : Int)) <| beforeRead s e (.envrst x) fun s e =>
      readable s e 16 (fun _ => (a : Int)) fun s =>
        let e := e.refresh s
        let d := envDescOf (crewRead e.blk e.cw a 16)
        let env (l : Nat) : Nat := (e.cw.rv x.a l).toNat
        match envFail e.blk e.part d env with
        | some (r, m) => trapAt s e 0x81 r m
        | none =>
          let ls := (lanesOf e.part).map fun l => (d.slotAt (env l), episode e.cw x.b l)
          let w := (lanesOf e.part).foldl (fun w l =>
            w.setStrm l (streamOfParts (episode e.cw x.b l % 65536) 0 (strmKey (w.strmOf l)))) e.cw
          if e.part = 0 then complete s e {}
          else complete s { e with cw := w.enqueue (.envrst d ls) } {}

/-! ### BPSORT (R276 to R278) -/

/-- BPSORT: its job. -/
def execBpsort (x : CluOps) (s : State) : Out :=
  issue s (.bpsort x) fun s e => perCrew s e <| afterQueue s e (.bpsort x) fun s e => jobIssue s e (.bpsort x)

/-- A sort record (R276). -/
structure SortRec where
  boxes : Nat
  n : Nat
  flags : Nat
  pairs : Nat
  cap : Nat
  perma : Nat
  rsv : Nat
  deriving DecidableEq, Repr

/-- The record of 64 bytes. -/
def sortRecOf (x : Nat) : SortRec :=
  { boxes := bitsOf x 0 64, n := bitsOf x 64 32, flags := bitsOf x 96 32, pairs := bitsOf x 128 64,
    cap := bitsOf x 192 32, perma := bitsOf x 256 64, rsv := bitsOf x 224 32 + bitsOf x 320 192 }
/-- A local range lies in the share at an alignment. -/
def localOk (lm a n al : Nat) : Bool := a % al = 0 && decide (a + n ≤ lm)
/-- Why a sort request fails (R278). Reason 2 names local operands only: a global box array, pair list or permutation is taken at
the address as it stands, and PERMA and SGLB are not checked while PERM = 0 (DESIGN CHOICE, log 48: the spec does not say). -/
def sortReason (x : Block) (at_ : Nat) (r : SortRec) : Option Nat :=
  let lm := x.r.lmem
  let bg := bitOf r.flags 0
  let pg := bitOf r.flags 1
  let sg := bitOf r.flags 2
  let pm := bitOf r.flags 3
  let meets (g1 g2 : Bool) (a n b m : Nat) : Bool := g1 = g2 && rangesMeet a n b m
  if !localOk lm at_ 64 64 then some 2
  else if r.rsv ≠ 0 || decide (16 ≤ r.flags) || r.n = 0 || decide (65536 < r.n) || decide (1048576 < r.cap) then some 1
  else if (!bg && !localOk lm r.boxes (32 * r.n) 16) || (!pg && !localOk lm r.pairs (8 * r.cap) 8)
      || (pm && !sg && !localOk lm r.perma (4 * r.n) 4) then some 2
  else if !x.r.res && (bg || pg || (pm && sg)) then some 3
  else if meets bg pg r.boxes (32 * r.n) r.pairs (8 * r.cap) || (pm && meets bg sg r.boxes (32 * r.n) r.perma (4 * r.n))
      || (pm && meets pg sg r.pairs (8 * r.cap) r.perma (4 * r.n)) then some 4 else none
/-- The place of an FP32 encoding in the total order of R277. -/
def totalKey (x : Nat) : Nat := if x < 2147483648 then x + 2147483648 else 4294967295 - x
/-- Coordinate `j` of box `i`: 0 to 2 the minimum, 3 to 5 the maximum, 6 the mask. -/
def boxWord (bs : List Byte) (i j : Nat) : Nat := bytesToNat ((bs.drop (32 * i + 4 * j)).take 4)
/-- Insertion of a box index by its key, after equal keys. -/
def insertBox (key : Nat → Nat) (i : Nat) : List Nat → List Nat
  | [] => [i]
  | j :: rest => if key i < key j then i :: j :: rest else j :: insertBox key i rest
/-- The permutation (R277). -/
def sortPerm (bs : List Byte) (n axis : Nat) : List Nat :=
  (List.range n).foldl (fun t i => insertBox (fun k => totalKey (boxWord bs k axis)) i t) []
/-- Two boxes overlap on an axis, by IEEE comparisons. -/
def axisMeet (bs : List Byte) (i j a : Nat) : Bool :=
  leVal (valueOf .f32 (boxWord bs i a)) (valueOf .f32 (boxWord bs j (3 + a)))
    && leVal (valueOf .f32 (boxWord bs j a)) (valueOf .f32 (boxWord bs i (3 + a)))
/-- No minimum of a box exceeds its maximum and no bound is a NaN: another box is in no pair (R277; log 84). -/
def boxSound (bs : List Byte) (i : Nat) : Bool := [0, 1, 2].all fun a => axisMeet bs i i a
/-- The pairs in ascending (i, j) (R277). -/
def sortPairs (bs : List Byte) (n : Nat) : List (Nat × Nat) :=
  (pairs n n).filter fun p => decide (p.1 < p.2) && boxSound bs p.1 && boxSound bs p.2 && (boxWord bs p.1 6 &&& boxWord bs p.2 6) ≠ 0
    && axisMeet bs p.1 p.2 0 && axisMeet bs p.1 p.2 1 && axisMeet bs p.1 p.2 2
/-- Some coordinate is a NaN. -/
def anyNaN (bs : List Byte) (n : Nat) : Bool :=
  (pairs n 6).any fun p => valueOf .f32 (boxWord bs p.1 p.2) = .nan
/-- A unit's read of `n` bytes, from the share or from memory. -/
def unitRead (s : State) (b c : Nat) (x : Block) (glob : Bool) (a n : Nat) : Got (Option (List Byte)) :=
  if glob then (s.gread { accOf x (crewOwner b c) with rd := true } a n).bind fun s (bs, _) => .ok s (some bs)
  else
    let (s, bad) := s.meetRead b c .share [(a, n)]
    .ok s (if bad then none else some (readBytes x.share a n))
/-- A unit's write, to the share or to memory at package scope (R278). -/
def unitWrite (s : State) (b c : Nat) (x : Block) (glob : Bool) (a : Nat) (bs : List Byte) : Got Unit :=
  if bs.isEmpty then .ok s ()
  else if glob then
    (s.gwrite { accOf x (crewOwner b c) with wr := true, pkg := true, use := .hidden } a bs).bind fun s _ => .ok s ()
  else .ok (s.storeShare b c a bs) ()
/-- The sort job of a record that has passed its checks: the outputs and the results (R277). -/
def sortRun (s : State) (b c : Nat) (x : Block) (r : SortRec) (axis : Nat) : Got (Option (Nat × Nat)) :=
  (unitRead s b c x (bitOf r.flags 0) r.boxes (32 * r.n)).bind fun s m =>
    match m with
    | none => .ok s none
    | some bs =>
      let ps := sortPairs bs r.n
      let out := (ps.take r.cap).flatMap fun p => natToBytes 4 p.1 ++ natToBytes 4 p.2
      let perm := if bitOf r.flags 3 then (sortPerm bs r.n axis).flatMap (natToBytes 4) else []
      (unitWrite s b c x (bitOf r.flags 1) r.pairs out).bind fun s _ =>
        (unitWrite s b c x (bitOf r.flags 2) r.perma perm).bind fun s _ =>
          .ok s (some (ps.length, (if r.cap < ps.length then 1 else 0) + (if anyNaN bs r.n then 2 else 0)))
/-- The end of a job step: done, waiting for memory, or failed. -/
def jobGot {α : Type} (s : State) (b c : Nat) (m : String) (g : Got α) (k : State → α → State) : Out :=
  match g with
  | .ok s x => .next (k (s.forget (crewOwner b c)) x)
  | .wait s' => ifAsked s s' m
  | .fail s t => .next (s.fatalBlock b c 0 t)
/-- A job of a crew, with its block and crew, in a running block of a live context. -/
def withJob (s : State) (b c : Nat) (m : String) (kind : Instr → Bool) (k : Block → Crew → Job → Out) : Out :=
  match s.block b with
  | none => notEnabled m
  | some x =>
    match look x.crews c with
    | none => notEnabled m
    | some w =>
      match w.jobOf kind with
      | none => notEnabled m
      | some j => if s.runs x then k x w j else notEnabled m
/-- The same for the job that a unit of the cluster takes next (R268). -/
def withFirst (s : State) (b c : Nat) (m : String) (kind : Instr → Bool) (k : Block → Crew → Job → Out) : Out :=
  withJob s b c m kind fun x w j => if jobFirst s b c x j kind then k x w j else notEnabled m

/-- The record of a sort job is read from the share: none when an error ends the context (R199). -/
def sortRecord (s : State) (b c : Nat) (x : Block) (a : Nat) : State × Option SortRec :=
  let (s, bad) := if localOk x.r.lmem a 64 64 then s.meetRead b c .share [(a, 64)] else (s, false)
  (s, if bad then none else some (sortRecOf (readLE x.share a 64)))
/-- BPSORT_JOB (R268, R277, R278): global inputs are read as a die-scope acquire, after every global read that the crew
has issued before is complete. -/
def execBpsortJob (b c : Nat) (s : State) : Out :=
  withFirst s b c "BPSORT_JOB" (· matches .bpsort _) fun x w j =>
    match j.i with
    | .bpsort y =>
      let a := (w.rs y.a).toNat
      match sortRecord s b c x a with
      | (s, none) => .next s
      | (s, some r) =>
      if bitOf r.flags 0 && s.readsOut b c then notEnabled "BPSORT_JOB"
      else match sortReason x a r with
      | some k => .next (unitCheck s x x.die 1 fun s =>
          s.endJob b c j fun p => { p with late := some { code := 0x82, info := k } })
      | none =>
        jobGot s b c "BPSORT_JOB" (sortRun s b c x r y.opt) fun s res =>
          unitCheck s x x.die 1 fun s =>
            match res with
            | none => s
            | some (n, f) => s.endJob b c j fun p =>
                { p with writes := [.s y.d (BitVec.ofNat 32 n), .s (y.d + 1) (BitVec.ofNat 32 f)] }
    | _ => notEnabled "BPSORT_JOB"

/-! ### BVHT (R279 to R282) -/

/-- BVHT: its job. -/
def execBvht (x : CluOps) (s : State) : Out :=
  issue s (.bvht x) fun s e => perCrew s e <| afterQueue s e (.bvht x) fun s e => jobIssue s e (.bvht x)

/-- The bytes of a node read as a number: field of `n` bytes at `o`. -/
def fieldAt (x o n : Nat) : Nat := bitsOf x (8 * o) (8 * n)
/-- A node is malformed (R279, R282). -/
def nodeBad (x : Nat) : Bool :=
  let nch := fieldAt x 0x0F 1
  let exp (j : Nat) : Nat := fieldAt x (0x0C + j) 1
  let box (i k : Nat) : Nat := fieldAt x (0x10 + 6 * i + k) 1
  decide (4 < nch) || fieldAt x 0x38 8 ≠ 0 || [0, 1, 2].any (fun j => exp j = 0 || exp j = 255)
    || (List.range 4).any fun i =>
      if i < nch then [0, 1, 2].any fun j => decide (box i (3 + j) < box i j)
      else fieldAt x (0x10 + 6 * i) 6 ≠ 0 || fieldAt x (0x28 + 4 * i) 4 ≠ 0
/-- FP32 rounding of a value, flags discarded. -/
def f32r (m : Rnd) (v : Val) : Nat := (roundTo .f32 v m false).1
/-- A bound of a child box on an axis (R279). -/
def childBound (x i j : Nat) (hi : Bool) : Nat :=
  let q := fieldAt x (0x10 + 6 * i + (if hi then 3 + j else j)) 1 + (if hi then 1 else 0)
  let step := dyadic false q ((fieldAt x (0x0C + j) 1 : Int) - 127)
  f32r (if hi then .ru else .rd) (addVal (!hi) (valueOf .f32 (fieldAt x (4 * j) 4)) step).1
/-- Word `k` of a query record. -/
def queryWord (q k : Nat) : Nat := bitsOf q (32 * k) 32
/-- The near and far parameters of a ray on an axis (R280). -/
def raySpan (q x i j : Nat) : Nat × Nat :=
  let o := valueOf .f32 (queryWord q (4 + j))
  let inv := valueOf .f32 (f32r .rn (divVal (.num false 1 1) (valueOf .f32 (queryWord q (7 + j)))).1)
  let at_ (hi : Bool) : Nat :=
    f32r .rn (mulVal (valueOf .f32 (f32r .rn (addVal false (valueOf .f32 (childBound x i j hi)) o.opp).1)) inv).1
  ((minNum .f32 (at_ false) (at_ true)).1, (maxNum .f32 (at_ false) (at_ true)).1)
/-- Child `i` of a node passes the query (R280). -/
def childPasses (q x i : Nat) : Bool :=
  let le (a b : Nat) : Bool := leVal (valueOf .f32 a) (valueOf .f32 b)
  if queryWord q 0 = 0 then
    [0, 1, 2].all fun j => le (childBound x i j false) (queryWord q (7 + j)) && le (queryWord q (4 + j)) (childBound x i j true)
  else
    let mx (a b : Nat) : Nat := (maxNum .f32 a b).1
    let mn (a b : Nat) : Nat := (minNum .f32 a b).1
    le ([0, 1, 2].foldl (fun t j => mx t (raySpan q x i j).1) (queryWord q 10))
      ([0, 1, 2].foldl (fun t j => mn t (raySpan q x i j).2) (queryWord q 11))

/-- What a traversal has still to do: a node at a depth, or a hit. -/
inductive Todo where
  | node (k depth : Nat)
  | hit (prim : Nat)
  deriving DecidableEq, Repr
/-- The children of a node that pass, in ascending slot (R281). -/
def childTodo (q x depth : Nat) : List Todo :=
  (List.range (fieldAt x 0x0F 1)).filterMap fun i =>
    let ref := fieldAt x (0x28 + 4 * i) 4
    if !childPasses q x i then none
    else some (if bitOf ref 31 then .hit (ref % 2147483648) else .node ref (depth + 1))
/-- The traversal of one lane (R281, R282): the hits so far in reverse, the node visits, and the failure with its node. -/
def traverse (read : State → Nat → Got (Option Nat)) (nnode q : Nat) :
    Nat → List Todo → List Nat → Nat → State → Got (List Nat × Option (Nat × Nat))
  | 0, _, hits, _, s => .ok s (hits, some (3, 0))
  | _ + 1, [], hits, _, s => .ok s (hits, none)
  | f + 1, .hit p :: rest, hits, v, s => traverse read nnode q f rest (p :: hits) v s
  | f + 1, .node k d :: rest, hits, v, s =>
    if 64 < d then .ok s (hits, some (2, k))
    else if 1048576 ≤ v then .ok s (hits, some (3, k))
    else if nnode ≤ k then .ok s (hits, some (4, k))
    else (read s k).bind fun s m =>
      match m with
      | none => .ok s (hits, some (0, k))
      | some x =>
        if nodeBad x then .ok s (hits, some (1, k))
        else traverse read nnode q f (childTodo q x d ++ rest) hits (v + 1) s
/-- The steps that no traversal exceeds: every visit lists at most four children. -/
def traverseFuel : Nat := 5242900
/-- A query record is invalid or it or its hit list lies outside the share (R282, reason 5). -/
def queryBad (x : Block) (a q : Nat) : Bool :=
  !localOk x.r.lmem a 48 16 || decide (1 < queryWord q 0) || queryWord q 3 ≠ 0
    || (queryWord q 0 = 0 && (queryWord q 10 ≠ 0 || queryWord q 11 ≠ 0))
    || !localOk x.r.lmem (queryWord q 2) (4 * queryWord q 1) 4
/-- The result of one lane: its count, and a failure (R281, R282). A `.G` base that is no multiple of 64 is taken as it stands, for
which the spec lists no reason (DESIGN CHOICE, log 48). -/
def bvhtLane (b c : Nat) (x : Block) (glob : Bool) (base nnode a : Nat) (s : State) : Got (Nat × Option (Nat × Nat)) :=
  let q := readLE x.share a 48
  let (s, bad) := if localOk x.r.lmem a 48 16 then s.meetRead b c .share [(a, 48)] else (s, false)
  if bad then .ok s (0xFFFFFFFF, some (0, 0))
  else if queryBad x a q then .ok s (0xFFFFFFFF, some (5, 0))
  else if (glob && !x.r.res) || (!glob && !localOk x.r.lmem base (64 * nnode) 64) then .ok s (0xFFFFFFFF, some (6, 0))
  else
    let read (s : State) (k : Nat) : Got (Option Nat) :=
      (unitRead s b c x glob (base + 64 * k) 64).bind fun s m => .ok s (m.map bytesToNat)
    (traverse read nnode q traverseFuel [.node 0 0] [] 0 s).bind fun s r =>
      let hits := r.1.reverse
      let s := s.storeShare b c (queryWord q 2) ((hits.take (queryWord q 1)).flatMap (natToBytes 4))
      .ok s (match r.2 with
        | none => (hits.length, none)
        | some f => (0xFFFFFFFF, some f))
/-- The lanes of a BVHT run in ascending order, and each writes its hits after its own traversal (DESIGN CHOICE, log 48: R281
gives no order for hit lists that meet each other, a query record or a local BVH). -/
def bvhtLanes (b c : Nat) (x : Block) (w : Crew) (y : CluOps) : List Nat → State → Got (List (Nat × Nat × Option (Nat × Nat)))
  | [], s => .ok s []
  | l :: ls, s =>
    let base := if y.opt = 1 then w.rs2 y.b else (w.rs y.b).toNat
    (bvhtLane b c ((s.block b).getD x) (y.opt = 1) base (w.rs y.c).toNat (w.rv y.a l).toNat s).bind fun s r =>
      (bvhtLanes b c x w y ls s).bind fun s rs => .ok s ((l, r) :: rs)
/-- The late cause of a BVHT: the failing lanes, with the reason and node of the lowest of them (R282). -/
def bvhtCause (rs : List (Nat × Nat × Option (Nat × Nat))) : Option Trap :=
  let bad := rs.filterMap fun r => r.2.2.map fun f => (r.1, f)
  match bad with
  | [] => none
  | (_, r, k) :: _ => some { code := 0x83, info := r + 16 * (k % 1048576), lanes := maskOf (bad.map (·.1)) }
/-- BVHT_JOB (R268, R281, R282). -/
def execBvhtJob (b c : Nat) (s : State) : Out :=
  withFirst s b c "BVHT_JOB" (· matches .bvht _) fun x w j =>
    match j.i with
    | .bvht y =>
      jobGot s b c "BVHT_JOB" (bvhtLanes b c x w y (lanesOf j.part) s) fun s rs =>
        unitCheck s x x.die 2 fun s =>
          if rs.any fun r => r.2.2.any fun f => f.1 = 0 then s
          else s.endJob b c j fun p =>
            { p with writes := rs.map fun r => .v y.d r.1 (BitVec.ofNat 32 r.2.1), late := bvhtCause rs }
    | _ => notEnabled "BVHT_JOB"

end Sys2Proof.Machine
end

