-- ==== Sys2Proof/Machine/Optimiser.lean ====
section
/-! DEFINITION. The optimiser engine (R307 to R322): cards and routines with their checks, OPTSUB and OPTWAIT, the routine,
and the jobs that run block by block. -/

namespace Sys2Proof.Machine

/-! ### Cards (R307, R308) -/

/-- FMT of a field descriptor. -/
def fldFmt (d : Nat) : Nat := d % 16
/-- WB of a field descriptor. -/
def fldWb (d : Nat) : Bool := bitOf d 4
/-- NL of a field descriptor. -/
def fldNl (d : Nat) : Bool := bitOf d 5
/-- OFF of a field descriptor. -/
def fldOff (d : Nat) : Nat := d / 64 % 1024
/-- n rounded up to a multiple of 256 (R52). -/
def align256 (n : Nat) : Nat := (n + 255) / 256 * 256
/-- The address of a field (R307). -/
def OptJob.addr (j : OptJob) (d : Nat) : Nat := j.base + fldOff d * 2 ^ (16 + j.osh)
/-- The bytes of a field's extent (R308). -/
def fldLen (fmt n : Nat) : Nat :=
  match fmt with
  | 0 => 0
  | 1 => 4 * n
  | 2 | 3 => 2 * n
  | _ => align256 n + 2 * ((n + 31) / 32)
/-- A card as it is read: its job, not yet accepted, with the routine's offset and its reserved bits. -/
def cardOf (x : Block) (b c off : Nat) : OptJob × Nat × Bool :=
  let f (o n : Nat) : Nat := readLE x.share (off + o) n
  let base := f 0 8
  let count := f 8 4
  let ctl := f 12 4
  ({ blk := b, crew := c, known := 1#64 <<< c, die := x.die, cluster := x.cluster, arrived := 0, off := off, base := base, count := count % 2 ^ 31, osh := bitsOf ctl 21 4,
     flds := (List.range 8).map fun k => f (0x10 + 2 * k) 2,
     hyper := (List.range 8).map fun k => f (0x20 + 4 * k) 4, words := [], next := 0, out := [], sides := [],
     status := 0, done := false },
   bitsOf ctl 0 21, base % 65536 ≠ 0 || decide (2 ^ 57 ≤ base) || bitOf count 31 || ctl / 2 ^ 25 ≠ 0)
/-- A field descriptor breaks R308. -/
def fldBad (d : Nat) : Bool :=
  decide (6 ≤ fldFmt d) || (fldFmt d = 0 && d ≠ 0) || (fldNl d && !fldWb d)
/-- The numbers of the fields for which a test holds. -/
def fieldsWhere (j : OptJob) (f : Nat → Bool) : List Nat := (List.range 8).filter fun k => f (j.flds.getD k 0)
/-- The first pair of fields that overlap, in ascending (j, k) (R316). -/
def fieldPair (j : OptJob) : Option (Nat × Nat) :=
  let d (k : Nat) : Nat := j.flds.getD k 0
  (pairs 8 8).find? fun p => decide (p.1 < p.2) && fldFmt (d p.1) ≠ 0 && fldFmt (d p.2) ≠ 0
    && rangesMeet (j.addr (d p.1)) (fldLen (fldFmt (d p.1)) j.count) (j.addr (d p.2)) (fldLen (fldFmt (d p.2)) j.count)
/-- TRAPC[31:8] of a card that breaks a rule (R316). -/
def cardReason (x : Block) (off : Nat) (j : OptJob) (rsv : Bool) : Option Nat :=
  if x.r.lmem < off + 64 ∨ off % 64 ≠ 0 then some 1
  else if rsv then some 2
  else if j.count = 0 ∨ 2 ^ 30 < j.count then some 3
  else match fieldsWhere j fldBad with
    | k :: _ => some (4 + 16 * k)
    | [] =>
      match fieldsWhere j fun d => fldFmt d ≠ 0 && decide (2 ^ 57 < j.addr d + fldLen (fldFmt d) j.count) with
      | k :: _ => some (5 + 16 * k)
      | [] =>
        if !x.r.res then some 6
        else (fieldPair j).map fun p => 7 + 16 * p.1 + 256 * p.2

/-! ### Routines (R309, R317) -/

/-- A field that R309 requires to be 0 is not. -/
def wordBad (w : Nat) : Bool :=
  let op := bitsOf w 12 4
  op = 15 || ([6, 7, 11].contains op && bitsOf w 8 4 ≠ 0) || ([0, 14].contains op && w % 4096 ≠ 0)
/-- The routine from word `i` with so many words still allowed: its words up to END, or TRAPC[31:8] of the rule it
breaks (R317). -/
def routineFrom (x : Block) (a : Nat) : Nat → Nat → List Nat ⊕ Nat
  | 0, _ => .inr (4 + 16 * 15)
  | n + 1, i =>
    if x.r.lmem < a + 2 * i + 2 then .inr (1 + 16 * i)
    else
      let w := readLE x.share (a + 2 * i) 2
      if wordBad w then .inr (2 + 16 * i)
      else if bitsOf w 12 4 ≠ 14 && bitsOf w 12 4 ≠ 0 && bitOf w 3 then .inr (3 + 16 * i)
      else if bitsOf w 12 4 = 14 then .inl [w]
      else match routineFrom x a n (i + 1) with
        | .inl ws => .inl (w :: ws)
        | .inr r => .inr r
/-- The routine at an offset. -/
def routineOf (x : Block) (a : Nat) : List Nat ⊕ Nat := if a % 32 ≠ 0 then .inr 1 else routineFrom x a 16 0

/-! ### OPTSUB and OPTWAIT (R313 to R315) -/

/-- The checks of a card and a routine: the job that is accepted, or the cause. -/
def optCheck (x : Block) (b c off : Nat) : OptJob ⊕ (Nat × Nat) :=
  let (j, rout, rsv) := cardOf x b c off
  match cardReason x off j rsv with
  | some r => .inr (0x88, r)
  | none =>
    match routineOf x rout with
    | .inr r => .inr (0x89, r)
    | .inl ws => .inl { j with words := ws }
/-- The words of a routine that the engine reads (R317): up to the first END or the first word that fails. -/
def routineReads (x : Block) (a : Nat) : List (Nat × Nat) :=
  match routineOf x a with
  | .inl ws => [(a, 2 * ws.length)]
  | .inr r => if a % 32 ≠ 0 then [] else [(a, 2 * (r / 16 + (if r % 16 = 1 then 0 else 1)))]
/-- The words of the share that an OPTSUB reads (R199, R314): its card, and the routine of a card that passes. -/
def optReads (x : Block) (b c off : Nat) : List (Nat × Nat) :=
  let (j, rout, rsv) := cardOf x b c off
  match cardReason x off j rsv with
  | some 1 => []
  | some _ => [(off, 64)]
  | none => (off, 64) :: routineReads x rout
/-- The jobs of a block that are accepted and not complete. -/
def openJobs (s : State) (b : Nat) : List (Nat × OptJob) := s.opts.filter fun p => p.2.blk = b && !p.2.done
/-- A waiting OPTSUB whose crew's stores have reached the share takes effect (R314): none when it must wait on. -/
def optAccept (s : State) (b c : Nat) (i : Instr) (pc act : Word) (a : Nat) : Option State :=
  match s.block b with
  | none => none
  | some x =>
    match look x.crews c with
    | none => none
    | some w =>
      let off := (w.rs a).toNat
      if !w.queue.isEmpty || decide (16 ≤ (openJobs s b).length) then none
      else
        let (s, bad) := s.meetRead b c .share (optReads x b c off)
        if bad then some s
        else match optCheck x b c off with
          | .inr (code, info) => some (s.failWait b c i pc act code info)
          | .inl j =>
            let (k, s) := s.take
            some ({ s with opts := put s.opts k { j with arrived := s.steps } }.resume b c i pc act [])
/-- OPTSUB (R314): the crew issues nothing further until its earlier stores have been written. -/
def execOptsub (x : OptOps) (s : State) : Out :=
  issue s (.optsub x) fun s e => perCrew s e <|
    let s' := waitAt s e (.optsub x)
    .next ((optAccept s' e.b e.c (.optsub x) e.ipc e.act x.a).getD s')
/-- OPTSUB_ACCEPT (R314). -/
def execOptsubAccept (b c : Nat) (s : State) : Out :=
  match s.waitOf b c with
  | some (.optsub x, pc, act, _) =>
    match optAccept s b c (.optsub x) pc act x.a with
    | some s' => .next s'
    | none => notEnabled "OPTSUB_ACCEPT"
  | _ => notEnabled "OPTSUB_ACCEPT"
/-- OPTWAIT (R315): the crew parks until its job is complete. -/
def execOptwait (x : OptOps) (s : State) : Out :=
  issue s (.optwait x) fun s e => perCrew s e (jobIssue s e (.optwait x))
/-- OPTWAIT_COMPLETE (R315): the most recent job of its card that its crew, or a crew ordered before it by a barrier, has
submitted before it is complete, or there is none. -/
def execOptwaitComplete (b c : Nat) (s : State) : Out :=
  withJob s b c "OPTWAIT_COMPLETE" (· matches .optwait _) fun _ w j =>
    match j.i with
    | .optwait o =>
      let mine := s.opts.filter fun p => p.2.blk = b && p.2.off = (w.rs o.a).toNat && p.2.known.getLsbD c
        && decide (p.2.arrived < j.since)
      match mine.getLast? with
      | none => .next (s.endJob b c j fun p => { p with writes := [.s o.d 0x80000000] })
      | some p =>
        if p.2.done then .next (s.endJob b c j fun q => { q with writes := [.s o.d p.2.status] })
        else notEnabled "OPTWAIT_COMPLETE"
    | _ => notEnabled "OPTWAIT_COMPLETE"

/-! ### The routine (R309) -/

/-- An encoding with its sign cleared; a NaN gives the canonical NaN. -/
def fabs32 (x : Nat) : Nat := if valueOf .f32 x = .nan then Fmt.f32.nan else x % 2147483648
/-- One operation on the values of d, a and b (R309). -/
def routineOp (op d a b : Nat) : Nat × Flags :=
  match op with
  | 1 => fAdd .f32 .rn a b
  | 2 => fSub .f32 .rn a b
  | 3 => fMul .f32 .rn a b
  | 4 => fFma .f32 .rn a b d
  | 5 => fDiv .f32 .rn a b
  | 6 => fSqrt .f32 .rn a
  | 7 => fRsq .f32 .rn a
  | 8 => maxNum .f32 a b
  | 9 => minNum .f32 a b
  | 10 =>
    let v := valueOf .f32 d
    let p := if v = .nan || v.isZero then b else a
    (if valueOf .f32 p = .nan then Fmt.f32.nan else p, snanFlag .f32 [p])
  | 11 => (fabs32 a, snanFlag .f32 [a])
  | 12 =>
    let t := fSub .f32 .rn 0x3F800000 b
    let r := fDiv .f32 .rn a t.1
    (r.1, t.2 ||| r.2)
  | 13 =>
    let c := fabs32 b
    let m := maxNum .f32 a (c ^^^ 0x80000000)
    let r := minNum .f32 m.1 c
    (r.1, snanFlag .f32 [b] ||| m.2 ||| r.2)
  | _ => (d, 0)
/-- The routine on the field registers of one element; `h` are the hyperparameters. -/
def routineRun (ws h f : List Nat) : List Nat × Flags :=
  ws.foldl (fun (t : List Nat × Flags) w =>
    let rd (k : Nat) : Nat := if k < 8 then t.1.getD k 0 else h.getD (k - 8) 0
    if [0, 14].contains (bitsOf w 12 4) then t
    else
      let r := routineOp (bitsOf w 12 4) (rd (bitsOf w 0 4)) (rd (bitsOf w 4 4)) (rd (bitsOf w 8 4))
      (t.1.set (bitsOf w 0 4) r.1, t.2 ||| r.2)) (f, 0)

/-! ### Loads and stores of a block (R310 to R312) -/

/-- The float format of FMT 1 to 3. -/
def fldFloat (fmt : Nat) : Fmt := if fmt = 1 then .f32 else if fmt = 2 then .bf16 else .f16
/-- The bytes of an element of FMT 1 to 3, or of a code. -/
def fldW (fmt : Nat) : Nat := if fmt = 1 then 4 else if fmt < 4 then 2 else 1
/-- The decoding of one element, with the flags of R311. -/
def fldDecode (fmt code scale : Nat) : Nat × Flags :=
  if fmt = 1 then (code, 0)
  else if fmt < 4 then ((roundTo .f32 (valueOf (fldFloat fmt) code) .rn false).1, 0)
  else if fmt = 4 then ((q8Value false code scale).1, 0)
  else match bandVal scale with
    | .num s n d =>
      let p := (mulVal (intVal (code % 256 : Nat)) (.num s n d)).1
      roundTo .f32 (mulVal p p).1 .rn false
    | _ => (Fmt.f32.nan, 0)
/-- The values of `n` elements of a list of bytes. -/
def fldValues (fmt scale : Nat) (bs : List Byte) : Nat → List (Nat × Flags)
  | 0 => []
  | n + 1 => fldDecode fmt (bytesToNat (bs.take (fldW fmt))) scale :: fldValues fmt scale (bs.drop (fldW fmt)) n
/-- The elements of block `b`. -/
def OptJob.size (j : OptJob) (b : Nat) : Nat := min 32 (j.count - 32 * b)
/-- The access of a job (R318): at the home L2, on the visible side for loads and the invisible one for stores. -/
def OptJob.acc (j : OptJob) (x : Block) (key : Nat) (store : Bool) : Acc :=
  let sides := if store then j.sides.map fun p => (p.1, !p.2) else j.sides
  { die := j.die, slot := x.slot, rd := !store, wr := store, pkg := true,
    use := if store then .hidden else .visible, sides := sides, owner := 2 * key }
/-- The sides that an access has taken, as visible sides. -/
def OptJob.took (j : OptJob) (store : Bool) (a : Acc) : OptJob :=
  { j with sides := if store then a.sides.map fun p => (p.1, !p.2) else a.sides }
/-- Load of a field's elements of block `b` (R311). -/
def optLoad (s : State) (x : Block) (key b : Nat) (j : OptJob) (d : Nat) : Got (OptJob × List (Nat × Flags)) :=
  let n := j.size b
  let fmt := fldFmt d
  if fmt = 0 || fldNl d then .ok s (j, List.replicate n (0, 0))
  else
    (s.gread (j.acc x key false) (j.addr d + 32 * b * fldW fmt) (n * fldW fmt)).bind fun s (bs, a) =>
      let j := j.took false a
      if fmt < 4 then .ok s (j, fldValues fmt 0 bs n)
      else (s.gread (j.acc x key false) (j.addr d + align256 j.count + 2 * b) 2).bind fun s (sc, a) =>
        .ok s (j.took false a, fldValues fmt (bytesToNat sc) bs n)
/-- The loads of all fields. -/
def optLoads (x : Block) (key b : Nat) : List Nat → State → OptJob → Got (OptJob × List (List (Nat × Flags)))
  | [], s, j => .ok s (j, [])
  | d :: ds, s, j =>
    (optLoad s x key b j d).bind fun s (j, v) => (optLoads x key b ds s j).bind fun s (j, vs) => .ok s (j, v :: vs)
/-- The scale, the codes and the flags of a Q8 block (R45, R312). A block whose scale comes out NaN raises no flag for the square
roots of its other elements (DESIGN CHOICE, log 105: the spec does not say). -/
def q8Block (sq : Bool) (xs : List Nat) : Nat × List Nat × Flags :=
  let sc := q8Scale sq xs
  let vs := xs.map (valueOf .f32)
  let root (v : Val) : Nat × Flags := if sq then roundTo .f32 (sqrtVal v).1 .rn false else (roundTo .f32 v .rn false)
  if bandVal sc = .nan then (sc, xs.map fun _ => 0, 0)
  else if (bandVal sc).isZero then (sc, xs.map fun _ => 0, 0)
  else
    let a := (vs.map fun v => if sq then valueOf .f32 (root v).1 else v.abs).foldl maxVal (.num false 0 1)
    let fs := (roundTo .bf16 (divExact a (intVal (if sq then 255 else 127))) .ru false).2
    let fl := vs.foldl (fun f v =>
      let r := root v
      f ||| (if sq then r.2 else 0) ||| (roundTo .f32 (divVal (valueOf .f32 r.1) (bandVal sc)).1 .rn false).2) fs
    (sc, xs.map fun x => (q8Code sq x (bandVal sc)).1, fl)
/-- The bytes of a field's new values with the scale's bytes and the status bits (R312). -/
def fldStore (fmt : Nat) (xs : List Nat) : List Byte × List Byte × Nat :=
  if fmt = 1 then (xs.flatMap (natToBytes 4), [], 0)
  else if fmt < 4 then
    let rs := xs.map fun x => finish (fldFloat fmt) .rn false (valueOf .f32 x) (snanFlag .f32 [x])
    (rs.flatMap fun r => natToBytes 2 r.1, [], (rs.foldl (fun (f : Flags) (r : Nat × Flags) => f ||| r.2) 0).toNat)
  else
    let r := q8Block (fmt = 5) xs
    (r.2.1.flatMap (natToBytes 1), natToBytes 2 r.1, r.2.2.toNat + (if bandVal r.1 = .nan then 256 else 0))
/-- The status of a job with more bits. -/
def OptJob.raised (j : OptJob) (n : Nat) : OptJob := { j with status := j.status ||| BitVec.ofNat 32 n }
/-- The stores of a field marked for write-back: addresses with bytes, and status bits (R310, R312). -/
def optStore (j : OptJob) (b d : Nat) (xs : List Nat) : List (Nat × List Byte) × Nat :=
  let r := fldStore (fldFmt d) xs
  let scale := if r.2.1.isEmpty then [] else [(j.addr d + align256 j.count + 2 * b, r.2.1)]
  ((j.addr d + 32 * b * fldW (fldFmt d), r.1) :: scale, r.2.2)
/-- The blocks of a job. -/
def OptJob.blocks (j : OptJob) : Nat := (j.count + 31) / 32
/-- A write joins those before it: one that goes on where another ended in its line becomes one with it, so that a line of a
field is written in one step (R321). -/
def addWrite (out : List (Nat × List Byte)) (w : Nat × List Byte) : List (Nat × List Byte) :=
  if out.any fun u => u.1 + u.2.length = w.1 && u.1 / 128 = w.1 / 128 then
    out.map fun u => if u.1 + u.2.length = w.1 && u.1 / 128 = w.1 / 128 then (u.1, u.2 ++ w.2) else u
  else out ++ [w]
/-- No later block adds to a write: it reaches the end of its line, or every block is computed. -/
def OptJob.ripe (j : OptJob) (w : Nat × List Byte) : Bool :=
  (w.1 + w.2.length) % 128 = 0 || decide (j.blocks ≤ j.next)
/-- A write of a job is performed (R310, R312): it goes to one line. -/
def optWrite (x : Block) (key : Nat) (s : State) (j : OptJob) (w : Nat × List Byte) : Got OptJob :=
  (s.gwrite (j.acc x key true) w.1 w.2).bind fun s a =>
    .ok (s.forget (2 * key)) { j.took true a with out := j.out.filter (· ≠ w) }
/-- One block of elements is read and computed, and its writes are ready (R310). -/
def optBlock (x : Block) (key : Nat) (s : State) (j : OptJob) : Got OptJob :=
  let b := j.next
  (optLoads x key b j.flds s j).bind fun s (j, vs) =>
    let rs := (List.range (j.size b)).map fun i => routineRun j.words j.hyper (vs.map fun v => (v.getD i (0, 0)).1)
    let fl := (vs.flatMap id).foldl (fun (f : Flags) (p : Nat × Flags) => f ||| p.2)
      (rs.foldl (fun (f : Flags) (p : List Nat × Flags) => f ||| p.2) 0)
    let outs := (numbered j.flds).filterMap fun p =>
      if fldFmt p.2 ≠ 0 && fldWb p.2 then some (optStore j b p.2 (rs.map fun r => r.1.getD p.1 0)) else none
    .ok (s.forget (2 * key)) { outs.foldl (fun (j : OptJob) r => j.raised r.2) (j.raised fl.toNat) with
      next := b + 1, out := (outs.flatMap (·.1)).foldl addWrite j.out }
/-- Every block is computed and every write performed. -/
def OptJob.finished (j : OptJob) : Bool := decide (j.blocks ≤ j.next) && j.out.isEmpty
/-- A job stands between two checkpoints, which come after every 64 blocks (R320). -/
def OptJob.busy (j : OptJob) : Bool :=
  !j.done && !j.finished && (!j.out.isEmpty || j.next % 64 ≠ 0)
/-- One move of a job: a write whose line is whole, or the next block. -/
def optRun (x : Block) (key : Nat) (s : State) (j : OptJob) : Got OptJob :=
  match j.out.find? j.ripe with
  | some w => optWrite x key s j w
  | none => optBlock x key s j

/-- The jobs that may run on a cluster's engine: not finished, of a live context, and the oldest of their block (R319). -/
def engineJobs (s : State) (die cluster : Nat) : List (Nat × OptJob × Block) :=
  s.opts.filterMap fun p => match s.block p.2.blk with
    | some x => if p.2.die = die && p.2.cluster = cluster && !p.2.done && !p.2.finished && (s.ctx x.slot).state = .live
        && !((openJobs s p.2.blk).any fun q => decide (q.1 < p.1)) then some (p.1, p.2, x) else none
    | none => none
/-- The job that the engine of a cluster runs (R268, R320): the one between two checkpoints, else the head. -/
def engineTakes (s : State) (k : Nat) (j : OptJob) (x : Block) : Bool :=
  let js := engineJobs s j.die j.cluster
  (js.any fun p => p.1 = k) && (j.busy || !(js.any fun p => p.2.1.busy
    || jobBefore (p.2.2.r.prio, p.2.1.arrived, p.2.1.blk, p.1) (x.r.prio, j.arrived, j.blk, k)))
/-- OPTIMISER_CHECKPOINT (R310, R319, R320): the job that the engine runs moves on. -/
def execOptimiserCheckpoint (k : Nat) (s : State) : Out :=
  match look s.opts k with
  | none => notEnabled "OPTIMISER_CHECKPOINT"
  | some j =>
    match s.block j.blk with
    | none => notEnabled "OPTIMISER_CHECKPOINT"
    | some x =>
      if engineTakes s k j x then
        match optRun x k s j with
        | .ok s' j' => .next (unitCheck { s' with opts := put s'.opts k j' }
            { x with die := j.die, cluster := j.cluster } j.die 5 id)
        | .wait s' => ifAsked s s' "OPTIMISER_CHECKPOINT"
        | .fail s t =>
          if errCode t.code = 0 then .next (s.fatalBlock j.blk j.crew 0 t)
          else .next ({ s with opts := put s.opts k { j with done := true } }.holdFault j.blk j.crew 0 t)
      else notEnabled "OPTIMISER_CHECKPOINT"
/-- OPTIMISER_JOB_COMPLETE (R319). -/
def execOptimiserJobComplete (k : Nat) (s : State) : Out :=
  match look s.opts k with
  | none => notEnabled "OPTIMISER_JOB_COMPLETE"
  | some j =>
    if !j.done && j.finished then .next { s with opts := put s.opts k { j with done := true } }
    else notEnabled "OPTIMISER_JOB_COMPLETE"

end Sys2Proof.Machine
end

