-- ==== Sys2Proof/Machine/Queues.lean ====
section
/-! DEFINITION. The ordered queues of a die (R283 to R287): QPUSH, QPUSH.ROUND and QPOP, and the events that place and take
entries. -/

namespace Sys2Proof.Machine

/-- The queue and the die of an id (R283). -/
def qNum (id : Nat) : Nat := id % 64
/-- The die of a queue id. -/
def qDie (id : Nat) : Nat := id / 64 % 2
/-- The queue of an id. -/
def State.oqueue (s : State) (id : Nat) : Option OQueue := look (s.die (qDie id)).queues (qNum id)
/-- The state with a queue replaced. -/
def State.setQueue (s : State) (id : Nat) (q : OQueue) : State :=
  let d := s.die (qDie id)
  s.setDie (qDie id) { d with queues := put d.queues (qNum id) q }
/-- The block belongs to the queue's producer grid. -/
def isProducer (q : OQueue) (x : Block) : Bool := q.pgrid = some x.grid
/-- Why a queue instruction fails (R283): `push` for a push or a round, `nb` for QPOP.NB. The lowest reason that holds (DESIGN
CHOICE, log 103: the spec orders no reasons). -/
def queueReason (s : State) (x : Block) (id : Nat) (push nb : Bool) : Option Nat :=
  if 128 ≤ id then some 1
  else match s.oqueue id with
    | none => some 2
    | some q =>
      if q.slot ≠ x.slot then some 2
      else if push && x.r.det && !isProducer q x then some 3
      else if nb && x.r.det then some 4
      else if !x.r.res then some 5 else none
/-- The entries of a queue are ES bytes long (R283). -/
def queueEs (s : State) (id : Nat) : Nat := match s.oqueue id with
  | some q => q.es
  | none => 64
/-- The entry offset of a lane. -/
def queueAddr (e : Env) (a l : Nat) : Int := ((e.cw.rv a l).toNat : Nat)
/-- The checks of a queue instruction at its issue: cause 0xA8, then the entry offsets (R283, R229). -/
def queueChecked (s : State) (e : Env) (x : CluOps) (push nb : Bool) (k : Nat → Out) : Out :=
  let id := (e.cw.rs x.b).toNat
  match queueReason s e.blk id push nb with
  | some r => trapAt s e 0xA8 r e.act
  | none =>
    let es := queueEs s id
    if outsideLanes e es (queueAddr e x.a) ≠ 0 then trapAt s e 0x13 0 (outsideLanes e es (queueAddr e x.a))
    else if misalignedLanes e 64 (queueAddr e x.a) ≠ 0 then trapAt s e 0x14 0 (misalignedLanes e 64 (queueAddr e x.a))
    else k id

/-! ### Rounds, keys and the frontier (R284) -/

/-- The ROUND count of a crew. -/
def OQueue.round (q : OQueue) (grid index crew : Nat) : Nat :=
  match q.rounds.find? fun r => r.1 = (grid, index, crew) with
  | some r => r.2
  | none => 0
/-- One more ROUND of a crew. -/
def OQueue.addRound (q : OQueue) (grid index crew : Nat) : OQueue :=
  { q with rounds := q.rounds.filter (fun r => r.1 ≠ (grid, index, crew)) ++ [((grid, index, crew),
           q.round grid index crew + 1)] }
/-- The pushes that a lane has made in a round. -/
def OQueue.pushCount (q : OQueue) (round gtid : Nat) : Nat :=
  match q.pushes.find? fun r => r.1 = (round, gtid) with
  | some r => r.2
  | none => 0
/-- The lesser of two rounds; none stands above every number. -/
def minRound (a b : Option Nat) : Option Nat :=
  match a, b with
  | some x, some y => some (min x y)
  | some x, none => some x
  | none, y => y
/-- The closed round of a producer block (R284): none once it has retired. One that has not, and none of whose crews holds a live
lane, counts as having closed every round too (DESIGN CHOICE, log 117: R284 gives no least of an empty set). -/
def closedRound (s : State) (q : OQueue) (gk : Nat) (g : Grid) (i : Nat) : Option Nat :=
  if getAt false g.fin i then none
  else match (s.blocks.find? fun p => p.2.grid = gk && p.2.index = i).map (·.2) with
    | none => some 0
    | some x =>
      match x.phase with
      | .draining _ _ => none
      | .placed | .staging _ => some 0
      | .saved => x.stays.foldl (fun m p =>
          if p.2.live then minRound m (some (q.round gk i p.1)) else m) none
      | _ => (liveCrews x).foldl (fun m p => minRound m (some (q.round gk i p.1))) none
/-- The least closed round of so many producer blocks. -/
def leastClosed (s : State) (q : OQueue) (gk : Nat) (g : Grid) : Nat → Option Nat
  | 0 => none
  | n + 1 => minRound (closedRound s q gk g n) (leastClosed s q gk g n)
/-- The frontier of a queue (R284): 0 while the producer's launch has not been read. -/
def frontier (s : State) (q : OQueue) : Option Nat :=
  match q.pgrid with
  | none => some 0
  | some gk =>
    match s.grid gk with
    | none => none
    | some g => if g.complete then none else leastClosed s q gk g g.r.nblk
/-- An entry comes before another in key order (R284). -/
def OEntry.before (a b : OEntry) : Bool :=
  decide (a.round < b.round) || (a.round = b.round && (decide (a.block < b.block) || (a.block = b.block &&
    (decide (a.gtid < b.gtid) || (a.gtid = b.gtid && decide (a.num < b.num))))))
/-- Insertion by key. -/
def insertEntry (a : OEntry) : List OEntry → List OEntry
  | [] => [a]
  | b :: rest => if a.before b then a :: b :: rest else b :: insertEntry a rest
/-- The poppable entries in the order in which pops take them (R285). -/
def poppable (s : State) (q : OQueue) (det : Bool) : List OEntry :=
  if !det then q.entries
  else
    let ok (e : OEntry) : Bool := match frontier s q with
      | none => true
      | some f => decide (e.round < f)
    (q.entries.filter ok).foldl (fun t e => insertEntry e t) []
/-- An entry of one lane joins the queue (R284). -/
def OQueue.push (q : OQueue) (x : Block) (w : Crew) (c l : Nat) (bs : List Byte) : OQueue :=
  let r := q.round x.grid x.index c
  let t := gtidOf x w l
  let n := q.pushCount r t
  let e : OEntry := { round := r, block := x.index, gtid := t, num := n, bytes := bs,
                      placed := (q.entries.getLast?.map (·.placed + 1)).getD 0 }
  { q with entries := q.entries ++ [e], pushes := q.pushes.filter (fun p => p.1 ≠ (r, t)) ++ [((r, t), n + 1)] }

/-! ### QPUSH -/

/-- The bytes that the lanes of a push give (R284). -/
def pushBytes (x : Block) (w : Crew) (y : CluOps) (part : Word) (es : Nat) : List (List Byte) :=
  (lanesOf part).map fun l => readBytes x.share (w.rv y.a l).toNat es
/-- QPUSH (R284): the push waits for its place. One that enters an empty store queue stands at its head and reads at once. -/
def execQpush (x : CluOps) (s : State) : Out :=
  issue s (.qpush x) fun s e => perCrew s e <| queueChecked s e x true false fun id =>
    if e.cw.queue.isEmpty then
      readable s e (queueEs s id) (queueAddr e x.a) fun s =>
        let e := e.refresh s
        jobIssue s e (.qpush x) (some (pushBytes e.blk e.cw x e.part (queueEs s id)))
    else jobIssue s e (.qpush x)
/-- The entries of a push are placed in one step, once there is room for all of them (R284); the push waits until then. -/
def pushPlace (s : State) (b c : Nat) (x : Block) (w : Crew) (j : Job) (y : CluOps) (id : Nat) (q : OQueue)
    (bs : List (List Byte)) : Option State :=
  let ls := lanesOf j.part
  if q.entries.length + ls.length ≤ q.cap then
    let q' := (ls.zip bs).foldl (fun q p => q.push x w c p.1 p.2) q
    some ((s.setQueue id q').endJob b c j fun p => { p with writes := ls.map fun l => .v y.d l 0 })
  else none
/-- The job with the bytes that it has read. -/
def Crew.jobRead (w : Crew) (j : Job) (bs : List (List Byte)) : Crew :=
  { w with jobs := w.jobs.map fun k => if k = j then { j with bytes := some bs } else k }
/-- QPUSH_PLACE (R284): the push reaches the head of the store queue and reads its bytes, or, once it has read them, the
queue has room for all its entries. -/
def execQpushPlace (b c : Nat) (s : State) : Out :=
  withJob s b c "QPUSH_PLACE" (· matches .qpush _) fun x w j =>
    match j.i with
    | .qpush y =>
      let id := (w.rs y.b).toNat
      match s.oqueue id with
      | none => notEnabled "QPUSH_PLACE"
      | some q =>
        match j.bytes with
        | some bs =>
          match pushPlace s b c x w j y id q bs with
          | some s' => .next s'
          | none => notEnabled "QPUSH_PLACE"
        | none =>
          match (s.drainQueue b c).meetRead b c .share ((lanesOf j.part).map fun l => ((w.rv y.a l).toNat, q.es)) with
          | (s, true) => .next s
          | (s, false) =>
            match s.block b, s.crew b c with
            | some x, some w => .next (s.setCrew b c (w.jobRead j (pushBytes x w y j.part q.es)))
            | _, _ => .next s
    | _ => notEnabled "QPUSH_PLACE"
/-- QPUSH.ROUND (R284): it ends the crew's round; in ordinary mode it has no effect. -/
def execQpushRound (x : CluOps) (s : State) : Out :=
  issue s (.qpushRound x) fun s e => perCrew s e <|
    let id := (e.cw.rs x.b).toNat
    match queueReason s e.blk id true false with
    | some r => trapAt s e 0xA8 r e.act
    | none =>
      match s.oqueue id with
      | none => skip s e
      | some q =>
        if e.blk.r.det then complete (s.setQueue id (q.addRound e.blk.grid e.blk.index e.c)) e {} else skip s e

/-! ### QPOP -/

/-- The entries taken go to the lanes in order (R285): the bytes are written to the share. -/
def popInto (s : State) (b c : Nat) (w : Crew) (a : Nat) (ps : List (Nat × OEntry)) : State :=
  ps.foldl (fun s p => s.storeShare b c (w.rv a p.1).toNat p.2.bytes) s
/-- A queue without the entries taken. -/
def OQueue.take (q : OQueue) (es : List OEntry) : OQueue := { q with entries := q.entries.filter fun e => !es.contains e }
/-- The words of entries that leave a queue are read (R287): an uncorrectable error ends the context that holds the queue, a
correctable one is corrected and noted. -/
def entryCheck (s : State) (x : Block) (die : Nat) (es : List OEntry) (k : State → State) : State :=
  if es.any fun e => decide (2 ≤ e.err) then s.fatal x.slot (aboveCore s x (dieLoc die) { code := 0x8C, info := 3 })
  else k ((es.filter fun e => e.err = 1).foldl (fun s _ => s.note die 0x8D (dieLoc die) (s.ctx x.slot).asid 3) s)
/-- QPOP (R285): NB takes what is poppable at once, the blocking form waits. -/
def execQpop (x : CluOps) (s : State) : Out :=
  issue s (.qpop x) fun s e => perCrew s e <| queueChecked s e x false (x.opt = 1) fun id =>
    afterQueue s e (.qpop x) fun s e =>
    if x.opt = 0 then jobIssue s e (.qpop x)
    else match s.oqueue id with
      | none => skip s e
      | some q =>
        let ls := lanesOf e.part
        let got := ls.zip (poppable s q e.blk.r.det)
        let es := got.map (·.2)
        if es.any (fun (o : OEntry) => decide (2 ≤ o.err)) then .next (entryCheck s e.blk (qDie id) es fun s => s)
        else
          let s := entryCheck (s.setQueue id (q.take es)) e.blk (qDie id) es fun s => popInto s e.b e.c e.cw x.a got
          completeLater s (e.refresh s) (.qpop x) { wr := ls.map fun l => .v x.d l (if (look got l).isSome then 0 else 1) }
/-- QPOP_TAKE (R285): enough entries are poppable. -/
def execQpopTake (b c : Nat) (s : State) : Out :=
  withJob s b c "QPOP_TAKE" (· matches .qpop _) fun x w j =>
    match j.i with
    | .qpop y =>
      let id := (w.rs y.b).toNat
      match s.oqueue id with
      | none => notEnabled "QPOP_TAKE"
      | some q =>
        let ls := lanesOf j.part
        let ok := poppable s q x.r.det
        if ls.length ≤ ok.length then
          let got := ls.zip ok
          let es := got.map (·.2)
          .next (entryCheck (s.setQueue id (q.take es)) x (qDie id) es fun s =>
            (popInto s b c w y.a got).endJob b c j fun p => { p with writes := ls.map fun l => .v y.d l 0 })
        else notEnabled "QPOP_TAKE"
    | _ => notEnabled "QPOP_TAKE"

end Sys2Proof.Machine
end

