-- ==== Sys2Proof/Machine/Solver.lean ====
section
/-! DEFINITION. The solver unit (R289 to R306): SFACT, SSOLVE and SADJ with their pivot logs, and the Levenberg–Marquardt
jobs of SLSQ with SSTAT. -/

namespace Sys2Proof.Machine

/-! ### Arithmetic of the unit (R296) -/

/-- The key of element (i, j) of a matrix in the unit's storage. -/
def elemKey (i j : Nat) : Nat := 256 * i + j
/-- F(a − b × c) (R296). -/
def fms (f : Fmt) (a b c : Nat) : Nat × Flags := fFma f .rn (b ^^^ f.sign) c a
/-- An encoding with its sign reversed; a NaN gives the canonical NaN. -/
def negOf (f : Fmt) (x : Nat) : Nat := if valueOf f x = .nan then f.nan else x ^^^ f.sign
/-- A value above zero. -/
def aboveZero (v : Val) : Bool := ltVal (.num false 0 1) v
/-- A value below zero. -/
def belowZero (v : Val) : Bool := ltVal v (.num false 0 1)
/-- A finite value. -/
def Val.finite (v : Val) : Bool := v matches .num _ _ _
/-- The rank of a pivot candidate: its magnitude, a NaN above every number (R296). -/
def pivotRank (f : Fmt) (x : Nat) : Nat := if valueOf f x = .nan then 2 ^ 64 else x % f.sign
/-- The numbers from `lo` to `hi` − 1 in ascending order. -/
def upTo (lo hi : Nat) : List Nat := (List.range (hi - lo)).map (lo + ·)
/-- An encoding widened exactly to FP64; a NaN gives the canonical NaN (R293). -/
def widen (f : Fmt) (x : Nat) : Nat := (roundTo .f64 (valueOf f x) .rn false).1

/-- A factorisation under way (R296): the matrix, and for each step so far its pivot row, VALUE and τ (encodings of the
format), whether its column is singular, and whether a rounding of it overflowed. -/
structure Fac where
  a : Sparse Nat := []
  rows : List Nat := []
  vals : List Nat := []
  taus : List Nat := []
  sing : List Bool := []
  ovs : List Bool := []
  deriving DecidableEq, Repr

/-- An element of the factor. -/
def Fac.el (k : Fac) (i j : Nat) : Nat := getAt 0 k.a (elemKey i j)
/-- An element as a later use reads it: zero in a skipped part (R296); `chol` includes the diagonal. -/
def Fac.use (k : Fac) (chol : Bool) (i j : Nat) : Nat :=
  if k.sing.getD j false && (decide (j < i) || (chol && i = j)) then 0 else k.el i j
/-- One step is logged. -/
def Fac.log (k : Fac) (a : Sparse Nat) (row val tau : Nat) (sing : Bool) (fl : Flags) : Fac :=
  { a := a, rows := k.rows ++ [row], vals := k.vals ++ [val], taus := k.taus ++ [tau],
    sing := k.sing ++ [sing], ovs := k.ovs ++ [decide (fl &&& flagOF ≠ 0)] }
/-- A matrix and the flags of the roundings so far. -/
abbrev Work := Sparse Nat × Flags
/-- An element is written with the flags of its rounding. -/
def Work.set (w : Work) (i j : Nat) (r : Nat × Flags) : Work := (setAt 0 w.1 (elemKey i j) r.1, w.2 ||| r.2)
/-- An element. -/
def Work.el (w : Work) (i j : Nat) : Nat := getAt 0 w.1 (elemKey i j)

/-! ### The steps of SFACT (R296) -/

/-- Rows p and k change places in all n columns. -/
def swapRows (n p k : Nat) (w : Work) : Work :=
  (List.range n).foldl (fun v j => (v.set p j (w.el k j, 0)).set k j (w.el p j, 0)) w
/-- The pivot row of an LU step: the least row of greatest rank. -/
def pivotRow (f : Fmt) (n k : Nat) (m : Fac) : Nat :=
  (upTo k n).foldl (fun p i => if pivotRank f (m.el p k) < pivotRank f (m.el i k) then i else p) k
/-- A step of LU; `row` is the logged pivot row of a replay (R300). -/
def luStep (f : Fmt) (n : Nat) (row : Option (List Nat)) (m : Fac) (k : Nat) : Fac :=
  let p := match row with
    | some r => r.getD k 0
    | none => pivotRow f n k m
  if (valueOf f (m.el p k)).isZero then m.log m.a k (m.el k k) 0 true 0
  else
    let w := (upTo (k + 1) n).foldl (fun w i =>
      let w := Work.set w i k (fDiv f .rn (Work.el w i k) (Work.el w k k))
      (upTo (k + 1) n).foldl (fun w j => Work.set w i j (fms f (Work.el w i j) (Work.el w i k) (Work.el w k j))) w)
      (swapRows n p k (m.a, 0))
    m.log w.1 p (Work.el w k k) 0 false w.2
/-- A value less the products of two rows of the factor left of column k. -/
def cholSum (f : Fmt) (m : Fac) (w : Work) (i k : Nat) : Nat × Flags :=
  (List.range k).foldl (fun t j =>
    let z := m.sing.getD j false
    let r := fms f t.1 (if z then 0 else Work.el w i j) (if z then 0 else Work.el w k j)
    (r.1, t.2 ||| r.2)) (Work.el w i k, 0)
/-- A step of CHOL. -/
def cholStep (f : Fmt) (n : Nat) (m : Fac) (k : Nat) : Fac :=
  let s := cholSum f m (m.a, 0) k k
  if !aboveZero (valueOf f s.1) then m.log m.a k s.1 0 true s.2
  else
    let d := fSqrt f .rn s.1
    let w := (upTo (k + 1) n).foldl (fun w i =>
      let t := cholSum f m w i k
      let q := fDiv f .rn t.1 d.1
      Work.set w i k (q.1, t.2 ||| q.2)) (Work.set (m.a, s.2) k k d)
    m.log w.1 k s.1 0 false w.2
/-- The reflection of a step applied to column j (R296). -/
def reflect (f : Fmt) (n k tau : Nat) (w : Work) (j : Nat) : Work :=
  let s := (upTo (k + 1) n).foldl (fun (t : Nat × Flags) i =>
    let r := fFma f .rn (Work.el w i k) (Work.el w i j) t.1
    (r.1, t.2 ||| r.2)) (Work.el w k j, 0)
  let t := fMul f .rn tau s.1
  let w := Work.set (w.1, w.2 ||| s.2 ||| t.2) k j (fSub f .rn (Work.el w k j) t.1)
  (upTo (k + 1) n).foldl (fun w i => Work.set w i j (fms f (Work.el w i j) (Work.el w i k) t.1)) w
/-- A step of QR. -/
def qrStep (f : Fmt) (n : Nat) (m : Fac) (k : Nat) : Fac :=
  let s := (upTo k n).foldl (fun (t : Nat × Flags) i =>
    let r := fFma f .rn (m.el i k) (m.el i k) t.1
    (r.1, t.2 ||| r.2)) (0, 0)
  let al := (fSqrt f .rn s.1).1
  if (valueOf f al).isZero then m.log m.a k al 0 true s.2
  else
    let sg := if m.el k k < f.sign then al else negOf f al
    let u := fAdd f .rn (m.el k k) sg
    let tau := fDiv f .rn u.1 sg
    let w := (upTo (k + 1) n).foldl (fun w i => Work.set w i k (fDiv f .rn (Work.el w i k) u.1))
      (m.a, s.2 ||| u.2 ||| tau.2)
    let w := (upTo (k + 1) n).foldl (reflect f n k tau.1) (Work.set w k k (negOf f sg, 0))
    m.log w.1 k al tau.1 false w.2
/-- The factorisation of a matrix by a method: 0 LU, 1 CHOL, 2 QR (R296). -/
def factor (f : Fmt) (meth n : Nat) (row : Option (List Nat)) (a : Sparse Nat) : Fac :=
  (List.range n).foldl (fun m k =>
    if meth = 0 then luStep f n row m k else if meth = 1 then cholStep f n m k else qrStep f n m k) { a := a }

/-! ### The solves (R299) -/

/-- One right-hand side under way: its components, the flags, and the component of its first overflow. -/
structure Rhs where
  x : Sparse Nat
  fl : Flags := 0
  ov : Option Nat := none
  deriving DecidableEq, Repr

/-- A component. -/
def Rhs.el (r : Rhs) (i : Nat) : Nat := getAt 0 r.x i
/-- The flags of a rounding for component i. -/
def Rhs.mark (r : Rhs) (i : Nat) (fl : Flags) : Rhs :=
  { r with fl := r.fl ||| fl, ov := if r.ov.isNone && fl &&& flagOF ≠ 0 then some i else r.ov }
/-- A component is written. -/
def Rhs.set (r : Rhs) (i : Nat) (v : Nat × Flags) : Rhs := { r.mark i v.2 with x := setAt 0 r.x i v.1 }
/-- A pass with a triangular matrix: `order` gives the components, `before` the earlier ones of each. -/
def pass (f : Fmt) (k : Fac) (diag : Bool) (m : Nat → Nat → Nat) (order : List Nat) (before : Nat → List Nat) (r : Rhs) : Rhs :=
  order.foldl (fun r i =>
    if diag && k.sing.getD i false then r.set i (f.nan, 0)
    else
      let r := (before i).foldl (fun r j =>
        if (valueOf f (m i j)).isZero then r else r.set i (fms f (r.el i) (m i j) (r.el j))) r
      if diag then r.set i (fDiv f .rn (r.el i) (m i i)) else r) r
/-- Forward with a lower matrix. -/
def forward (f : Fmt) (n : Nat) (k : Fac) (diag : Bool) (m : Nat → Nat → Nat) (r : Rhs) : Rhs :=
  pass f k diag m (List.range n) (fun i => List.range i) r
/-- Back with an upper matrix. -/
def back (f : Fmt) (n : Nat) (k : Fac) (diag : Bool) (m : Nat → Nat → Nat) (r : Rhs) : Rhs :=
  pass f k diag m (List.range n).reverse (fun i => upTo (i + 1) n) r
/-- The swaps of LU in an order of steps. -/
def swaps (k : Fac) (order : List Nat) (r : Rhs) : Rhs :=
  order.foldl (fun r i =>
    let p := k.rows.getD i 0
    { r with x := setAt 0 (setAt 0 r.x i (r.el p)) p (r.el i) }) r
/-- τ × w for a τ in FP64, as the log holds it, rounded once to the format (R299). -/
def tauMul (f : Fmt) (tau w : Nat) : Nat × Flags :=
  let v := mulVal (valueOf .f64 tau) (valueOf f w)
  finish f .rn false v.1 (flagIf v.2 flagNV ||| snanFlag f [w] ||| snanFlag .f64 [tau])
/-- H_k (R299): the roundings of w and t belong to component k. `taus` are the τ of the log. -/
def house (f : Fmt) (n : Nat) (m : Fac) (taus : List Nat) (r : Rhs) (k : Nat) : Rhs :=
  if m.sing.getD k false then r
  else
    let s := (upTo (k + 1) n).foldl (fun (t : Nat × Rhs) i =>
      let v := fFma f .rn (m.el i k) (t.2.el i) t.1
      (v.1, t.2.mark k v.2)) (r.el k, r)
    let t := tauMul f (taus.getD k 0) s.1
    let r := s.2.mark k t.2
    (upTo (k + 1) n).foldl (fun r i => r.set i (fms f (r.el i) (m.el i k) t.1)) (r.set k (fSub f .rn (r.el k) t.1))
/-- The solve of one right-hand side: SSOLVE, or SADJ when `adj`; `taus` are the log's. -/
def solve1 (f : Fmt) (meth n : Nat) (adj : Bool) (k : Fac) (taus : List Nat) (x : Sparse Nat) : Rhs :=
  let r : Rhs := { x := x }
  let u := k.use (meth = 1)
  let up := List.range n
  if meth = 1 then back f n k true (fun i j => u j i) (forward f n k true u r)
  else if meth = 0 then
    if adj then swaps k up.reverse (back f n k false (fun i j => u j i) (forward f n k true (fun i j => u j i) r))
    else back f n k true u (forward f n k false u (swaps k up r))
  else if adj then up.reverse.foldl (house f n k taus) (forward f n k true (fun i j => u j i) r)
  else back f n k true u (up.foldl (house f n k taus) r)

/-! ### Frames and logs (R292 to R295) -/

/-- The format of a job. -/
def solFmt (x : SolOps) : Fmt := if x.f64 then .f64 else .f32
/-- The bytes of an element. -/
def solW (x : SolOps) : Nat := if x.f64 then 8 else 4
/-- The order of the matrix. -/
def solN (x : SolOps) : Nat := x.n1 + 1
/-- The matrix of a frame (R292): rows and columns below the given sizes. -/
def frameIn (m : Sparse Byte) (base w rows cols : Nat) : Sparse Nat :=
  (List.range rows).foldl (fun t i => (List.range cols).foldl (fun t j =>
    setAt 0 t (elemKey i j) (readLE m (base + w * (16 * i + j)) w)) t) []
/-- The elements of a frame are written; `lower` leaves the upper triangle as it is (R296). -/
def frameOut (b c base w rows cols : Nat) (lower : Bool) (a : Sparse Nat) (s : State) : State :=
  (List.range rows).foldl (fun s i => (List.range cols).foldl (fun s j =>
    if lower && decide (i < j) then s
    else s.storeShare b c (base + w * (16 * i + j)) (natToBytes w (getAt 0 a (elemKey i j)))) s) s
/-- The bit of a Boolean at a position. -/
def bitAt (x : Bool) (k : Nat) : Nat := if x then 2 ^ k else 0
/-- The status word of a factorisation (R294). -/
def facStatus (f : Fmt) (meth n : Nat) (k : Fac) : Nat :=
  let first := match (List.range n).find? fun i => k.sing.getD i false with
    | some i => i
    | none => 31
  65536 * first + 256 * (k.sing.filter id).length + bitAt (meth = 1 && k.vals.any fun v => belowZero (valueOf f v)) 3
    + bitAt (k.vals.any fun v => valueOf f v = .nan) 2 + bitAt (k.ovs.any id) 1 + bitAt (k.sing.any id) 0
/-- The bytes of a pivot log (R293). -/
def logBytes (f : Fmt) (meth n : Nat) (k : Fac) : List Byte :=
  natToBytes 4 (n + 32 * meth + bitAt (f = .f64) 7 + 256) ++ natToBytes 4 (facStatus f meth n k) ++ natToBytes 24 0 ++
    (List.range n).flatMap fun i =>
      let v := k.vals.getD i 0
      natToBytes 8 (k.rows.getD i 0 + bitAt (k.sing.getD i false) 8 + bitAt (k.ovs.getD i false) 9
          + bitAt (valueOf f v = .nan) 10 + bitAt (meth = 1 && belowZero (valueOf f v)) 11)
        ++ natToBytes 8 (widen f v) ++ natToBytes 8 (widen f (k.taus.getD i 0)) ++ natToBytes 8 0
/-- The operands of a job: offset, length, alignment (R292, R293). -/
def solRanges (w : Crew) (x : SolOps) (rhs : Bool) : List (Nat × Nat × Nat) :=
  [((w.rs x.a).toNat, 256 * (solW x), 64), ((w.rs x.b).toNat, 32 + 32 * (solN x), 32)]
    ++ (if rhs then [((w.rs x.c).toNat, 256 * (solW x), 64)] else [])
/-- The words that a job reads (R199, R292): the rows and columns of its order, under CHOL the lower triangle only, the log
of a solve, and the right-hand sides. -/
def solReads (w : Crew) (x : SolOps) (rhs : Bool) : List (Nat × Nat) :=
  let row (r i k : Nat) : Nat × Nat := ((w.rs r).toNat + 16 * solW x * i, k * solW x)
  ((List.range (solN x)).map fun i => row x.a i (if x.meth = 1 then i + 1 else solN x))
    ++ (if rhs then ((w.rs x.b).toNat, 32 + 32 * solN x) :: (List.range (x.nrhs1 + 1)).map (fun r => row x.c r (solN x)) else [])
/-- Two of the ranges overlap. -/
def someMeet : List (Nat × Nat × Nat) → Bool
  | [] => false
  | r :: rest => (rest.any fun q => rangesMeet r.1 r.2.1 q.1 q.2.1) || someMeet rest
/-- Why a job fails its checks at issue (R295). -/
def solReason (lm : Nat) (rs : List (Nat × Nat × Nat)) (nrhs : Nat) : Option Nat :=
  if rs.any fun r => decide (lm < r.1 + r.2.1) then some 1
  else if rs.any fun r => r.1 % r.2.2 ≠ 0 then some 2
  else if someMeet rs then some 3
  else if 16 < nrhs then some 4 else none
/-- A job at its issue: earlier stores reach the share, then the checks, then the crew's result waits for the unit. -/
def solIssue (s : State) (i : Instr) (x : SolOps) (rhs : Bool) (nrhs : Nat) : Out :=
  issue s i fun s e => perCrew s e <| afterQueue s e i fun s e =>
    match solReason e.blk.r.lmem (solRanges e.cw x rhs) nrhs with
    | some r => trapAt s e 0x86 r e.act
    | none => jobIssue s e i
/-- SFACT (R296). -/
def execSfact (x : SolOps) (s : State) : Out := solIssue s (.sfact x) x false 0
/-- SSOLVE (R299). -/
def execSsolve (x : SolOps) (s : State) : Out := solIssue s (.ssolve x) x true (x.nrhs1 + 1)
/-- SADJ (R299, R300). -/
def execSadj (x : SolOps) (s : State) : Out := solIssue s (.sadj x) x true (x.nrhs1 + 1)

/-! ### The queue of the unit (R289) -/

/-- The jobs that wait at or run in the solver unit of a block's cluster (R289): those of parked crews and those of SLSQ. -/
def solverJobs (s : State) (x : Block) : List (Nat × Nat × Nat × Nat) :=
  unitJobs s x (fun i => i matches .sfact _ | .ssolve _ | .sadj _)
    ++ (s.workers x).flatMap fun p =>
      (s.slsqs.filter fun q => q.2.blk = p.1).map fun q => (p.2.r.prio, q.2.arrived, p.1, q.1)
/-- A job is the head of the solver unit's queue (R268, R289). -/
def solverFirst (s : State) (x : Block) (j : Nat × Nat × Nat × Nat) : Bool := !((solverJobs s x).any fun a => jobBefore a j)

/-- A job of the unit computes when it is the head: its operands are read (R199), its storage is checked (R306), and it ends
with a result in sd and its writes, or with a late cause and none. -/
def solJob (s : State) (b c : Nat) (x : Block) (w : Crew) (j : Job) (o : SolOps) (rhs : Bool)
    (run : (Trap) ⊕ (Nat × (State → State))) : Out :=
  if !solverFirst s x (x.r.prio, j.since, b, c) then notEnabled "SOLVER_JOB"
  else
  let (s, bad) := s.meetRead b c .share (solReads w o rhs)
  if bad then .next s
  else .next (unitCheck s x x.die 4 fun s =>
    match run with
    | .inl t => s.endJob b c j fun p => { p with late := some t }
    | .inr (st, f) => (f s).endJob b c j fun p => { p with writes := [.s o.d (BitVec.ofNat 32 st)] })

/-- The outcome of SFACT (R297). -/
def sfactRun (m : Sparse Byte) (b c : Nat) (w : Crew) (x : SolOps) : Trap ⊕ (Nat × (State → State)) :=
  let f := (solFmt x)
  let k := factor f x.meth (solN x) none (frameIn m (w.rs x.a).toNat (solW x) (solN x) (solN x))
  let st := facStatus f x.meth (solN x) k
  if x.ts && k.sing.any id then .inl { code := 0x84, info := bitsOf st 16 5 }
  else if x.tov && k.ovs.any id then .inl { code := 0x85, info := k.ovs.idxOf true }
  else .inr (st, fun s =>
    (frameOut b c (w.rs x.a).toNat (solW x) (solN x) (solN x) (x.meth = 1) k.a s).storeShare b c (w.rs x.b).toNat
      (logBytes f x.meth (solN x) k))
/-- SFACT_COMPLETE (R295, R297). -/
def execSfactComplete (b c : Nat) (s : State) : Out :=
  withJob s b c "SFACT_COMPLETE" (· matches .sfact _) fun x w j =>
    match j.i with
    | .sfact o => solJob s b c x w j o false (sfactRun x.share b c w o)
    | _ => notEnabled "SFACT_COMPLETE"

/-- A pivot log as a solve reads it: STATUS, and for each step META, VALUE and TAU. -/
def logEntry (m : Sparse Byte) (a k : Nat) : Nat × Nat × Nat :=
  (readLE m (a + 32 + 32 * k) 8, readLE m (a + 40 + 32 * k) 8, readLE m (a + 48 + 32 * k) 8)
/-- A log entry has a reserved bit or a pivot row out of place (R298, reason 2). -/
def metaBad (meth n k mw : Nat) (last : Nat) : Bool :=
  let p := bitsOf mw 0 5
  bitsOf mw 5 3 ≠ 0 || mw / 4096 ≠ 0 || last ≠ 0 || (if meth = 0 then decide (p < k) || decide (n ≤ p) else p ≠ k)
/-- The check of a pivot log (R298): a reason with its step. Reason 1, and reason 2 for a bit of HDR, STATUS or the zero bytes at
0x08, which belong to no step, report step 0 (DESIGN CHOICE, log 52: the spec names none). -/
def logReason (m : Sparse Byte) (a : Nat) (x : SolOps) : Option (Nat × Nat) :=
  let hdr := readLE m a 4
  let st := readLE m (a + 4) 4
  if !bitOf hdr 8 || bitsOf hdr 0 5 ≠ (solN x) || bitsOf hdr 5 2 ≠ x.meth || bitOf hdr 7 ≠ x.f64 then some (1, 0)
  else if hdr / 512 ≠ 0 || st / 2097152 ≠ 0 || bitsOf st 13 3 ≠ 0 || bitsOf st 4 4 ≠ 0 || readLE m (a + 8) 24 ≠ 0 then
    some (2, 0)
  else ((List.range (solN x)).find? fun k =>
    metaBad x.meth (solN x) k (logEntry m a k).1 (readLE m (a + 56 + 32 * k) 8)).map fun k => (2, k)
/-- A replay differs from its log at a step (R300): a reason with its step. -/
def replayReason (m : Sparse Byte) (a : Nat) (x : SolOps) (k : Fac) : Option (Nat × Nat) :=
  (List.range (solN x)).findSome? fun i =>
    let e := logEntry m a i
    if widen (solFmt x) (k.vals.getD i 0) ≠ e.2.1 || widen (solFmt x) (k.taus.getD i 0) ≠ e.2.2 then some (3, i)
    else if k.sing.getD i false ≠ bitOf e.1 8 then some (4, i) else none
/-- The factor that a solve uses: the frame with the rows and singular steps of its log. -/
def logFac (m : Sparse Byte) (a : Nat) (x : SolOps) (mat : Sparse Nat) : Fac :=
  let es := (List.range (solN x)).map fun k => logEntry m a k
  { a := mat, rows := es.map fun e => bitsOf e.1 0 5, vals := [],
    taus := [], sing := es.map fun e => bitOf e.1 8, ovs := [] }
/-- The outcome of SSOLVE and SADJ (R298 to R300). -/
def solveRun (m : Sparse Byte) (b c : Nat) (w : Crew) (x : SolOps) (adj : Bool) : Trap ⊕ (Nat × (State → State)) :=
  let f := (solFmt x)
  let la := (w.rs x.b).toNat
  let mismatch (r : Nat × Nat) : Trap := { code := 0x87, info := r.1 + 256 * r.2 }
  match logReason m la x with
  | some r => .inl (mismatch r)
  | none =>
    let mat := frameIn m (w.rs x.a).toNat (solW x) (solN x) (solN x)
    let k0 := logFac m la x mat
    let k := if x.rp then factor f x.meth (solN x) (some k0.rows) mat else k0
    match if x.rp then replayReason m la x k else none with
    | some r => .inl (mismatch r)
    | none =>
      let nr := x.nrhs1 + 1
      let xs := frameIn m (w.rs x.c).toNat (solW x) nr (solN x)
      let rs := (List.range nr).map fun r =>
        solve1 f x.meth (solN x) adj { k with rows := k0.rows } ((List.range (solN x)).map fun i => (logEntry m la i).2.2)
          ((List.range (solN x)).foldl (fun t i => setAt 0 t i (getAt 0 xs (elemKey r i))) [])
      let st := readLE m (la + 4) 4
      let out := (numbered rs).foldl (fun t (p : Nat × Rhs) =>
        (List.range (solN x)).foldl (fun t i => setAt 0 t (elemKey p.1 i) (p.2.el i)) t) []
      let nan := rs.any fun r => (List.range (solN x)).any fun i => valueOf f (r.el i) = .nan
      let ov := rs.any (fun r => r.ov.isSome) || (x.rp && k.ovs.any id)
      if x.ts && bitOf st 0 then .inl { code := 0x84, info := bitsOf st 16 5 }
      else match if x.tov then (numbered rs).findSome? fun p => p.2.ov.map fun i => i + 32 * p.1 else none with
        | some i => .inl { code := 0x85, info := i }
        | none =>
          .inr (bitsOf st 16 5 * 65536 + bitsOf st 8 5 * 256 + bitAt (bitOf st 3) 3 + bitAt nan 2 + bitAt ov 1
              + bitAt (bitOf st 0) 0,
            fun s =>
              let s := frameOut b c (w.rs x.c).toNat (solW x) nr (solN x) false out s
              if x.rp then frameOut b c (w.rs x.a).toNat (solW x) (solN x) (solN x) (x.meth = 1) k.a s else s)
/-- SSOLVE_COMPLETE (R299). -/
def execSsolveComplete (b c : Nat) (s : State) : Out :=
  withJob s b c "SSOLVE_COMPLETE" (· matches .ssolve _) fun x w j =>
    match j.i with
    | .ssolve o => solJob s b c x w j o true (solveRun x.share b c w o false)
    | _ => notEnabled "SSOLVE_COMPLETE"
/-- SADJ_COMPLETE (R299, R300). -/
def execSadjComplete (b c : Nat) (s : State) : Out :=
  withJob s b c "SADJ_COMPLETE" (· matches .sadj _) fun x w j =>
    match j.i with
    | .sadj o => solJob s b c x w j o true (solveRun x.share b c w o true)
    | _ => notEnabled "SADJ_COMPLETE"

/-! ### SLSQ (R301 to R305) -/

/-- The job record of SLSQ (R301). -/
structure LsqRec where
  kind : Nat
  np : Nat
  nrow : Nat
  budget : Nat
  cyc : Bool
  param : Nat
  data : Nat
  work : Nat
  lam : Nat
  tol : Nat
  focal : Nat
  ncam : Nat
  npt : Nat
  rsv : Bool
  deriving DecidableEq, Repr

/-- The record of 128 bytes read as a number. -/
def lsqRecOf (x : Nat) : LsqRec :=
  let f (o n : Nat) : Nat := bitsOf x (8 * o) (8 * n)
  { kind := f 0 1, np := f 4 4, nrow := f 8 4, budget := f 0x0C 4, cyc := bitOf (f 0x10 4) 0,
    param := f 0x14 4, data := f 0x18 4, work := f 0x1C 4, lam := f 0x20 8, tol := f 0x28 8,
    focal := f 0x30 8, ncam := f 0x38 4, npt := f 0x3C 4,
    rsv := f 1 3 ≠ 0 || f 0x10 4 / 2 ≠ 0 || f 0x54 12 ≠ 0 }
/-- The residuals (R301). -/
def LsqRec.nr (r : LsqRec) : Nat := if r.kind = 1 then 2 * r.nrow else r.nrow
/-- The bytes of DATA (R303). -/
def LsqRec.dataLen (r : LsqRec) : Nat := if r.kind = 1 then 24 * r.nrow else 8 * (r.np + 1) * r.nrow
/-- The bytes of WORK (R301). -/
def LsqRec.workLen (r : LsqRec) : Nat := 8 * (r.np * r.np + 4 * r.np + 3 * r.nr)
/-- An FP64 number at an offset of the share. -/
def f64At (m : Sparse Byte) (a : Nat) : Nat := readLE m a 8
/-- The value of an FP64 pattern. -/
def v64 (x : Nat) : Val := valueOf .f64 x
/-- Why a record is rejected (R301). -/
def lsqReason (m : Sparse Byte) (lm a : Nat) (r : LsqRec) : Option Nat :=
  let rs := [(a, 128, 64), (r.param, 8 * r.np, 8), (r.data, r.dataLen, 8), (r.work, r.workLen, 8)]
  if r.rsv || decide (1 < r.kind) then some 1
  else if r.np = 0 || decide (256 < r.np) || r.nrow = 0 || decide ((if r.kind = 1 then 32768 else 65536) < r.nrow)
      || r.budget = 0 || decide (2 ^ 31 ≤ r.budget)
      || (if r.kind = 1 then r.np ≠ 6 * r.ncam + 3 * r.npt else r.ncam ≠ 0 || r.npt ≠ 0) then some 2
  else if rs.any (fun q => decide (lm < q.1 + q.2.1) || q.1 % q.2.2 ≠ 0) || someMeet rs then some 3
  else if !(v64 r.lam).finite || !aboveZero (v64 r.lam) || !(v64 r.tol).finite || belowZero (v64 r.tol)
      || (if r.kind = 1 then !(v64 r.focal).finite || (v64 r.focal).isZero else !(v64 r.focal).isZero) then some 4
  else if r.kind = 1 && (List.range r.nrow).any fun o =>
      decide (r.ncam ≤ readLE m (r.data + 24 * o) 4) || decide (r.npt ≤ readLE m (r.data + 24 * o + 4) 4) then some 5
  else none

/-- RoundF64 of a value. -/
def r64 (v : Val) : Nat := (roundTo .f64 v .rn false).1
/-- x + y exactly. -/
def vAdd (x y : Val) : Val := (addVal false x y).1
/-- x × y exactly. -/
def vMul (x y : Val) : Val := (mulVal x y).1
/-- Σ x(i) × y(i) in ascending i, one rounding a term, from +0. -/
def fusedSum (xs : List (Nat × Nat)) : Nat := xs.foldl (fun t p => (fFma .f64 .rn p.1 p.2 t).1) 0
/-- The two residuals of an observation (R303). -/
def baResidual (m : Sparse Byte) (r : LsqRec) (p : List Nat) (o : Nat) : List Nat :=
  let cam := readLE m (r.data + 24 * o) 4
  let pt := readLE m (r.data + 24 * o + 4) 4
  let w (k : Nat) : Val := v64 (p.getD (6 * cam + k) 0)
  let t (k : Nat) : Val := v64 (p.getD (6 * cam + 3 + k) 0)
  let q (k : Nat) : Val := v64 (p.getD (6 * r.ncam + 3 * pt + k) 0)
  let pat (f : Nat → Val) (k : Nat) : Nat := r64 (f k)
  let qq := v64 (fusedSum ([0, 1, 2].map fun k => (pat w k, pat w k)))
  let kk := v64 (fusedSum ([0, 1, 2].map fun k => (pat w k, pat q k)))
  let one : Val := .num false 1 1
  let two : Val := .num false 2 1
  let mm := v64 (r64 (vAdd one qq.opp))
  let den := v64 (r64 (vAdd one qq))
  let cr (k : Nat) : Val :=
    let i := (k + 1) % 3
    let j := (k + 2) % 3
    v64 (r64 (vAdd (vMul (w i) (q j)) (vMul (w j) (q i)).opp))
  let x (k : Nat) : Val :=
    let num := v64 (r64 (vAdd (vAdd (vMul mm (q k)) (vMul two (vMul kk (w k)))) (vMul two (cr k))))
    v64 (r64 (vAdd (v64 (r64 (divVal num den).1)) (t k)))
  let res (k off : Nat) : Nat :=
    let proj := v64 (r64 (divVal (vMul (v64 r.focal) (x k)) (x 2)).1)
    r64 (vAdd proj (v64 (f64At m (r.data + 24 * o + off))).opp)
  [res 0 8, res 1 16]
/-- The residual of a row (R303). -/
def linResidual (m : Sparse Byte) (r : LsqRec) (p : List Nat) (i : Nat) : Nat :=
  let a := r.data + 8 * (r.np + 1) * i
  (numbered p).foldl (fun t q => (fFma .f64 .rn (f64At m (a + 8 * q.1)) q.2 t).1) (negOf .f64 (f64At m (a + 8 * r.np)))
/-- The residual vector at a point (R303). -/
def residuals (m : Sparse Byte) (r : LsqRec) (p : List Nat) : List Nat :=
  if r.kind = 1 then (List.range r.nrow).flatMap (baResidual m r p) else (List.range r.nrow).map (linResidual m r p)
/-- Cost(p) (R302). -/
def costOf (m : Sparse Byte) (r : LsqRec) (p : List Nat) : Nat := fusedSum ((residuals m r p).map fun x => (x, x))
/-- E of R303: the exponent of a magnitude, at least 0. -/
def expOf (x : Nat) : Int :=
  match v64 x with
  | .num _ n d => if n = 0 then 0 else max 0 (floorLog2 n d)
  | _ => 0
/-- Column j of the Jacobian by central differences (R303). -/
def jacColumn (m : Sparse Byte) (r : LsqRec) (p : List Nat) (j : Nat) : List Nat :=
  let e := expOf (p.getD j 0)
  let h := dyadic false 1 (e - 20)
  let at_ (d : Val) : List Nat := residuals m r (p.set j (r64 (vAdd (v64 (p.getD j 0)) d)))
  ((at_ h).zip (at_ h.opp)).map fun q =>
    r64 (vMul (v64 (r64 (vAdd (v64 q.1) (v64 q.2).opp))) (dyadic false 1 (19 - e)))
/-- g and the lower triangle of H (R303). -/
def gradHess (m : Sparse Byte) (r : LsqRec) (p : List Nat) : List Nat × List (List Nat) :=
  let res := residuals m r p
  let js := (List.range r.np).map (jacColumn m r p)
  (js.map fun c => fusedSum (c.zip res), (numbered js).map fun q => (js.take (q.1 + 1)).map fun c => fusedSum (q.2.zip c))
/-- The damped matrix of a trial (R302): the lower triangle. -/
def damped (h : List (List Nat)) (lam : Nat) : Sparse Nat :=
  (numbered h).foldl (fun t (row : Nat × List Nat) => (numbered row.2).foldl (fun t (q : Nat × Nat) =>
    setAt 0 t (elemKey row.1 q.1)
      (if row.1 = q.1 then (fFma .f64 .rn lam (r64 (vAdd (v64 q.2) (.num false 1 1))) q.2).1 else q.2)) t) []

/-- The start of a run (R302): the cost at the start point is not known yet. -/
def lsqStart (m : Sparse Byte) (r : LsqRec) : SlsqRun :=
  { p := (List.range r.np).map fun j => f64At m (r.param + 8 * j), lam := r.lam, cost := 0, used := 0, it := 0, gh := none,
    stop := none }
/-- The cost at the start point is known (R302). -/
def lsqFirst (m : Sparse Byte) (r : LsqRec) (u : SlsqRun) : SlsqRun :=
  let c := costOf m r u.p
  { u with cost := c, used := 1, points := 0, stop := if (v64 c).finite then none else some 5 }
/-- The budget in steps is spent when so many are still needed (R302). -/
def lsqSpent (r : LsqRec) (u : SlsqRun) (more : Nat) : Bool := !r.cyc && decide (r.budget < u.used + more)
/-- A trial that is not accepted (R302). -/
def lsqReject (r : LsqRec) (u : SlsqRun) : SlsqRun :=
  let lam := (fMul .f64 .rn u.lam (r64 (.num false 4 1))).1
  let u := { u with lam := lam, points := 0 }
  if ltVal (dyadic false 1 64) (v64 lam) then { u with stop := some 3 }
  else if lsqSpent r u 1 then { u with stop := some 2 } else u
/-- The factor of a trial (R302). -/
def lsqFactor (r : LsqRec) (u : SlsqRun) (h : List (List Nat)) : Fac := factor .f64 1 r.np none (damped h u.lam)
/-- The factorisation of a trial has ended: a singular column ends the trial (R302). -/
def lsqFactored (r : LsqRec) (u : SlsqRun) (h : List (List Nat)) : SlsqRun :=
  let v := { u with used := u.used + 1, points := u.points + 1 }
  if (lsqFactor r u h).sing.any id then lsqReject r v else v
/-- The end of a trial whose matrix has been factored (R302). -/
def lsqTrial (m : Sparse Byte) (r : LsqRec) (u : SlsqRun) (g : List Nat) (h : List (List Nat)) : SlsqRun :=
    let k := lsqFactor r u h
    let d := solve1 .f64 1 r.np false k [] ((numbered g).foldl (fun t (q : Nat × Nat) => setAt 0 t q.1 (negOf .f64 q.2)) [])
    let ds := (List.range r.np).map d.el
    let p := (u.p.zip ds).map fun q => (fAdd .f64 .rn q.1 q.2).1
    let c := costOf m r p
    if ltVal (v64 c) (v64 u.cost) then
      let u := { u with p := p, cost := c, it := u.it + 1, points := 0,
                        lam := (fMul .f64 .rn u.lam (r64 (dyadic false 1 (-1)))).1, gh := none }
      if leVal (v64 (fusedSum (ds.map fun x => (x, x)))) (v64 r.tol) then { u with stop := some 1 } else u
    else lsqReject r u
/-- The checkpoints of one evaluation of the residual vector: one after every 256 residuals and one at its end (R289). -/
def LsqRec.evalPoints (r : LsqRec) : Nat := (r.nr + 255) / 256
/-- The checkpoints of a factorisation, or of one pass of a solve: every 16 columns or components (R289). -/
def LsqRec.colPoints (r : LsqRec) : Nat := (r.np + 15) / 16
/-- The work from one checkpoint to the next (R289, R302). A run passes the checkpoints of the first cost, then those of each
forming of g and H (2 × NP evaluations, then the rows of each group of 16 columns) and of each trial (the factorisation, the
two passes of the solve, one evaluation); the result of each takes effect at the last of them (log 54). Under CYC = 1 the
elapsed cycles are compared at every checkpoint once the first cost is known. -/
def lsqStep (m : Sparse Byte) (r : LsqRec) (u : SlsqRun) (elapsed : Nat) : SlsqRun :=
  let on := { u with points := u.points + 1 }
  if u.used = 0 then if u.points + 1 < r.evalPoints then on else lsqFirst m r u
  else if r.cyc && decide (r.budget ≤ elapsed) then { u with stop := some 2 }
  else match u.gh with
  | none =>
    if lsqSpent r u (2 * r.np + 1) then { u with stop := some 2 }
    else if u.points + 1 < (2 * r.np + r.colPoints) * r.evalPoints then on
    else { u with gh := some (gradHess m r u.p), used := u.used + 2 * r.np, points := 0 }
  | some (g, h) =>
    if u.points + 1 = r.colPoints then lsqFactored r u h
    else if u.points + 1 < 3 * r.colPoints + r.evalPoints then on
    else lsqTrial m r u g h
/-- The unit's own state in the record and in WORK has no stated contents (R301, R305): free bytes. -/
def State.scribble (s : State) (b c a work n : Nat) : State :=
  let byte (k : Nat) : Byte := BitVec.ofNat 8 (Config.freeNat (16777216 * s.steps + k))
  (s.storeShare b c (a + 0x60) ((List.range 32).map byte)).storeShare b c work
    ((List.range n).map fun k => byte (32 + k))

/-- SLSQ (R302): the job joins the unit's queue; a ninth job of a block delays the issue. -/
def execSlsq (x : SolOps) (s : State) : Out :=
  issue s (.slsq x) fun s e => perCrew s e <| afterQueue s e (.slsq x) fun s e =>
    let a := (e.cw.rs x.a).toNat
    let mine := s.slsqs.filter fun p => p.2.blk = e.b
    match solReason e.blk.r.lmem [(a, 128, 64)] 0 with
    | some r => trapAt s e 0x86 r e.act
    | none =>
      if mine.any fun p => p.2.record = a then trapAt s e 0x86 5 e.act
      else if 8 ≤ mine.length then .next s
      else
        let (k, s) := s.take
        complete { s with slsqs := put s.slsqs k { blk := e.b, crew := e.c, record := a, known := 1#64 <<< e.c, arrived := s.steps, since := 0, run := none } } e {}

/-- The job ends with a run that has stopped, or with END 4 and its reason. -/
def lsqInvalid (reason : Nat) : SlsqRun :=
  { p := [], lam := 0, cost := 0, used := 0, it := 0, gh := none, stop := some (4 + 256 * reason) }
/-- The SLSQ job of a key whose block works, when it is the head of its unit's queue (R289). -/
def withSlsq (s : State) (k : Nat) (m : String) (f : Slsq → Block → Out) : Out :=
  match look s.slsqs k with
  | none => notEnabled m
  | some j =>
    match s.block j.blk with
    | none => notEnabled m
    | some x => if s.runs x && solverFirst s x (x.r.prio, j.arrived, j.blk, k) then f j x else notEnabled m
/-- The words of the share that the unit reads for a job (R199): its record, and once it runs PARAM, DATA and WORK. -/
def lsqReads (j : Slsq) (r : LsqRec) : List (Nat × Nat) :=
  (j.record, 128) :: (match j.run with
    | none => []
    | some _ => [(r.data, r.dataLen), (r.work, r.workLen)])
/-- SLSQ_CHECKPOINT (R289, R302): the head job goes from one checkpoint to the next. A job whose record is rejected (END 4)
never ran the algorithm: it does not set the timing-exposed bit, whatever its CYC (DESIGN CHOICE, log 90). -/
def execSlsqCheckpoint (k : Nat) (s : State) : Out :=
  withSlsq s k "SLSQ_CHECKPOINT" fun j x =>
    if j.run.any fun u => u.stop.isSome then notEnabled "SLSQ_CHECKPOINT"
    else
      let r := lsqRecOf (readLE x.share j.record 128)
      let keep (s : State) (u : SlsqRun) (since : Nat) : State :=
        { s with slsqs := put s.slsqs k { j with run := some u, since := since } }
      let (s, bad) := s.meetRead j.blk j.crew .share (lsqReads j r)
      if bad then .next s
      else .next (unitCheck s x x.die 4 fun s =>
        match j.run with
        | none =>
          let s := s.storeShare j.blk j.crew (j.record + 0x4C) (natToBytes 4 0)
          match lsqReason x.share x.r.lmem j.record r with
          | some n => keep s (lsqInvalid n) s.clock
          | none =>
            let (s, bad) := s.meetRead j.blk j.crew .share [(r.param, 8 * r.np), (r.data, r.dataLen)]
            if bad then s
            else
              let s := if r.cyc then s.setCtx x.slot { s.ctx x.slot with texp := true } else s
              keep (s.scribble j.blk j.crew j.record r.work r.workLen) (lsqStart x.share r) s.clock
        | some u =>
          keep (s.scribble j.blk j.crew j.record r.work r.workLen) (lsqStep x.share r u (s.clock - j.since)) j.since)

/-- The outputs of a job that has ended (R301, R302): all of them, or only STATUS for END 4. -/
def lsqOutputs (j : Slsq) (r : LsqRec) (u : SlsqRun) (e : Nat) (s : State) : State :=
  let out (o : Nat) (bs : List Byte) (s : State) : State := s.storeShare j.blk j.crew (j.record + o) bs
  out 0x4C (natToBytes 4 e) (if e % 16 = 4 then s
    else
      out 0x40 (natToBytes 8 (fSqrt .f64 .rn u.cost).1) (out 0x48 (natToBytes 4 u.it) (out 0x50 (natToBytes 4 u.used)
        (s.storeShare j.blk j.crew r.param (u.p.flatMap (natToBytes 8))))))
/-- SLSQ_COMPLETE (R301, R302): the outputs of the head job are written. -/
def execSlsqComplete (k : Nat) (s : State) : Out :=
  withSlsq s k "SLSQ_COMPLETE" fun j x =>
    match j.run with
    | some u =>
      match u.stop with
      | some e =>
        .next (lsqOutputs j (lsqRecOf (readLE x.share j.record 128)) u e { s with slsqs := dropAt s.slsqs k })
      | none => notEnabled "SLSQ_COMPLETE"
    | none => notEnabled "SLSQ_COMPLETE"

/-- SSTAT (R304): the crew parks until the job of its record has completed. -/
def execSstat (x : SolOps) (s : State) : Out :=
  issue s (.sstat x) fun s e => perCrew s e <| afterQueue s e (.sstat x) fun s e =>
    match solReason e.blk.r.lmem [((e.cw.rs x.a).toNat, 128, 64)] 0 with
    | some r => trapAt s e 0x86 r e.act
    | none => jobIssue s e (.sstat x)
/-- SSTAT_COMPLETE (R304): no SLSQ on its record that was issued before it, by its crew or by one ordered before it by a
barrier, is outstanding. -/
def execSstatComplete (b c : Nat) (s : State) : Out :=
  withJob s b c "SSTAT_COMPLETE" (· matches .sstat _) fun x w j =>
    match j.i with
    | .sstat o =>
      let a := (w.rs o.a).toNat
      if s.slsqs.any fun p => p.2.blk = b && p.2.record = a && p.2.known.getLsbD c && decide (p.2.arrived < j.since) then notEnabled "SSTAT_COMPLETE"
      else
        let (s, bad) := s.meetRead b c .share [(a, 128)]
        let st := readLE x.share (a + 0x4C) 4
        let late : Option Trap :=
          if st % 16 = 4 then some { code := 0x86, info := (bitsOf st 8 4 + 8) % 16 } else none
        let ws : List Wr :=
          [.s o.d (BitVec.ofNat 32 st), .s (o.d + 1) (BitVec.ofNat 32 (readLE x.share (a + 0x48) 4))]
        if bad then .next s else .next (s.endJob b c j fun p => { p with writes := ws, late := late })
    | _ => notEnabled "SSTAT_COMPLETE"

end Sys2Proof.Machine
end

