-- ==== Sys2Proof/Machine/Crews.lean ====
section
/-! DEFINITION. The room on a core (R23, R187, R348) and the events of a crew: the return of a result, the end of a
park, the grant of registers, entry to the trap routine and the end of a drain (R26, R28, R30, R32, R169). -/

namespace Sys2Proof.Machine

/-! ### The room on a core -/

/-- What is free in a quadrant (R23): vector and moment granules and crew slots; `shut` while a REGS.GROW waits there. -/
structure Pool where
  v : Nat
  m : Nat
  n : Nat
  shut : Bool
  deriving DecidableEq, Repr

/-- The blocks on a core; a saved block is on none. -/
def State.onCore (s : State) (die cluster core : Nat) : List (Nat × Block) :=
  s.blocks.filter fun p => p.2.die = die && p.2.cluster = cluster && p.2.core = core && p.2.phase ≠ .saved
/-- A crew waits for its REGS.GROW (R26). -/
def Crew.growing (w : Crew) : Option RegsOps :=
  match w.wait with
  | .waiting (.regsGrow x) _ _ _ => some x
  | _ => none
/-- The crews bound to a quadrant of a core. -/
def boundTo (bs : List (Nat × Block)) (q : Nat) : List Crew :=
  (bs.flatMap fun p => p.2.crews.map (·.2)).filter fun w => w.quad = q
/-- A quadrant of a core with its free room. -/
def poolOf (bs : List (Nat × Block)) (q : Nat) : Pool :=
  let ws := boundTo bs q
  { v := 128 - (ws.map (·.vg)).sum, m := 64 - (ws.map (·.mg)).sum, n := 24 - ws.length,
    shut := ws.any fun w => w.growing.isSome }
/-- The quadrants of a core. -/
def poolsOf (bs : List (Nat × Block)) : List Pool := (List.range 4).map (poolOf bs)
/-- A quadrant can bind a crew with so many granules. -/
def Pool.takes (q : Pool) (vg mg : Nat) : Bool := !q.shut && decide (vg ≤ q.v) && decide (mg ≤ q.m) && decide (1 ≤ q.n)
/-- The quadrant that a crew is bound to: of those that can bind it the one with the most free vector granules, the
lowest-numbered on a tie (R23). One that lacks moment granules, or whose 24 crew slots are all taken, is passed over for the next
(DEDUCED, log 27). -/
def pickQuad (qs : List Pool) (vg mg : Nat) : Option Nat :=
  let ok := (List.range 4).filter fun k => ((qs[k]?).any fun q => q.takes vg mg)
  let free (k : Nat) : Nat := ((qs[k]?).map (·.v)).getD 0
  ok.find? fun k => ok.all fun j => decide (free j ≤ free k)
/-- The quadrants after a crew is bound. -/
def bindIn (qs : List Pool) (k vg mg : Nat) : List Pool :=
  qs.modify k fun q => { q with v := q.v - vg, m := q.m - mg, n := q.n - 1 }
/-- The crews of a block are bound in ascending order (R23): their quadrants, or none when one cannot be bound. -/
def bindAll (qs : List Pool) : List (Nat × Nat) → Option (List Nat)
  | [] => some []
  | (vg, mg) :: rest =>
    match pickQuad qs vg mg with
    | none => none
    | some k => (bindAll (bindIn qs k vg mg) rest).map (k :: ·)
/-- The footprint of a block in local memory (R187). -/
def LaunchRec.footprint (r : LaunchRec) : Nat := (r.lmem + 32 * r.ncrew * r.spill + 4095) / 4096 * 4096
/-- The local memory of a core (R187). -/
def coreMemory : Nat := 1572864
/-- A launch's blocks are matrix blocks (R183). -/
def LaunchRec.isMatrix (r : LaunchRec) : Bool := r.teams.any fun t => t.valid && t.role = .matrix
/-- A block fits beside the blocks of a core (R348): the quadrants of its crews, which hold the granules given. -/
def fitsOn (bs : List (Nat × Block)) (r : LaunchRec) (gr : List (Nat × Nat)) : Option (List Nat) :=
  if coreMemory < (bs.map fun p => p.2.r.footprint).sum + r.footprint then none
  else if 64 < (bs.map fun p => p.2.crews.length).sum + gr.length then none
  else if r.isMatrix && bs.any fun p => p.2.r.isMatrix then none
  else bindAll (poolsOf bs) gr

/-! ### Results and parks -/

/-- Results return: the block runs or its crews park for a save. -/
def State.returns (s : State) (x : Block) : Bool :=
  (x.phase = .running || (x.phase matches .saving _)) && (s.ctx x.slot).state = .live
/-- A result returns: it is written to its destination; flags, MCLF and the late cause wait for the unpark, and the
pending bits stay set (R28, R30, R138). -/
def Crew.takeResult (w : Crew) (p : Pend) : Crew :=
  { w.write p.writes with hflags := w.hflags ||| p.flags, hclamp := w.hclamp || p.clamp,
                          late := earlier w.late (p.late.map fun t => ⟨p.order, t⟩),
                          outs := w.outs.filter fun q => q.order ≠ p.order }
/-- RESULT_RETURN (R28): `k` is the number of the issue whose result returns. -/
def execResultReturn (b c k : Nat) (s : State) : Out :=
  match s.block b, s.crew b c with
  | some x, some w =>
    match w.outs.find? fun p => p.order = k with
    | some p => if p.ready && s.returns x then .next (s.setCrew b c (w.takeResult p)) else notEnabled "RESULT_RETURN"
    | none => notEnabled "RESULT_RETURN"
  | _, _ => notEnabled "RESULT_RETURN"
/-- The crew is parked with nothing outstanding; `trap` for the park of a trap entry. -/
def parkOver (w : Crew) (trap : Bool) : Bool :=
  w.outs.isEmpty && (match w.wait with
    | .parked (.trap _) => trap
    | .parked _ => !trap
    | _ => false)
/-- UNPARK (R30, R477). -/
def execUnpark (b c : Nat) (s : State) : Out :=
  match s.block b, s.crew b c with
  | some x, some w => if s.runs x && parkOver w false then .next (s.unparkNow b c) else notEnabled "UNPARK"
  | _, _ => notEnabled "UNPARK"
/-- TRAP_ENTRY (R169). -/
def execTrapEntry (b c : Nat) (s : State) : Out :=
  match s.block b, s.crew b c with
  | some x, some w => if s.runs x && parkOver w true then .next (s.unparkNow b c) else notEnabled "TRAP_ENTRY"
  | _, _ => notEnabled "TRAP_ENTRY"

/-! ### REGS.GROW (R26) -/

/-- A waiter comes before another: ascending (block index, crew index). -/
def growBefore (a b : Nat × Nat × Nat) : Bool :=
  decide (a.1 < b.1) || (a.1 = b.1 && (decide (a.2.2 < b.2.2) || (a.2.2 = b.2.2 && decide (a.2.1 < b.2.1))))
/-- The waiters of a quadrant as (block index, block, crew). -/
def growers (bs : List (Nat × Block)) (q : Nat) : List (Nat × Nat × Nat) :=
  bs.flatMap fun p => p.2.crews.filterMap fun (c, w) =>
    if w.quad = q && w.growing.isSome then some (p.2.index, p.1, c) else none
/-- REGS_GRANT (R25, R26): the first waiter of its quadrant is granted its granules, or traps with cause 0x0A when
every other crew bound there waits too. -/
def execRegsGrant (b c : Nat) (s : State) : Out :=
  match s.block b, s.crew b c with
  | some x, some w =>
    match w.wait with
    | .waiting (.regsGrow y) pc act _ =>
      let bs := s.onCore x.die x.cluster x.core
      let first := !((growers bs w.quad).any fun t => growBefore t (x.index, b, c))
      let need := y.count - w.granules y.cls
      let q := poolOf bs w.quad
      if !(s.runs x && first) then notEnabled "REGS_GRANT"
      else if need ≤ (if y.cls = 0 then q.v else q.m) then
        .next ((s.setCrew b c (w.setGranules y.cls y.count)).resume b c (.regsGrow y) pc act [])
      else if (boundTo bs w.quad).all fun v => v.growing.isSome then
        .next (s.failWait b c (.regsGrow y) pc act 0x0A 0)
      else notEnabled "REGS_GRANT"
    | _ => notEnabled "REGS_GRANT"
  | _, _ => notEnabled "REGS_GRANT"

/-! ### The end of a drain (R32) -/

/-- Every operation that a crew issued has been acknowledged. -/
def State.acked (s : State) (x : Block) (b c : Nat) (w : Crew) : Bool :=
  w.outs.isEmpty && w.queue.isEmpty && w.jobs.isEmpty && !s.writesOut b c
    && !(s.slsqs.any fun p => p.2.blk = b && p.2.crew = c)
    && !(s.sends.any fun p => p.2.blk = b && p.2.crew = c)
    && !((s.die0.tevents ++ s.die1.tevents).any fun t => t.blk = b && t.crew = c)
    && !(x.mx.queue.any fun q => q.crew = c)
/-- The first fault that a draining crew still holds: of its commands and of its tokens (R395). -/
def State.drainFault (s : State) (b c : Nat) (w : Crew) : Option Trap :=
  match firstFault w.hfaults with
  | some t => some t
  | none => (s.tokens.findSome? fun t => if t.blk = b && t.crew = c then t.fault else none)
/-- A cause that a drained crew leaves behind is context-fatal (R32, R173). -/
def State.fatalDrain (s : State) (b c : Nat) (x : Block) (t : Trap) : State :=
  s.fatalBlock b c (flagDrain + (if x.r.trapr = 0xFFFFFFFF then flagNorout else 0)) t
/-- A region entry is drained at the end (R186). -/
def Region.out (r : Region) : Bool := decide (1 ≤ r.dir)
/-- A region entry is staged before the start. -/
def Region.inn (r : Region) : Bool := r.dir ≠ 1
/-- A chained entry counts as chained in deterministic mode alone (R352). -/
def LaunchRec.chained (l : LaunchRec) (r : Region) : Bool := l.det && r.chain
/-- The block of an index of a grid. -/
def State.blockOf (s : State) (grid index : Nat) : Option (Nat × Block) :=
  s.blocks.find? fun p => p.2.grid = grid && p.2.index = index
/-- The commit frontier may pass a block (R352): it is done, or it has retired and has no chained region to write. -/
def frontierPasses (s : State) (gk : Nat) (g : Grid) (i : Nat) : Bool :=
  getAt false g.fin i || (match s.blockOf gk i with
    | some (_, x) => (x.phase matches .draining _ _) && !(g.r.regions.any fun r => g.r.chained r && r.out)
    | none => false)
/-- The commit frontier after it has passed every block that it may pass. -/
def frontierFrom (s : State) (gk : Nat) (g : Grid) : Nat → Nat → Nat
  | 0, f => f
  | n + 1, f => if f < g.r.nblk ∧ frontierPasses s gk g f then frontierFrom s gk g n (f + 1) else f
/-- The commit frontier of a grid advances (R352). -/
def State.commit (s : State) (gk : Nat) : State :=
  match s.grid gk with
  | none => s
  | some g => s.setGrid gk { g with frontier := frontierFrom s gk g g.r.nblk g.frontier }
/-- The block retires: it counts as triggered, and its drains may begin (R32, R349). -/
def State.retire (s : State) (b : Nat) : State :=
  match s.block b with
  | none => s
  | some x => ((s.setBlock b { x with phase := .draining 0 false }).trigger b).commit x.grid
/-- CREW_DRAIN_COMPLETE (R32): the crew ceases to exist, and its block retires with the last one; a latched cause of the
matrix queue is then raised (R209). -/
def execCrewDrainComplete (b c : Nat) (s : State) : Out :=
  match s.block b, s.crew b c with
  | some x, some w =>
    if !(w.wait = .draining && s.runs x && s.acked x b c w) then notEnabled "CREW_DRAIN_COMPLETE"
    else match s.drainFault b c w with
      | some t => .next (s.fatalDrain b c x t)
      | none =>
        let s := { s with tokens := s.tokens.filter (fun t => !(t.blk = b && t.crew = c)),
                          olds := s.olds.filter fun o => !(o.blk = b && o.crew = c) }
        let x := { x with crews := dropAt x.crews c }
        let s := s.setBlock b x
        if !x.crews.isEmpty then .next s
        else match latchTrap x.mx with
          | some t => .next (s.fatalDrain b 255 x t)
          | none => .next (s.retire b)
  | _, _ => notEnabled "CREW_DRAIN_COMPLETE"

end Sys2Proof.Machine
end

