-- ==== Sys2Proof/Machine/Staging.lean ====
section
/-! DEFINITION. Staging and draining of regions (R186, R205, R349 to R352), the start of a block (R15, R182, R185), its end,
and the completion of a launch (R342). -/

namespace Sys2Proof.Machine

/-! ### The elements of a region (R186, R192) -/

/-- The width code of the local element (R186). -/
def Region.localEw (r : Region) : Nat := if r.conv = 0 then r.ew else if r.conv = 3 then 2 else 3
/-- The VA of a block's region (R186). -/
def Region.va (r : Region) (index : Nat) : Nat := (r.base + r.stride * index) % 2 ^ 64
/-- The extents of a layout. -/
def Layout.exts (l : Layout) : Nat × Nat × Nat × Nat := l.ext.getD (1, 1, 1, 1)
/-- The rows of a region: indices 1 to 3, index 1 fastest. -/
def Layout.rows (l : Layout) : List (Nat × Nat × Nat) :=
  let e := l.exts
  (List.range (e.2.1 * e.2.2.1 * e.2.2.2)).map fun k =>
    (k % e.2.1, k / e.2.1 % e.2.2.1, k / (e.2.1 * e.2.2.1))
/-- The global address of a row (R192). -/
def Layout.rowVa (l : Layout) (va : Nat) (i : Nat × Nat × Nat) : Nat :=
  (((va : Int) + (i.1 : Int) * l.gstr1 + (i.2.1 : Int) * l.gstr2 + (i.2.2 : Int) * l.gstr3) % (2 ^ 64 : Nat)).toNat
/-- The bytes of a row in memory. -/
def rowBytes (ew n : Nat) : Nat := n * ewNibbles ew / 2
/-- The formats between which CONV widens: memory and local (R186). -/
def convFmts (conv : Nat) : Fmt × Fmt :=
  match conv with
  | 1 => (.bf16, .f32)
  | 2 => (.f16, .f32)
  | _ => (.e4m3, .bf16)
/-- CONV at staging: exact widening (R186). -/
def convIn (conv x : Nat) : Nat :=
  if conv = 0 then x else (roundTo (convFmts conv).2 (valueOf (convFmts conv).1 x) .rn false).1
/-- CONV at a drain (R186): E4M3 saturates. -/
def convOut (conv x : Nat) : Nat :=
  if conv = 0 then x else (roundTo (convFmts conv).1 (valueOf (convFmts conv).2 x) .rn (conv = 3)).1
/-- An element of packed bytes in a list (R36). -/
def listElem (bs : List Byte) (ew i : Nat) : Nat :=
  if ew = 0 then bitsOf (bs.getD (i / 2) 0).toNat (4 * (i % 2)) 4
  else bytesToNat ((bs.drop (i * ewBytes ew)).take (ewBytes ew))
/-- An element of a layout in a share. -/
def shareElem (m : Sparse Byte) (l : Layout) (i0 : Nat) (i : Nat × Nat × Nat) : Nat :=
  let a := l.addr i0 i.1 i.2.1 i.2.2
  if l.ew = 0 then bitsOf (getByte m a).toNat (4 * (i0 % 2)) 4 else readLE m a (ewBytes l.ew)
/-- A share with an element of a layout replaced. -/
def putShare (m : Sparse Byte) (l : Layout) (i0 : Nat) (i : Nat × Nat × Nat) (x : Nat) : Sparse Byte :=
  let a := l.addr i0 i.1 i.2.1 i.2.2
  if l.ew = 0 then
    let old := (getByte m a).toNat
    setByte m a (BitVec.ofNat 8 (if i0 % 2 = 0 then old / 16 * 16 + x % 16 else old % 16 + 16 * (x % 16)))
  else writeLE m a (ewBytes l.ew) x
/-- A row is staged from its bytes in memory. -/
def stageRow (l : Layout) (r : Region) (bs : List Byte) (m : Sparse Byte) (i : Nat × Nat × Nat) : Sparse Byte :=
  (List.range l.exts.1).foldl (fun m i0 => putShare m l i0 i (convIn r.conv (listElem bs r.ew i0))) m
/-- The rows are staged one after another from the bytes of all of them. -/
def stageRows (l : Layout) (r : Region) : List (Nat × Nat × Nat) → List Byte → Sparse Byte → Sparse Byte
  | [], _, m => m
  | i :: is, bs, m =>
    let n := rowBytes r.ew l.exts.1
    stageRows l r is (bs.drop n) (stageRow l r (bs.take n) m i)
/-- The bytes of a drained row. -/
def drainRow (l : Layout) (r : Region) (m : Sparse Byte) (i : Nat × Nat × Nat) : List Byte :=
  let x (i0 : Nat) : Nat := convOut r.conv (shareElem m l i0 i)
  if r.ew = 0 then (List.range (l.exts.1 / 2)).map fun k => BitVec.ofNat 8 (x (2 * k) % 16 + 16 * (x (2 * k + 1) % 16))
  else (List.range l.exts.1).flatMap fun i0 => natToBytes (ewBytes r.ew) (x i0)
/-- The scale bytes of a region with SCK ≠ 0, as (offset, length), in the arrangement of R205. For extents beyond the array the
spec gives no arrangement (DESIGN CHOICE, log 64): at most 128 columns or 256 bytes of each step are copied, EXT2 and EXT3
count as 1, and as many band scales as the larger of the K bands and the M bands. -/
def scaleSpans (l : Layout) : List (Nat × Nat) :=
  let e0 := l.exts.1
  let e1 := l.exts.2.1
  match l.sck with
  | 1 => ((List.range ((e0 + 7) / 8)).map fun k => (128 * k, min 128 e1))
      ++ [(4096, 2 * max ((e0 + 63) / 64) ((e1 + 63) / 64))]
  | 2 => (List.range ((e0 + 31) / 32)).map fun g => (256 * g, min 256 (2 * e1))
  | _ => []
/-- The scale bytes are written to the share. -/
def putSpans (at_ : Nat) : List (Nat × Nat) → List Byte → Sparse Byte → Sparse Byte
  | [], _, m => m
  | (o, n) :: rest, bs, m => putSpans at_ rest (bs.drop n) (writeBytes m (at_ + o) (bs.take n))

/-- A dimension counts once when its stride is 0: its elements lie at one place. -/
def spread (e st : Nat) : Nat := if st = 0 then min e 1 else e
/-- Every element of a region, and its scales, lie wholly inside the share (R186, R205). -/
def Layout.insideShare (l : Layout) (lmem : Nat) : Bool :=
  let e := l.exts
  let top := l.off (e.1 - 1) (e.2.1 - 1) (e.2.2.1 - 1) (e.2.2.2 - 1)
  let w := ewBytes l.ew
  (if l.perm = 0 then decide (l.base + top + w ≤ lmem)
   else decide (l.base + top < lmem) &&
    ({ l with ext := some (e.1, spread e.2.1 l.str1, spread e.2.2.1 l.str2, spread e.2.2.2 l.str3) } : Layout).rows.all fun i =>
      (List.range e.1).all fun i0 => decide (l.addr i0 i.1 i.2.1 i.2.2 + w ≤ lmem))
    && (scaleSpans l).all fun p => decide (l.scloff + p.1 + p.2 ≤ lmem)
/-- The layout of a region entry from its shape record; none when the record is invalid, its EW is not the entry's, or the
region does not lie wholly inside the share (R186, R191, R192). -/
def Region.layout (r : Region) (lmem y : Nat) : Option Layout :=
  match shapeLayout y r.localEw r.loff with
  | none => none
  | some l => if shapeEw y = r.ew && l.insideShare lmem then some l else none

/-- The sides of publish entries for reads or writes, from those for reads: a write takes the other side (R399). -/
def sidesFor (store : Bool) (sides : List (Nat × Bool)) : List (Nat × Bool) :=
  if store then sides.map fun p => (p.1, !p.2) else sides
/-- An access of the dispatcher for a block's regions: at package scope (R410). The block keeps the visible side of each
publish entry that its step has met (R400). -/
def regionAcc (x : Block) (b : Nat) (store : Bool) : Acc :=
  { die := x.die, slot := x.slot, rd := !store, wr := store, pkg := true,
    use := if store then .hidden else .visible, sides := sidesFor store x.sides, owner := 2 * b }
/-- The sides that an access has taken once every page of the ranges given has been met (R400). -/
def takeSides (s : State) (a : Acc) (rs : List (Nat × Nat)) : Acc :=
  (rs.flatMap fun r => pieces r.1 r.2 []).foldl (fun a q => match resolve s a q.va with
    | .ok _ (_, a) => a
    | _ => a) a
/-- The state and the access of a block's regions with the sides that the ranges give it, which the block keeps from the
first access on (R400). -/
def State.keepSides (s : State) (b : Nat) (store : Bool) (rs : List (Nat × Nat)) : State × Acc :=
  match s.block b with
  | none => (s, { die := 0, slot := 0 })
  | some x =>
    let a := takeSides s (regionAcc x b store) rs
    (s.setBlock b { x with sides := sidesFor store a.sides }, a)
/-- Cause 0xA1 of a region entry (R345). -/
def regionTrap (j : Nat) : Trap := { code := 0xA1, info := j }
/-- The layout of a region entry, from its shape record as it stands (R186, R193), checked like at the launch. -/
def regionLayout (s : State) (b lmem j : Nat) (r : Region) : Got Layout :=
  let (s, a) := s.keepSides b false [(r.shape, 192)]
  (s.gread a r.shape 192).bind fun s (bs, _) =>
    match r.layout lmem (bytesToNat bs) with
    | some l => .ok s l
    | none => .fail s (regionTrap j)

/-! ### Staging (R349, R352) -/

/-- One entry is staged: its elements, then its scales. -/
def stageEntry (s : State) (b j : Nat) (r : Region) : Got Unit :=
  match s.block b with
  | none => .ok s ()
  | some x =>
    (regionLayout s b x.r.lmem j r).bind fun s l =>
      let n := rowBytes r.ew l.exts.1
      let rows := l.rows.map fun i => (l.rowVa (r.va x.index) i, n)
      let scales := (scaleSpans l).map fun p => (l.scva + p.1, p.2)
      let (s, a) := s.keepSides b false (rows ++ scales)
      (s.greadAll a rows).bind fun s (bs, _) => (s.greadAll a scales).bind fun s (sc, _) =>
        let m := putSpans l.scloff (scaleSpans l) sc (stageRows l r l.rows bs x.share)
        .ok ((s.forget (2 * b)).setBlock b { x with share := m, sides := a.sides, phase := .staging (j + 1) }) ()
/-- Entries are staged in entry order; a chained one waits for the commit frontier (R352). -/
def stageFrom (b : Nat) : List (Nat × Region) → State → Got Unit
  | [], s => .ok s ()
  | (j, r) :: rest, s =>
    match s.block b with
    | none => .ok s ()
    | some x =>
      let s := s.setBlock b { x with phase := .staging j }
      let f := ((s.grid x.grid).map (·.frontier)).getD 0
      if !r.inn then stageFrom b rest s
      else if x.r.chained r ∧ f ≠ x.index then .wait s
      else (stageEntry s b j r).bind fun s _ => stageFrom b rest s
/-- The record of a cause of a launch's records: it names the grid and no block (R345). -/
def launchFault (die : Nat) (t : Trap) (g : Grid) : FaultRec := { dieRec die t with grid := g.va }
/-- A fault of staging or draining (R345, R350, R351, R371): a task block is held for a translation fault. -/
def regionFault (s : State) (b j : Nat) (drain : Bool) (t : Trap) : State :=
  match s.block b with
  | none => s
  | some x =>
    let place := j + (if drain then 32 else 0)
    if t.code = 0xA3 && !x.r.res then
      s.holdBlock b none { t with code := 0xA2, info := place + t.info / 256 % 128 * 256 } place
    else match s.grid x.grid with
      | some g => if t.code = 0xA1 then s.fatal x.slot (launchFault x.die t g) else s.fatalBlock b 255 0 t
      | none => s.fatalBlock b 255 0 t
/-- A crew at its creation (R15, R104): every lane live at the entry. -/
def freshCrew (r : LaunchRec) (c quad : Nat) : Crew :=
  { vg := r.vg, mg := r.mg, quad := quad, pcv := allLanes.foldl (fun m l => setAt 0 m l r.entry) [],
    tid := allLanes.foldl (fun m l => setAt 0 m l (32 * c + l)) [] }
/-- The block starts (R182, R185, R349): its crews are created in the quadrants they were bound to. -/
def Block.start (x : Block) : Block :=
  { x with phase := .running, teams := x.r.teams, sides := [], mx := {}, triggered := false, ctab := [], bank := false, spill := [],
           crews := x.crews.map fun p => (p.1, freshCrew x.r p.1 p.2.quad) }
/-- The start of a block of a dependant observes what its producers have released (R354): its die drops the context's
copies of DC lines, as an acquire at package scope does (R409). -/
def State.startAcquire (s : State) (x : Block) : State :=
  if (s.grid x.grid).any fun g => !g.deps.isEmpty then s.selfInvalidate x.die (s.ctx x.slot).asid else s
/-- The entry at which a block's staging stands. -/
def Block.stageAt (x : Block) : Option Nat :=
  match x.phase with
  | .placed => some 0
  | .staging j => some j
  | _ => none
/-- What a step that waits has done counts as a step when the block has moved on or a request has gone out. -/
def ifMoved (s s' : State) (b : Nat) (m : String) : Out :=
  if s'.fresh = s.fresh ∧ (s'.block b).map (·.phase) = (s.block b).map (·.phase) then notEnabled m
  else .next s'
/-- STAGING_COMPLETE (R349): entries are staged as far as the frontier allows; after the last one the block starts. -/
def execStagingComplete (b : Nat) (s : State) : Out :=
  match s.block b with
  | none => notEnabled "STAGING_COMPLETE"
  | some x =>
    match x.stageAt with
    | none => notEnabled "STAGING_COMPLETE"
    | some j =>
      if x.hold.isSome ∨ x.asked ∨ (s.ctx x.slot).state ≠ .live then notEnabled "STAGING_COMPLETE"
      else
        let x := { x with errs := x.errs.filter fun e => e.place ≠ .share && e.place ≠ .spill }
        match stageFrom b ((numbered x.r.regions).drop j) (s.setBlock b x) with
        | .ok s _ => .next (match s.block b with
          | none => s
          | some x => (s.startAcquire x).setBlock b x.start)
        | .wait s' => ifMoved s s' b "STAGING_COMPLETE"
        | .fail s t => .next (regionFault s b (((s.block b).bind Block.stageAt).getD 0) false t)

/-! ### Draining (R349, R352) -/

/-- One entry is drained. -/
def drainEntry (s : State) (b j : Nat) (r : Region) : Got Unit :=
  match s.block b with
  | none => .ok s ()
  | some x =>
    (regionLayout s b x.r.lmem j r).bind fun s l =>
      let spans := l.rows.flatMap fun i => (List.range l.exts.1).map fun i0 =>
        (l.addr i0 i.1 i.2.1 i.2.2, ewBytes l.ew)
      let (s, bad) := s.meetRead b 255 .share spans
      if bad then .wait s
      else
        let rows := l.rows.map fun i => (l.rowVa (r.va x.index) i, drainRow l r x.share i)
        let (s, a) := s.keepSides b true (rows.map fun p => (p.1, p.2.length))
        (s.gwriteAll a rows).bind fun s _ => .ok (s.forget (2 * b)) ()
/-- Entries are drained in entry order, the chained or the others. -/
def drainFrom (b : Nat) (chained : Bool) : List (Nat × Region) → State → Got Unit
  | [], s => .ok s ()
  | (j, r) :: rest, s =>
    match s.block b with
    | none => .ok s ()
    | some x =>
      let s := s.setBlock b { x with phase := .draining j chained }
      if r.out && x.r.chained r = chained then (drainEntry s b j r).bind fun s _ => drainFrom b chained rest s
      else drainFrom b chained rest s
/-- A waiter is a block or one of its crews. -/
def ownedBy (b owner : Nat) : Bool := owner = 2 * b || (owner % 2 = 1 && owner / 128 = b)
/-- Every object that work of a block stands in goes: copies, tokens, atomics, jobs, collectives, sends. -/
def State.dropWork (s : State) (b : Nat) : State :=
  { s with copies := s.copies.filter fun p => p.2.blk ≠ b, tokens := s.tokens.filter fun t => t.blk ≠ b,
           olds := s.olds.filter fun o => o.blk ≠ b,
           fars := s.fars.filter fun p => p.2.blk ≠ b, slsqs := s.slsqs.filter fun p => p.2.blk ≠ b,
           opts := s.opts.filter fun p => p.2.blk ≠ b, colls := s.colls.filter fun p => p.2.blk ≠ b,
           sends := s.sends.filter fun p => p.2.blk ≠ b,
           hostReqs := s.hostReqs.filter fun p => !ownedBy b p.2.owner,
           d2d := s.d2d.filter fun p => !(p.2.ask && ownedBy b p.2.owner) }
/-- The block is done: its footprint is freed and the frontier may pass it (R349, R352). -/
def State.endBlock (s : State) (b : Nat) (x : Block) : State :=
  let s := (s.dropWork b).dropBlock b
  match s.grid x.grid with
  | none => s
  | some g => (s.setGrid x.grid { g with fin := setAt false g.fin x.index true }).commit x.grid
/-- The chained entries that a block drains come after its others, once F has reached it (R352). -/
def drainAll (b j : Nat) (chained : Bool) (x : Block) (s : State) : Got Unit :=
  let es := numbered x.r.regions
  (drainFrom b chained (es.drop j) s).bind fun s _ =>
    if chained then .ok s ()
    else
      let s := s.setBlock b { (s.block b).getD x with phase := .draining 0 true }
      let f := ((s.grid x.grid).map (·.frontier)).getD 0
      if (es.any fun p => p.2.out && x.r.chained p.2) ∧ f ≠ x.index then .wait s
      else drainFrom b true es s
/-- DRAIN_COMPLETE (R349): output regions are written to memory; after the last one the block is done. -/
def execDrainComplete (b : Nat) (s : State) : Out :=
  match s.block b with
  | none => notEnabled "DRAIN_COMPLETE"
  | some x =>
    match x.phase with
    | .draining j chained =>
      let f := ((s.grid x.grid).map (·.frontier)).getD 0
      let waits := chained && (x.r.regions.any fun r => r.out && x.r.chained r) && f ≠ x.index
      if x.hold.isSome ∨ (s.ctx x.slot).state ≠ .live ∨ waits then notEnabled "DRAIN_COMPLETE"
      else match drainAll b j chained x s with
        | .ok s _ => .next (s.endBlock b x)
        | .wait s' =>
          if (s'.ctx x.slot).state ≠ .live then .next s' else ifMoved s s' b "DRAIN_COMPLETE"
        | .fail s t =>
          let j := match (s.block b).map (·.phase) with
            | some (.draining j _) => j
            | _ => 0
          .next (regionFault s b j true t)
    | _ => notEnabled "DRAIN_COMPLETE"

/-! ### The completion of a launch (R342) -/

/-- An access of the dispatcher for a context; `n` tells the waiters of a context apart. -/
def dispAcc (slot n : Nat) (store : Bool) : Acc :=
  { die := 0, slot := slot, rd := !store, wr := store, pkg := true,
    use := if store then .hidden else .visible, owner := 2 * (2 ^ 64 + 64 * slot + n) }
/-- The bytes of a completion word (R342): status 1 DONE, 2 ENDED, 3 REFUSED. -/
def completionBytes (seq status : Nat) : List Byte := natToBytes 8 (seq % 2 ^ 32 + 2 ^ 32 * status)
/-- A completion word is written for a waiter; a context-fatal failure of the write falls on the context. -/
def completionWord (s : State) (slot owner va seq status : Nat) : Got Unit :=
  (s.gwrite { dispAcc slot 1 true with owner := owner } va (completionBytes seq status)).bind fun s _ =>
    .ok (s.forget owner) ()
/-- The release at system scope that comes before a completion word (R342, R408): dirty bytes of both dies set out. -/
def State.systemRelease (s : State) (asid : Nat) : State × Bool :=
  let s := (s.writeThrough 0 asid).writeThrough 1 asid
  (s, s.allAcked 0 asid && s.allAcked 1 asid)
/-- LAUNCH_COMPLETION (R342): every block is done and every write performed; the completion word is written, and the
completion vector sent when IRQ asks for it. -/
def execLaunchCompletion (grid : Nat) (s : State) : Out :=
  match s.grid grid with
  | none => notEnabled "LAUNCH_COMPLETION"
  | some g =>
    let x := s.ctx g.slot
    if !g.checked ∨ g.complete ∨ g.fin.length < g.r.nblk ∨ x.state ≠ .live then notEnabled "LAUNCH_COMPLETION"
    else
      let (s', ok) := s.systemRelease x.asid
      if !ok then ifAsked s s' "LAUNCH_COMPLETION"
      else match completionWord s' g.slot (2 * grid) g.compl g.seq 1 with
        | .ok s _ =>
          let s := (s.setGrid grid { g with complete := true }).settleDeps
          .next (if g.irq then s.sendVec x.cvec else s)
        | .wait s' => ifAsked s s' "LAUNCH_COMPLETION"
        | .fail s t => .next (s.fatalDie 0 g.slot t)

end Sys2Proof.Machine
end

