-- ==== Sys2Proof/Machine/SaveArea.lean ====
section
/-! DEFINITION. The core save area (R33, R34, R196 to R198, R225): where its sections lie, the bytes that a save writes,
and the checks and the reading of a restore. -/

namespace Sys2Proof.Machine

/-! ### Sections (R196) -/

/-- CRS: the space of one crew record. -/
def LaunchRec.crs (r : LaunchRec) : Nat := 1024 * (1 + r.vgc + r.mgc)
/-- L: the share. -/
def LaunchRec.saveL (r : LaunchRec) : Nat := 256 + r.ncrew * r.crs
/-- The bytes of the spill area. -/
def LaunchRec.spillBytes (r : LaunchRec) : Nat := 32 * r.ncrew * r.spill
/-- S: the spill area. -/
def LaunchRec.saveS (r : LaunchRec) : Nat := r.saveL + r.lmem
/-- T: the tiles. -/
def LaunchRec.saveT (r : LaunchRec) : Nat := r.saveS + (r.spillBytes + 255) / 256 * 256
/-- P: the RPCV section. -/
def LaunchRec.saveP (r : LaunchRec) : Nat := if r.isMatrix then r.saveT + 790528 else r.saveT
/-- I: the thread-index section. -/
def LaunchRec.saveI (r : LaunchRec) : Nat := r.saveP + 128 * r.ncrew
/-- The size of a save area. -/
def LaunchRec.saveSize (r : LaunchRec) : Nat := r.saveI + 64 * r.ncrew
/-- The array state (R225). -/
def LaunchRec.saveA (r : LaunchRec) : Nat := r.saveT + 655360
/-- The bytes of the array state. -/
def arrayBytes : Nat := 135168

/-- Numbers as bytes of one width, one after another. -/
def packWords (n : Nat) (xs : List Nat) : List Byte := xs.flatMap (natToBytes n)
/-- The numbers of `n` bytes at the head of a list, `k` of them. -/
def unpackWords (n : Nat) : Nat → List Byte → List Nat
  | 0, _ => []
  | k + 1, bs => bytesToNat (bs.take n) :: unpackWords n k (bs.drop n)
/-- Numbers as a table in canonical form, keys from 0. -/
def tableOf {α : Type} [DecidableEq α] (zr : α) (f : Nat → α) (xs : List Nat) : Sparse α :=
  ((List.range xs.length).zip xs).filterMap fun p => if f p.2 = zr then none else some (p.1, f p.2)
/-- Bytes as a memory in canonical form from address 0. -/
def memOf (bs : List Byte) : Sparse Byte :=
  ((List.range bs.length).zip bs).filter fun p => p.2 ≠ 0
/-- A part of a list of bytes. -/
def slice (bs : List Byte) (o n : Nat) : List Byte := (bs.drop o).take n
/-- The number that a part of a list of bytes stands for. -/
def sliceNat (bs : List Byte) (o n : Nat) : Nat := bytesToNat (slice bs o n)
/-- Some byte of a part of a list is not zero. -/
def dirtySlice (bs : List Byte) (o n : Nat) : Bool := (slice bs o n).any fun x => x ≠ 0

/-! ### A crew record (R33, R34) -/

/-- A cause as TRAPC holds it (R169). -/
def trapcOf (t : Trap) : Nat := t.code + 256 * (t.info % 2 ^ 24)
/-- The header of a crew record (R34). -/
def crewHeader (x : Block) (w : Crew) : Nat :=
  let held := match w.held with
    | none => 0
    | some l => 2 ^ 400 * trapcOf l.trap + 2 ^ 432 * l.trap.pc.toNat + 2 ^ 464 * l.trap.lanes.toNat + 2 ^ 497
  w.vg + 2 ^ 4 * w.mg + 2 ^ 7 * w.fpcp.toNat + 2 ^ 16 * (w.ppend &&& 0xFE).toNat + 2 ^ 32 * w.live.toNat
    + 2 ^ 64 * w.vpend.toNat + 2 ^ 128 * w.spend.toNat + 2 ^ 192 * w.mpend.toNat + 2 ^ 224 * w.fpc.toNat
    + 2 ^ 256 * (w.mode x.r).toNat + 2 ^ 288 * w.trapc.toNat + 2 ^ 320 * w.trappc.toNat + 2 ^ 352 * w.trapm.toNat
    + held + 2 ^ 496 * w.inTrap.toNat + 2 ^ 498 * (w.tokc % 1024)
/-- The held items of a crew record (R34). -/
def heldItems (w : Crew) : List Byte :=
  let late := match w.late with
    | none => (0, 0)
    | some l => (trapcOf l.trap, l.trap.lanes.toNat)
  packWords 4 [late.1, late.2, w.hflags.toNat + 32 * w.hclamp.toNat] ++ List.replicate 20 0
/-- The bytes of a crew record (R33). -/
def crewRecord (x : Block) (w : Crew) : List Byte :=
  natToBytes 64 (crewHeader x w)
    ++ packWords 4 (allLanes.map fun l => (w.pcOf l).toNat)
    ++ packWords 4 ((List.range 8).map fun k => (w.rp k).toNat)
    ++ heldItems w
    ++ packWords 4 ((List.range 64).map fun k => (w.rs k).toNat)
    ++ packWords 16 (allLanes.map fun l => (getAt 0 w.strm l).toNat)
    ++ packWords 4 ((List.range (256 * w.vg)).map fun k => (getAt 0 w.v k).toNat)
    ++ packWords 8 ((List.range (128 * w.mg)).map fun k => (getAt 0 w.m k).toNat)
/-- The record of a crew that has ceased to exist: no live lane, the declared granules, everything else zero. -/
def goneRecord (r : LaunchRec) : List Byte := natToBytes 64 (r.vg + 16 * r.mg) ++ List.replicate 960 0
/-- A record's header or held items break a check of R34. -/
def crewRecordBad (r : LaunchRec) (bs : List Byte) : Bool :=
  let h := sliceNat bs 0 64
  let f (o n : Nat) : Nat := bitsOf h o n
  let lc := sliceNat bs 0xE0 4
  f 508 4 ≠ 0 || f 384 16 ≠ 0 || f 208 16 ≠ 0 || f 24 8 ≠ 0 || f 8 8 ≠ 0 || f 16 1 ≠ 0
    || f 229 3 ≠ 0 || f 237 19 ≠ 0 || f 257 7 ≠ 0 || f 266 22 ≠ 0
    || f 0 4 = 0 || decide (r.vgc < f 0 4) || decide (r.mgc < f 4 3)
    || (f 497 1 = 1 && (f 496 1 = 0 || f 400 8 = 0))
    || (lc % 256 = 0 && (lc ≠ 0 || sliceNat bs 0xE4 4 ≠ 0))
    || (lc % 256 ≠ 0 && dispOf (lc % 256) ≠ .program)
    || decide (64 ≤ sliceNat bs 0xE8 4) || dirtySlice bs 0xEC 20
/-- RPCV of a crew that is not in its trap routine is not zero (R196). -/
def rpcvBad (bs rpcv : List Byte) : Bool := bitsOf (sliceNat bs 0 64) 496 1 = 0 && rpcv.any fun x => x ≠ 0
/-- A cause from a word that holds it as TRAPC does. -/
def trapOfWord (x : Nat) (pc lanes : Word) : Trap :=
  { code := x % 256, info := x / 256, pc := pc, lanes := lanes, next := pc }
/-- The words of a table of lanes. -/
def word32 (x : Nat) : Word := BitVec.ofNat 32 x
/-- The crew that a restore makes of a record, its RPCV and its thread indices (R33, R34, R196). A late cause that the park of a
trap entry held is held again, with the TRAPPC that the die kept (R171). The record has no place for a crew's last issue: a
restored crew counts as one that has never issued (R180; DESIGN CHOICE, log 109). -/
def crewOfRecord (quad : Nat) (y : Stay) (bs rpcv tids : List Byte) : Crew :=
  let h := sliceNat bs 0 64
  let f (o n : Nat) : Nat := bitsOf h o n
  let live : Word := BitVec.ofNat 32 (f 32 32)
  let vg := f 0 4
  let mg := f 4 3
  let lc := sliceNat bs 0xE0 4
  let hold := sliceNat bs 0xE8 4
  let lanes (n : Nat) (bs : List Byte) : List Nat := unpackWords n 32 bs
  let mask (xs : List Nat) : List Nat := ((List.range 32).zip xs).map fun p => if inMask live p.1 then p.2 else 0
  let w : Crew :=
    { vg := vg, mg := mg, quad := quad, live := live, pcv := tableOf 0 word32 (mask (lanes 4 (slice bs 0x40 128))),
      v := tableOf 0 word32 (unpackWords 4 (256 * vg) (bs.drop 0x400)),
      m := tableOf 0 (BitVec.ofNat 64) (unpackWords 8 (128 * mg) (bs.drop (0x400 + 1024 * vg))),
      s := tableOf 0 word32 (unpackWords 4 64 (slice bs 0x100 256)),
      p := tableOf 0 word32 (0 :: unpackWords 4 7 (slice bs 0xC4 28)),
      strm := tableOf 0 (BitVec.ofNat 128) (lanes 16 (slice bs 0x200 512)),
      tid := tableOf 0 id (mask (lanes 2 tids)), fpc := word32 (f 224 32), trapc := word32 (f 288 32),
      trappc := word32 (f 320 32), trapm := word32 (f 352 32), inTrap := f 496 1 = 1,
      rpcv := if f 496 1 = 1 then tableOf 0 word32 (mask (lanes 4 rpcv)) else [],
      held := if f 497 1 = 1 then
          some ⟨0, trapOfWord (f 400 32) (word32 (f 432 32)) (word32 (f 464 32))⟩
        else if lc = 0 then none else y.heldPc.map fun pc => ⟨0, trapOfWord lc pc (word32 (sliceNat bs 0xE4 4))⟩,
      late := if lc = 0 ∨ y.heldPc.isSome then none else some ⟨0, trapOfWord lc 0 (word32 (sliceNat bs 0xE4 4))⟩,
      hflags := BitVec.ofNat 5 (hold % 32), hclamp := bitOf hold 5, vpend := BitVec.ofNat 64 (f 64 64),
      spend := BitVec.ofNat 64 (f 128 64), mpend := BitVec.ofNat 16 (f 192 16),
      ppend := BitVec.ofNat 8 (f 16 8), fpcp := f 7 1 = 1, tokc := f 498 10, hfaults := y.hfaults, wait := y.wait,
      issues := y.issues }
  w.setMode (word32 (f 256 32))

/-! ### The array state (R225) -/

/-- A weight slot's 16 bytes. -/
def slotEntry (w : WSlot) : List Byte :=
  if w.valid then packWords 1 [mfmtCode w.fmt, w.klen / 16 - 1, w.nlen - 1, w.zw] ++ List.replicate 12 0
  else List.replicate 16 0
/-- The words of a queued command: its main word and its extension words. -/
def cmdWords (i : Instr) : List Byte := (encode i ++ List.replicate 12 0).take 12
/-- A queue entry of 1,024 bytes. For a command that uses no register a or b, the field of that register is 0 and the
entry holds s0 to s3 (DESIGN CHOICE, log 96). -/
def queueEntry (q : MCmd) : List Byte :=
  cmdWords q.i ++ packWords 1 [q.crew + 64 * q.streamer.toNat, 0, 0, 0]
    ++ packWords 4 ((List.range 4).map fun k => q.av.getD k 0) ++ packWords 4 ((List.range 4).map fun k => q.bv.getD k 0)
    ++ List.replicate 464 0 ++ packWords 4 ((List.range 128).map fun k => q.rows.getD k 0)
/-- The array state of a matrix block. -/
def arrayState (m : Matrix) : List Byte :=
  let head := m.queue.head?
  packWords 4 [m.pcnt.toNat, m.msw.toNat] ++ packWords 1 [m.w0.valid.toNat + 2 * m.w1.valid.toNat, 0]
    ++ natToBytes 2 (((List.range 4).map fun k => 2 ^ (3 * k) * m.mode k).sum)
    ++ natToBytes 4 (match head with
      | some q => if q.begun then q.g + 16 else 0
      | none => 0)
    ++ natToBytes 1 m.queue.length ++ List.replicate 15 0 ++ slotEntry m.w0 ++ slotEntry m.w1
    ++ packWords 2 ((List.range 16).map fun k => (getAt 0 m.w0.ct k).toNat)
    ++ packWords 2 ((List.range 16).map fun k => (getAt 0 m.w1.ct k).toNat)
    ++ List.replicate 128 0
    ++ m.queue.flatMap queueEntry ++ List.replicate (1024 * (64 - m.queue.length)) 0
    ++ readBytes m.w0.wt 0 16384 ++ readBytes m.w0.sc 0 5120 ++ readBytes m.w1.wt 0 16384 ++ readBytes m.w1.sc 0 5120
    ++ List.replicate 26368 0
/-- The fields of a slot break the limits of R210. FMT, KQ and NLEN of a slot whose VALID bit is 0 are not checked, and its bytes
are dropped (DESIGN CHOICE, log 65: the spec does not say). -/
def slotBad (valid : Bool) (bs : List Byte) : Bool :=
  let kl := 16 * (sliceNat bs 1 1 + 1)
  dirtySlice bs 4 12 || (valid && (match mfmtOf (sliceNat bs 0 1) with
    | none => true
    | some f => decide (mfmtKD f < kl) || (f ≠ .f64 && kl % 32 ≠ 0) || decide (128 < sliceNat bs 2 1 + 1)
      || (f = .mw && decide (64 < sliceNat bs 2 1 + 1))))
/-- The slot that a restore makes. -/
def slotOfEntry (valid : Bool) (bs ct wt sc : List Byte) : WSlot :=
  if valid then
    { valid := true, fmt := (mfmtOf (sliceNat bs 0 1)).getD .e2m1, klen := 16 * (sliceNat bs 1 1 + 1),
      nlen := sliceNat bs 2 1 + 1, zw := sliceNat bs 3 1, wt := memOf wt, sc := memOf sc,
      ct := tableOf 0 (BitVec.ofNat 16) (unpackWords 2 16 ct) }
  else {}
/-- The zero fields and limits of the array state, apart from its queue entries, are broken. An accumulator mode of 5 to 7 and a
set bit of MODES[15:12] count as broken, though no rule lists the check (DESIGN CHOICE, log 65). -/
def arrayBad (bs : List Byte) : Bool :=
  let v := sliceNat bs 8 1
  let md := sliceNat bs 0xA 2
  let n := sliceNat bs 0x10 1
  let msw := sliceNat bs 4 4
  decide (4 ≤ v) || sliceNat bs 9 1 ≠ 0 || decide (4096 ≤ md)
    || (List.range 4).any (fun k => decide (4 < bitsOf md (3 * k) 3))
    || decide (32 ≤ sliceNat bs 0xC 4) || decide (64 < n) || dirtySlice bs 0x11 15
    || slotBad (bitOf v 0) (slice bs 0x20 16) || slotBad (bitOf v 1) (slice bs 0x30 16)
    || dirtySlice bs 0x80 128 || dirtySlice bs (0x100 + 1024 * n) (1024 * (64 - n)) || dirtySlice bs 0x1A900 26368
    || bitsOf msw 16 16 ≠ 0 || bitsOf msw 6 2 ≠ 0
/-- The array without its queue. -/
def matrixOfState (x : Block) (taf : Nat) (bs : List Byte) : Matrix :=
  let v := sliceNat bs 8 1
  { w0 := slotOfEntry (bitOf v 0) (slice bs 0x20 16) (slice bs 0x40 32) (slice bs 0x10100 16384) (slice bs 0x14100 5120),
    w1 := slotOfEntry (bitOf v 1) (slice bs 0x30 16) (slice bs 0x60 32) (slice bs 0x15500 16384) (slice bs 0x19500 5120),
    tiles := x.mx.tiles, accs := x.mx.accs, amode := tableOf 0 id ((List.range 4).map fun k => bitsOf (sliceNat bs 0xA 2) (3 * k) 3),
    tdirty := BitVec.ofNat 8 taf, adirty := BitVec.ofNat 4 (taf / 256), pcnt := word32 (sliceNat bs 0 4),
    msw := word32 (sliceNat bs 4 4) }
/-- A matrix command. -/
def isMatrixCmd (i : Instr) : Bool := roleOf i = 2
/-- The command of a queue entry; none when its words or its zero bytes are not those of one. -/
def cmdOfEntry (bs : List Byte) : Option MCmd :=
  match decode (bs.take 12) with
  | .ok i len =>
    if isMatrixCmd i && !(dirtySlice bs len (12 - len)) && decide (sliceNat bs 12 1 < 128) && !(dirtySlice bs 13 3)
        && !(dirtySlice bs 0x30 464) && ((i matches .mxg _) || !(dirtySlice bs 0x200 512)) then
      some { i := i, crew := sliceNat bs 12 1 % 64, streamer := decide (64 ≤ sliceNat bs 12 1),
             av := unpackWords 4 4 (slice bs 0x10 16), bv := unpackWords 4 4 (slice bs 0x20 16),
             rows := if i matches .mxg _ then unpackWords 4 128 (slice bs 0x200 512) else [] }
    else none
  | _ => none
/-- The head of a restored queue stands at the step where it stopped, from the word g0 of the array state (R224, R225). -/
def resumed (g0 k : Nat) (q : MCmd) : MCmd :=
  if k = 0 && bitOf g0 4 then { q with begun := true, g := g0 % 16 } else q
/-- The restored block with the queue of its array state: each entry is checked by R207 against what the entries before
it leave behind; none when one fails. `old` holds what the die kept of the entries beside their save: the number of the
issue and the code-table copy. An entry of the streamer whose check fails keeps the cause attached (R209). -/
def queueOfState (b g0 : Nat) (old : List MCmd) : List (Nat × List Byte) → Block → State → Got (Option Block)
  | [], x, s => .ok s (some x)
  | (k, bs) :: rest, x, s =>
    match cmdOfEntry bs with
    | none => .ok s none
    | some q =>
      let q := resumed g0 k q
      (if usesLayout q.i then s.layoutOf x q.av (2 * b) else Got.ok s (some {})).bind fun s l =>
        let fail := matrixCheck x q.i l (q.bv.getD 0 0) q.rows
        let o := old.getD k q
        if fail.isSome && !q.streamer then .ok s none
        else queueOfState b g0 old rest
          (x.mxEnter { q with lay := l.getD {}, fail := fail.getD 0, order := o.order, ct := o.ct }) s

/-! ### The block header (R197) and the whole area -/

/-- TAF: the flags of tiles and accumulators. -/
def tafOf (m : Matrix) : Nat := m.tdirty.toNat + 256 * m.adirty.toNat + 4096 * m.tiu.toNat + 1048576 * m.aiu.toNat
/-- The members of the team slots. -/
def teamWords (x : Block) : List Nat := (List.range 8).map fun k => (x.team k).members.toNat
/-- The block header. -/
def blockHeader (x : Block) : List Byte :=
  let mat := x.r.isMatrix
  packWords 1 [x.r.vg, x.r.mg, x.r.ncrew, x.triggered.toNat + 2 * x.bank.toNat + 4 * mat.toNat]
    ++ packWords 4 [x.r.lmem, x.r.spill, if mat then tafOf x.mx else 0] ++ List.replicate 16 0
    ++ packWords 8 (teamWords x) ++ packWords 2 ((List.range 32).map fun k => (getAt 0 x.ctab k).toNat)
    ++ List.replicate 96 0
/-- A tile or accumulator is written: DIRTY or IU (R195). -/
def tileSaved (taf k : Nat) : Bool := bitOf taf k || bitOf taf (12 + k)
/-- The same for an accumulator. -/
def accSaved (taf k : Nat) : Bool := bitOf taf (8 + k) || bitOf taf (20 + k)
/-- RPCV of a crew: zero unless it is in its trap routine. -/
def rpcvBytes (w : Crew) : List Byte :=
  packWords 4 (allLanes.map fun l => if w.inTrap && inMask w.live l then (getAt 0 w.rpcv l).toNat else 0)
/-- The thread indices of a crew: zero for an exited lane. -/
def tidBytes (w : Crew) : List Byte := packWords 2 (allLanes.map fun l => if inMask w.live l then w.tidOf l else 0)
/-- The sections that a save writes: offsets with bytes (R196). -/
def saveSections (x : Block) : List (Nat × List Byte) :=
  let r := x.r
  let taf := tafOf x.mx
  let crews := (List.range r.ncrew).flatMap fun k =>
    match look x.crews k with
    | some w => [(256 + k * r.crs, crewRecord x w), (r.saveP + 128 * k, rpcvBytes w), (r.saveI + 64 * k, tidBytes w)]
    | none => [(256 + k * r.crs, goneRecord r), (r.saveP + 128 * k, List.replicate 128 0),
               (r.saveI + 64 * k, List.replicate 64 0)]
  let mx := if r.isMatrix then
      (((List.range 8).filter (tileSaved taf)).map fun k => (r.saveT + 16384 * k, readBytes x.mx.tiles (16384 * k) 16384))
        ++ (((List.range 4).filter (accSaved taf)).map fun k =>
          (r.saveT + 131072 * (k + 1), packWords 8 ((List.range 16384).map fun j => (getAt 0 x.mx.accs (16384 * k + j)).toNat)))
        ++ [(r.saveA, arrayState x.mx)]
    else []
  [(0, blockHeader x)] ++ crews ++ [(r.saveL, readBytes x.share 0 r.lmem), (r.saveS, readBytes x.spill 0 r.spillBytes)]
    ++ mx
/-- The header breaks a check of R198. -/
def headerBad (x : Block) (bs : List Byte) : Bool :=
  let r := x.r
  let fl := sliceNat bs 3 1
  let taf := sliceNat bs 0xC 4
  sliceNat bs 0 1 ≠ r.vg || sliceNat bs 1 1 ≠ r.mg || sliceNat bs 2 1 ≠ r.ncrew || sliceNat bs 4 4 ≠ r.lmem
    || sliceNat bs 8 4 ≠ r.spill || decide (8 ≤ fl) || decide (2 ^ 24 ≤ taf) || dirtySlice bs 0x10 16
    || dirtySlice bs 0xA0 96 || (!r.isMatrix && (taf ≠ 0 || bitOf fl 2))
    || (List.range 8).any fun k =>
        let m := sliceNat bs (0x20 + 8 * k) 8
        decide (2 ^ r.ncrew ≤ m) || (m ≠ 0 && !(r.teams.getD k {}).valid)
/-- The crews whose thread indices break a check of R198: `crews` gives for each crew its live lanes and its indices. -/
def tidsBad (ncrew : Nat) (crews : List (Nat × Word × List Nat)) : Option Nat :=
  let live (p : Nat × Word × List Nat) : List Nat :=
    ((List.range 32).filter (inMask p.2.1)).map fun l => p.2.2.getD l 0
  let bad (p : Nat × Word × List Nat) : Bool :=
    let mine := live p
    let others := (crews.filter fun q => q.1 < p.1).flatMap live
    (mine.any fun t => decide (32 * ncrew ≤ t) || others.contains t) || mine.eraseDups.length ≠ mine.length
      || ((List.range 32).any fun l => !inMask p.2.1 l && p.2.2.getD l 0 ≠ 0)
  (crews.find? bad).map (·.1)

end Sys2Proof.Machine
end

