-- ==== Sys2Proof/Machine/Dispatcher.lean ====
section
/-! DEFINITION. The block dispatcher (R344, R348, R355, R357 to R359): which grid and block come next, placement and
restore, pre-emption, the abort of a task block, the save of a resident one, and its deadline. -/

namespace Sys2Proof.Machine

/-! ### The grids that have a block to place (R344, R355) -/

/-- The blocks of a grid that wait for a place again: re-queued or saved ones. -/
def again (s : State) (gk : Nat) (g : Grid) : List Nat :=
  g.waiting ++ ((s.blocks.filter fun p => p.2.grid = gk && p.2.phase = .saved).map fun p => p.2.index)
/-- The least number of a list. -/
def leastOf (l : List Nat) : Option Nat := l.find? fun x => l.all fun y => decide (x ≤ y)
/-- The block that a grid places next (R348). -/
def nextIndex (s : State) (gk : Nat) (g : Grid) : Option Nat :=
  match leastOf (again s gk g) with
  | some i => some i
  | none => if g.next < g.r.nblk then some g.next else none
/-- A launch whose blocks have not all been dispatched (R344). -/
def Grid.undispatched (g : Grid) : Bool := !g.checked || decide (g.next < g.r.nblk)
/-- The head launch of a submission queue (R344). -/
def State.headLaunch (s : State) (slot sq : Nat) : Option (Nat × Grid) :=
  s.grids.find? fun p => p.2.slot = slot && p.2.sq = sq && p.2.undispatched
/-- A grid takes part in arbitration (R344, R355). -/
def takesPart (s : State) (gk : Nat) (g : Grid) : Bool :=
  (s.ctx g.slot).state = .live && g.checked && (nextIndex s gk g).isSome
    && (!(again s gk g).isEmpty
      || (g.deps.all (·.met) && ((s.headLaunch g.slot g.sq).map (·.1)) = some gk))
/-- The effective level (R355). -/
def effLevel (s : State) (die : Nat) (g : Grid) : Nat :=
  let age := if die = 0 then s.age0 else s.age1
  if age = 0 then g.r.prio else min 7 (g.r.prio + (s.clock - g.since) / age)
/-- A triple comes before another in ascending order. -/
def tripleBefore (a b : Nat × Nat × Nat) : Bool :=
  decide (a.1 < b.1) || (a.1 = b.1 && (decide (a.2.1 < b.2.1) || (a.2.1 = b.2.1 && decide (a.2.2 < b.2.2))))
/-- The place of a grid in the round-robin order: context slot, queue, ring order. -/
def ringPlace (gk : Nat) (g : Grid) : Nat × Nat × Nat := (g.slot, g.sq, gk)
/-- One grid comes before another in the arbitration of a die: the higher level, then the round-robin order from the
last one served (R355). -/
def arbBefore (s : State) (die : Nat) (p q : Nat × Grid) : Bool :=
  let e := effLevel s die p.2
  let f := effLevel s die q.2
  let a := ringPlace p.1 p.2
  let b := ringPlace q.1 q.2
  let after (x : Nat × Nat × Nat) : Bool := match (s.die die).served with
    | none => true
    | some t => tripleBefore t x
  decide (f < e) || (e = f && ((after a && !after b) || (after a = after b && tripleBefore a b)))
/-- Insertion of a grid in arbitration order. -/
def insertArb (s : State) (die : Nat) (p : Nat × Grid) : List (Nat × Grid) → List (Nat × Grid)
  | [] => [p]
  | q :: rest => if arbBefore s die p q then p :: q :: rest else q :: insertArb s die p rest
/-- The grids of a die's arbitration, the first to be served first. -/
def contenders (s : State) (die : Nat) : List (Nat × Grid) :=
  (s.grids.filter fun p => bitOf p.2.dieMask die && takesPart s p.1 p.2).foldl (fun t p => insertArb s die p t) []

/-! ### Placement (R23, R348) -/

/-- The cores of a die mask in scan order. -/
def coresOf (mask : Nat) : List (Nat × Nat × Nat) :=
  ([0, 1].filter (bitOf mask)).flatMap fun d => (List.range 8).flatMap fun k => (List.range 12).map fun n => (d, k, n)
/-- A core is held for a block other than the given one (R357). -/
def heldForOther (s : State) (c : Nat × Nat × Nat) (gk i : Nat) : Bool :=
  (s.die c.1).reserve.any fun r => r.1 = c.2.1 && r.2.1 = c.2.2 && !(r.2.2.1 = gk && r.2.2.2 = i)
/-- The first core on which a block fits, with the quadrants of its crews. -/
def findCore (s : State) (gk i : Nat) (r : LaunchRec) (gr : List (Nat × Nat)) :
    List (Nat × Nat × Nat) → Option ((Nat × Nat × Nat) × List Nat)
  | [] => none
  | c :: cs =>
    if heldForOther s c gk i then findCore s gk i r gr cs
    else match fitsOn (s.onCore c.1 c.2.1 c.2.2) r gr with
      | some qs => some (c, qs)
      | none => findCore s gk i r gr cs
/-- The granules of the crews of a new block. -/
def LaunchRec.granules (r : LaunchRec) : List (Nat × Nat) := List.replicate r.ncrew (r.vg, r.mg)
/-- The VA of a block's save area (R359). -/
def Grid.saveVa (g : Grid) (i : Nat) : Nat := g.saveBase + i * g.saveStride
/-- The access of a save or a restore. -/
def saveAcc (x : Block) (b : Nat) (store : Bool) : Acc := { regionAcc x b store with sides := [] }
/-- The granules that the crew records of a saved block hold (R23). -/
def savedGranules (s : State) (b : Nat) (x : Block) (g : Grid) : Got (List (Nat × Nat)) :=
  (s.greadAll (saveAcc x b false) (x.stays.map fun p => (g.saveVa x.index + 256 + p.1 * x.r.crs, 1))).bind fun s (bs, _) =>
    .ok s (bs.map fun y => (y.toNat % 16, y.toNat / 16 % 8))
/-- The core is no longer held for a block once that block is placed (R357). -/
def State.unreserve (s : State) (gk i : Nat) : State :=
  let clear (d : Die) : Die := { d with reserve := d.reserve.filter fun r => !(r.2.2.1 = gk && r.2.2.2 = i) }
  { s with die0 := clear s.die0, die1 := clear s.die1 }
/-- The grid after one of its blocks has been placed by a dispatcher (R355); the placement of its last block makes the
next LAUNCH of its queue the head launch (R344). -/
def State.servedGrid (s : State) (die gk i : Nat) : State :=
  match s.grid gk with
  | none => s
  | some g =>
    let s := s.setGrid gk { g with waiting := g.waiting.filter (· ≠ i), next := if i = g.next then i + 1 else g.next,
                                   since := s.clock }
    let s := match s.headLaunch g.slot g.sq with
      | some (h, n) => if i = g.next ∧ ringPlace gk g ≠ ringPlace h n then s.setGrid h { n with since := s.clock } else s
      | none => s
    (s.setDie die { s.die die with served := some (ringPlace gk g) }).unreserve gk i
/-- A new block takes its place (R349). -/
def placeNew (s : State) (gk i : Nat) (g : Grid) (c : Nat × Nat × Nat) (qs : List Nat) : State :=
  let (b, s) := s.take
  let crews := (List.range g.r.ncrew).map fun k => (k, freshCrew g.r k (qs.getD k 0))
  let x : Block := { slot := g.slot, grid := gk, index := i, die := c.1, cluster := c.2.1, core := c.2.2,
                     phase := .placed, r := g.r, crews := crews }
  s.setBlock b x

/-! ### Restore (R198, R359) -/

/-- Cause 0x48. -/
def badSave (who : Nat) : Trap := { code := 0x48, info := who }
/-- The crews of a restored block from the record, RPCV and thread indices of every crew index; a crew that had ceased to
exist before the save is checked and not restored. -/
def restoreCrews (x : Block) : List Nat → List Nat → List (List Byte) → Except Nat (List (Nat × Crew))
  | [], _, _ => .ok []
  | k :: ks, qs, parts =>
    let bs := parts.getD 0 []
    if crewRecordBad x.r bs ∨ rpcvBad bs (parts.getD 1 []) then .error k
    else match look x.stays k with
      | none => restoreCrews x ks qs (parts.drop 3)
      | some y =>
        match restoreCrews x ks (qs.drop 1) (parts.drop 3) with
        | .error e => .error e
        | .ok ws => .ok ((k, crewOfRecord (qs.getD 0 0) y bs (parts.getD 1 []) (parts.getD 2 [])) :: ws)
/-- The parts of a list of bytes by their lengths. -/
def splitBy : List Nat → List Byte → List (List Byte)
  | [], _ => []
  | n :: ns, bs => bs.take n :: splitBy ns (bs.drop n)
/-- The sections that a restore reads after the header: three for each crew index, share, spill area, then the flagged
tiles and accumulators and the array state. -/
def restoreSpans (x : Block) (taf : Nat) : List (Nat × Nat) :=
  let r := x.r
  ((List.range r.ncrew).flatMap fun k => [(256 + k * r.crs, r.crs), (r.saveP + 128 * k, 128), (r.saveI + 64 * k, 64)])
    ++ [(r.saveL, r.lmem), (r.saveS, r.spillBytes)]
    ++ (if r.isMatrix then
      (((List.range 8).filter (tileSaved taf)).map fun k => (r.saveT + 16384 * k, 16384))
        ++ (((List.range 4).filter (accSaved taf)).map fun k => (r.saveT + 131072 * (k + 1), 131072))
        ++ [(r.saveA, arrayBytes)] else [])
/-- The tiles and accumulators of a restored block: those that were not written are zero (R195). -/
def restoreTiles (taf : Nat) (parts : List (List Byte)) : Matrix :=
  let ts := (List.range 8).filter (tileSaved taf)
  let as := (List.range 4).filter (accSaved taf)
  let tiles := (ts.zip parts).flatMap fun p => (memOf p.2).map fun q => (16384 * p.1 + q.1, q.2)
  let accs := (as.zip (parts.drop ts.length)).flatMap fun p =>
    (tableOf (0 : DWord) (BitVec.ofNat 64) (unpackWords 8 16384 p.2)).map fun q => (16384 * p.1 + q.1, q.2)
  { tiles := tiles, accs := accs }
/-- The block that the sections of a save area give, apart from the queue of the array; or who fails (R198). -/
def restoredBlock (x : Block) (c : Nat × Nat × Nat) (qs : List Nat) (hdr : List Byte) (parts : List (List Byte)) :
    Except Nat Block :=
  let n := x.r.ncrew
  let taf := sliceNat hdr 0xC 4
  let rest := parts.drop (3 * n)
  match restoreCrews x (List.range n) qs parts with
  | .error k => .error k
  | .ok ws =>
    let live (k : Nat) : Word := BitVec.ofNat 32 (sliceNat (parts.getD (3 * k) []) 4 4)
    let tids := (List.range n).map fun k => (k, live k, unpackWords 2 32 (parts.getD (3 * k + 2) []))
    match tidsBad x.r.ncrew tids with
    | some k => .error k
    | none =>
      let ar := (parts.getLast?).getD []
      let mx0 := restoreTiles taf (rest.drop 2)
      if x.r.isMatrix && bitOf (sliceNat hdr 3 1) 2 && arrayBad ar then .error 0xFE
      else
        let fl := sliceNat hdr 3 1
        let teams := (numbered x.r.teams).map fun p => { p.2 with members := BitVec.ofNat 64 (sliceNat hdr (0x20 + 8 * p.1) 8) }
        let y : Block := { x with die := c.1, cluster := c.2.1, core := c.2.2, phase := .running, crews := ws,
                                  share := memOf (rest.getD 0 []), spill := memOf (rest.getD 1 []), teams := teams,
                                  arrive := [], ctab := tableOf 0 (BitVec.ofNat 16) (unpackWords 2 32 (hdr.drop 0x60)),
                                  bank := bitOf fl 1, triggered := bitOf fl 0, stays := [], code := [], errs := [],
                                  mx := mx0 }
        .ok (if x.r.isMatrix then
            { y with mx := if bitOf fl 2 then matrixOfState y taf ar else { mx0 with tdirty := BitVec.ofNat 8 taf, adirty := BitVec.ofNat 4 (taf / 256) } }
          else { y with mx := {} })
/-- The queue entries of an array state, with the bytes of each. -/
def queueParts (ar : List Byte) : List (Nat × List Byte) :=
  (List.range (sliceNat ar 0x10 1)).map fun k => (k, slice ar (0x100 + 1024 * k) 1024)
/-- The SLSQ jobs of a restored block that had started go on from their checkpoints and arrive at the unit now; one that
had not keeps its place (R305). -/
def State.rearrive (s : State) (b : Nat) : State :=
  { s with slsqs := s.slsqs.map fun p => if p.2.blk = b && p.2.run.isSome then (p.1, { p.2 with arrived := s.steps }) else p }
/-- A saved block is restored on a core (R198, R305, R359). Like the start of a block, the restore of a dependant's block acquires
what its producers have released, on the die it now runs on (R354). -/
def restoreBlock (s : State) (b : Nat) (x : Block) (g : Grid) (c : Nat × Nat × Nat) (qs : List Nat) : Got Unit :=
  let va := g.saveVa x.index
  let a := saveAcc x b false
  (s.gread a va 256).bind fun s (hdr, _) =>
    if headerBad x hdr then .fail s (badSave 0xFF)
    else
      let spans := restoreSpans x (sliceNat hdr 0xC 4)
      (s.greadAll a (spans.map fun p => (va + p.1, p.2))).bind fun s (bs, _) =>
        let parts := splitBy (spans.map (·.2)) bs
        match restoredBlock x c qs hdr parts with
        | .error k => .fail s (badSave k)
        | .ok y =>
          if !x.r.isMatrix || !bitOf (sliceNat hdr 3 1) 2 then .ok ((((s.forget (2 * b)).rearrive b).startAcquire y).setBlock b y) ()
          else
            let ar := (parts.getLast?).getD []
            (queueOfState b (sliceNat ar 0xC 4) x.mx.queue (queueParts ar) y s).bind fun s q =>
              match q with
              | none => .fail s (badSave 0xFE)
              | some y => .ok ((((s.forget (2 * b)).rearrive b).startAcquire y).setBlock b y) ()

/-! ### Pre-emption (R357, R358) -/

/-- A candidate for removal (R357). -/
def candidate (level : Nat) (x : Block) : Bool :=
  decide (x.r.prio < level) && !(x.phase matches .draining _ _)
/-- One candidate is removed before another: ascending base level, descending slot, descending index. -/
def removedBefore (p q : Nat × Block) : Bool :=
  decide (p.2.r.prio < q.2.r.prio) || (p.2.r.prio = q.2.r.prio && (decide (q.2.slot < p.2.slot)
    || (p.2.slot = q.2.slot && decide (q.2.index < p.2.index))))
/-- Insertion in the order of removal. -/
def insertRemoval (p : Nat × Block) : List (Nat × Block) → List (Nat × Block)
  | [] => [p]
  | q :: rest => if removedBefore p q then p :: q :: rest else q :: insertRemoval p rest
/-- The candidates to remove, one at a time, until the block fits. -/
def toRemove (r : LaunchRec) (gr : List (Nat × Nat)) : List (Nat × Block) → List (Nat × Block) → List (Nat × Block)
  | [], _ => []
  | p :: ps, bs =>
    let bs := bs.filter fun q => q.1 ≠ p.1
    if (fitsOn bs r gr).isSome then [p] else p :: toRemove r gr ps bs
/-- A block goes back to its grid to be placed again (R357, R358). -/
def State.requeue (s : State) (b : Nat) (x : Block) : State :=
  let s := (s.dropWork b).dropBlock b
  match s.grid x.grid with
  | none => s
  | some g => s.setGrid x.grid { g with waiting := g.waiting ++ [x.index] }
/-- A block is asked to give way (R357): a task block is to be aborted, a resident one with crews to be saved, and one
without crews is released at once. -/
def giveWay (s : State) (p : Nat × Block) : State :=
  let (b, x) := p
  if !x.r.res then s.setBlock b { x with asked := true }
  else match x.phase with
    | .running => s.setBlock b { x with phase := .saving s.clock }
    | .placed | .staging _ => s.requeue b x
    | _ => s
/-- Pre-emption for a block (R357): the first core of the scan on which removing every candidate makes it fit. -/
def preempt (s : State) (gk i : Nat) (g : Grid) (gr : List (Nat × Nat)) : List (Nat × Nat × Nat) → State
  | [] => s
  | c :: cs =>
    let bs := s.onCore c.1 c.2.1 c.2.2
    let out := (bs.filter fun p => candidate g.r.prio p.2).foldl (fun t p => insertRemoval p t) []
    let keep := bs.filter fun p => !candidate g.r.prio p.2
    if out.isEmpty || heldForOther s c gk i || (fitsOn keep g.r gr).isNone then preempt s gk i g gr cs
    else
      let s := (toRemove g.r gr out bs).foldl giveWay s
      let d := s.die c.1
      s.setDie c.1 { d with reserve := d.reserve ++ [(c.2.1, c.2.2, gk, i)] }
/-- The core that is already held for a block. -/
def State.heldCore (s : State) (gk i : Nat) : Option (Nat × Nat × Nat) :=
  [0, 1].findSome? fun d => ((s.die d).reserve.find? fun r => r.2.2.1 = gk && r.2.2.2 = i).map fun r => (d, r.1, r.2.1)
/-- A block has been asked to give way and still stands on its core. -/
def Block.leaving (x : Block) : Bool := x.asked || (x.phase matches .saving _)
/-- Removal goes on at the core that is held for a block (R357, step 3): where the blocks that stay no longer leave the room,
because one of them has grown or waits to grow (R26), further candidates go until the block fits. -/
def preemptMore (s : State) (g : Grid) (gr : List (Nat × Nat)) (c : Nat × Nat × Nat) : State :=
  let stay := (s.onCore c.1 c.2.1 c.2.2).filter fun p => !p.2.leaving
  let out := (stay.filter fun p => candidate g.r.prio p.2).foldl (fun t p => insertRemoval p t) []
  let keep := stay.filter fun p => !candidate g.r.prio p.2
  if (fitsOn stay g.r gr).isSome || (fitsOn keep g.r gr).isNone then s
  else (toRemove g.r gr out stay).foldl giveWay s
/-- Room is asked for a block that fits nowhere (R357). -/
def askRoom (s : State) (gk i : Nat) (g : Grid) (gr : List (Nat × Nat)) : State :=
  match s.heldCore gk i with
  | some c => preemptMore s g gr c
  | none => preempt s gk i g gr (coresOf g.dieMask)

/-! ### The decision (R348) -/

/-- What an attempt to place the next block of a grid gives. -/
inductive Placed where
  /-- The block has its place, or its restore ended its context. -/
  | done (s : State)
  /-- The block fits nowhere; pre-emption has been asked for where it may be. -/
  | nowhere (s : State)
  /-- A read of its save area waits. -/
  | wait (s : State)

/-- A new block of a grid is placed, or room is asked for. -/
def tryNew (s : State) (die gk i : Nat) (g : Grid) : Placed :=
  match findCore s gk i g.r g.r.granules (coresOf g.dieMask) with
  | some (c, qs) => .done ((placeNew s gk i g c qs).servedGrid die gk i)
  | none => .nowhere (askRoom s gk i g g.r.granules)
/-- A saved block of a grid is restored, or room is asked for. -/
def trySaved (s : State) (die gk i : Nat) (g : Grid) (b : Nat) (x : Block) : Placed :=
  match savedGranules s b x g with
  | .wait s => .wait s
  | .fail s t => .done (s.fatalBlock b 255 0 t)
  | .ok s gr =>
    match findCore s gk i g.r gr (coresOf g.dieMask) with
    | some (c, qs) =>
      match restoreBlock s b x g c qs with
      | .ok s _ => .done (s.servedGrid die gk i)
      | .wait s => .wait s
      | .fail s t => .done ((s.setBlock b { x with die := c.1, cluster := c.2.1, core := c.2.2 }).fatalBlock b 255 0 t)
    | none => .nowhere (askRoom s gk i g gr)
/-- The block that a grid places next is tried. -/
def tryGrid (s : State) (die : Nat) (p : Nat × Grid) : Placed :=
  match nextIndex s p.1 p.2 with
  | none => .nowhere s
  | some i =>
    match s.blocks.find? fun q => q.2.grid = p.1 && q.2.index = i && q.2.phase = .saved with
    | some (b, x) => trySaved s die p.1 i p.2 b x
    | none => tryNew s die p.1 i p.2
/-- The grids of the keys given are tried in that order until one places a block; while the restore of one that fits waits for
its save area, no later grid is tried (R348). -/
def tryGrids (die : Nat) : List Nat → State → State × Bool
  | [], s => (s, false)
  | k :: ks, s =>
    match s.grid k with
    | none => tryGrids die ks s
    | some g =>
      if !takesPart s k g then tryGrids die ks s
      else match tryGrid s die (k, g) with
        | .done s => (s, true)
        | .nowhere s => tryGrids die ks s
        | .wait s => (s, false)
/-- The blocks that have been asked to give way. -/
def State.asks (s : State) : List Nat := (s.blocks.filter fun p => p.2.leaving).map (·.1)
/-- DISPATCH_DECISION (R348, R355): one decision of a die's dispatcher. -/
def execDispatchDecision (die : Nat) (s : State) : Out :=
  let (s', placed) := tryGrids die ((contenders s die).map (·.1)) s
  if placed || s'.die0.reserve ≠ s.die0.reserve || s'.die1.reserve ≠ s.die1.reserve
      || s'.fresh ≠ s.fresh || s'.asks ≠ s.asks then .next s'
  else notEnabled "DISPATCH_DECISION"
/-- AGEING_INTERVAL (R355): the effective level rises with the cycles that the grid has waited; the scheduler's counter
holds them, so the passing of an interval changes nothing else. -/
def execAgeingInterval (grid : Nat) (s : State) : Out :=
  match s.grid grid with
  | some g =>
    if takesPart s grid g ∧ s.age0 ≠ 0 ∧ s.age0 ≤ s.clock - g.since then .next s else notEnabled "AGEING_INTERVAL"
  | none => notEnabled "AGEING_INTERVAL"

/-! ### Abort and save -/

/-- BLOCK_ABORT (R358): a task block that has been asked to give way is discarded and re-queued. -/
def execBlockAbort (b : Nat) (s : State) : Out :=
  match s.block b with
  | some x =>
    if x.asked && !(x.phase matches .draining _ _) then .next (s.requeue b x) else notEnabled "BLOCK_ABORT"
  | none => notEnabled "BLOCK_ABORT"
/-- A job that a save withdraws: those of the cluster units, the solver, the optimiser and the fabric (R271, R305, R321,
R465). L2LCK is none of them: the save park awaits its result (R33). -/
def Job.withdrawn (j : Job) : Bool := !(j.i matches .l2lck _)
/-- A crew whose jobs are withdrawn (R271, R305): the instruction counts as not executed. -/
def Crew.withdraw (r : LaunchRec) (w : Crew) : Crew :=
  (w.jobs.filter (·.withdrawn)).foldl (fun w j =>
    let w := { w.setPcs j.act (fun _ => j.pc) with outs := w.outs.filter fun p => p.order ≠ j.order,
                                                   wait := (match w.wait with
                                                     | .parked (.marker _) => .ready
                                                     | x => x) }
    (dests r.lrec j.i).foldl (fun w d => match d with
      | .v n => { w with vpend := w.vpend &&& ~~~(1#64 <<< n) }
      | .m n => { w with mpend := w.mpend &&& ~~~(1#16 <<< n) }
      | .s n => { w with spend := w.spend &&& ~~~(1#64 <<< n) }
      | .p n => { w with ppend := w.ppend &&& ~~~(1#8 <<< n) }) w) { w with jobs := w.jobs.filter (!·.withdrawn) }
/-- The cause that the park of a trap entry holds (R171), with what returned late: the record carries it as the late cause that is
due at the park's end (R33, R477). -/
def Crew.lateHeld (w : Crew) : Crew :=
  match w.wait with
  | .parked (.trap t) =>
    { w with late := earlier w.held (w.late.map fun l => { l with trap := { l.trap with pc := t.next } }), held := none }
  | _ => w
/-- A crew at its save park (R33, R251): results are written, waits count as not executed. -/
def Crew.settle (w : Crew) : Crew :=
  let w := w.outs.foldl Crew.takeResult w
  { w.lateHeld with wait := (match w.wait with
    | .waiting _ _ _ _ => .ready
    | x => x) }
/-- What the die keeps of a crew that has settled (R33, R398). -/
def Crew.stay (w : Crew) : Stay :=
  { wait := w.wait, live := w.live ≠ 0, hfaults := w.hfaults, issues := w.issues,
    heldPc := if w.wait matches .parked (.trap _) then w.late.map (·.trap.pc) else none }
/-- Every store queue of a block is drained and every job withdrawn (R251, R271). -/
def quieten (s : State) (b : Nat) (x : Block) : State :=
  let s := x.crews.foldl (fun s p => s.drainQueue b p.1) s
  match s.block b with
  | none => s
  | some x => s.setBlock b { x with crews := x.crews.map fun p => (p.1, p.2.withdraw x.r) }
/-- The crews still have queues or jobs to give up. -/
def unquiet (x : Block) : Bool := x.crews.any fun p => !p.2.queue.isEmpty || p.2.jobs.any (·.withdrawn)
/-- Every result has returned or may, and the array has run what a crew waits for (R33, R224). -/
def mayPark (x : Block) : Bool :=
  x.crews.all (fun p => p.2.outs.all (·.ready)) && !(x.mx.queue.any fun q => mxReturns q.i)
/-- The save reads the word that an error lies in (R196, R199). -/
def saveReads (x : Block) (e : StoreErr) : Bool :=
  match e.place with
  | .share => decide (e.num < x.r.lmem)
  | .spill => decide (e.num < x.r.spillBytes)
  | .v => (look x.crews e.crew).any fun w => decide (e.num < 8 * w.vg)
  | .m => (look x.crews e.crew).any fun w => decide (e.num < 4 * w.mg)
  | .s => (look x.crews e.crew).isSome
  | .p => (look x.crews e.crew).isSome && e.num ≠ 0
  | .tile => x.r.isMatrix && tileSaved (tafOf x.mx) e.num
  | .acc => x.r.isMatrix && accSaved (tafOf x.mx) e.num
  | .weights => x.r.isMatrix && (if e.num = 0 then x.mx.w0.valid else x.mx.w1.valid)
/-- The errors of what the save reads. -/
def saveErrors (x : Block) : List StoreErr := x.errs.filter (saveReads x)
/-- What the save reads carries an uncorrectable error (R199, R200): its cause. -/
def saveError (x : Block) : Option Trap :=
  ((saveErrors x).find? (·.hard)).map fun e =>
    if e.place = .share || e.place = .spill then { code := 0x4A, info := memErrInfo e }
    else { code := 0x4B, info := regErrInfo e }
/-- The block once its area has been written (R359): its footprint is free; the die keeps what no section holds. -/
def Block.saved (x : Block) : Block :=
  { x with phase := .saved, stays := x.crews.map fun p => (p.1, p.2.stay), crews := [],
           share := [], spill := [], arrive := [], ctab := [], code := [], errs := [],
           mx := { queue := x.mx.queue } }
/-- The deadline of a save in cycles (R359). -/
def LaunchRec.deadline (r : LaunchRec) : Nat := if r.dline = 0 then 180000 else r.dline
/-- The deadline of the save of a block has passed (R359). -/
def saveOverdue (s : State) (x : Block) : Bool :=
  match x.phase with
  | .saving since => decide (x.r.deadline < s.clock - since)
  | _ => false
/-- BLOCK_SAVE (R33, R196, R251, R359): first the store queues drain and the jobs are withdrawn; once every result can
return, the save area is written and the footprint freed. -/
def execBlockSave (b : Nat) (s : State) : Out :=
  match s.block b with
  | none => notEnabled "BLOCK_SAVE"
  | some x =>
    if !(x.phase matches .saving _) ∨ (s.ctx x.slot).state ≠ .live ∨ saveOverdue s x then notEnabled "BLOCK_SAVE"
    else if unquiet x then .next (quieten s b x)
    else if !mayPark x ∨ (s.copies.any fun p => p.2.blk = b && p.2.taken) then notEnabled "BLOCK_SAVE"
    else match saveError x, s.grid x.grid with
      | some t, _ => .next (s.fatalBlock b 255 0 t)
      | none, none => notEnabled "BLOCK_SAVE"
      | none, some g =>
        let y := { x with crews := x.crews.map fun p => (p.1, p.2.settle) }
        let va := g.saveVa x.index
        match s.gwriteAll (saveAcc x b true) ((saveSections y).map fun p => (va + p.1, p.2)) with
        | .ok s _ => .next (((s.forget (2 * b)).noteErrs x 255 (saveErrors x)).setBlock b y.saved)
        | .wait s' => ifAsked s s' "BLOCK_SAVE"
        | .fail s t => .next (s.fatalBlock b 255 0 t)
/-- SAVE_DEADLINE_EXCEEDED (R359): cause 0x49. -/
def execSaveDeadlineExceeded (b : Nat) (s : State) : Out :=
  match s.block b with
  | some x =>
    if saveOverdue s x ∧ (s.ctx x.slot).state = .live then .next (s.fatalBlock b 255 0 { code := 0x49 })
    else notEnabled "SAVE_DEADLINE_EXCEEDED"
  | none => notEnabled "SAVE_DEADLINE_EXCEEDED"

end Sys2Proof.Machine
end

