-- ==== Sys2Proof/Machine/Link.lean ====
section
/-! DEFINITION. Tilet link (R445 to R447): endpoints, routes, and the messages that leave and arrive. A message stands for
all of its flits: software never sees flits or ports. -/

namespace Sys2Proof.Machine

/-- The endpoint of a die (R445). -/
def State.endpoint (s : State) (die : Nat) : Nat := 2 * s.fab.pkg + die
/-- The die of this package that is an endpoint. -/
def State.dieOfEp (s : State) (ep : Nat) : Option Nat := if ep / 2 = s.fab.pkg then some (ep % 2) else none
/-- The LIVE context that has an ASID (R445). -/
def State.liveSlot (s : State) (asid : Nat) : Option Nat :=
  match s.slotOfAsid asid with
  | some k => if (s.ctx k).state = .live then some k else none
  | none => none
/-- The port of the path between two endpoints, fixed by a hash of the pair (R447); none without a route. -/
def State.portTo (s : State) (src dst : Nat) : Option Nat :=
  match look s.fab.routes dst with
  | none => none
  | some ps => ps[Config.pathOf src dst % ps.length]?
/-- A message is the work of a context, not the answer to another's. -/
def isWork : FabMsg → Bool
  | .data _ _ _ | .reward _ _ | .contrib _ _ _ _ _ _ | .digest _ _ => true
  | _ => false
/-- A message sets out from a die to an endpoint of another package; work without a route is turned away (R447). -/
def State.sendFab (s : State) (die asid dst : Nat) (m : FabMsg) : State :=
  let (k, s) := s.take
  match s.portTo (s.endpoint die) dst with
  | some p =>
    { s with fab := { s.fab with leaving := put s.fab.leaving k ⟨p, s.liveSlot asid, 0, ⟨s.endpoint die, dst, asid, k, true, m⟩⟩ } }
  | none => if isWork m then { s with fab := { s.fab with rejected := put s.fab.rejected k (die, asid, dst) } } else s
/-- The die that drives a port (R446). -/
def portDie (port : Nat) : Nat := port / 8
/-- A port is up. -/
def State.portUp (s : State) (port : Nat) : Bool := decide (port < 16) && s.fab.up.getLsbD port

/-- FLIT_RESEND (R447): a message that is not acknowledged is sent again; each resend notes cause 0xE0. The sixty-fourth
failed attempt takes the port down instead. -/
def execFlitResend (k : Nat) (s : State) : Out :=
  match look s.fab.leaving k with
  | some o =>
    if 63 ≤ o.tries then notEnabled "FLIT_RESEND"
    else
      let s := { s with fab := { s.fab with leaving := put s.fab.leaving k { o with tries := o.tries + 1 } } }
      .next (s.note (portDie o.port) 0xE0 (dieLoc (portDie o.port)) o.flit.asid o.port)
  | none => notEnabled "FLIT_RESEND"
/-- A port leaves the routes; an endpoint without a port has no route. -/
def withoutPort (port : Nat) (rs : List (Nat × List Nat)) : List (Nat × List Nat) :=
  (rs.map fun r => (r.1, r.2.filter (· ≠ port))).filter fun r => !r.2.isEmpty
/-- PORT_DOWN (R447): after 64 failed attempts the port is taken down; cause 0xE1 ends every context with a message in
flight on it, and its routes go. -/
def execPortDown (port : Nat) (s : State) : Out :=
  let mine := s.fab.leaving.filter fun p => p.2.port = port
  if s.portUp port && mine.any fun p => decide (63 ≤ p.2.tries) then
    let slots := (mine.filterMap fun p => p.2.slot).eraseDups
    let s := { s with fab := { s.fab with up := s.fab.up &&& ~~~(1#16 <<< port), routes := withoutPort port s.fab.routes,
                                          leaving := s.fab.leaving.filter fun p => p.2.port ≠ port } }
    .next (slots.foldl (fun s k => s.fatalDie (portDie port) k { code := 0xE1, info := port }) s)
  else notEnabled "PORT_DOWN"
/-- DESTINATION_UNREACHABLE (R447): the rejection of a message ends the context that sent it. -/
def execDestinationUnreachable (k : Nat) (s : State) : Out :=
  match look s.fab.rejected k with
  | some (die, asid, ep) =>
    let s := { s with fab := { s.fab with rejected := dropAt s.fab.rejected k } }
    .next (s.fatalAsid die asid { code := 0xE2, info := ep })
  | none => notEnabled "DESTINATION_UNREACHABLE"

/-- The keys of a context on which members of collectives are known to a die: those of its own first uses, and those of the
digests that have reached it (R451, R455). -/
def State.memberLists (s : State) (slot : Nat) : List (Nat × Nat × List Nat) :=
  ((s.domains.filter fun d => d.slot = slot).map fun d => (d.die, d.dkey, d.mlist))
    ++ (s.fab.digests.filter fun d => d.slot = slot).map fun d => (d.die, d.dkey, d.mlist)
/-- When a context ends, the members of other packages whose collectives include it learn of it (R455): those of its own
lists, and those whose digests have named it. -/
def State.sayGone (s : State) (slot : Nat) : State :=
  (((s.memberLists slot).flatMap fun d => d.2.2.map fun ep => (d.1, d.2.1, ep)).eraseDups).foldl (fun s d =>
    if (s.dieOfEp d.2.2).isNone then s.sendFab d.1 (s.ctx slot).asid d.2.2 (.gone d.2.1) else s) s

end Sys2Proof.Machine
end

