-- ==== Sys2Proof/Machine/Launch.lean ====
section
/-! DEFINITION. Submission queues and launches (R339 to R347), the checks of grid, block and region records (R82 to R84,
R181, R184, R186, R345, R346), fault and hold records (R173, R175), and the end of a context (R172, R343). -/

namespace Sys2Proof.Machine

/-! ### Commands (R340) -/

/-- A command of 64 bytes read as a number (R340). -/
def cmdOf (x : Nat) : Cmd :=
  { op := bitsOf x 0 8, seq := bitsOf x 32 32, rsv := bitsOf x 8 24 + 2 ^ 24 * bitsOf x 320 192,
    a0 := bitsOf x 64 64, a1 := bitsOf x 128 64, a2 := bitsOf x 192 64, a3 := bitsOf x 256 64 }
/-- The power states in which the device carries out commands (R435). -/
def State.awake (s : State) : Bool := (s.power = .d0Active || s.power = .d0Idle) && !s.host.flr
/-- A refused command other than LAUNCH: the control queue's status word receives it (R341, R430). -/
def State.refuse (s : State) (x : Cmd) : State :=
  { s with host := { s.host with statSeq := x.seq, statOp := x.op, refused := true } }

/-! ### LAUNCH (R339, R341, R347) -/

/-- The operands of a LAUNCH break the limits of the table, or its SEQ names a launch of the queue that is not complete. -/
def launchRefused (s : State) (slot q : Nat) (x : Cmd) : Bool :=
  x.rsv ≠ 0 || x.a0 % 128 ≠ 0 || x.a1 % 4096 ≠ 0 || bitsOf x.a2 0 12 ≠ 0 || bitsOf x.a2 32 2 = 0
    || bitsOf x.a2 35 29 ≠ 0 || x.a3 % 8 ≠ 0
    || s.grids.any fun p => p.2.slot = slot && p.2.sq = q && p.2.seq = x.seq && !p.2.complete
/-- The grid of a LAUNCH that has been read. -/
def gridOf (slot q : Nat) (x : Cmd) : Grid :=
  { slot := slot, sq := q, seq := x.seq, va := x.a0, saveBase := x.a1, saveStride := bitsOf x.a2 0 32,
    dieMask := bitsOf x.a2 32 2, irq := bitOf x.a2 34, compl := x.a3 }
/-- The ordered queues that wait for this producer are bound to it (R347). -/
def State.bindProducer (s : State) (slot q seq gk : Nat) : State :=
  let f (o : OQueue) : OQueue :=
    if o.slot = slot && o.psq = q && o.pseq = seq && o.pgrid.isNone then { o with pgrid := some gk } else o
  let g (d : Die) : Die := { d with queues := d.queues.map fun p => (p.1, f p.2) }
  { s with die0 := g s.die0, die1 := g s.die1 }
/-- A LAUNCH is accepted (R344). -/
def acceptLaunch (s : State) (slot q : Nat) (x : Cmd) : State :=
  let (k, s) := s.take
  ((s.setGrid k { gridOf slot q x with since := s.clock }).bindProducer slot q x.seq k).settleDeps
/-- What the taking of a command writes (R339, R341, R347): the completion word of a refused LAUNCH, then the head index. -/
def takenWrites (s : State) (slot q : Nat) (k : SubQ) (x : Cmd) : List (Nat × List Byte) :=
  (if x.op = 1 && launchRefused s slot q x then [(x.a3, completionBytes x.seq 3)] else [])
    ++ [(k.headwb, natToBytes 8 ((k.head + 1) % k.entries))]
/-- What a command read from a submission queue does: a LAUNCH is accepted or refused in its completion word, any other
operation is refused. The head moves on with the writes, none of which is made before all of them can be. -/
def takeLaunch (s : State) (slot q : Nat) (k : SubQ) (x : Cmd) : Got Unit :=
  let a := dispAcc slot 2 true
  (s.gwriteAll a (takenWrites s slot q k x)).bind fun s _ =>
    let c := s.ctx slot
    let s := (s.forget a.owner).setCtx slot { c with sqs := put c.sqs q { k with head := (k.head + 1) % k.entries } }
    .ok (if x.op ≠ 1 then s.refuse x else if launchRefused s slot q x then s else acceptLaunch s slot q x) ()
/-- LAUNCH (R339, R344): the command at the head of a submission queue, `sq` being 8 × slot + queue. -/
def execLaunch (sq : Nat) (x : Cmd) (s : State) : Out :=
  let slot := sq / 8
  match look (s.ctx slot).sqs (sq % 8) with
  | none => notEnabled "LAUNCH"
  | some k =>
    if (s.ctx slot).state ≠ .live ∨ k.head = k.tail ∨ !s.awake then notEnabled "LAUNCH"
    else
      let a := dispAcc slot 0 false
      match s.gread a (k.ring + 64 * k.head) 64 with
      | .wait s' => ifAsked s s' "LAUNCH"
      | .fail s t => .next (s.fatalDie 0 slot t)
      | .ok s1 (bs, _) =>
        if cmdOf (bytesToNat bs) ≠ x then notEnabled "LAUNCH"
        else match takeLaunch s1 slot (sq % 8) k x with
          | .ok s _ => .next (s.forget a.owner)
          | .wait s' => ifAsked s s' "LAUNCH"
          | .fail s t => .next (s.fatalDie 0 slot t)

/-! ### The records of a launch (R82 to R84, R345) -/

/-- Cause 0xA0 (R345). -/
def recordTrap (g : Grid) : Trap := { code := 0xA0, va := g.va }
/-- A grid record breaks a rule of R345. -/
def gridBad (x : Nat) : Bool :=
  let f (o n : Nat) : Nat := bitsOf x (8 * o) (8 * n)
  f 0 4 = 0 || decide (2 ^ 31 < f 0 4) || bitOf (f 4 4) 3 || decide (128 ≤ f 4 4) || f 8 8 % 256 ≠ 0 || f 16 8 % 256 ≠ 0
    || f 0x18 4 = 0 || f 0x18 4 % 2 ≠ 0 || f 0x1C 4 % 2 ≠ 0 || decide (f 0x18 4 ≤ f 0x1C 4)
    || (f 0x20 4 ≠ 0xFFFFFFFF && (f 0x20 4 % 2 ≠ 0 || decide (f 0x18 4 ≤ f 0x20 4)))
    || decide (16 < f 0x30 4) || (f 0x30 4 ≠ 0 && f 0x28 8 % 8 ≠ 0) || f 0x34 76 ≠ 0
/-- A team descriptor (R83). -/
def teamOf (x : Nat) : Team :=
  { valid := bitOf x 18, role := match bitsOf x 16 2 with
      | 0 => .any
      | 1 => .copy
      | 2 => .matrix
      | _ => .vector,
    members := maskRange (bitsOf x 0 8) (bitsOf x 8 8) }
where
  /-- The crews from `first` on, so many of them. -/
  maskRange (first n : Nat) : BitVec 64 := BitVec.ofNat 64 (2 ^ first * (2 ^ n - 1))
/-- A team descriptor breaks R181. -/
def teamBad (nteam ncrew k x : Nat) : Bool :=
  let first := bitsOf x 0 8
  let count := bitsOf x 8 8
  bitsOf x 19 45 ≠ 0 || bitOf x 18 ≠ decide (k < nteam)
    || (if bitOf x 18 then count = 0 || decide (ncrew < first + count)
        else first ≠ 0 || count ≠ 0 || bitsOf x 16 2 ≠ 0)
/-- A block record breaks R181, R184 or R345. -/
def blockBad (x : Nat) : Bool :=
  let f (o n : Nat) : Nat := bitsOf x (8 * o) (8 * n)
  let vg := f 0 1
  let mg := f 1 1
  let nc := f 2 1
  f 0 1 = 0 || decide (8 < vg) || decide (4 < mg) || nc = 0 || decide (64 < nc) || decide (8 < f 3 1)
    || f 4 4 % 256 ≠ 0 || decide (coreMemory < f 4 4 + 32 * nc * f 8 4) || f 8 4 % 4 ≠ 0 || decide (16384 < f 8 4)
    || (f 0xC 1 ≠ 0 && (decide (f 0xC 1 < vg) || decide (8 < f 0xC 1)))
    || (f 0xD 1 ≠ 0 && (decide (f 0xD 1 < mg) || decide (4 < f 0xD 1)))
    || f 0xE 2 ≠ 0 || decide (32 < f 0x18 4) || (f 0x18 4 ≠ 0 && f 0x10 8 % 32 ≠ 0) || f 0x1C 36 ≠ 0 || f 0x80 128 ≠ 0
    || (List.range 8).any fun k => teamBad (f 3 1) nc k (f (0x40 + 8 * k) 8)
/-- What a grid record and a block record say (R82, R83), without the regions. -/
def launchRecOf (g b : Nat) : LaunchRec :=
  let f (o n : Nat) : Nat := bitsOf g (8 * o) (8 * n)
  let h (o n : Nat) : Nat := bitsOf b (8 * o) (8 * n)
  { nblk := f 0 4, det := bitOf (f 4 4) 0, lrec := bitOf (f 4 4) 1, res := bitOf (f 4 4) 2, prio := bitsOf (f 4 4) 4 3,
    brec := f 8 8, code := f 16 8, clen := f 0x18 4, entry := BitVec.ofNat 32 (f 0x1C 4),
    trapr := BitVec.ofNat 32 (f 0x20 4), dline := f 0x24 4, vg := h 0 1, mg := h 1 1, ncrew := h 2 1, lmem := h 4 4,
    spill := h 8 4, vgx := h 0xC 1, mgx := h 0xD 1,
    teams := (List.range 8).map fun k => teamOf (h (0x40 + 8 * k) 8) }
/-- A region entry of 32 bytes (R84). -/
def regionOf (x : Nat) : Region :=
  let fl := bitsOf x 224 32
  { base := bitsOf x 0 64, stride := bitsOf x 64 64, shape := bitsOf x 128 64, loff := bitsOf x 192 32,
    dir := bitsOf fl 0 2, ew := bitsOf fl 2 3, conv := bitsOf fl 5 2, chain := bitOf fl 7 }
/-- The fields of a region entry break R186 or R345. -/
def regionBad (x : Nat) : Bool :=
  let r := regionOf x
  decide (2 ^ 8 ≤ bitsOf x 224 32) || r.dir = 3 || decide (5 ≤ r.ew) || r.shape % 64 ≠ 0
    || (r.conv = 1 && r.ew ≠ 2) || (r.conv = 2 && r.ew ≠ 2) || (r.conv = 3 && r.ew ≠ 1)
/-- The region entries of a launch are read and checked, in entry order (R344, R345). -/
def readRegions (slot lmem list : Nat) : List Nat → State → Got (List Region)
  | [], s => .ok s []
  | j :: js, s =>
    let a := dispAcc slot 0 false
    (s.gread a (list + 32 * j) 32).bind fun s (bs, _) =>
      let x := bytesToNat bs
      let r := regionOf x
      if regionBad x then .fail s (regionTrap j)
      else (s.gread a r.shape 192).bind fun s (sh, _) =>
        match r.layout lmem (bytesToNat sh) with
        | none => .fail s (regionTrap j)
        | some _ => (readRegions slot lmem list js s).bind fun s rs => .ok s (r :: rs)
/-- A dependency entry (R346). -/
def depOf (x : Nat) : Dep := ⟨bitOf x 38, bitsOf x 32 3, bitsOf x 0 32, false⟩
/-- A dependency entry has a reserved bit set. -/
def depBad (x : Nat) : Bool := bitsOf x 35 3 ≠ 0 || bitsOf x 39 25 ≠ 0
/-- The demand of a launch cannot be met even by an empty core (R184), or a resident launch has no room to save (R345). -/
def demandBad (g : Grid) (r : LaunchRec) : Bool :=
  (fitsOn [] r r.granules).isNone || (r.res && (g.saveBase = 0 || decide (g.saveStride < r.saveSize)))
/-- The records of a head launch are read and checked (R344, R345). -/
def readLaunch (s : State) (g : Grid) : Got (LaunchRec × List Dep) :=
  let a := dispAcc g.slot 0 false
  (s.gread a g.va 128).bind fun s (gb, _) =>
    let x := bytesToNat gb
    if gridBad x then .fail s (recordTrap g)
    else (s.gread a (bitsOf x 320 64) (8 * bitsOf x 384 32)).bind fun s (db, _) =>
      let ds := unpackWords 8 (bitsOf x 384 32) db
      if ds.any depBad then .fail s (recordTrap g)
      else (s.gread a (bitsOf x 64 64) 256).bind fun s (bb, _) =>
        let y := bytesToNat bb
        let r := launchRecOf x y
        if blockBad y ∨ demandBad g r then .fail s (recordTrap g)
        else (readRegions g.slot r.lmem (bitsOf y 128 64) (List.range (bitsOf y 192 32)) s).bind fun s rs =>
          .ok s ({ r with regions := rs }, ds.map depOf)
/-- A LAUNCH names a save base for a task grid (R341): it is refused. The grid record tells the kind of grid, so the refusal comes
with its check (DEDUCED, log 110). -/
def saveBaseBad (g : Grid) (r : LaunchRec) : Bool := !r.res && g.saveBase ≠ 0
/-- A LAUNCH is refused after it was read (R341): its completion word receives the status, and the launch is gone; its queue's next
one stands at the head. A binding that waits for its SEQ waits again (R347). -/
def refuseLaunch (s : State) (k : Nat) (g : Grid) : Got Unit :=
  (completionWord s g.slot (2 * k) g.compl g.seq 3).bind fun s _ =>
    let loose (p : Nat × OQueue) : Nat × OQueue := if p.2.pgrid = some k then (p.1, { p.2 with pgrid := none }) else p
    let s := { s with die0 := { s.die0 with queues := s.die0.queues.map loose },
                      die1 := { s.die1 with queues := s.die1.queues.map loose }, grids := dropAt s.grids k }
    .ok (match s.headLaunch g.slot g.sq with
      | some (h, n) => s.setGrid h { n with since := s.clock }
      | none => s) ()
/-- HEAD_LAUNCH_CHECK (R344, R345): `sq` is 8 × slot + queue. -/
def execHeadLaunchCheck (sq : Nat) (s : State) : Out :=
  let slot := sq / 8
  match s.headLaunch slot (sq % 8) with
  | none => notEnabled "HEAD_LAUNCH_CHECK"
  | some (k, g) =>
    if g.checked ∨ (s.ctx slot).state ≠ .live then notEnabled "HEAD_LAUNCH_CHECK"
    else match readLaunch s g with
      | .wait s' => ifAsked s s' "HEAD_LAUNCH_CHECK"
      | .fail s t => .next (s.fatal slot (launchFault 0 t g))
      | .ok s (r, ds) =>
        if saveBaseBad g r then
          match refuseLaunch s k g with
          | .ok s _ => .next (s.forget (dispAcc slot 0 false).owner)
          | .wait s' => ifAsked s s' "HEAD_LAUNCH_CHECK"
          | .fail s t => .next (s.fatalDie 0 slot t)
        else
          let g' := { g with checked := true, r := r, deps := ds }
          .next ((s.forget (dispAcc slot 0 false).owner).setGrid k g').settleDeps

/-! ### Fault and hold records (R173, R175) -/

/-- The 64 bytes of a record (R173), INFO of cause 0xE3 being the whole DKEY (R467); `valid` is the VALID bit of a hold record. -/
def recordBytes (r : FaultRec) (more : Nat) (valid : Bool) : List Byte :=
  packWords 4 [r.cause + r.flags + (if valid then 2 ^ 31 else 0), r.info % (if r.cause = 0xE3 then 2 ^ 32 else 2 ^ 24), r.loc, r.block, r.pc.toNat,
               r.lanes.toNat] ++ packWords 8 [r.va, r.grid] ++ packWords 4 [more] ++ List.replicate 20 0
/-- HOLD_RECORD_WRITE (R175): the next record of a context is written to its slot of the hold ring once the host has
cleared that slot, its CAUSE word last, and the hold vector is sent. -/
def execHoldRecordWrite (slot : Nat) (s : State) : Out :=
  let c := s.ctx slot
  match c.hrecs with
  | [] => notEnabled "HOLD_RECORD_WRITE"
  | r :: rest =>
    let va := c.hring + 64 * (c.holdsW % 64)
    let a := dispAcc slot 3 false
    let bs := recordBytes r 0 true
    if c.state ≠ .live then notEnabled "HOLD_RECORD_WRITE"
    else match s.gread a va 4 with
      | .wait s' => ifAsked s s' "HOLD_RECORD_WRITE"
      | .fail s t => .next (s.fatalDie 0 slot t)
      | .ok s1 (old, _) =>
        if 2 ^ 31 ≤ bytesToNat old then
          if s1.answered a.owner then .next (s1.forget a.owner)
          else notEnabled "HOLD_RECORD_WRITE"
        else match s1.gwriteAll { dispAcc slot 4 true with use := .hidden } [(va + 4, bs.drop 4), (va, bs.take 4)] with
          | .wait s' => ifAsked s s' "HOLD_RECORD_WRITE"
          | .fail s t => .next (s.fatalDie 0 slot t)
          | .ok s _ =>
            let s := (s.forget a.owner).forget (dispAcc slot 4 true).owner
            let c := s.ctx slot
            .next ((s.setCtx slot { c with hrecs := rest, holdsW := c.holdsW + 1 }).sendVec c.hvec)

/-! ### The end of a context (R172, R343) -/

/-- Locked lines of an ASID are unlocked, and what else a die holds for a context goes (R172, R343). -/
def Die.stopContext (d : Die) (slot asid : Nat) (grids : List Nat) : Die :=
  { d with l2 := d.l2.map fun l => if l.asid = asid then { l with locked := false } else l,
           relock := d.relock.filter fun t => t.1 ≠ asid,
           misses := d.misses.filter fun p => p.2.slot ≠ slot, queues := d.queues.filter fun p => p.2.slot ≠ slot,
           segs := d.segs.filter fun g => g.slot ≠ slot, tevents := d.tevents.filter fun t => t.slot ≠ slot,
           reserve := d.reserve.filter fun r => !grids.contains r.2.2.1 }
/-- What the fabric holds for a context goes (R172): messages that wait for its receives, rejections on their way to it, and
digests; a message that has set out goes on, and belongs to no context. -/
def Fabric.stopContext (f : Fabric) (slot asid : Nat) : Fabric :=
  { f with waiting := f.waiting.filter fun p => p.2.asid ≠ asid, rejected := f.rejected.filter fun p => p.2.2.1 ≠ asid,
           digests := f.digests.filter fun d => d.slot ≠ slot,
           leaving := f.leaving.map fun p => if p.2.slot = some slot then (p.1, { p.2 with slot := none }) else p }
/-- Everything that a context's work stands in goes (R172). -/
def State.discard (s : State) (slot : Nat) : State :=
  let asid := (s.ctx slot).asid
  let bs := (s.blocks.filter fun p => p.2.slot = slot).map (·.1)
  let gs := (s.grids.filter fun p => p.2.slot = slot).map (·.1)
  let s := bs.foldl (fun s b => (s.dropWork b).dropBlock b) s
  let c := s.ctx slot
  let s := s.setCtx slot { c with sqs := [], hrecs := [], j0 := {}, j1 := {} }
  { s with grids := s.grids.filter fun p => p.2.slot ≠ slot, hostReqs := s.hostReqs.filter fun p => p.2.slot ≠ slot,
           d2d := s.d2d.filter fun p => !(p.2.ask && p.2.asid = asid), fab := s.fab.stopContext slot asid,
           contribs := s.contribs.filter fun x => x.slot ≠ slot, domains := s.domains.filter fun x => x.slot ≠ slot,
           die0 := s.die0.stopContext slot asid gs, die1 := s.die1.stopContext slot asid gs }
/-- Records and completion words of an ending context: one that cannot be written is left out. -/
def endWrites (slot : Nat) : List (Nat × Nat × List Byte) → State → Got Unit
  | [], s => .ok s ()
  | (owner, va, bs) :: rest, s =>
    match s.gwrite { dispAcc slot 5 true with owner := owner } va bs with
    | .ok s _ => endWrites slot rest s
    | .fail s _ => endWrites slot rest s
    | .wait s => .wait s
/-- What is written when a context has stopped (R173, R343): the fault record, then ENDED for every launch that is not
complete. -/
def endRecords (s : State) (slot : Nat) : List (Nat × Nat × List Byte) :=
  let c := s.ctx slot
  let fault := match c.first with
    | none => []
    | some r => [((dispAcc slot 5 true).owner, c.frec, recordBytes r c.more false)]
  fault ++ ((s.grids.filter fun p => p.2.slot = slot && !p.2.complete).map fun p =>
    (2 * p.1, p.2.compl, completionBytes p.2.seq 2))
/-- The commands of a submission queue that no dispatcher has read: the ring addresses from head to tail. -/
def SubQ.unread (k : SubQ) : List Nat :=
  (List.range ((k.tail + k.entries - k.head) % k.entries)).map fun j => (k.head + j) % k.entries
/-- The completion words of the LAUNCHes that a context's rings still hold (R343): a command that cannot be read gives
none. -/
def ringRecords (slot : Nat) : List (Nat × Nat × Nat) → State → Got (List (Nat × Nat × List Byte))
  | [], s => .ok s []
  | (q, n, va) :: rest, s =>
    match s.gread (dispAcc slot 6 false) va 64 with
    | .wait s => .wait s
    | .fail s _ => ringRecords slot rest s
    | .ok s (bs, _) =>
      let x := cmdOf (bytesToNat bs)
      (ringRecords slot rest s).bind fun s rs => .ok s (if x.op = 1 then
        (2 * (2 ^ 80 + 65536 * (8 * slot + q) + n), x.a3, completionBytes x.seq 2) :: rs else rs)
/-- The ring entries of a context's submission queues that have not been read: queue, index, address. -/
def ringEntries (s : State) (slot : Nat) : List (Nat × Nat × Nat) :=
  (s.ctx slot).sqs.flatMap fun p => p.2.unread.map fun n => (p.1, n, p.2.ring + 64 * n)
/-- CONTEXT_STOP_COMPLETE (R172, R173, R343): the context's work has stopped on both dies. -/
def execContextStopComplete (slot : Nat) (s : State) : Out :=
  if (s.ctx slot).state ≠ .ending then notEnabled "CONTEXT_STOP_COMPLETE"
  else match (ringRecords slot (ringEntries s slot) s).bind fun s rs => endWrites slot (endRecords s slot ++ rs) s with
    | .wait s' => ifAsked s s' "CONTEXT_STOP_COMPLETE"
    | .fail s _ => .next s
    | .ok s _ =>
      let s := ((s.sayGone slot).discard slot).forget (dispAcc slot 6 false).owner
      let c := s.ctx slot
      .next ((s.setCtx slot { c with state := .ended }).sendVec c.fvec)

end Sys2Proof.Machine
end

