-- ==== Sys2Proof/Machine/Package.lean ====
section
/-! DEFINITION. The events of die and package memory (R365 to R383, R396, R407 to R425, R428 to R432): prefetches, the
die-to-die interface, the tier engine, DRAM maintenance, and the traffic of the host link. -/

namespace Sys2Proof.Machine

/-! ### Prefetches (R365, R370, R396) -/

/-- The access of a prefetch. -/
def missAcc (die : Nat) (m : Miss) : Acc := { die := die, slot := m.slot, rd := true }
/-- A prefetch is replaced; one with no line left goes. -/
def State.setMiss (s : State) (die k : Nat) (m : Miss) : State :=
  let d := s.die die
  s.setDie die { d with misses := if m.left = 0 then dropAt d.misses k else put d.misses k m }
/-- A prefetch goes on to its next line. -/
def Miss.step (m : Miss) : Miss := { m with line := m.line + 1, left := m.left - 1, walked := false }
/-- TRANSLATION_WALK (R370): the next line's address is translated; a line that fails is skipped (R396). -/
def execTranslationWalk (die k : Nat) (s : State) : Out :=
  match look (s.die die).misses k with
  | some m =>
    if m.walked ∨ m.left = 0 then notEnabled "TRANSLATION_WALK"
    else match resolve s (missAcc die m) (128 * m.line) with
      | .ok s _ => .next (s.setMiss die k { m with walked := true })
      | .wait _ => notEnabled "TRANSLATION_WALK"
      | .fail s _ => .next (s.setMiss die k m.step)
  | none => notEnabled "TRANSLATION_WALK"
/-- LINE_FILL (R365): the line is filled from memory or the other die, or asked for from the host. -/
def execLineFill (die k : Nat) (s : State) : Out :=
  match look (s.die die).misses k with
  | some m =>
    if !m.walked ∨ m.left = 0 then notEnabled "LINE_FILL"
    else
      let a := missAcc die m
      match resolve s a (128 * m.line) with
      | .ok s (p, _) =>
        if p.expander then .next (s.setMiss die k m.step)
        else match readLine s a p with
          | .ok s _ => .next ((s.endAsk a p).setMiss die k m.step)
          | .wait s' => if hostBase ≤ p.pa then .next (s'.setMiss die k m.step) else ifAsked s s' "LINE_FILL"
          | .fail s _ => .next (s.setMiss die k m.step)
      | .wait _ => notEnabled "LINE_FILL"
      | .fail s _ => .next (s.setMiss die k m.step)
  | none => notEnabled "LINE_FILL"
/-- RDC_EVICTION (R408): a line of an RDC leaves it, its dirty bytes written through. -/
def execRdcEviction (die line : Nat) (s : State) : Out :=
  match (s.cache die true).find? fun l => l.va = line with
  | some l => match s.evict die true l with
    | .ok s _ => .next s
    | _ => notEnabled "RDC_EVICTION"
  | none => notEnabled "RDC_EVICTION"

/-! ### The die-to-die interface (R407) -/

/-- An earlier message from the same die to the same line is still on its way. -/
def d2dBehind (s : State) (k : Nat) (m : D2d) : Bool :=
  s.d2d.any fun p => decide (p.1 < k) && p.2.src = m.src && p.2.asid = m.asid && p.2.va = m.va && p.2.side = m.side
    && !p.2.acked && !p.2.back
/-- The die that sends a message: the fill of a request and an acknowledgement come from the home (R407). -/
def D2d.sender (m : D2d) : Nat := if m.back || (m.acked && !m.ask) then 1 - m.src else m.src
/-- Cause 0xC8 is noted for each retry. -/
def State.noteRetries (s : State) (src asid : Nat) : Nat → State
  | 0 => s
  | n + 1 => (s.note src 0xC8 (dieLoc src) asid src).noteRetries src asid n
/-- The attempts of a transfer that fail before one succeeds: fewer than 16, and free. -/
def retriesOf (s : State) : Nat := Config.freeNat s.steps % 16
/-- What a message that arrives brings about (R407): a write-through is performed, a request has crossed and its fill sets
out, a fill answers its request. -/
def arrive (s : State) (k : Nat) (m : D2d) : Got Unit :=
  if m.ask then
    .ok { s with d2d := put s.d2d k (if m.back then { m with back := false, acked := true } else { m with back := true }) } ()
  else deliver s k m
/-- DIE_TO_DIE_TRANSFER (R407): a message arrives. -/
def execDieToDieTransfer (k : Nat) (s : State) : Out :=
  match look s.d2d k with
  | some m =>
    if m.acked ∨ s.d2dDown ∨ (!m.back && d2dBehind s k m) then notEnabled "DIE_TO_DIE_TRANSFER"
    else match arrive (s.noteRetries m.sender m.asid (retriesOf s)) k m with
      | .ok s _ => .next s
      | .wait _ => notEnabled "DIE_TO_DIE_TRANSFER"
      | .fail s t => .next (s.fatalAsid (dieOf m.pa) m.asid t)
  | none => notEnabled "DIE_TO_DIE_TRANSFER"
/-- WRITE_THROUGH_ACK (R407): the acknowledgement of a performed write-through arrives, a checked transfer like the others. -/
def execWriteThroughAck (k : Nat) (s : State) : Out :=
  match look s.d2d k with
  | some m =>
    if m.acked && !m.ask && !s.d2dDown then
      .next { s.noteRetries m.sender m.asid (retriesOf s) with d2d := dropAt s.d2d k }
    else notEnabled "WRITE_THROUGH_ACK"
  | none => notEnabled "WRITE_THROUGH_ACK"
/-- A request is in flight: it, its fill or its acknowledgement has not arrived (R407). -/
def D2d.flies (m : D2d) : Bool := !m.ask || !m.acked
/-- The requests in flight on the interface, one for each context that has any: its ASID and the line's address. -/
def flying (s : State) : List (Nat × Nat) :=
  (s.d2d.filter fun p => p.2.flies).foldl (fun t p =>
    if t.any fun q => q.1 = p.2.asid then t else t ++ [(p.2.asid, 128 * p.2.va)]) []
/-- DIE_TO_DIE_TRANSFER_FAILED (R407): 16 attempts have failed; every context with a request in flight ends, and the
interface is retrained. -/
def execDieToDieTransferFailed (k : Nat) (s : State) : Out :=
  match look s.d2d k with
  | some m =>
    if !m.flies ∨ s.d2dDown then notEnabled "DIE_TO_DIE_TRANSFER_FAILED"
    else
      let s1 := s.noteRetries m.sender m.asid 15
      let s1 := (flying s).foldl (fun s p => s.fatalAsid m.sender p.1 { code := 0xC9, info := m.sender, va := p.2 }) s1
      .next { s1 with d2d := dropAt s.d2d k, d2dDown := true }
  | none => notEnabled "DIE_TO_DIE_TRANSFER_FAILED"
/-- DIE_TO_DIE_RETRAINING_COMPLETE (R407). -/
def execDieToDieRetrainingComplete (s : State) : Out :=
  if s.d2dDown then .next { s with d2dDown := false } else notEnabled "DIE_TO_DIE_RETRAINING_COMPLETE"

/-! ### The tier engine (R415 to R420) -/

/-- Bytes written to device memory by physical address, for no context (R421, R422). -/
def physWrite (s : State) (pa : Nat) (bs : List Byte) : State :=
  (pieces pa bs.length bs).foldl (fun s q =>
    dramWrite s contextless (q.va - q.va % 128) 0 ((List.range q.n).zip q.bytes |>.map fun p => (q.va % 128 + p.1, p.2))) s
/-- The correctable errors of a frame are corrected by a copy, each noted with the place that it is read from (R418, R425). -/
def cleanFrame (s : State) (die f : Nat) : State :=
  let hit := s.ecc.filter fun e => e.1 / 2048 = f
  hit.foldl (fun s e => s.noteMem die 0xC3 contextless (memUnit s (32 * e.1)))
    { s with ecc := s.ecc.filter fun e => e.1 / 2048 ≠ f }
/-- The placement of a group with frame `k` in the fast slot (R416, R418). -/
def swapped (r k : Nat) : Nat :=
  let p := permOf r
  permCode ((p.set (p.idxOf 0) (p.getD k 0)).set k 0)
/-- The lines of a frame. -/
def frameLines (f : Nat) : List Nat := (List.range 512).map fun i => 65536 * f + 128 * i
/-- SWAP (R418): both frames are read where they stand, then written to each other's slot; a swap changes the placement of two frames and no byte's value. -/
def execSwap (die k : Nat) (s : State) : Out :=
  let d := s.die die
  match look d.swaps k with
  | none => notEnabled "SWAP"
  | some j =>
    if getAt false d.retraining (stackOf j.group) then notEnabled "SWAP"
    else
      let w := j.group / 2 / 12
      let fast := fastFrame d j.group
      let s := if getAt 0 d.rerr w = 1 then
          (s.setDie die { d with rerr := setAt 0 d.rerr w 0 }).noteMem die 0xC3 contextless (64 + memUnit s (65536 * frameOf j.group j.frame))
        else s
      let d := s.die die
      if getAt 0 d.rerr w ≠ 0 then .next (s.setDie die { d with swaps := dropAt d.swaps k })
      else
        let f := frameOf j.group j.frame
        let g := frameOf j.group fast
        let lines := frameLines f ++ frameLines g
        let s := (cleanFrame (cleanFrame s die f) die g).activate die lines
        let d := s.die die
        let d := { d with swaps := dropAt d.swaps k,
                          remap := setAt 0 d.remap j.group (swapped (getAt 0 d.remap j.group) j.frame),
                          pin := if j.pin then setAt false d.pin j.group true else d.pin }
        .next ((s.setDie die d).activate die lines)
/-- EPOCH_HALVING (R417): every access counter of the die is halved; a sweeper that a fruitless lap stopped goes on
(R420). -/
def execEpochHalving (die : Nat) (s : State) : Out :=
  let d := s.die die
  if s.clock < d.epochAt + d.epoch then notEnabled "EPOCH_HALVING"
  else
    .next (s.setDie die { d with cnt := (d.cnt.map fun p => (p.1, p.2 / 2)).filter fun p => p.2 ≠ 0,
                                 epochAt := s.clock, sweep := { d.sweep with idle := 0 } })

/-- The ring size of a sweeper (R418). -/
def Sweeper.size (w : Sweeper) : Nat := 2 ^ (10 + w.log)
/-- The sweeper as it sees HEAD: a change of HEAD ends a stop (R420). -/
def Sweeper.see (w : Sweeper) (head : Nat) : Sweeper :=
  if head = w.head then w else { w with head := head, idle := 0 }
/-- A frame-table entry is skipped (R419, R420). -/
def entrySkipped (e : Nat) : Bool := !bitOf e 0 || bitsOf e 1 15 ≠ 0 || bitsOf e 41 23 ≠ 0
/-- A word that the sweeper reads by physical address, for no context (R420, R421): none when it is poisoned. -/
def sweepRead (s : State) (pa n : Nat) : Got (Option Nat) :=
  match physRead s contextless pa 0 n with
  | .ok s x => .ok s (some x)
  | .wait s => .wait s
  | .fail s _ => .ok s none
/-- The sweeper examines entry HAND of its frame table, whose bits are `e`: the new position, and what it pushes (R420). A
poisoned entry is passed over (DESIGN CHOICE, log 88). -/
def sweepEntry (s : State) (die : Nat) (w : Sweeper) (e : Option Nat) : State :=
  let hand := (w.hand + 1) % w.entries
  let step (s : State) (w : Sweeper) : State :=
    physWrite (s.setDie die { s.die die with sweep := { w with hand := hand } }) (w.ring + 8) (natToBytes 4 hand)
  match e with
  | none => step s { w with idle := w.idle + 1 }
  | some e =>
    let f := bitsOf e 16 25
    let home := dieOf (65536 * f)
    if entrySkipped e then step s { w with idle := w.idle + 1 }
    else if getAt false (s.die home).abit f then
      step (s.setDie home { s.die home with abit := setAt false (s.die home).abit f false }) { w with idle := w.idle + 1 }
    else
      let tail := (w.tail + 1) % w.size
      let s := physWrite s (w.ring + 0x40 + 4 * w.tail) (natToBytes 4 w.hand)
      step (physWrite s (w.ring + 4) (natToBytes 4 tail)) { w with tail := tail, idle := 0 }
/-- SWEEPER_STEP (R420): the sweeper examines one frame-table entry; its ring's stack may not be in retraining (R424). -/
def execSweeperStep (die : Nat) (s : State) : Out :=
  match sweepRead s (s.die die).sweep.ring 4 with
  | .ok s head =>
    let w := (s.die die).sweep.see (head.getD (s.die die).sweep.head)
    let held := (w.tail + w.size - w.head % w.size) % w.size
    if !w.on ∨ w.mark ≤ held ∨ w.entries ≤ w.idle ∨ retrainingAt s (w.ring + 0x40 + 4 * w.tail) then
      notEnabled "SWEEPER_STEP"
    else match sweepRead s (w.table + 8 * w.hand) 8 with
      | .ok s e => .next (sweepEntry s die w e)
      | _ => notEnabled "SWEEPER_STEP"
  | _ => notEnabled "SWEEPER_STEP"

/-! ### Maintenance (R423, R424) -/

/-- ACTIVATION_COUNTER_SATURATED (R423): a row's counter has saturated or fails its check; it is cleared and cause 0xC4 is
noted. -/
def execActivationCounterSaturated (die stack row : Nat) (s : State) : Out :=
  let d := s.die die
  .next ((s.setDie die { d with rowcnt := setAt 0 d.rowcnt (4294967296 * stack + row) 0 }).noteMem die 0xC4 contextless
    stack)
/-- A save is in progress on a die (R424). -/
def savingOn (s : State) (die : Nat) : Bool :=
  s.blocks.any fun p => p.2.die = die && (p.2.phase matches .saving _)
/-- RETRAINING_START (R424): a pending retraining starts, unless a save is in progress, which is noted as cause 0xC5. -/
def execRetrainingStart (die stack : Nat) (s : State) : Out :=
  let d := s.die die
  let r := getAt 0 d.retrain stack
  if r = 0 ∨ getAt false d.retraining stack then notEnabled "RETRAINING_START"
  else if savingOn s die then .next (s.noteMem die 0xC5 contextless stack)
  else .next (s.setDie die { d with retrain := setAt 0 d.retrain stack 0,
                                    rates := setAt 0 d.rates stack (r - 1),
                                    retraining := setAt false d.retraining stack true })
/-- RETRAINING_COMPLETE (R424). -/
def execRetrainingComplete (die stack : Nat) (s : State) : Out :=
  let d := s.die die
  if getAt false d.retraining stack then
    .next (s.setDie die { d with retraining := setAt false d.retraining stack false })
  else notEnabled "RETRAINING_COMPLETE"

/-! ### The host link (R428 to R432) -/

/-- The host physical address that a host-space address is sent as (R428). -/
def hostAddr (pa : Nat) : Nat := if expanderBase ≤ pa then pa - expanderBase else pa - hostBase
/-- The lines of an RDC that hold a line of the host memory window. -/
def hostLines (s : State) (die pa : Nat) : List Line := (s.cache die true).filter fun l => l.pa = pa
/-- The RDC of a die gives up a host line, or keeps a clean shared copy; dirty bytes go to the host. -/
def snoopDie (s : State) (pa : Nat) (take : Bool) (die : Nat) : State :=
  (hostLines s die pa).foldl (fun s l =>
    match s.meetLine die true l with
    | (s, none) => s
    | (s, some l) =>
      let s := s.writeBack l
      if take then s.dropLine die true l else s.putLine die true { l with dirty := 0, owned := false }) s
/-- HOST_SNOOP (R429, R432): the host takes a line, or its data; what the host then writes stands in its memory. -/
def execHostSnoop (line : Nat) (take : Bool) (bytes : List (Nat × Byte)) (s : State) : Out :=
  if expanderBase ≤ hostBase + 128 * line then notEnabled "HOST_SNOOP"
  else
    let s := snoopDie (snoopDie s (hostBase + 128 * line) take 0) (hostBase + 128 * line) take 1
    .next (if take then { s with hmem := bytes.foldl (fun m p => setByte m (128 * line + p.1 % 128) p.2) s.hmem } else s)

/-- A failed host access (R432): cause 0xC6 for the context, or a skipped line of a PREF. -/
def hostFail (s : State) (k : Nat) (r : HostReq) (reason : Nat) : State :=
  let s := { s with hostReqs := dropAt s.hostReqs k }
  if r.owner = 0 then s
  else s.fatalDie r.die r.slot { code := 0xC6, info := reason, va := r.va - r.va % 128 }
/-- The answer of the host to a request (R428, R429); `bytes`, when given, are what the host holds at the address. -/
def hostAnswer (s : State) (k : Nat) (r : HostReq) (bytes : List Byte) : State :=
  let a := hostAddr r.pa
  let done (s : State) (bs : List Byte) : State := { s with hostReqs := put s.hostReqs k { r with done := some bs } }
  match r.kind with
  | .line =>
    let s := snoopDie s r.pa true (1 - r.die)
    let s := { s with hmem := writeBytes s.hmem a (bytes.take 128) }
    let l : Line := { asid := r.asid, va := r.va / 128, side := false, pa := r.pa,
                      bytes := lineBytes s.hmem a, dirty := 0, poison := 0, cc := 2, locked := false,
                      owned := true, err := 0 }
    let s := { s with hostReqs := dropAt s.hostReqs k }
    match s.makeRoom r.die true l.va with
    | .ok s _ => s.putLine r.die true l
    | _ => s.putLine r.die true l
  | .read n =>
    let s := { s with hmem := writeBytes s.hmem a (bytes.take n) }
    done s (readBytes s.hmem a n)
  | .write bs => done { s with hmem := writeBytes s.hmem a bs } []
  | .atomic op w b c =>
    let s := { s with hmem := writeBytes s.hmem a (bytes.take w) }
    let old := readLE s.hmem a w
    done { s with hmem := writeLE s.hmem a w (atomOp op (if w = 8 then .z64 else .z32) 0 old b c).1 } (natToBytes w old)
/-- HOST_COMPLETION (R429, R432): status 0 success, 1 Unsupported Request or Completer Abort, 2 poisoned data. -/
def execHostCompletion (k status : Nat) (bytes : List Byte) (s : State) : Out :=
  match look s.hostReqs k with
  | some r =>
    if r.done.isSome then notEnabled "HOST_COMPLETION"
    else if status = 0 then .next (hostAnswer s k r bytes)
    else if status ≤ 2 then .next (hostFail s k r status)
    else notEnabled "HOST_COMPLETION"
  | none => notEnabled "HOST_COMPLETION"
/-- HOST_COMPLETION_TIMEOUT (R432). -/
def execHostCompletionTimeout (k : Nat) (s : State) : Out :=
  match look s.hostReqs k with
  | some r =>
    if r.done.isSome ∨ s.clock < r.since + 3600000 then notEnabled "HOST_COMPLETION_TIMEOUT"
    else .next (hostFail s k r 3)
  | none => notEnabled "HOST_COMPLETION_TIMEOUT"

/-- The system-coherent lines of the L2s that hold a line of device memory. -/
def scLines (s : State) (pa : Nat) : List Line := (s.cache (dieOf pa) false).filter fun l => l.pa = pa && l.cc = 2
/-- What the other die has written to the system-coherent copies of a line reaches the home, and those copies go
(R428, R429). -/
def backInvalidate (s : State) (pa : Nat) : Got Unit :=
  let other := 1 - dieOf pa
  let rec go : List Line → State → Got Unit
    | [], s => .ok s ()
    | l :: ls, s =>
      match syncLine s other l.asid l.va l.side with
      | .ok s _ => go ls s
      | .wait s => (go ls s).bind fun s _ => .wait s
      | .fail s t => .fail s t
  let s' := go ((s.cache other true).filter fun l => l.pa = pa && l.cc = 2) s
  s'.bind fun s _ => if s.d2d.any fun p => p.2.pa = pa && p.2.cc = 2 && !p.2.ask && !p.2.acked then .wait s else .ok s ()
/-- The bytes of a CXL.mem write that lie in the line of a device address. -/
def cxlBytes (addr : Nat) (bytes : List Byte) : List (Nat × Byte) :=
  ((List.range bytes.length).zip bytes).filterMap fun p =>
    if addr % 128 + p.1 < 128 then some (addr % 128 + p.1, p.2) else none
/-- The system-coherent copies of a line at its home are read, with the errors of their storage (R383). -/
def meetCopies (s : State) (pa : Nat) : State :=
  (scLines s pa).foldl (fun s l => (s.meetLine (dieOf pa) false l).1) s
/-- A CXL.mem write to a line: system-coherent copies take the bytes at the home, else memory does; a part of a poisoned
word is not written and raises cause 0xC1 for the context whose ASID tags the line (R422). -/
def cxlWrite (s : State) (pa : Nat) (bs : List (Nat × Byte)) : State :=
  let s := meetCopies s pa
  match scLines s pa with
  | [] => dramWrite s contextless pa 0 bs
  | ls => ls.foldl (fun s l =>
      let skip := l.partPoison bs
      let s := s.putLine (dieOf pa) false (l.put bs skip)
      if skip.isEmpty then s
      else s.fatalAsid (dieOf pa) l.asid { code := 0xC1, info := memUnit s pa, va := 128 * l.va }) s
/-- A CXL.mem read of a line (R421, R428): its bytes from a system-coherent copy, else from memory, and whether a word of it
is poisoned. The host's caches may now hold the line. -/
def cxlRead (s : State) (pa : Nat) : State :=
  let give (s : State) (bytes : Sparse Byte) (poison : BitVec 4) : State :=
    { s with host := { s.host with answer := some (pa, readBytes bytes 0 128, poison ≠ 0),
                                   copies := s.host.copies.filter (· ≠ pa) ++ [pa] } }
  let s := meetCopies s pa
  match (scLines s pa).head? with
  | some l => give s l.bytes l.poison
  | none =>
    match dramRead s contextless pa 0 with
    | .ok s (bytes, poison) => give s bytes poison
    | .wait s | .fail s _ => give s [] 15
/-- CXL_MEM_REQUEST (R428, R429): the host reads or writes device memory, one line of it, by the device address that its
HDM decoder gives. -/
def execCxlMemRequest (addr : Nat) (write : Bool) (bytes : List Byte) (s : State) : Out :=
  let pa := addr - addr % 128
  if addr < s.host.hdmBase ∨ s.host.hdmBase + s.host.hdmSize ≤ addr ∨ hostBase ≤ addr ∨ retrainingAt s pa
      ∨ s.power = .d3hot ∨ s.power = .d3cold then notEnabled "CXL_MEM_REQUEST"
  else match backInvalidate s pa with
    | .ok s _ => .next (if write then cxlWrite s pa (cxlBytes addr bytes) else cxlRead s pa)
    | .wait s' => ifAsked s s' "CXL_MEM_REQUEST"
    | .fail _ _ => notEnabled "CXL_MEM_REQUEST"

end Sys2Proof.Machine
end

