-- ==== Sys2Proof/Machine/Commands.lean ====
section
/-! DEFINITION. The commands of the control queue (R339 to R343, R347, R355, R372, R418, R420, R424) and the doorbells
(R339, R430). -/

namespace Sys2Proof.Machine

/-! ### Taking a command -/

/-- The device address of the head of the control queue (R339). -/
def State.cqAddr (s : State) : Nat := Config.cqBase + 64 * s.host.cqHead
/-- The command that stands at the head, read by physical address. -/
def State.cqRaw (s : State) : Cmd := cmdOf (readLE s.dmem s.cqAddr 64)
/-- Some word of the command is poisoned (R421). -/
def State.cqPoisoned (s : State) : Bool := [0, 1].any fun k => getAt false s.poison (s.cqAddr / 32 + k)
/-- The command can be read as it stands: its stack serves accesses, and no word of it carries an error (R421, R424). -/
def State.cqSound (s : State) : Bool :=
  !retrainingAt s s.cqAddr && getAt 0 (s.die (dieOf s.cqAddr)).rerr (remapWord s.cqAddr) = 0 && !s.cqPoisoned
    && !(([0, 1] : List Nat).any fun k => getAt false s.ecc (s.cqAddr / 32 + k))
/-- The command at the head of the control queue (R339); none while it cannot be read as it stands. -/
def State.cqCmd (s : State) : Option Cmd :=
  if s.host.cqHead = s.host.cqTail ∨ s.cqSound = false then none else some s.cqRaw
/-- The operations of the control queue (R341), by name. -/
inductive CqOp where
  | ctxCreate | ctxEnd | ctxReclaim | sqCreate | oqBind | oqUnbind | resolveResume | resolveRetry | resolveKill
  | setAge | ptRoot | inval | invalFlush | asidFlush | l2Quota | tierCtl | tierPin | tierUnpin | sweep | sweepStop
  | hbmRate
  deriving DecidableEq, Repr
/-- The operation that a command asks for; none where the control queue carries out no such operation. -/
def cqOp (x : Cmd) : Option CqOp :=
  match x.op with
  | 0x10 => some .ctxCreate
  | 0x11 => some .ctxEnd
  | 0x12 => some .ctxReclaim
  | 0x13 => some .sqCreate
  | 0x14 => some (if bitOf x.a0 13 then .oqUnbind else .oqBind)
  | 0x15 => match bitsOf x.a2 40 2 with
    | 0 => some .resolveResume
    | 1 => some .resolveRetry
    | 2 => some .resolveKill
    | _ => none
  | 0x16 => some .setAge
  | 0x18 => some .ptRoot
  | 0x19 => some (if bitOf x.a2 32 then .invalFlush else .inval)
  | 0x1A => some .asidFlush
  | 0x1B => some .l2Quota
  | 0x1C => some .tierCtl
  | 0x1D => some (if bitOf x.a1 0 then .tierUnpin else .tierPin)
  | 0x1E => some (if bitOf x.a3 63 then .sweepStop else .sweep)
  | 0x1F => some .hbmRate
  | _ => none
/-- The head index of the control queue moves on (R339); the command has been read from device memory (R423). -/
def State.cqNext (s : State) : State :=
  let s := s.activate (dieOf s.cqAddr) [s.cqAddr]
  { s with host := { s.host with cqHead := (s.host.cqHead + 1) % Config.cqSize } }
/-- A command of the control queue: it is refused, or has its effect; the head index follows (R339, R341). -/
def control (s : State) (o : CqOp) (x : Cmd) (m : String) (bad : Bool) (k : State → Out) : Out :=
  if s.cqCmd ≠ some x ∨ cqOp x ≠ some o ∨ !s.awake then notEnabled m
  else if x.rsv ≠ 0 ∨ bad then .next (s.refuse x).cqNext
  else k s
/-- A command that is complete at once. -/
def commands (s : State) (o : CqOp) (x : Cmd) (m : String) (bad : Bool) (f : State → State) : Out :=
  control s o x m bad fun s => .next (f s).cqNext
/-- The slot that a command names. -/
def cmdSlot (x : Cmd) : Nat := bitsOf x.a0 0 6
/-- The named slot is free. -/
def slotFree (s : State) (x : Cmd) : Bool := (s.ctx (cmdSlot x)).state = .free
/-- Bits from `n` on are set. -/
def above (n x : Nat) : Bool := decide (2 ^ n ≤ x)
/-- Turn.refuse: the head of the control queue holds an operation that the queue does not carry out (R341). A correctable
error of the command is corrected and noted first (R421); a command that cannot be read is refused (DESIGN CHOICE, log 88). -/
def refuseHead (s : State) : Out :=
  match s.cqCmd with
  | some x => if cqOp x = none ∧ s.awake then .next (s.refuse x).cqNext else notEnabled "CQSTAT"
  | none =>
    if s.host.cqHead = s.host.cqTail ∨ !s.awake then notEnabled "CQSTAT"
    else if retrainingAt s s.cqAddr then notEnabled "CQSTAT"
    else match remapCheck s contextless s.cqAddr 0 with
      | .ok s _ => if s.cqPoisoned then .next (s.refuse s.cqRaw).cqNext else .next (eccClean s contextless (s.cqAddr / 32) 2)
      | .wait _ => notEnabled "CQSTAT"
      | .fail s _ => .next (s.refuse s.cqRaw).cqNext

/-! ### Contexts (R341, R343) -/

/-- A vector of CTX_CREATE (R431). -/
def vectorOk (v : Nat) : Bool := decide (1 ≤ v) && decide (v ≤ 255)
/-- An ASID may not be given to a new context: it has been used since its last flush, or a slot still holds it (R343,
R372). -/
def asidTaken (s : State) (a : Nat) : Bool :=
  s.stale.contains a || s.ctxs.any fun p => p.2.asid = a && p.2.state ≠ .free
/-- CTX_CREATE (R341, R343, R372, R399, R430). -/
def execCtxCreate (x : Cmd) (s : State) : Out :=
  let asid := bitsOf x.a0 0 16
  let slot := bitsOf x.a0 16 6
  let v (k : Nat) : Nat := bitsOf x.a3 (16 * k) 16
  let bad := above 22 x.a0 || (s.ctx slot).state ≠ .free || x.a1 % 64 ≠ 0 || x.a2 % 4096 ≠ 0 || above 48 x.a3
    || !vectorOk (v 0) || !vectorOk (v 1) || !vectorOk (v 2) || asidTaken s asid || s.mgmt.recov
  commands s .ctxCreate x "CTX_CREATE" bad fun s =>
    let c : Ctx := { state := .live, asid := asid, frec := x.a1, hring := x.a2, fvec := v 0, hvec := v 1, cvec := v 2, born := s.fresh }
    { s.setCtx slot c with stale := s.stale ++ [asid], power := .d0Active }
/-- CTX_END (R341, R343). -/
def execCtxEnd (x : Cmd) (s : State) : Out :=
  commands s .ctxEnd x "CTX_END" (above 6 x.a0 || slotFree s x || x.a1 ≠ 0 || x.a2 ≠ 0 || x.a3 ≠ 0) fun s =>
    let c := s.ctx (cmdSlot x)
    if c.state = .live then s.setCtx (cmdSlot x) { c with state := .ending, first := none, more := 0 } else s
/-- CTX_RECLAIM (R341, R343): the slot is FREE; its timing-exposed bit stays until CTX_CREATE (R430). -/
def execCtxReclaim (x : Cmd) (s : State) : Out :=
  commands s .ctxReclaim x "CTX_RECLAIM"
    (above 6 x.a0 || (s.ctx (cmdSlot x)).state ≠ .ended || x.a1 ≠ 0 || x.a2 ≠ 0 || x.a3 ≠ 0) fun s =>
    let s := s.discard (cmdSlot x)
    s.setCtx (cmdSlot x) { texp := (s.ctx (cmdSlot x)).texp }

/-! ### Queues (R339, R341, R347) -/

/-- A number is a power of two from 16 to 4,096. -/
def ringSize (n : Nat) : Bool := (List.range 9).any fun k => n = 2 ^ (k + 4)
/-- SQ_CREATE (R341). -/
def execSqCreate (x : Cmd) (s : State) : Out :=
  let q := bitsOf x.a0 6 3
  let bad := above 9 x.a0 || slotFree s x || (look (s.ctx (cmdSlot x)).sqs q).isSome || x.a1 % 4096 ≠ 0
    || !ringSize x.a2 || x.a3 % 8 ≠ 0
  commands s .sqCreate x "SQ_CREATE" bad fun s =>
    let c := s.ctx (cmdSlot x)
    s.setCtx (cmdSlot x) { c with sqs := put c.sqs q { ring := x.a1, entries := x.a2, headwb := x.a3, head := 0, tail := 0 } }
/-- The queue memory of a die (R283). -/
def queueMemory : Nat := 8388608
/-- The queue memory that the bound queues of a die take. -/
def Die.queueUse (d : Die) : Nat := (d.queues.map fun p => p.2.es * p.2.cap).sum
/-- OQ_BIND (R341, R347). -/
def execOqBind (x : Cmd) (s : State) : Out :=
  let q := bitsOf x.a0 6 6
  let die := bitsOf x.a0 12 1
  let es := 64 * bitsOf x.a0 16 16
  let d := s.die die
  let bad := above 32 x.a0 || bitsOf x.a0 14 2 ≠ 0 || slotFree s x || es = 0 || decide (4096 < es)
    || decide (x.a1 < 32) || above 35 x.a2 || x.a3 ≠ 0 || (look d.queues q).isSome
    || decide (queueMemory < d.queueUse + es * x.a1)
  commands s .oqBind x "OQ_BIND" bad fun s =>
    let psq := bitsOf x.a2 32 3
    let pseq := bitsOf x.a2 0 32
    let o : OQueue := { slot := (cmdSlot x), es := es, cap := x.a1, psq := psq, pseq := pseq,
                        pgrid := (s.latest (cmdSlot x) psq pseq).map (·.1), entries := [], rounds := [], pushes := [] }
    let d := s.die die
    s.setDie die { d with queues := put d.queues q o }
/-- OQ_BIND with UNBIND (R341): the queue is freed and its entries are discarded. -/
def execOqUnbind (x : Cmd) (s : State) : Out :=
  let q := bitsOf x.a0 6 6
  let die := bitsOf x.a0 12 1
  let mine := match look (s.die die).queues q with
    | some o => o.slot = (cmdSlot x)
    | none => false
  let es := 64 * bitsOf x.a0 16 16
  let bad := above 32 x.a0 || bitsOf x.a0 14 2 ≠ 0 || slotFree s x || es = 0 || decide (4096 < es)
    || decide (x.a1 < 32) || !mine || above 35 x.a2 || x.a3 ≠ 0
  commands s .oqUnbind x "OQ_UNBIND" bad fun s =>
    let d := s.die die
    s.setDie die { d with queues := dropAt d.queues q }

/-! ### RESOLVE (R174, R176, R347, R351) -/

/-- The held block that a RESOLVE names. -/
def heldBlock (s : State) (x : Cmd) : Option (Nat × Block × Hold) :=
  match s.latest (cmdSlot x) (bitsOf x.a2 32 3) (bitsOf x.a2 0 32) with
  | none => none
  | some (gk, _) =>
    match s.blockOf gk (bitsOf x.a1 0 32) with
    | none => none
    | some (b, y) => y.hold.map fun h => (b, y, h)
/-- The operands of a RESOLVE break the limits of the table, or it names no held block of a context that is not free. -/
def resolveBad (s : State) (x : Cmd) : Bool :=
  above 6 x.a0 || above 32 x.a1 || bitsOf x.a2 35 5 ≠ 0 || above 42 x.a2 || x.a3 ≠ 0 || slotFree s x
    || (heldBlock s x).isNone
/-- RESOLVE with RESUME (R174, R351): the block continues; a saved one is restored without its hold (R176). Once the RESUME is
recorded the block counts as held no longer, so a later RESOLVE of it is refused (DESIGN CHOICE, log 115). -/
def execResolveResume (x : Cmd) (s : State) : Out :=
  commands s .resolveResume x "RESOLVE_RESUME" (resolveBad s x) fun s =>
    match heldBlock s x with
    | none => s
    | some (b, y, _) => s.setBlock b { y with hold := none }
/-- The phase in which a step of staging or drain begins again. -/
def Phase.restart : Phase → Phase
  | .staging _ => .staging 0
  | .draining _ c => .draining 0 c
  | p => p
/-- RESOLVE with RETRY (R174, R351): the step that faulted is performed again from its first entry. -/
def execResolveRetry (x : Cmd) (s : State) : Out :=
  let other := match heldBlock s x with
    | some (_, _, h) => h.trap.code ≠ 0xA2
    | none => true
  commands s .resolveRetry x "RESOLVE_RETRY" (resolveBad s x || other) fun s =>
    match heldBlock s x with
    | none => s
    | some (b, y, _) =>
      let fresh := y.phase matches .staging _
      s.setBlock b { y with hold := none, phase := y.phase.restart, share := if fresh then [] else y.share }
/-- RESOLVE with KILL (R174): the cause becomes context-fatal, with HOSTK. -/
def execResolveKill (x : Cmd) (s : State) : Out :=
  commands s .resolveKill x "RESOLVE_KILL" (resolveBad s x) fun s =>
    match heldBlock s x with
    | none => s
    | some (_, y, h) => s.fatal y.slot (faultRec s y (h.crew.getD 255) flagHostk h.trap)
/-- SET_AGE (R341, R355). -/
def execSetAge (x : Cmd) (s : State) : Out :=
  commands s .setAge x "SET_AGE" (above 32 x.a0 || x.a1 ≠ 0 || x.a2 ≠ 0 || x.a3 ≠ 0) fun s =>
    { s with age0 := x.a0, age1 := x.a0 }

/-! ### Translation (R372) -/

/-- PT_ROOT (R372). -/
def execPtRoot (x : Cmd) (s : State) : Out :=
  commands s .ptRoot x "PT_ROOT"
    (above 6 x.a0 || slotFree s x || x.a1 % 4096 ≠ 0 || decide (hostBase ≤ x.a1) || x.a2 ≠ 0 || x.a3 ≠ 0) fun s =>
    s.setCtx (cmdSlot x) { s.ctx (cmdSlot x) with root := x.a1 }
/-- The TLB entries of an ASID that translate some part of a range, and its entries in the walkers, leave both dies (R372). -/
def State.dropTlb (s : State) (asid lo hi : Nat) : State :=
  let f (d : Die) : Die :=
    { d with tlb := d.tlb.filter fun e => !(e.asid = asid && decide (e.va < hi) && decide (lo < e.va + e.size)),
             walker := d.walker.filter fun e => e.asid ≠ asid }
  { s with die0 := f s.die0, die1 := f s.die1 }
/-- A choice of lines by ASID and line number: those of an ASID between two line numbers. -/
def lineIn (asid lo hi : Nat) (a va : Nat) : Bool := a = asid && decide (lo ≤ va) && decide (va < hi)
/-- Lines of an RDC are written back or set out to their home, and dropped. -/
def flushRdc (s : State) (die : Nat) (sel : Nat → Nat → Bool) : State :=
  ((s.cache die true).filter fun l => sel l.asid l.va).foldl (fun s l =>
    match s.meetLine die true l with
    | (s, none) => s
    | (s, some l) => (if hostBase ≤ l.pa then s.writeBack l else s.sendThrough die l).dropLine die true l) s
/-- Lines of an L2 are written back and dropped; locked ones too. -/
def flushL2 (die : Nat) : List Line → State → Got Unit
  | [], s => .ok s ()
  | l :: ls, s => (s.evict die false l).bind fun s _ => flushL2 die ls s
/-- A line of the choice is still on its way from the host. -/
def hostWaits (s : State) (sel : Nat → Nat → Bool) : Bool :=
  s.hostReqs.any fun p => p.2.kind = .line && p.2.done.isNone && sel p.2.asid (p.2.va / 128)
/-- Every line of a choice is written back if it is dirty, unlocked and dropped, on both dies (R372); what the RDCs hold goes
to its home first, and write-throughs on their way are awaited (R408). -/
def flushLines (s : State) (sel : Nat → Nat → Bool) : Got Unit :=
  let s := flushRdc (flushRdc s 0 sel) 1 sel
  if s.d2d.any fun p => sel p.2.asid p.2.va && !p.2.ask && !p.2.acked then .wait s
  else
    let pick (s : State) (die : Nat) : List Line := (s.cache die false).filter fun l => sel l.asid l.va
    let loose (d : Die) : Die := { d with relock := d.relock.filter fun t => !sel t.1 t.2.1 }
    (flushL2 0 (pick s 0) s).bind fun s _ => (flushL2 1 (pick s 1) s).bind fun s _ =>
      .ok { s with die0 := loose s.die0, die1 := loose s.die1 } ()
/-- A flush of a choice: the head moves on once it is complete on both dies; lines on their way from the host are awaited. -/
def flushed (s : State) (m : String) (sel : Nat → Nat → Bool) (f : State → State) : Out :=
  if hostWaits s sel then notEnabled m
  else match flushLines s sel with
    | .ok s _ => .next (f s).cqNext
    | .wait s' => ifAsked s s' m
    | .fail _ _ => notEnabled m
/-- The operands of an INVAL break the limits of the table. -/
def invalBad (s : State) (x : Cmd) : Bool :=
  let n := bitsOf x.a2 0 32
  above 6 x.a0 || slotFree s x || x.a1 % 65536 ≠ 0 || above 57 x.a1 || n = 0 || decide (2 ^ 31 ≤ n) || above 33 x.a2
    || x.a3 ≠ 0
/-- The end of the range of an INVAL. -/
def invalEnd (x : Cmd) : Nat := x.a1 + 65536 * bitsOf x.a2 0 32
/-- INVAL (R372): TLB entries of the range go, on both dies. -/
def execInval (x : Cmd) (s : State) : Out :=
  commands s .inval x "INVAL" (invalBad s x) fun s => s.dropTlb (s.ctx (cmdSlot x)).asid x.a1 (invalEnd x)
/-- INVAL with FLUSH (R372). -/
def execInvalFlush (x : Cmd) (s : State) : Out :=
  control s .invalFlush x "INVAL_FLUSH" (invalBad s x) fun s =>
    let asid := (s.ctx (cmdSlot x)).asid
    flushed s "INVAL_FLUSH" (lineIn asid (x.a1 / 128) (invalEnd x / 128)) fun s => s.dropTlb asid x.a1 (invalEnd x)
/-- ASID_FLUSH (R372): every entry and line of the ASID; it counts as flushed unless a context still works under it. -/
def execAsidFlush (x : Cmd) (s : State) : Out :=
  control s .asidFlush x "ASID_FLUSH" (above 16 x.a0 || x.a1 ≠ 0 || x.a2 ≠ 0 || x.a3 ≠ 0) fun s =>
    flushed s "ASID_FLUSH" (lineIn x.a0 0 (2 ^ 64)) fun s =>
      let s := s.dropTlb x.a0 0 (2 ^ 64)
      if s.ctxs.any fun p => p.2.asid = x.a0 && (p.2.state = .live || p.2.state = .ending) then s
      else { s with stale := s.stale.filter (· ≠ x.a0) }
/-- L2_QUOTA (R372). -/
def execL2Quota (x : Cmd) (s : State) : Out :=
  commands s .l2Quota x "L2_QUOTA"
    (above 6 x.a0 || slotFree s x || decide (786432 < x.a1) || x.a2 ≠ 0 || x.a3 ≠ 0) fun s =>
    s.setCtx (cmdSlot x) { s.ctx (cmdSlot x) with quota := x.a1 }

/-! ### Tiers (R418, R420, R424) -/

/-- TIER_CTL (R418). -/
def execTierCtl (x : Cmd) (s : State) : Out :=
  let bad := above 3 x.a0 || above 16 x.a1 || above 32 x.a2 || decide (x.a2 < 4096) || x.a3 ≠ 0
  commands s .tierCtl x "TIER_CTL" bad fun s =>
    let f (d : Die) : Die :=
      { d with swapOn := bitOf x.a0 2, thr := bitsOf x.a1 0 8, minc := bitsOf x.a1 8 8, epoch := x.a2 }
    { s with die0 := if bitOf x.a0 0 then f s.die0 else s.die0, die1 := if bitOf x.a0 1 then f s.die1 else s.die1 }
/-- The operands of a TIER_PIN break the limits of the table. -/
def pinBad (x : Cmd) : Bool := x.a0 % 65536 ≠ 0 || decide (hostBase ≤ x.a0) || above 1 x.a1 || x.a2 ≠ 0 || x.a3 ≠ 0
/-- Another frame of the group is pinned, or is being pinned. -/
def otherPinned (d : Die) (pa : Nat) : Bool :=
  let g := groupNo pa
  (getAt false d.pin g && slotOfPa d pa ≠ 0)
    || (match look d.swaps g with
      | some j => j.pin && j.frame ≠ bitsOf pa 16 2
      | none => false)
/-- TIER_PIN (R418): the frame moves into slot 0 by a swap, and its group is frozen; the head moves on once it is there. -/
def execTierPin (x : Cmd) (s : State) : Out :=
  let die := dieOf x.a0
  control s .tierPin x "TIER_PIN" (pinBad x || otherPinned (s.die die) x.a0) fun s =>
    let d := s.die die
    let g := groupNo x.a0
    match look d.swaps g with
    | some _ => notEnabled "TIER_PIN"
    | none =>
      if slotOfPa d x.a0 = 0 then .next (s.setDie die { d with pin := setAt false d.pin g true }).cqNext
      else .next (s.setDie die { d with swaps := put d.swaps g ⟨g, bitsOf x.a0 16 2, true⟩ })
/-- TIER_PIN with unpin (R418). -/
def execTierUnpin (x : Cmd) (s : State) : Out :=
  commands s .tierUnpin x "TIER_UNPIN" (pinBad x) fun s =>
    let die := dieOf x.a0
    let d := s.die die
    s.setDie die { d with pin := setAt false d.pin (groupNo x.a0) false }
/-- The operands of a SWEEP break the limits of the table. -/
def sweepBad (x : Cmd) : Bool :=
  let log := bitsOf x.a2 0 4
  x.a0 % 64 ≠ 0 || decide (hostBase ≤ x.a0) || x.a1 = 0 || decide (2 ^ 25 < x.a1) || bitsOf x.a2 4 8 ≠ 0
    || decide (hostBase ≤ x.a2) || decide (6 < log) || decide (2 ^ (10 + log) ≤ bitsOf x.a3 0 32)
    || bitsOf x.a3 32 31 ≠ 0
/-- SWEEP (R418, R420): the sweeper of the die that holds the frame table starts at its first entry. HEAD is read from device
memory: not during a retraining of its stack (R424), and as 0 where it is poisoned (DESIGN CHOICE, log 88). -/
def execSweep (x : Cmd) (s : State) : Out :=
  control s .sweep x "SWEEP" (sweepBad x) fun s =>
    let log := bitsOf x.a2 0 4
    let ring := x.a2 - log
    match sweepRead s ring 4 with
    | .ok s head =>
      let die := dieOf x.a0
      let w : Sweeper := { on := true, table := x.a0, entries := x.a1, ring := ring, log := log,
                           mark := bitsOf x.a3 0 32, head := head.getD 0 }
      .next (s.setDie die { s.die die with sweep := w }).cqNext
    | _ => notEnabled "SWEEP"
/-- SWEEP with stop (R420): the sweepers halt. -/
def execSweepStop (x : Cmd) (s : State) : Out :=
  commands s .sweepStop x "SWEEP_STOP" (sweepBad x) fun s =>
    let f (d : Die) : Die := { d with sweep := { d.sweep with on := false } }
    { s with die0 := f s.die0, die1 := f s.die1 }
/-- HBM_RATE (R418, R424): a retraining of the stack is requested. -/
def execHbmRate (x : Cmd) (s : State) : Out :=
  commands s .hbmRate x "HBM_RATE" (above 3 x.a0 || decide (2 < x.a1) || x.a2 ≠ 0 || x.a3 ≠ 0) fun s =>
    let die := x.a0 / 4
    let d := s.die die
    s.setDie die { d with retrain := setAt 0 d.retrain x.a0 (x.a1 + 1) }

/-! ### Doorbells (R339, R430) -/

/-- CQDB (R339): the host writes the new tail of the control queue. -/
def execCqdb (w : Nat) (s : State) : Out :=
  if s.awake then .next { s with host := { s.host with cqTail := w % Config.cqSize } } else notEnabled "CQDB"
/-- SQDB (R339): the host writes the new tail of a submission queue, `sq` being 8 × slot + queue; the doorbell of a queue
that does not exist does nothing. -/
def execSqdb (sq w : Nat) (s : State) : Out :=
  if !s.awake then notEnabled "SQDB"
  else
    let c := s.ctx (sq / 8)
    match look c.sqs (sq % 8) with
    | none => .next s
    | some k => .next (s.setCtx (sq / 8) { c with sqs := put c.sqs (sq % 8) { k with tail := w % k.entries } })

end Sys2Proof.Machine
end

