-- ==== Sys2Proof/Machine/Fabric.lean ====
section
/-! DEFINITION. Collectives and sends (R448 to R458): the checks at issue, the contribution and the reduction, the chunks of
the collective engine, and the matching of sends with receives. -/

namespace Sys2Proof.Machine

/-! ### Commands at their issue (R448, R449) -/

/-- The end of the global space (R449, reason 4). -/
def vaEnd : Nat := 2 ^ 57
/-- A local operand is an offset in the share at an alignment (R449, reason 2). -/
def shareBad (x : Block) (a n al : Nat) : Bool := a % al ≠ 0 || decide (x.r.lmem < a + n)
/-- The command reads a part of the share at its issue, after the crew's earlier stores; an uncorrectable error ends the
context (R199). -/
def withShare (s : State) (e : Env) (a n : Nat) (k : State → Env → List Byte → Out) : Out :=
  let (s', bad) := s.meetRead e.b e.c .share [(a, n)]
  if bad then .next s'
  else match s'.block e.b with
    | none => .next s'
    | some x => k s' { e with blk := x } (readBytes x.share a n)
/-- A command that has passed its checks takes a token (R394, R449). -/
def tokenEnter (s : State) (e : Env) (d : Nat) (f : State → State) : Out :=
  if (s.liveToken e.b e.c (nextToken e)).isSome then trapAt s e 0x45 2 e.act else giveToken (f s) e d
/-- An instruction of the fabric at its issue: task grids are turned away, and the crew's earlier stores reach the share
(R449, reason 1; R456). -/
def fabIssue (s : State) (i : Instr) (k : State → Env → Out) : Out :=
  issue s i fun s e => perCrew s e <|
    if !e.blk.r.res then trapAt s e 0xAB 1 e.act else afterQueue s e i k

/-! ### Collectives at their issue (R450, R451) -/

/-- The bytes of an element of SRC: those of DT for AG, else those of FP32 (R450). -/
def Coll.width (k : Coll) : Nat := if k.k.kind = 1 ∧ k.k.dt ≠ 0 then 2 else 4
/-- The elements that the collective writes at each rank (R453). -/
def Coll.outs (k : Coll) : Nat :=
  if k.k.kind = 2 then k.k.count / k.nmem else if k.k.kind = 1 ∧ !k.k.sh then k.nmem * k.k.count else k.k.count
/-- The collective of a domain record and a descriptor, before it has a number. -/
def collOf (e : Env) (x : FabOps) (dom desc : List Byte) : Coll :=
  let f (o n : Nat) : Nat := sliceNat dom o n
  let g (o n : Nat) : Nat := sliceNat desc o n
  { blk := e.b, crew := e.c, slot := e.blk.slot, die := e.blk.die, token := nextToken e, dkey := f 0 4, num := 0,
    rank := f 8 4, nmem := f 4 4, mva := f 16 8, k := ⟨x.kind, x.dt, x.res, x.sh, g 24 4 % 2 ^ 29⟩, src := g 0 8,
    dst := g 8 8, resv := g 16 8 }
/-- A reserved bit of the two records is set, or the domain breaks its limits (R449, reason 2). -/
def collRecordBad (k : Coll) (dom desc : List Byte) : Bool :=
  sliceNat dom 0x0C 4 ≠ 0 || dirtySlice dom 0x18 40 || decide (2 ^ 29 ≤ sliceNat desc 0x18 4)
    || sliceNat desc 0x1C 4 ≠ 0 || (!k.k.res && k.resv ≠ 0)
    || k.dkey = 0 || k.nmem = 0 || decide (8192 < k.nmem) || decide (k.nmem ≤ k.rank)
/-- The count breaks its limits (R449, reason 3). -/
def collCountBad (k : Coll) : Bool :=
  k.k.count = 0 || decide (2 ^ 28 < k.k.count) || (k.k.kind = 2 && k.k.count % k.nmem ≠ 0)
    || (k.k.sh && k.k.count * k.width % 65536 ≠ 0)
/-- An address breaks its alignment or its range leaves the global space (R449, reason 4). -/
def collAddrBad (k : Coll) : Bool :=
  let al := if k.k.sh then 65536 else k.width
  k.src % al ≠ 0 || k.dst % al ≠ 0 || k.mva % 2 ≠ 0 || (k.k.res && k.resv % 64 ≠ 0)
    || decide (vaEnd < k.src + k.k.count * k.width) || decide (vaEnd < k.dst + k.outs * k.width)
    || decide (vaEnd < k.mva + 2 * k.nmem) || (k.k.res && decide (vaEnd < k.resv + 64 + 4 * k.k.count))
/-- The reason for which a COLL is turned away once its records have been read. -/
def collReason (k : Coll) (dom desc : List Byte) : Option Nat :=
  if collRecordBad k dom desc then some 2 else if collCountBad k then some 3 else if collAddrBad k then some 4 else none
/-- The use of a key at an endpoint. -/
def State.domainOf (s : State) (slot die dkey : Nat) : Option DomainUse :=
  s.domains.find? fun d => d.slot = slot && d.die = die && d.dkey = dkey
/-- A collective takes its number on its key (R451) and reaches the engine. -/
def State.addColl (s : State) (k : Coll) : State :=
  let (n, s) := s.take
  match s.domainOf k.slot k.die k.dkey with
  | none =>
    { s with colls := put s.colls n k, domains := s.domains ++ [⟨k.slot, k.die, k.dkey, [], k.rank, 1⟩] }
  | some u =>
    { s with colls := put s.colls n { k with num := u.count },
             domains := s.domains.map fun d => if d = u then { d with count := d.count + 1 } else d }
/-- COLL (R449 to R451). -/
def execColl (x : FabOps) (s : State) : Out :=
  fabIssue s (.coll x) fun s e =>
    let a := (e.cw.rs x.a).toNat
    let b := (e.cw.rs x.b).toNat
    if shareBad e.blk a 64 64 || shareBad e.blk b 32 32 then trapAt s e 0xAB 2 e.act
    else withShare s e a 64 fun s e dom => withShare s e b 32 fun s e desc =>
      let k := collOf e x dom desc
      match collReason k dom desc with
      | some r => trapAt s e 0xAB r e.act
      | none => tokenEnter s e x.d fun s => s.addColl k

/-! ### Contributions and reduction (R452 to R454) -/

/-- The contribution and the residual of one element whose value with its residual is `x`; `sc` is the scale of its
block for E4M3 (R452). -/
def contribution (dt x sc : Nat) : Nat × Nat :=
  let v := valueOf .f32 x
  let c : Val :=
    if dt = 0 then v
    else if dt = 1 then valueOf .bf16 (roundTo .bf16 v .rn false).1
    else match bandVal sc with
      | .num s n d =>
        if n = 0 then .num false 0 1
        else (mulVal (.num s n d) (valueOf .e4m3 (roundTo .e4m3 (divVal v (.num s n d)).1 .rn false).1)).1
      | _ => .nan
  ((roundTo .f32 c .rn false).1, (roundTo .f32 (addVal false v c.opp).1 .rn false).1)
/-- The contributions and residuals of elements, block by block of 32 (R452). -/
def contributions (dt : Nat) : Nat → List Nat → List (Nat × Nat)
  | 0, _ => []
  | n + 1, xs =>
    if xs.isEmpty then []
    else
      let blk := xs.take 32
      let sc := if dt = 2 then fp8Scale .e4m3 blk else 0
      blk.map (fun x => contribution dt x sc) ++ contributions dt n (xs.drop 32)
/-- The largest power of two below `n`, found among those up to 2^12. -/
def halfOf (n : Nat) : Nat := (List.range 13).foldl (fun h k => if 2 ^ k < n then 2 ^ k else h) 1
/-- The reduction tree over the ranks from `lo`, so many of them (R453). The first argument bounds its depth. -/
def tree (c : Nat → Nat) : Nat → Nat → Nat → Nat
  | 0, lo, _ => c lo
  | d + 1, lo, n =>
    if n ≤ 1 then c lo
    else (fAdd .f32 .rn (tree c d lo (halfOf n)) (tree c d (lo + halfOf n) (n - halfOf n))).1
/-- The fold of an address (R454). -/
def foldVa (va : Nat) : Nat := bitsOf va 16 16 ^^^ bitsOf va 32 16 ^^^ bitsOf va 48 9
/-- The shard owner of a granule (R454). -/
def shardOwner (va n : Nat) : Nat := foldVa va % n
/-- The header of a residual buffer (R452). -/
def residualHeader (k : Coll) : Nat := k.k.count + 2 ^ 32 * k.k.dt + 2 ^ 64 * k.dkey

/-! ### The engine (R451 to R455) -/

/-- The elements of a chunk of 64 KiB. -/
def Coll.perChunk (k : Coll) : Nat := 65536 / k.width
/-- The chunks of so many elements. -/
def Coll.chunksOf (k : Coll) (n : Nat) : Nat := (n + k.perChunk - 1) / k.perChunk
/-- The engine's access to SRC, RESV and the member list, or to DST (R450, R455). -/
def Coll.acc (k : Coll) (key : Nat) (store : Bool) : Acc :=
  { die := k.die, slot := k.slot, rd := !store, wr := store, pkg := true, scope := some 6, dc := true,
    use := if store then .mustHide else .forbid, sides := if store then k.sides else [], owner := 2 * key }
/-- The engine's access to the residual buffer, which it writes directly. -/
def Coll.resvAcc (k : Coll) (key : Nat) : Acc := { k.acc key true with use := .forbid, sides := [] }
/-- The end of a collective at a rank: its token is complete and the contributions it took go. -/
def State.endColl (s : State) (key : Nat) (k : Coll) (f : Option Trap) : State :=
  let s := s.endToken k.blk k.crew k.token f
  { s with colls := dropAt s.colls key,
           contribs := s.contribs.filter fun c => !(c.slot = k.slot && c.die = k.die && c.dkey = k.dkey && c.num = k.num) }
/-- A fault of the engine (R449): held with the token, a shadowing fault as reason 5, or context-fatal. -/
def collFault (s : State) (key : Nat) (k : Coll) (t : Trap) : State :=
  if t.code = 0xA6 then s.endColl key k (some { code := 0xAB, info := 5 })
  else if errCode t.code = 0 then s.fatalBlock k.blk k.crew 0 t
  else s.endColl key k (some t)
/-- Cause 0xE3 (R451, R467). -/
def mismatch (s : State) (k : Coll) : State := s.fatalDie k.die k.slot { code := 0xE3, info := k.dkey }
/-- A digest reaches a die (R451): one that differs from the list of the key's first use there raises cause 0xE3. -/
def State.digestArrives (s : State) (d : Digest) : State :=
  let s := { s with fab := { s.fab with digests := s.fab.digests ++ [d] } }
  match s.domainOf d.slot d.die d.dkey with
  | some u => if !u.mlist.isEmpty && u.mlist ≠ d.mlist then s.fatalDie d.die d.slot { code := 0xE3, info := d.dkey } else s
  | none => s
/-- The digest of a list sets out to every member at the first use of a key (R451). -/
def sendDigest (s : State) (k : Coll) (ms : List Nat) : State :=
  ms.foldl (fun s ep =>
    match s.dieOfEp ep with
    | some d => s.digestArrives ⟨k.slot, d, k.dkey, s.endpoint k.die, ms⟩
    | none => s.sendFab k.die (s.ctx k.slot).asid ep (.digest k.dkey ms)) s
/-- The digests of a key that have reached a die. -/
def State.digestsOf (s : State) (slot die dkey : Nat) : List Digest :=
  s.fab.digests.filter fun d => d.slot = slot && d.die = die && d.dkey = dkey
/-- Every member's digest has come. -/
def digestsIn (s : State) (k : Coll) : Bool :=
  k.mlist.all fun ep => (s.digestsOf k.slot k.die k.dkey).any fun d => d.ep = ep
/-- Some digest of the key differs from the list in use (R451). -/
def digestsDiffer (s : State) (k : Coll) : Bool :=
  (s.digestsOf k.slot k.die k.dkey).any fun d => d.mlist ≠ k.mlist
/-- The collective joins its domain (R451): the member list is read, and checked at the first use, whose digest then sets
out, or against it. -/
def joinColl (s : State) (key : Nat) (k : Coll) : Got State :=
  (s.gread { k.acc key false with scope := none, dc := false, use := .visible } k.mva (2 * k.nmem)).bind fun s (bs, _) =>
    let s := s.forget (2 * key)
    let ms := unpackWords 2 k.nmem bs
    let first := match s.domainOf k.slot k.die k.dkey with
      | some u => u.mlist.isEmpty
      | none => true
    let same := match s.domainOf k.slot k.die k.dkey with
      | some u => u.mlist = ms && u.rank = k.rank
      | none => false
    let bad := if first then
        (ms.any fun m => decide (8192 ≤ m)) || ms.eraseDups.length ≠ ms.length || ms[k.rank]? ≠ some (s.endpoint k.die)
      else !same
    let s := if first && !bad then sendDigest s k ms else s
    .ok s (if bad then mismatch s k
      else { s with colls := put s.colls key { k with mlist := ms, joined := true },
                    domains := s.domains.map fun d =>
                      if d.slot = k.slot && d.die = k.die && d.dkey = k.dkey then { d with mlist := ms } else d })
/-- A contribution sets out to every member (R451): to the dies of this package at once, to others as a message. -/
def publish (s : State) (k : Coll) : State :=
  k.mlist.foldl (fun s ep =>
    match s.dieOfEp ep with
    | some d => { s with contribs := s.contribs ++ [⟨k.slot, d, k.dkey, k.num, k.rank, k.mlist, k.k, k.vals⟩] }
    | none => s.sendFab k.die (s.ctx k.slot).asid ep (.contrib k.dkey k.num k.rank k.mlist k.k k.vals)) s
/-- The elements of a source chunk: the first and how many. -/
def Coll.srcChunk (k : Coll) : Nat × Nat :=
  let lo := k.chunks * k.perChunk
  (lo, min k.perChunk (k.k.count - lo))
/-- A source chunk without arithmetic: the elements as they stand; with SH only a granule that the rank owns (R453). -/
def gatherChunk (s : State) (key : Nat) (k : Coll) : Got Coll :=
  let (lo, n) := k.srcChunk
  let w := k.width
  if k.k.sh ∧ shardOwner (k.src + lo * w) k.nmem ≠ k.rank then .ok s k
  else
    (s.gread (k.acc key false) (k.src + lo * w) (n * w)).bind fun s (bs, _) =>
      let xs := unpackWords w n bs
      .ok s { k with vals := k.vals ++ ((List.range n).map (lo + ·)).zip xs }
/-- A source chunk of AR and RS: contributions, and with RES the residuals, whose buffer takes them at once (R452). -/
def reduceChunk (s : State) (key : Nat) (k : Coll) : Got Coll :=
  let (lo, n) := k.srcChunk
  let ra := k.resv + 64 + 4 * lo
  (s.greadAll (k.acc key false)
    ((k.src + 4 * lo, 4 * n) :: (if k.k.res then [(k.resv, 64), (ra, 4 * n)] else []))).bind fun s (bs, _) =>
    let xs := unpackWords 4 n bs
    let hdr := sliceNat bs (4 * n) 64
    let k := if !k.k.res ∨ k.chunks ≠ 0 ∨ hdr = residualHeader k then k
      else { k with fresh := true, fault := if hdr = 0 then none else some { code := 0xE9 } }
    let rs := if k.fresh then List.replicate n 0 else unpackWords 4 n (bs.drop (4 * n + 64))
    let ys := if k.k.res then (xs.zip rs).map fun p => (fAdd .f32 .rn p.1 p.2).1 else xs
    let cs := contributions k.k.dt (n / 32 + 1) ys
    let k := { k with vals := k.vals ++ ((List.range n).map (lo + ·)).zip (cs.map (·.1)) }
    if !k.k.res then .ok s k
    else
      (s.gwriteAll (k.resvAcc key) [(k.resv, natToBytes 64 (residualHeader k)), (ra, packWords 4 (cs.map (·.2)))]).bind
        fun s _ => .ok s k
/-- A chunk of the source moves; after the last one the contribution sets out. -/
def sourceChunk (s : State) (key : Nat) (k : Coll) : Got State :=
  (if k.k.kind = 1 then gatherChunk s key k else reduceChunk s key k).bind fun s k =>
    let k := { k with chunks := k.chunks + 1 }
    let s := s.forget (2 * key)
    .ok s (if k.chunks < k.chunksOf k.k.count then { s with colls := put s.colls key k }
      else publish { s with colls := put s.colls key { k with formed := true } } k)
/-- The contributions to a collective that have reached its endpoint. -/
def State.contribsOf (s : State) (k : Coll) : List Contrib :=
  s.contribs.filter fun c => c.slot = k.slot && c.die = k.die && c.dkey = k.dkey && c.num = k.num
/-- The members disagree (R451): on the kind or the list, or two claim one rank. -/
def disagree (k : Coll) (cs : List Contrib) : Bool :=
  (cs.any fun c => c.k ≠ k.k || c.mlist ≠ k.mlist) || (cs.map (·.rank)).eraseDups.length ≠ cs.length
/-- Element `i` of a rank's contribution. -/
def contribAt (cs : List Contrib) (rank i : Nat) : Nat :=
  match cs.find? fun c => c.rank = rank with
  | some c => (look c.vals i).getD 0
  | none => 0
/-- Element `i` of what a rank writes; none for an element of a granule that no rank sent, or two (R453, R454). -/
def resultAt (k : Coll) (cs : List Contrib) (i : Nat) : Option Nat :=
  if k.k.sh then
    match cs.filter fun c => (look c.vals i).isSome with
    | [c] => look c.vals i
    | _ => none
  else if k.k.kind = 1 then some (contribAt cs (i / k.k.count) (i % k.k.count))
  else
    let j := if k.k.kind = 2 then k.rank * (k.k.count / k.nmem) + i else i
    some (tree (fun r => contribAt cs r j) 14 0 k.nmem)
/-- The number of the next chunk of the destination. -/
def Coll.outChunk (k : Coll) : Nat := k.chunks - k.chunksOf k.k.count
/-- A chunk of the destination is written to the invisible side (R455). -/
def resultChunk (s : State) (key : Nat) (k : Coll) (cs : List Contrib) : Got State :=
  let lo := k.outChunk * k.perChunk
  let n := min k.perChunk (k.outs - lo)
  let xs := (List.range n).map fun i => resultAt k cs (lo + i)
  if xs.any Option.isNone then .ok s (mismatch s k)
  else
    (s.gwrite (k.acc key true) (k.dst + lo * k.width) (packWords k.width (xs.map fun x => x.getD 0))).bind fun s a =>
      let s := s.forget (2 * key)
      .ok s { s with colls := put s.colls key { k with chunks := k.chunks + 1, sides := a.sides } }
/-- The next step of a collective: it joins, a chunk of the source moves, or one of the destination. None when it waits
for an earlier use of its key or for other members, whose digests come before the source moves. -/
def collStep (s : State) (key : Nat) (k : Coll) : Option (Got State) :=
  let cs := s.contribsOf k
  if !k.joined then
    if s.colls.any fun p => decide (p.1 < key) && p.2.slot = k.slot && p.2.die = k.die && p.2.dkey = k.dkey && !p.2.joined
    then none else some (joinColl s key k)
  else if digestsDiffer s k then some (.ok s (mismatch s k))
  else if !digestsIn s k then none
  else if !k.formed then some (sourceChunk s key k)
  else if disagree k cs then some (.ok s (mismatch s k))
  else if cs.length < k.nmem ∨ k.chunksOf (k.outs) ≤ k.outChunk then none
  else some (resultChunk s key k cs)
/-- COLL_CHUNK (R451 to R455): the engine takes one step of a collective, saved issuer or not. -/
def execCollChunk (k : Nat) (s : State) : Out :=
  match look s.colls k with
  | none => notEnabled "COLL_CHUNK"
  | some c =>
    if (s.ctx c.slot).state ≠ .live then notEnabled "COLL_CHUNK"
    else match collStep s k c with
      | none => notEnabled "COLL_CHUNK"
      | some (.ok _ s') => .next s'
      | some (.wait s') => ifAsked s s' "COLL_CHUNK"
      | some (.fail s t) => .next (collFault s k c t)
/-- COLL_COMPLETE (R455): the rank's own writes have been performed. -/
def execCollComplete (k : Nat) (s : State) : Out :=
  match look s.colls k with
  | none => notEnabled "COLL_COMPLETE"
  | some c =>
    if (s.ctx c.slot).state = .live ∧ c.joined ∧ c.formed ∧ c.chunksOf (c.outs) ≤ c.outChunk then
      .next (s.endColl k c c.fault)
    else notEnabled "COLL_COMPLETE"

/-! ### Sends and receives (R456) -/

/-- The reason for which a CSEND, CSEND.RWD or CRECV is turned away (R449, R456, R457): `unit` bytes for each of `n`
counts, which must be a multiple of `mul` from `mul` to `most`; `word` names the endpoint, and has no bit of `rsv`. -/
def sendReason (x : Block) (a n unit mul most word rsv : Nat) : Option Nat :=
  if shareBad x a (unit * n) 16 ∨ word / 2 ^ 13 % 2 ^ rsv ≠ 0 then some 2
  else if n = 0 ∨ n % mul ≠ 0 ∨ most < n then some 3 else none
/-- The command of a send or a receive. -/
def sendOf (e : Env) (x : FabOps) (recv reward : Bool) : Send :=
  let w := (e.cw.rs x.c).toNat
  { blk := e.b, crew := e.c, slot := e.blk.slot, die := e.blk.die, token := nextToken e, ep := bitsOf w 0 13,
    tag := bitsOf w 16 16, off := (e.cw.rs x.a).toNat, len := (e.cw.rs x.b).toNat, recv := recv, reward := reward }
/-- A send for another package sets out with its bytes. -/
def State.addSend (s : State) (k : Send) (bytes : List Byte) : State :=
  let (n, s) := s.take
  let s := { s with sends := put s.sends n k }
  if k.recv ∨ (s.dieOfEp k.ep).isSome then s
  else s.sendFab k.die (s.ctx k.slot).asid k.ep (.data n k.tag bytes)
/-- CSEND (R456). -/
def execCsend (x : FabOps) (s : State) : Out :=
  fabIssue s (.csend x) fun s e =>
    let k := sendOf e x false false
    match sendReason e.blk k.off k.len 1 16 1048576 (e.cw.rs x.c).toNat 3 with
    | some r => trapAt s e 0xAB r e.act
    | none => withShare s e k.off k.len fun s e bs => tokenEnter s e x.d fun s => s.addSend k bs
/-- CRECV (R456). -/
def execCrecv (x : FabOps) (s : State) : Out :=
  fabIssue s (.crecv x) fun s e =>
    let k := sendOf e x true false
    match sendReason e.blk k.off k.len 1 16 1048576 (e.cw.rs x.c).toNat 3 with
    | some r => trapAt s e 0xAB r e.act
    | none => tokenEnter s e x.d fun s => s.addSend k []

/-- The block of a command runs in a LIVE context. -/
def State.sendRuns (s : State) (k : Send) : Bool :=
  match s.block k.blk with
  | some x => x.phase = .running && (s.ctx x.slot).state = .live
  | none => false
/-- The first receive of a context on a die that names an endpoint and a tag (R456). -/
def firstRecv (s : State) (slot die ep tag : Nat) : Option Nat :=
  (s.sends.find? fun p => p.2.recv && p.2.slot = slot && p.2.die = die && p.2.ep = ep && p.2.tag = tag).map (·.1)
/-- The first send of a context from a die to an endpoint with a tag. -/
def firstSend (s : State) (slot die ep tag : Nat) : Option Nat :=
  (s.sends.find? fun p => !p.2.recv && !p.2.reward && p.2.slot = slot && p.2.die = die && p.2.ep = ep
    && p.2.tag = tag).map (·.1)
/-- The first message that waits for a context from one endpoint to another with a tag. -/
def firstWaiting (s : State) (asid src dst tag : Nat) : Option Nat :=
  (s.fab.waiting.find? fun p => p.2.asid = asid && p.2.src = src && p.2.dst = dst && (match p.2.msg with
    | .data _ t _ => t = tag
    | _ => false)).map (·.1)
/-- A command ends: its token is complete, with cause 0xE4 when the lengths differ (R456). -/
def State.endSend (s : State) (key : Nat) (k : Send) (sized : Bool) : State :=
  let s := s.endToken k.blk k.crew k.token (if sized then none else some { code := 0xE4 })
  { s with sends := dropAt s.sends key }
/-- A receive takes bytes: lengths that agree write them into its share. -/
def State.receive (s : State) (key : Nat) (k : Send) (bytes : List Byte) : State :=
  if bytes.length = k.len then (s.storeShare k.blk k.crew k.off bytes).endSend key k true else s.endSend key k false
/-- SEND_MATCH (R456): send or waiting message `k` meets receive `j`; both are the oldest of their pair and tag. -/
def execSendMatch (k j : Nat) (s : State) : Out :=
  match look s.sends j with
  | none => notEnabled "SEND_MATCH"
  | some r =>
    if firstRecv s r.slot r.die r.ep r.tag ≠ some j ∨ !s.sendRuns r then notEnabled "SEND_MATCH"
    else match look s.sends k, look s.fab.waiting k with
      | some c, _ =>
        if s.sendRuns c ∧ s.dieOfEp r.ep = some c.die ∧ c.ep = s.endpoint r.die
            ∧ firstSend s r.slot c.die c.ep r.tag = some k then
          match s.block c.blk with
          | none => notEnabled "SEND_MATCH"
          | some x =>
            let (s', bad) := s.meetRead c.blk c.crew .share [(c.off, c.len)]
            .next (if bad then s'
              else (s'.receive j r (readBytes x.share c.off c.len)).endSend k c (c.len = r.len))
        else notEnabled "SEND_MATCH"
      | none, some f =>
        match f.msg with
        | .data id _ bytes =>
          if firstWaiting s (s.ctx r.slot).asid r.ep (s.endpoint r.die) r.tag = some k then
            let s := { s with fab := { s.fab with waiting := dropAt s.fab.waiting k } }
            .next ((s.receive j r bytes).sendFab r.die f.asid f.src (.done id (bytes.length = r.len)))
          else notEnabled "SEND_MATCH"
        | _ => notEnabled "SEND_MATCH"
      | none, none => notEnabled "SEND_MATCH"

end Sys2Proof.Machine
end

