-- ==== Sys2Proof/Machine/Fetch.lean ====
section
/-! DEFINITION. Fetching an instruction (R65, R67): the lines of the program image that a block holds, the checks 1 to 3
of R75, and the causes they raise. -/

namespace Sys2Proof.Machine

/-- The bytes that an instruction needs, as far as its first bytes tell (R65): a parcel, a main word, its extension
words. -/
def needed (bs : List Byte) : Nat :=
  let w := bytesToNat (bs.take 4)
  if bs.length < 2 ∨ w % 2 = 0 then 2
  else if bs.length < 4 then 4
  else 4 + 4 * extWords (w / 2 % 64)
/-- Bytes of a block's lines of the image; none where a line has not been fetched. -/
def imageBytes (lines : List (Nat × List Byte)) (pc : Nat) : Nat → Option (List Byte)
  | 0 => some []
  | n + 1 =>
    match look lines (pc / 128), imageBytes lines (pc + 1) n with
    | some l, some bs => some (l.getD (pc % 128) 0 :: bs)
    | _, _ => none
/-- What a fetch at a PC comes to. -/
inductive Fetched where
  | instr (i : Instr)
  /-- An encoding that is not an instruction, with its cause and its length (R75, checks 2 and 3). -/
  | bad (code len : Nat)
  /-- A part of the instruction lies at or beyond CLEN (R67). -/
  | outside
  /-- The line of that number has not been fetched. -/
  | missing (line : Nat)
  deriving DecidableEq, Repr
/-- The decoded bytes. -/
def fetchedOf (bs : List Byte) : Fetched :=
  match decode bs with
  | .ok i _ => .instr i
  | .illegal n => .bad 0x01 n
  | .reserved n => .bad 0x02 n
  | .short => .outside
/-- The fetch from the lines that are present; the first argument bounds how often the length is looked up. -/
def fetchFrom (lines : List (Nat × List Byte)) (clen pc : Nat) : Nat → List Byte → Fetched
  | 0, bs => fetchedOf bs
  | n + 1, bs =>
    let k := needed bs
    if clen < pc + k then .outside
    else if k ≤ bs.length then fetchedOf bs
    else match imageBytes lines pc k with
      | some bs => fetchFrom lines clen pc n bs
      | none =>
        .missing (match look lines (pc / 128) with
          | none => pc / 128
          | some _ => pc / 128 + 1)
/-- The fetch at a PC of a block (R67). -/
def Block.fetch (x : Block) (pc : Word) : Fetched := fetchFrom x.code x.r.clen pc.toNat 4 []
/-- A crew that is ready to issue in a block that runs (R31, R172, R174): its block and itself. -/
def readyCrew (s : State) (b c : Nat) : Option (Block × Crew) :=
  match s.block b with
  | none => none
  | some x =>
    match look x.crews c with
    | none => none
    | some w =>
      if w.wait = .ready && w.live ≠ 0 && x.phase = .running && x.hold.isNone && (s.ctx x.slot).state = .live then
        some (x, w)
      else none
/-- A line of the image is read at its fetch permission, on the visible side, and kept by the block (R67, R370). -/
def fetchLine (s : State) (b c : Nat) (x : Block) (line : Nat) : Got Unit :=
  let n := min 128 (x.r.clen - 128 * line)
  let a := { accOf x (crewOwner b c) with px := true }
  (s.gread a (x.r.code + 128 * line) n).bind fun s (bs, _) =>
    let s := s.forget (crewOwner b c)
    .ok (match s.block b with
      | some x => s.setBlock b { x with code := put x.code line bs }
      | none => s) ()
/-- The lines that an instruction needs are fetched, at most so many. -/
def fetchLines (b c : Nat) (pc : Word) : Nat → State → Got Fetched
  | 0, s => .wait s
  | n + 1, s =>
    match s.block b with
    | none => .wait s
    | some x =>
      match x.fetch pc with
      | .missing line => (fetchLine s b c x line).bind fun s _ => fetchLines b c pc n s
      | r => .ok s r
/-- The cause of a check that fails before the instruction is known (R75): nothing has changed. -/
def State.raiseFetch (s : State) (b c : Nat) (w : Crew) (code len : Nat) : State :=
  s.raiseIssue b c { code := code, pc := w.ipc, lanes := w.active w.ipc, next := w.ipc + BitVec.ofNat 32 len }
/-- ILLEGAL_ENCODING (R65, R70, R75): cause 0x01 or 0x02. -/
def execIllegalEncoding (b c : Nat) (s : State) : Out :=
  match readyCrew s b c with
  | none => notEnabled "ILLEGAL_ENCODING"
  | some (x, w) =>
    match x.fetch w.ipc with
    | .bad code len => .next (s.raiseFetch b c w code len)
    | _ => notEnabled "ILLEGAL_ENCODING"
/-- FETCH_OUTSIDE_IMAGE (R67): cause 0x04. -/
def execFetchOutsideImage (b c : Nat) (s : State) : Out :=
  match readyCrew s b c with
  | none => notEnabled "FETCH_OUTSIDE_IMAGE"
  | some (x, w) =>
    match x.fetch w.ipc with
    | .outside => .next (s.raiseFetch b c w 0x04 2)
    | _ => notEnabled "FETCH_OUTSIDE_IMAGE"
/-- The number of a core's quadrant pick (R180): the ready crew of a quadrant whose last issue is earliest, ties to the
lower (block index, crew), and then, between blocks of different grids, to the lower block key (DESIGN CHOICE, log 26). -/
def picks (bs : List (Nat × Block)) (live : Nat → Bool) (quad : Nat) : Option (Nat × Nat) :=
  let all := bs.flatMap fun p => p.2.crews.filterMap fun q =>
    if q.2.quad = quad && q.2.wait = .ready && q.2.live ≠ 0 && p.2.phase = .running && p.2.hold.isNone && live p.2.slot
    then some (q.2.lastIssue, p.2.index, p.1, q.1) else none
  let before (a b : Nat × Nat × Nat × Nat) : Bool :=
    decide (a.1 < b.1) || (a.1 = b.1 && (decide (a.2.1 < b.2.1) || (a.2.1 = b.2.1 && (decide (a.2.2.2 < b.2.2.2)
      || (a.2.2.2 = b.2.2.2 && decide (a.2.2.1 < b.2.2.1))))))
  (all.find? fun a => all.all fun b => !before b a).map fun a => (a.2.2.1, a.2.2.2)

end Sys2Proof.Machine
end

