-- ==== Sys2Proof/Machine/Float.lean ====
section
/-! DEFINITION. Floating-point arithmetic, comparison, conversion and the transcendentals (R119 to R128). -/

namespace Sys2Proof.Machine

/-! ### Shared computations -/

/-- A dyadic operation under the instruction's rounding mode (R122). -/
def floatDyad (e : Env) (x : XOps) (op : Fmt → Rnd → Nat → Nat → Nat × Flags) : Eff :=
  toDest e x x.t fun l =>
    float2 x.t (fun f a b => op f (rndOf x.rnd) a b) (e.cw.opA x x.t l) (e.cw.opB x x.t l)

/-- A unary operation under the instruction's rounding mode. -/
def floatUn (e : Env) (x : XOps) (op : Fmt → Rnd → Nat → Nat × Flags) : Eff :=
  toDest e x x.t fun l => float1 x.t (fun f a => op f (rndOf x.rnd) a) (e.cw.opA x x.t l)

/-- FMIN and FMAX (R123): nothing is rounded. -/
def floatPick (e : Env) (x : XOps) (op : Fmt → Nat → Nat → Nat × Flags) : Eff :=
  toDest e x x.t fun l => float2 x.t op (e.cw.opA x x.t l) (e.cw.opB x x.t l)

/-- A uniform form with P(c) empty does nothing; any other variable-latency form issues (R21, R28). -/
def laterUnless (s : State) (e : Env) (i : Instr) (x : XOps) (f : Eff) : Out :=
  if x.y && e.part = 0 then skip s e else completeLater s e i f

/-- A transcendental (R128): F32 by the recipe, every other type correctly rounded. -/
def transEff (e : Env) (x : XOps) (fn : Fn) : Eff := floatUn e x fun f m a => fTrans f fn m x.o a

/-- F32 in a 16-bit form (R72). -/
def shortF (d b : Nat) : XOps := { shortX d b with t := .f32 }

/-! ### Arithmetic -/

/-- FADD (R122). -/
def execFadd (x : XOps) (s : State) : Out := issue s (.fadd x) fun s e => complete s e (floatDyad e x fAdd)
/-- FSUB (R122). -/
def execFsub (x : XOps) (s : State) : Out := issue s (.fsub x) fun s e => complete s e (floatDyad e x fSub)
/-- FMUL (R122). -/
def execFmul (x : XOps) (s : State) : Out := issue s (.fmul x) fun s e => complete s e (floatDyad e x fMul)
/-- FADD_16 (R72). -/
def execFadd16 (d b : Nat) (s : State) : Out :=
  issue s (.fadd16 d b) fun s e => complete s e (floatDyad e (shortF d b) fAdd)
/-- FSUB_16 (R72). -/
def execFsub16 (d b : Nat) (s : State) : Out :=
  issue s (.fsub16 d b) fun s e => complete s e (floatDyad e (shortF d b) fSub)
/-- FMUL_16 (R72). -/
def execFmul16 (d b : Nat) (s : State) : Out :=
  issue s (.fmul16 d b) fun s e => complete s e (floatDyad e (shortF d b) fMul)
/-- FFMA (R122): the product is not rounded. -/
def execFfma (x : XOps) (s : State) : Out :=
  issue s (.ffma x) fun s e => complete s e (toDest e x x.t fun l =>
    float3 x.t (fun f a b c => fFma f (rndOf x.rnd) a b c) (e.cw.opA x x.t l) (e.cw.opB x x.t l) (e.cw.opC x x.t l))
/-- FMIN (R123). -/
def execFmin (x : XOps) (s : State) : Out := issue s (.fmin x) fun s e => complete s e (floatPick e x minNum)
/-- FMAX (R123). -/
def execFmax (x : XOps) (s : State) : Out := issue s (.fmax x) fun s e => complete s e (floatPick e x maxNum)
/-- FMIN_16 (R72). -/
def execFmin16 (d b : Nat) (s : State) : Out :=
  issue s (.fmin16 d b) fun s e => complete s e (floatPick e (shortF d b) minNum)
/-- FMAX_16 (R72). -/
def execFmax16 (d b : Nat) (s : State) : Out :=
  issue s (.fmax16 d b) fun s e => complete s e (floatPick e (shortF d b) maxNum)

/-- FCMP (R124). -/
def execFcmp (x : XOps) (s : State) : Out :=
  issue s (.fcmp x) fun s e => complete s e (toPred e x.d fun l =>
    let f := (elemFmt x.t).1
    fCmp f x.v (elemOf f (e.cw.opA x x.t l) 0) (elemOf f (e.cw.opB x x.t l) 0))
/-- FCLASS (R124). -/
def execFclass (x : XOps) (s : State) : Out :=
  issue s (.fclass x) fun s e => complete s e (toDest0 e x .z32 fun l =>
    let f := (elemFmt x.t).1
    fClass f (elemOf f (e.cw.opA x x.t l) 0))

/-- FDIV (R125). -/
def execFdiv (x : XOps) (s : State) : Out :=
  issue s (.fdiv x) fun s e => laterUnless s e (.fdiv x) x (floatDyad e x fDiv)
/-- FSQRT (R125). -/
def execFsqrt (x : XOps) (s : State) : Out :=
  issue s (.fsqrt x) fun s e => laterUnless s e (.fsqrt x) x (floatUn e x fSqrt)
/-- FRCP (R125). -/
def execFrcp (x : XOps) (s : State) : Out :=
  issue s (.frcp x) fun s e => laterUnless s e (.frcp x) x (floatUn e x fRcp)
/-- FRSQ (R125). -/
def execFrsq (x : XOps) (s : State) : Out :=
  issue s (.frsq x) fun s e => laterUnless s e (.frsq x) x (floatUn e x fRsq)
/-- FRND (R125). -/
def execFrnd (x : XOps) (s : State) : Out :=
  issue s (.frnd x) fun s e => complete s e (floatUn e x fun f m a => fRnd f m x.q a)

/-! ### Conversions -/

/-- The elements of the sources of an F2F, in the order of the result's elements (R126). -/
def f2fSources (x : XOps) (a b : Nat) : List Nat :=
  let (f, n) := elemFmt (srcTy x)
  let es (y : Nat) : List Nat := (List.range n).map (elemOf f y)
  match f2fKind x with
  | some .pack => es a ++ es b
  | some .unpack =>
    let m := (elemFmt x.t).2
    ((es a).drop (if x.q then m else 0)).take m
  | _ => es a

/-- F2F (R126). -/
def execF2f (x : XOps) (s : State) : Out :=
  issue s (.f2f x) fun s e => complete s e (toDest e x x.t fun l =>
    let src := (elemFmt (srcTy x)).1
    let dst := (elemFmt x.t).1
    packElems dst ((f2fSources x (e.cw.opA x (srcTy x) l) (e.cw.opB x (srcTy x) l)).map
      (fCvt src dst (rndOf x.rnd) x.o)))
/-- F2I (R127). -/
def execF2i (x : XOps) (s : State) : Out :=
  issue s (.f2i x) fun s e => complete s e (toDest e x x.t fun l =>
    let f := (elemFmt (srcTy x)).1
    let r := fToInt f (tySigned x.t) (tyBits x.t) (rndOf x.rnd) (elemOf f (e.cw.opA x (srcTy x) l) 0)
    (wrapNat (tyBits x.t) r.1, r.2))
/-- I2F (R127). -/
def execI2f (x : XOps) (s : State) : Out :=
  issue s (.i2f x) fun s e => complete s e (toDest e x x.t fun l =>
    roundTo (elemFmt x.t).1 (intVal (asInt (srcTy x) (e.cw.opA x (srcTy x) l))) (rndOf x.rnd) x.o)

/-! ### Transcendentals -/

/-- FEXP2 (R128). -/
def execFexp2 (x : XOps) (s : State) : Out :=
  issue s (.fexp2 x) fun s e => laterUnless s e (.fexp2 x) x (transEff e x .exp2)
/-- FLOG2 (R128). -/
def execFlog2 (x : XOps) (s : State) : Out :=
  issue s (.flog2 x) fun s e => laterUnless s e (.flog2 x) x (transEff e x .log2)
/-- FEXP (R128). -/
def execFexp (x : XOps) (s : State) : Out :=
  issue s (.fexp x) fun s e => laterUnless s e (.fexp x) x (transEff e x .exp)
/-- FLOG (R128). -/
def execFlog (x : XOps) (s : State) : Out :=
  issue s (.flog x) fun s e => laterUnless s e (.flog x) x (transEff e x .log)
/-- FSIN (R128). -/
def execFsin (x : XOps) (s : State) : Out :=
  issue s (.fsin x) fun s e => laterUnless s e (.fsin x) x (transEff e x .sin)
/-- FCOS (R128). -/
def execFcos (x : XOps) (s : State) : Out :=
  issue s (.fcos x) fun s e => laterUnless s e (.fcos x) x (transEff e x .cos)
/-- FTANH (R128). -/
def execFtanh (x : XOps) (s : State) : Out :=
  issue s (.ftanh x) fun s e => laterUnless s e (.ftanh x) x (transEff e x .tanh)
/-- FSIGM (R128). -/
def execFsigm (x : XOps) (s : State) : Out :=
  issue s (.fsigm x) fun s e => laterUnless s e (.fsigm x) x (transEff e x .sigm)
/-- FERF (R128). -/
def execFerf (x : XOps) (s : State) : Out :=
  issue s (.ferf x) fun s e => laterUnless s e (.ferf x) x (transEff e x .erf)

end Sys2Proof.Machine
end

