-- ==== Sys2Proof/Machine/Join.lean ====
section
/-! DEFINITION. The join table (R457 to R466): its instructions, the events that reach it, the release of segments and
the advantage scan; and the messages that arrive on a port (R447). -/

namespace Sys2Proof.Machine

/-! ### The table of a context on a die -/

/-- A context's part of a die's join table (R458). -/
def State.join (s : State) (die slot : Nat) : JoinCfg := if die = 0 then (s.ctx slot).j0 else (s.ctx slot).j1
/-- The state with a context's part of a die's join table replaced. -/
def State.setJoin (s : State) (die slot : Nat) (j : JoinCfg) : State :=
  s.setCtx slot (if die = 0 then { s.ctx slot with j0 := j } else { s.ctx slot with j1 := j })
/-- The unit's access to segment records and orphan rings (R459, R462). -/
def joinAcc (die slot : Nat) (store : Bool) : Acc := { dispAcc slot 6 store with die := die, use := .visible }
/-- An event sets out to the table of a die (R458). -/
def State.addTableEvent (s : State) (die : Nat) (t : TableEvent) : State :=
  let d := s.die die
  s.setDie die { d with tevents := d.tevents ++ [t] }
/-- An event is processed: the first one equal to it goes. -/
def State.dropTableEvent (s : State) (die : Nat) (t : TableEvent) : State :=
  let d := s.die die
  s.setDie die { d with tevents := d.tevents.erase t }
/-- The next event of a context at a table: events of one context are processed in the order in which they set out
(R458). -/
def nextTableEvent (s : State) (die slot : Nat) : Option TableEvent := (s.die die).tevents.find? fun t => t.slot = slot
/-- The open segments of a context on a die. -/
def segsOf (s : State) (die slot : Nat) : List Segment := (s.die die).segs.filter fun g => g.slot = slot
/-- A segment goes, or is replaced by what `f` answers. -/
def State.mapSeg (s : State) (die slot key : Nat) (f : Segment → Option Segment) : State :=
  let d := s.die die
  s.setDie die { d with segs := d.segs.filterMap fun g => if g.slot = slot && g.key = key then f g else some g }
/-- A noted cause of a join table. -/
def State.noteJoin (s : State) (die slot code : Nat) : State := s.note die code (dieLoc die) (s.ctx slot).asid

/-! ### The scan (R464) -/

/-- A word of a list of bytes. -/
def wordAt (bs : List Byte) (t : Nat) : Nat := sliceNat bs (4 * t) 4
/-- A step's advantage and return, from step t − 1 down: the first argument counts the steps left (R464). -/
def scanFrom (gamma gl vboot len : Nat) (done miss : Nat) (v r : List Byte) : Nat → Nat → List (Nat × Nat) → List (Nat × Nat)
  | 0, _, out => out
  | t + 1, a, out =>
    let f2 (g : Fmt → Rnd → Nat → Nat → Nat × Flags) (x y : Nat) : Nat := (g .f32 .rn x y).1
    let vn := if t + 1 = len then vboot else wordAt v (t + 1)
    let rt := if bitOf miss t then 0 else wordAt r t
    let d := bitOf done t
    let delta := f2 fSub (f2 fAdd rt (if d then 0 else f2 fMul gamma vn)) (wordAt v t)
    let a := f2 fAdd delta (if d then 0 else f2 fMul gl a)
    scanFrom gamma gl vboot len done miss v r t a ((a, f2 fAdd a (wordAt v t)) :: out)
/-- The advantages and returns of a segment: `hd` is the head of its record up to V (R459, R464). -/
def scan (hd v r : List Byte) (len miss : Nat) : List (Nat × Nat) :=
  let gamma := sliceNat hd 0x10 4
  let gl := (fMul .f32 .rn gamma (sliceNat hd 0x14 4)).1
  scanFrom gamma gl (sliceNat hd 0x18 4) len (sliceNat hd 0x40 128) miss v r len 0 []

/-! ### Release (R463) -/

/-- A segment comes before another: ascending (VER, KEY). -/
def Segment.before (a b : Segment) : Bool := decide (a.ver < b.ver) || (a.ver = b.ver && decide (a.key < b.key))
/-- The head: the least open segment with VER < CB. -/
def headSeg (s : State) (die slot : Nat) : Option Segment :=
  let gs := (segsOf s die slot).filter fun g => decide (g.ver < (s.join die slot).cb)
  gs.find? fun g => gs.all fun h => !h.before g
/-- The most entries of a learner queue, and of a join table (R458). -/
def joinRoom : Nat := 65536
/-- The head may be released: it misses no reward, or its time-out has come; and the learner queue has room. -/
def releasable (s : State) (die slot : Nat) (g : Segment) : Bool :=
  let j := s.join die slot
  decide (j.learner.length < joinRoom)
    && (g.miss = 0 || (g.tmo ≠ 0 && decide (g.tmo ≤ j.ticks - g.opened)))
/-- The number of rewards that a mask misses. -/
def missing (miss len : Nat) : Nat := ((List.range len).filter fun t => bitOf miss t).length
/-- The head is scanned and written, its entry freed, and its VA appended to the learner queue. -/
def releaseHead (s : State) (die slot : Nat) (g : Segment) : Got Unit :=
  let a := joinAcc die slot false
  (s.greadAll a [(g.va, 0x140), (g.va + 0x140, 4 * g.len), (g.va + 0x1140, 4 * g.len)]).bind fun s (bs, _) =>
    let out := scan (bs.take 0x140) (slice bs 0x140 (4 * g.len)) (bs.drop (0x140 + 4 * g.len)) g.len g.miss
    let late : Bool := g.miss ≠ 0
    let status := if late then 3 else 1
    (s.gwriteAll (joinAcc die slot true)
      [(g.va + 0x2140, packWords 4 (out.map (·.1))), (g.va + 0x3140, packWords 4 (out.map (·.2))),
       (g.va + 0xC0, natToBytes 128 g.miss), (g.va + 0x20, packWords 4 [status, missing g.miss g.len])]).bind fun s _ =>
      let s := (s.forget a.owner).mapSeg die slot g.key fun _ => none
      let j := s.join die slot
      let s := s.setJoin die slot { j with learner := j.learner ++ [(g.va, late)],
                                           touts := if late then min 65535 (j.touts + 1) else j.touts }
      .ok (if late then (s.setCtx slot { s.ctx slot with texp := true }).noteJoin die slot 0xE7 else s) ()
/-- Release (R463), at most so many segments. -/
def releaseFrom (die slot : Nat) : Nat → State → Got Unit
  | 0, s => .ok s ()
  | n + 1, s =>
    match headSeg s die slot with
    | none => .ok s ()
    | some g =>
      if releasable s die slot g then (releaseHead s die slot g).bind fun s _ => releaseFrom die slot n s
      else .ok s ()
/-- Release of a context on a die (R463). -/
def release (s : State) (die slot : Nat) : Got Unit := releaseFrom die slot (segsOf s die slot).length s
/-- The crews whose events wait for a Release, those given: a fence of one of them waits for it (R378). -/
def State.setOwed (s : State) (die slot : Nat) (ks : List (Nat × Nat)) : State :=
  s.setJoin die slot { s.join die slot with owed := ks }
/-- Release after an event of a crew of this package, or of none (R463). One that memory holds up goes on by itself
(JOIN_TIMEOUT) once the event is done, and the crew's fences wait for it (R378). -/
def releaseOn (s : State) (die slot : Nat) (who : Option (Nat × Nat)) : Got Unit :=
  match release s die slot with
  | .wait s' => .ok (s'.setOwed die slot ((s'.join die slot).owed ++ who.toList)) ()
  | .ok s' _ => .ok (s'.setOwed die slot []) ()
  | .fail s' t => .fail s' t
/-- Release has not come to its end: a head may be released. The next event of the context at the table comes after it. -/
def releasing (s : State) (die slot : Nat) : Bool := (headSeg s die slot).any (releasable s die slot)
/-- What an event of a table comes to: its new state, a wait for memory, or a fault that ends the context. -/
def tableOut (s : State) (die slot : Nat) (m : String) (g : Got Unit) : Out :=
  match g with
  | .ok s' _ => .next s'
  | .wait s' => ifAsked s s' m
  | .fail s' t => .next (s'.fatalDie die slot t)
/-- JOIN_TIMEOUT (R463): Release on its own, when a head's time-out has come or memory has held Release up. -/
def execJoinTimeout (die slot : Nat) (s : State) : Out :=
  if releasing s die slot && (s.ctx slot).state = .live then tableOut s die slot "JOIN_TIMEOUT"
    ((release s die slot).bind fun s _ => .ok (s.setOwed die slot []) ())
  else notEnabled "JOIN_TIMEOUT"

/-! ### RJOPEN (R460) -/

/-- The bytes of a segment record (R459). -/
def segBytes : Nat := 0x4140
/-- RJOPEN (R449, R460): the crew parks until the table has taken the event. -/
def execRjopen (x : FabOps) (s : State) : Out :=
  fabIssue s (.rjopen x) fun s e =>
    let va := e.cw.rs2 x.a
    if va % 64 ≠ 0 ∨ vaEnd < va + segBytes then trapAt s e 0xAB 4 e.act
    else
      let s := s.addTableEvent e.blk.die ⟨e.blk.slot, e.b, e.c, .open_ va e.cw.issues x.d⟩
      let e := e.refresh s
      .next (finishIssue (defer s e (.rjopen x) {} false) e)
/-- A record is malformed, or not homed on the die (R459, R449 reason 6). -/
def segBad (hd : List Byte) (va die : Nat) : Bool :=
  let len := sliceNat hd 8 4
  decide (65536 ≤ sliceNat hd 0xC 4) || dirtySlice hd 0x28 24 || len = 0 || decide (1024 < len)
    || sliceNat hd 0x40 128 / 2 ^ len ≠ 0 || sliceNat hd 0xC0 128 / 2 ^ len ≠ 0
    || homeDie va ≠ die || homeDie (va + segBytes - 1) ≠ die
/-- The answer of the table to an RJOPEN: 0 OPENED or 1 CLOSED, or a cause. -/
def openSegment (s : State) (die slot va : Nat) (who : Nat × Nat) : Got (Nat ⊕ Trap) :=
  let a := { joinAcc die slot false with use := .forbid }
  (s.greadAll a [(va, 0x140), (va + segBytes - 1, 1)]).bind fun s (hd, _) =>
    let s := s.forget a.owner
    let key := sliceNat hd 0 8
    let ver := sliceNat hd 0xC 4
    let j := s.join die slot
    if segBad hd va die then .ok s (.inr { code := 0xAB, info := 6 })
    else if ver < j.cb then .ok s (.inl 1)
    else if (segsOf s die slot).any fun g => g.key = key then .ok s (.inr { code := 0xAA })
    else if joinRoom ≤ (s.die die).segs.length then .ok s (.inr { code := 0xA9 })
    else
      (s.gwrite (joinAcc die slot true) (va + 0x20) (natToBytes 4 0)).bind fun s _ =>
        let g : Segment := { slot := slot, va := va, key := key, ver := ver, len := sliceNat hd 8 4,
                             miss := sliceNat hd 0xC0 128, tmo := sliceNat hd 0x1C 4, opened := j.ticks }
        let d := s.die die
        (releaseOn (s.setDie die { d with segs := d.segs ++ [g] }) die slot (some who)).bind fun s _ => .ok s (.inl 0)
/-- The crew's outstanding result takes the table's answer: a value, or a late cause with TRAPM 0 (R460). -/
def answerOpen (s : State) (b c order d : Nat) (r : Nat ⊕ Trap) : State :=
  s.fillCrew b c order fun p => match r with
    | .inl v => { p with writes := [.s d (BitVec.ofNat 32 v)], ready := true }
    | .inr t => { p with late := some { t with pc := 0, lanes := 0 }, ready := true }
/-- The event of a crew that is the next of its context at the table of a die. -/
def crewEvent (s : State) (b c slot die : Nat) : Option TableEvent :=
  (nextTableEvent s die slot).filter fun t =>
    t.blk = b && t.crew = c && !(t.op matches .rewards _ _ _) && !releasing s die slot
/-- The slot of a crew's context with the die and the event of the crew that is the next at that die's table. An event stays
on the die on which it was issued, wherever its block is restored; the other die's come first. -/
def tableTurn (s : State) (b c : Nat) : Option (Nat × Nat × TableEvent) :=
  match s.block b with
  | none => none
  | some x =>
    if (s.ctx x.slot).state ≠ .live then none
    else [1 - x.die, x.die].findSome? fun d => (crewEvent s b c x.slot d).map fun t => (x.slot, d, t)
/-- RJOPEN_EVENT (R460): a shadowed page is reason 5 (R449). -/
def execRjopenEvent (b c : Nat) (s : State) : Out :=
  match tableTurn s b c with
  | some (slot, die, t) =>
    match t.op with
    | .open_ va order d =>
      match openSegment s die slot va (b, c) with
      | .ok s r => .next (answerOpen (s.dropTableEvent die t) b c order d r)
      | .wait s' => ifAsked s s' "RJOPEN_EVENT"
      | .fail s f =>
        if f.code = 0xA6 then
          .next (answerOpen (s.dropTableEvent die t) b c order d (.inr { code := 0xAB, info := 5 }))
        else .next (s.fatalBlock b c 0 f)
    | _ => notEnabled "RJOPEN_EVENT"
  | none => notEnabled "RJOPEN_EVENT"

/-! ### RJTICK and RJSTAT (R462, R465) -/

/-- RJTICK (R465): the event sets out. -/
def execRjtick (x : FabOps) (s : State) : Out :=
  fabIssue s (.rjtick x) fun s e =>
    let s := s.addTableEvent e.blk.die ⟨e.blk.slot, e.b, e.c, .tick ((e.cw.rs x.a).toNat % 65536)⟩
    complete s e {}
/-- RJTICK_EVENT (R465): the close bound rises, a tick is counted, Release runs. -/
def execRjtickEvent (b c : Nat) (s : State) : Out :=
  match tableTurn s b c with
  | some (slot, die, t) =>
    match t.op with
    | .tick cb =>
      let j := s.join die slot
      let s' := (s.dropTableEvent die t).setJoin die slot { j with cb := max j.cb cb, ticks := j.ticks + 1 }
      tableOut s die slot "RJTICK_EVENT" (releaseOn s' die slot (some (b, c)))
    | _ => notEnabled "RJTICK_EVENT"
  | none => notEnabled "RJTICK_EVENT"
/-- The reason for which a configuration record is turned away (R449, R462). -/
def configReason (bs : List Byte) : Option Nat :=
  let ring := sliceNat bs 8 8
  let v := sliceNat bs 0x10 4
  if 65536 ≤ sliceNat bs 0 4 ∨ sliceNat bs 4 4 ≠ 0 ∨ 16 ≤ v ∨ dirtySlice bs 0x14 12 then some 2
  else if 8 < v then some 3
  else if ring % 4096 ≠ 0 ∨ vaEnd < ring + 64 + 16 * 2 ^ (4 + v) then some 4 else none
/-- RJSTAT.CFG (R462): the record is read, and the event sets out. -/
def execRjstatCfg (x : FabOps) (s : State) : Out :=
  fabIssue s (.rjstatCfg x) fun s e =>
    let a := (e.cw.rs x.a).toNat
    if shareBad e.blk a 32 32 then trapAt s e 0xAB 2 e.act
    else withShare s e a 32 fun s e bs =>
      match configReason bs with
      | some r => trapAt s e 0xAB r e.act
      | none =>
        let op := TableOp.config (sliceNat bs 0 4) (sliceNat bs 8 8) (sliceNat bs 0x10 4)
        complete (s.addTableEvent e.blk.die ⟨e.blk.slot, e.b, e.c, op⟩) e {}
/-- RJSTAT_CFG_EVENT (R462). -/
def execRjstatCfgEvent (b c : Nat) (s : State) : Out :=
  match tableTurn s b c with
  | some (slot, die, t) =>
    match t.op with
    | .config lag oring orlog =>
      let j := s.join die slot
      .next ((s.dropTableEvent die t).setJoin die slot { j with lag := lag, oring := oring, orlog := orlog })
    | _ => notEnabled "RJSTAT_CFG_EVENT"
  | none => notEnabled "RJSTAT_CFG_EVENT"
/-- RJSTAT (R462): the crew parks until the table has answered. -/
def execRjstat (x : FabOps) (s : State) : Out :=
  fabIssue s (.rjstat x) fun s e =>
    let s := s.addTableEvent e.blk.die ⟨e.blk.slot, e.b, e.c, .stat e.cw.issues x.d⟩
    .next (finishIssue (defer s e (.rjstat x) {} false) e)
/-- RJSTAT_EVENT (R462): open segments, orphans, stale records, time-outs with ring overflows. -/
def execRjstatEvent (b c : Nat) (s : State) : Out :=
  match tableTurn s b c with
  | some (slot, die, t) =>
    match t.op with
    | .stat order d =>
      let j := s.join die slot
      let vs := [(segsOf s die slot).length, j.orphans, j.stale, j.touts + 65536 * j.overflows]
      .next ((s.dropTableEvent die t).fillCrew b c order fun p =>
        { p with writes := (numbered vs).map fun v => .s (d + v.1) (BitVec.ofNat 32 v.2), ready := true })
    | _ => notEnabled "RJSTAT_EVENT"
  | none => notEnabled "RJSTAT_EVENT"

/-! ### RJPOP (R465) -/

/-- RJPOP: the crew parks until a segment can be taken; a save counts it as not executed. -/
def execRjpop (x : FabOps) (s : State) : Out := fabIssue s (.rjpop x) fun s e => jobIssue s e (.rjpop x)
/-- RJPOP_COMPLETE (R465): the head of the learner queue is taken; with NB an empty queue is answered once no event of the
context is on its way. Room in the queue lets Release run (R463). -/
def execRjpopComplete (b c : Nat) (s : State) : Out :=
  withJob s b c "RJPOP_COMPLETE" (· matches .rjpop _) fun x _ j =>
    match j.i with
    | .rjpop p =>
      let cfg := s.join x.die x.slot
      let give (s : State) (w0 w1 w2 : Nat) : State :=
        s.endJob b c j fun q => { q with writes := [.s p.d (BitVec.ofNat 32 w0), .s (p.d + 1) (BitVec.ofNat 32 w1),
                                                    .s (p.d + 2) (BitVec.ofNat 32 w2)] }
      match cfg.learner with
      | (va, late) :: rest =>
        let s' := s.setJoin x.die x.slot { cfg with learner := rest }
        tableOut s x.die x.slot "RJPOP_COMPLETE" ((releaseOn s' x.die x.slot (some (b, c))).bind fun s _ =>
          .ok (give s (va % 2 ^ 32) (va / 2 ^ 32) (if late then 2 else 0)) ())
      | [] =>
        if p.nb ∧ nextTableEvent s x.die x.slot = none ∧ !releasing s x.die x.slot then .next (give s 0 0 1)
        else notEnabled "RJPOP_COMPLETE"
    | _ => notEnabled "RJPOP_COMPLETE"

/-! ### Rewards (R457, R461) -/

/-- CSEND.RWD (R457): its records are read at the issue and set out to the table they name. -/
def execCsendRwd (x : FabOps) (s : State) : Out :=
  fabIssue s (.csendRwd x) fun s e =>
    let k := sendOf e x false true
    match sendReason e.blk k.off k.len 16 1 4096 (e.cw.rs x.c).toNat 19 with
    | some r => trapAt s e 0xAB r e.act
    | none => withShare s e k.off (16 * k.len) fun s e bs => tokenEnter s e x.d fun s =>
        let (n, s) := s.take
        let s := { s with sends := put s.sends n k }
        let recs := unpackWords 16 k.len bs
        match s.dieOfEp k.ep with
        | some d => s.addTableEvent d ⟨k.slot, k.blk, k.crew, .rewards n none recs⟩
        | none => s.sendFab k.die (s.ctx k.slot).asid k.ep (.reward n recs)
/-- The step of a reward record (R457). -/
def rwdStep (r : Nat) : Nat := bitsOf r 64 10
/-- An orphan is counted and noted (R461). -/
def State.countOrphan (s : State) (die slot : Nat) : State :=
  let j := s.join die slot
  (s.setJoin die slot { j with orphans := min 4294967295 (j.orphans + 1) }).noteJoin die slot 0xE5
/-- An orphan (R461): counted and noted, and appended to the ring if there is one. While the ring's memory holds the record up,
nothing of this is done. -/
def orphan (s : State) (die slot r reason : Nat) : Got Unit :=
  let j := s.join die slot
  if j.oring = 0 then .ok (s.countOrphan die slot) ()
  else
    let a := joinAcc die slot false
    (s.gread a j.oring 8).bind fun s (bs, _) =>
      let size := 2 ^ (4 + j.orlog)
      let head := sliceNat bs 0 4
      let tail := sliceNat bs 4 4
      if size ≤ (tail + 2 ^ 32 - head) % 2 ^ 32 then
        let s := s.countOrphan die slot
        let j := s.join die slot
        .ok ((s.setJoin die slot { j with overflows := min 65535 (j.overflows + 1) }).noteJoin die slot 0xE8) ()
      else
        let r' := r - bitsOf r 74 6 * 2 ^ 74 + reason * 2 ^ 74
        (s.gwriteAll (joinAcc die slot true)
          [(j.oring + 64 + 16 * (tail % size), natToBytes 16 r'), (j.oring + 4, natToBytes 4 ((tail + 1) % 2 ^ 32))]).bind
          fun s _ => .ok ((s.countOrphan die slot).forget a.owner) ()
/-- One reward record (R461) of a crew of this package, or of none. -/
def reward (s : State) (die slot r : Nat) (who : Option (Nat × Nat)) : Got Unit :=
  let j := s.join die slot
  let key := bitsOf r 0 64
  if bitsOf r 74 6 ≠ 0 then orphan s die slot r 4
  else if bitsOf r 80 16 + j.lag < j.cb then
    .ok ((s.setJoin die slot { j with stale := min 4294967295 (j.stale + 1) }).noteJoin die slot 0xE6) ()
  else match (segsOf s die slot).find? fun g => g.key = key with
    | none => orphan s die slot r 1
    | some g =>
      let t := rwdStep r
      if g.len ≤ t then orphan s die slot r 2
      else if !bitOf g.miss t then orphan s die slot r 3
      else
        (s.gwrite (joinAcc die slot true) (g.va + 0x1140 + 4 * t) (natToBytes 4 (bitsOf r 96 32))).bind fun s _ =>
          releaseOn (s.mapSeg die slot key fun g => some { g with miss := g.miss - 2 ^ t }) die slot who
/-- The command whose last record has been processed is complete (R457). -/
def rewardsDone (s : State) (die slot key : Nat) (from_ : Option Nat) : State :=
  match from_ with
  | some ep => s.sendFab die (s.ctx slot).asid ep (.done key true)
  | none => match look s.sends key with
    | some k => s.endSend key k true
    | none => s
/-- Reward records at a table: the first one is processed. -/
def rewardStep (s : State) (die : Nat) (t : TableEvent) : Got Unit :=
  match t.op with
  | .rewards key from_ (r :: rest) =>
    (reward s die t.slot r (if from_.isSome then none else some (t.blk, t.crew))).bind fun s _ =>
      if rest.isEmpty then .ok (rewardsDone (s.dropTableEvent die t) die t.slot key from_) ()
      else
        let d := s.die die
        .ok (s.setDie die { d with tevents := d.tevents.map fun u =>
          if u = t then { t with op := .rewards key from_ rest } else u }) ()
  | _ => .ok s ()
/-- Records that a context of the die may process now: the first events of their contexts. -/
def rewardTurns (s : State) (die : Nat) : List TableEvent :=
  (s.die die).tevents.filter fun t => (t.op matches .rewards _ _ _) && nextTableEvent s die t.slot = some t
    && !releasing s die t.slot && (s.ctx t.slot).state = .live
/-- REWARD_RECORD (R461): a record of the message that came first, among those that memory does not hold up. -/
def execRewardRecord (die : Nat) (s : State) : Out :=
  match rewardTurns s die with
  | [] => notEnabled "REWARD_RECORD"
  | t :: _ => tableOut s die t.slot "REWARD_RECORD" (rewardStep s die t)

/-! ### Messages that arrive (R447) -/

/-- A message arrives for a LIVE context of this package. -/
def State.arrive (s : State) (die slot : Nat) (f : Flit) : State :=
  match f.msg with
  | .data _ _ _ =>
    let (k, s) := s.take
    { s with fab := { s.fab with waiting := put s.fab.waiting k f } }
  | .reward id recs => s.addTableEvent die ⟨slot, 0, 255, .rewards id (some f.src) recs⟩
  | .contrib dkey num rank mlist k vals =>
    { s with contribs := s.contribs ++ [⟨slot, die, dkey, num, rank, mlist, k, vals⟩] }
  | .done id sized => match look s.sends id with
    | some k => if k.slot = slot then s.endSend id k sized else s
    | none => s
  | .gone dkey =>
    if s.colls.any fun p => p.2.slot = slot && p.2.die = die && p.2.dkey = dkey && p.2.mlist.contains f.src then
      s.fatalDie die slot { code := 0xE2, info := f.src }
    else s
  | .digest dkey mlist => s.digestArrives ⟨slot, die, dkey, f.src, mlist⟩
  | .reject ep id =>
    if id < (s.ctx slot).born then s
    else
      let (k, s) := s.take
      { s with fab := { s.fab with rejected := put s.fab.rejected k (die, f.asid, ep) } }
  | .ack _ => s
/-- A port acknowledges a message (R447). -/
def State.acknowledge (s : State) (port : Nat) (f : Flit) : State :=
  { s with fab := { s.fab with acked := s.fab.acked ++ [(port, f.src, f.seq)] } }
/-- A message that no port has taken yet is delivered, or rejected when no LIVE context of its ASID takes it (R445, R447). -/
def State.takeFlit (s : State) (f : Flit) : State :=
  match s.dieOfEp f.dst, s.liveSlot f.asid with
  | some die, some slot => s.arrive die slot f
  | some die, none => if isWork f.msg then s.sendFab die f.asid f.src (.reject f.dst f.seq) else s
  | none, _ => s
/-- FLIT_RECEIVE (R447): a message whose check code fails is not taken, and its sender sends it again; an acknowledgement
ends the resends of what it names; every other good message is acknowledged, and taken unless it was taken before. -/
def execFlitReceive (port : Nat) (f : Flit) (s : State) : Out :=
  if !s.portUp port ∨ s.power = .d3cold then notEnabled "FLIT_RECEIVE"
  else if !f.good then .next s
  else match f.msg with
    | .ack k =>
      .next { s with fab := { s.fab with leaving := s.fab.leaving.filter fun p => !(p.1 = k && p.2.port = port) } }
    | _ =>
      let seen := s.fab.acked.any fun a => a.2.1 = f.src && a.2.2 = f.seq
      .next (if seen then s.acknowledge port f else (s.acknowledge port f).takeFlit f)

end Sys2Proof.Machine
end

