-- ==== Sys2Proof/Machine/Host.lean ====
section
/-! DEFINITION. The host window, interrupts, management, power and reset (R430 to R437). -/

namespace Sys2Proof.Machine

/-! ### Registers (R430, R431) -/

/-- The number of a context state (R430). -/
def CtxState.num : CtxState → Nat
  | .free => 0
  | .live => 1
  | .ending => 2
  | .ended => 3
/-- The bytes of an event-log entry (R430). -/
def LogEntry.bytes (e : LogEntry) : List Byte :=
  packWords 4 [e.cause, e.loc] ++ packWords 2 [e.asid, e.count] ++ List.replicate 4 0
/-- Entry `k` of a die's event log, by its place in the ring of 256: zero where none has been written. -/
def evlogBytes (d : Die) (k : Nat) : List Byte :=
  let first := d.evtail + 2 ^ 32 - d.log.length
  match (List.range d.log.length).find? fun j => (first + j) % 256 = k with
  | some j => (d.log.getD j ⟨0, 0, 0, 0, 0⟩).bytes
  | none => List.replicate 16 0
/-- A word of BAR0 as a read of 32 bits gives it (R430); a write-only register and a reserved one read as zero. -/
def barWord (s : State) (off : Nat) : Nat :=
  let slot (k : Nat) : Nat :=
    let c := s.ctx k
    c.state.num + (if c.texp then 256 else 0) + (if c.state = .free then 0 else 65536 * c.asid)
  let h := s.host
  if off = 0 then 0x9200 + 65536 * (s.mgmt.stepping % 256) + (if s.mgmt.fwok then 2 ^ 24 else 0)
      + (if s.mgmt.recov then 2 ^ 25 else 0)
  else if off = 0x10 then h.statSeq
  else if off = 0x14 then h.statOp % 256 + (if h.refused then 256 else 0)
  else if off = 0x18 then h.pcap
  else if off = 0x1C then h.clock
  else if off = 0x20 then Config.cqBase % 2 ^ 32
  else if off = 0x24 then Config.cqBase / 2 ^ 32
  else if off = 0x28 then Config.cqSize
  else if off = 0x2C then h.cqHead
  else if 0x2000 ≤ off ∧ off < 0x2200 then (if off % 8 = 0 then slot ((off - 0x2000) / 8) else 0)
  else if off = 0x3000 then s.die0.evtail
  else if off = 0x3008 then s.die1.evtail
  else if 0x10000 ≤ off ∧ off < 0x12000 then
    sliceNat (evlogBytes (s.die ((off - 0x10000) / 4096)) (off % 4096 / 16)) (off % 16) 4
  else if 0x20000 ≤ off ∧ off < 0x22000 then
    let t := (s.ctx ((off - 0x20000) / 128)).publ
    (List.range 32).foldl (fun v p => v + (if getAt false t (8 * (off % 128) + p) then 2 ^ p else 0)) 0
  else 0

/-- PCAP (R436): a write outside 800 to 2,600 is ignored. -/
def execPcapWrite (w : Nat) (s : State) : Out :=
  let v := w % 65536
  if !s.awake then notEnabled "PCAP"
  else .next (if v < 800 ∨ 2600 < v then s else { s with host := { s.host with pcap := v } })
/-- EVTAIL (R431): the read lets the next entry of the die send vector 0 again. -/
def execEvtailRead (die : Nat) (s : State) : Out :=
  if s.awake ∧ die < 2 then .next (s.setDie die { s.die die with evread := true }) else notEnabled "EVTAIL"
/-- UNSUPPORTED_REQUEST (R430): an access of another size or alignment has no effect. -/
def execUnsupportedRequest (off size : Nat) (_write : Bool) (s : State) : Out :=
  if s.awake ∧ ((size ≠ 4 ∧ size ≠ 8) ∨ off % size ≠ 0) then .next s else notEnabled "UNSUPPORTED_REQUEST"
/-- MSI_X_UNMASK (R431): a message held pending is sent. -/
def execMsiXUnmask (vec : Nat) (s : State) : Out :=
  if s.power = .d3cold ∨ 256 ≤ vec then notEnabled "MSI_X_UNMASK"
  else
    let s' := { s with host := { s.host with unmasked := setAt false s.host.unmasked vec true,
                                             pending := setAt false s.host.pending vec false } }
    .next (if getAt false s.host.pending vec then s'.sendVec vec else s')

/-- Turn.mask (R431): the host masks a vector, whose messages are then held pending. -/
def maskVector (vec : Nat) (s : State) : Out :=
  if s.power = .d3cold ∨ 256 ≤ vec then notEnabled "MSI_X_MASK"
  else .next { s with host := { s.host with unmasked := setAt false s.host.unmasked vec false } }

/-! ### Power (R435, R436) -/

/-- A request to retrain one stack at the next lower rate, which power management may make (R424, R436): the choice is
free. -/
def lowerRate (s : State) : State :=
  let n := Config.freeNat s.steps
  let stack := n / 2 % 8
  let d := s.die (stack / 4)
  if n % 2 = 0 ∨ 2 ≤ getAt 0 d.rates stack then s
  else s.setDie (stack / 4) { d with retrain := setAt 0 d.retrain stack (getAt 0 d.rates stack + 2) }
/-- POWER_CAP_CLOCK_CHANGE (R436): the clock moves by 100 MHz between 1,200 and 3,600, and cause 0xC7 is noted with the new
clock. The log of die 0 takes the entry, a cause of the package, under no context (R178; the die is a DESIGN CHOICE,
log 87). -/
def execPowerCapClockChange (down : Bool) (s : State) : Out :=
  let c := s.host.clock
  if !s.awake ∨ (if down then c ≤ 1200 else 3600 ≤ c) then notEnabled "POWER_CAP_CLOCK_CHANGE"
  else
    let n := if down then c - 100 else c + 100
    let s := { s with host := { s.host with clock := n } }
    .next ((if down then lowerRate s else s).note 0 0xC7 (dieLoc 0) noAsid n)
/-- D0_IDLE (R435): no context is LIVE. -/
def execD0Idle (s : State) : Out :=
  if s.power = .d0Active ∧ !(s.ctxs.any fun p => p.2.state = .live) then .next { s with power := .d0Idle }
  else notEnabled "D0_IDLE"
/-- What outlives a loss of the device's state: the model's own counters, the host's memory, the management controller and
what firmware configures. -/
def State.afterLoss (s : State) : State :=
  let m := { s.mgmt with spdm := 0, replies := [] }
  let f : Fabric := { pkg := s.fab.pkg, routes := s.fab.conf, conf := s.fab.conf }
  { State.reset with turns := s.turns, steps := s.steps, clock := s.clock, fresh := s.fresh, hmem := s.hmem,
                     mgmt := m, fab := f }
/-- Every dirty line of both dies reaches memory before the state of the dies is lost (R408, R435, R437): a write-through on
its way and a stack in retraining are awaited (R424). -/
def State.flushAll (s : State) : Got Unit := flushLines s fun _ _ => true
/-- Device memory, the remap table, what the host's memory holds and the present clock of another state, kept beside this one
(R432, R435, R437). -/
def State.keepMemory (s o : State) : State :=
  let keep (d e : Die) : Die := { d with remap := e.remap, rerr := e.rerr }
  { s with dmem := o.dmem, poison := o.poison, ecc := o.ecc, die0 := keep s.die0 o.die0, die1 := keep s.die1 o.die1,
           hmem := o.hmem, host := { s.host with clock := o.host.clock } }
/-- Every slot is FREE. -/
def allFree (s : State) : Bool := s.ctxs.all fun p => p.2.state = .free
/-- D3HOT (R435): entered when every slot is FREE; device memory and the remap table stay, other state is lost. -/
def execD3hot (s : State) : Out :=
  if s.awake ∧ allFree s then
    match s.flushAll with
    | .ok o _ => .next { s.afterLoss.keepMemory o with power := .d3hot }
    | .wait s' => ifAsked s s' "D3HOT"
    | .fail _ _ => notEnabled "D3HOT"
  else notEnabled "D3HOT"
/-- D3COLD (R435): main power is removed and every register, cache, table and memory loses its contents. -/
def execD3cold (s : State) : Out :=
  if s.power = .d3cold then notEnabled "D3COLD" else .next { s.afterLoss with power := .d3cold }
/-- RETURN_TO_D0 (R435). -/
def execReturnToD0 (s : State) : Out :=
  if s.power = .d3hot then .next { s with power := .d0Active } else notEnabled "RETURN_TO_D0"

/-! ### Reset (R433, R437) -/

/-- An image verifies: it is signed, and its version is not below the fused minimum (R433). -/
def Mgmt.verifies (m : Mgmt) (image : List Byte) : Bool :=
  Config.imageSigned image && decide (m.minVersion ≤ Config.imageVersion image)
/-- The controller starts and verifies the firmware: a staged image becomes the running one; an image that does not verify
leaves the device in recovery (R433). -/
def Mgmt.start (m : Mgmt) : Mgmt :=
  let image := m.staged.getD m.image
  let ok := m.verifies image
  { m with fwok := ok, recov := !ok, image := image, staged := none,
           fwDigest := if ok then Config.digest image else m.fwDigest,
           fwVersion := if ok then Config.imageVersion image else m.fwVersion }
/-- COLD_RESET (R437): all device state is as after power-on. -/
def execColdReset (s : State) : Out :=
  .next { s.afterLoss with mgmt := { s.afterLoss.mgmt.start with replies := [] }, power := .d0Active }
/-- Every context that a function-level reset ends has ended. -/
def allStopped (s : State) : Bool := s.ctxs.all fun p => p.2.state = .free || p.2.state = .ended
/-- FUNCTION_LEVEL_RESET (R437): the LIVE slots begin to end; once every slot has ended, all are freed and the device is
as after a cold reset, but for device memory and the remap table. -/
def execFunctionLevelReset (s : State) : Out :=
  if s.power = .d3hot ∨ s.power = .d3cold then notEnabled "FUNCTION_LEVEL_RESET"
  else if allStopped s then
    match s.flushAll with
    | .ok o _ => .next { s.afterLoss.keepMemory o with mgmt := s.mgmt, power := .d0Active }
    | .wait s' => ifAsked s s' "FUNCTION_LEVEL_RESET"
    | .fail _ _ => notEnabled "FUNCTION_LEVEL_RESET"
  else if s.host.flr then notEnabled "FUNCTION_LEVEL_RESET"
  else
    let f (c : Ctx) : Ctx := if c.state = .live then { c with state := .ending, first := none, more := 0 } else c
    .next { s with host := { s.host with flr := true }, ctxs := s.ctxs.map fun p => (p.1, f p.2) }

/-! ### Management (R433, R434) -/

/-- FIRMWARE_UPDATE (R433): an image that verifies and is not below the fused minimum is staged. -/
def execFirmwareUpdate (req : List Byte) (s : State) : Out :=
  if s.power = .d3cold then notEnabled "FIRMWARE_UPDATE"
  else if s.mgmt.verifies req then .next { s with mgmt := { s.mgmt with staged := some req } }
  else .next s
/-- The controller answers an SPDM request: in recovery it takes none (R433); one that comes before step `need` of an
exchange is an error. -/
def spdm (s : State) (m : String) (need step : Nat) (r : Reply) : Out :=
  if s.power = .d3cold ∨ s.mgmt.recov then notEnabled m
  else if s.mgmt.spdm < need then .next { s with mgmt := { s.mgmt with replies := s.mgmt.replies ++ [.error] } }
  else .next { s with mgmt := { s.mgmt with spdm := step, replies := s.mgmt.replies ++ [r] } }
/-- GET_VERSION (R434): an exchange begins. -/
def execGetVersion (_req : List Byte) (s : State) : Out := spdm s "GET_VERSION" 0 1 .version
/-- GET_CAPABILITIES (R434). -/
def execGetCapabilities (_req : List Byte) (s : State) : Out := spdm s "GET_CAPABILITIES" 1 2 .capabilities
/-- The request offers ECDSA P-384 and SHA-384, at the places of the SPDM standard. -/
def offers (req : List Byte) : Bool := bitOf (sliceNat req 8 4) 7 && bitOf (sliceNat req 12 4) 1
/-- NEGOTIATE_ALGORITHMS (R434): only ECDSA P-384 and SHA-384 are offered. -/
def execNegotiateAlgorithms (req : List Byte) (s : State) : Out :=
  spdm s "NEGOTIATE_ALGORITHMS" 2 (if offers req then 3 else 2) (.algorithms (offers req))
/-- GET_DIGESTS (R434). -/
def execGetDigests (_req : List Byte) (s : State) : Out :=
  spdm s "GET_DIGESTS" 3 s.mgmt.spdm (.digests (Config.digest ((List.range 65536).map Config.certificate)))
/-- GET_CERTIFICATE (R434): the part of the chain that the request names. -/
def execGetCertificate (req : List Byte) (s : State) : Out :=
  let off := sliceNat req 4 2
  spdm s "GET_CERTIFICATE" 3 s.mgmt.spdm
    (.certificate off ((List.range (sliceNat req 6 2)).map fun i => Config.certificate (off + i)))
/-- CHALLENGE (R434): signed with the device identity key. -/
def execChallenge (req : List Byte) (s : State) : Out :=
  spdm s "CHALLENGE" 3 s.mgmt.spdm (.challenge (Config.signature s.steps req))
/-- The bytes of the firmware's configuration (R434, R445): what it keeps for itself, the HDM decoders, the control-queue ring
and the fabric's package id and routes. The order of the bytes is a DESIGN CHOICE (log 8: the spec gives none). -/
def State.configBytes (s : State) : List Byte :=
  s.mgmt.config ++ packWords 8 [s.host.hdmBase, s.host.hdmSize, Config.cqBase, Config.cqSize, s.fab.pkg]
    ++ s.fab.conf.flatMap fun r => packWords 8 (r.1 :: r.2)
/-- The measurement blocks (R434). -/
def measurements (s : State) : List Block4 :=
  let m := s.mgmt
  [(1, m.romDigest), (2, m.fwDigest), (3, Config.digest s.configBytes),
   (4, (if m.debug then 1 else 0) + 2 * m.minVersion)]
/-- GET_MEASUREMENTS (R434): the block that the request names, or all of them, signed on request. -/
def execGetMeasurements (req : List Byte) (s : State) : Out :=
  let which := sliceNat req 3 1
  spdm s "GET_MEASUREMENTS" 3 s.mgmt.spdm
    (.measurements ((measurements s).filter fun b => which = 255 || b.1 = which)
      (if bitOf (sliceNat req 2 1) 0 then some (Config.signature s.steps req) else none))

end Sys2Proof.Machine
end

