-- ==== Sys2Proof/Machine/Integer.lean ====
section
/-! DEFINITION. Integer, logic, shift, bit-field, move and predicate instructions (R88 to R99) and the crew operations
(R100 to R102). -/

namespace Sys2Proof.Machine

/-! ### Shared computations -/

/-- Wrap of an exact result of two operands read as T (R88). -/
def dyad (e : Env) (x : XOps) (f : Int → Int → Int) : Eff :=
  toDest0 e x x.t fun l => wrapNat (tyBits x.t) (f (asInt x.t (e.cw.opA x x.t l)) (asInt x.t (e.cw.opB x x.t l)))

/-- WrapT of the exact value, or SatT with `.CLIP` (R89). -/
def clipOr (clip : Bool) (t : Ty) (v : Int) : Nat :=
  wrapNat (tyBits t) (if clip then satInt (tySigned t) (tyBits t) v else v)

/-- IADD and ISUB with their `.CLIP` (R88, R89). -/
def dyadClip (e : Env) (x : XOps) (f : Int → Int → Int) : Eff :=
  toDest0 e x x.t fun l => clipOr x.q x.t (f (asInt x.t (e.cw.opA x x.t l)) (asInt x.t (e.cw.opB x x.t l)))

/-- A bitwise operation of two operands (R91). -/
def logic (e : Env) (x : XOps) (f : Nat → Nat → Nat) : Eff :=
  toDest0 e x x.t fun l => f (e.cw.opA x x.t l) (e.cw.opB x x.t l)

/-- a AND NOT b in `n` bits (R91). -/
def andNot (n a b : Nat) : Nat := a &&& (2 ^ n - 1 - b % 2 ^ n)

/-- SHL, SHR, SAR and ROTL in `n` bits (R92). -/
def shlN (n a k : Nat) : Nat := if k < n then a * 2 ^ k % 2 ^ n else 0
/-- SHR (R92). -/
def shrN (n a k : Nat) : Nat := if k < n then a % 2 ^ n / 2 ^ k else 0
/-- SAR (R92). -/
def sarN (n a k : Nat) : Nat := wrapNat n (signedOf n a / (2 ^ min k n : Nat))
/-- ROTL (R92). -/
def rotlN (n a k : Nat) : Nat := a % 2 ^ n * 2 ^ (k % n) % 2 ^ n + a % 2 ^ n / 2 ^ (n - k % n)

/-- A shift: the count is the whole of b (R92). -/
def shift (e : Env) (x : XOps) (f : Nat → Nat → Nat → Nat) : Eff :=
  toDest0 e x x.t fun l => f (tyBits x.t) (e.cw.opA x x.t l) (e.cw.opBz x l)

/-- POPC (R91). -/
def popN (n a : Nat) : Nat := ((List.range n).filter (bitOf a)).length
/-- CLZ (R91). -/
def clzN (n a : Nat) : Nat := if a % 2 ^ n = 0 then n else n - 1 - Nat.log2 (a % 2 ^ n)
/-- BREV (R91). -/
def revN (n a : Nat) : Nat := (List.range n).foldl (fun r i => 2 * r + (if bitOf a i then 1 else 0)) 0

/-- The effective field length L of BFX and BFI (R93). -/
def fieldLen (w pos len : Nat) : Nat := if pos < w then min len (w - pos) else 0
/-- pos and len of a register operand, and of the immediate form (R93). -/
def fieldOf (x : XOps) (b : Nat) : Nat × Nat :=
  if x.k then (bitsOf x.imm 0 6, bitsOf x.imm 6 7) else (bitsOf b 0 8, bitsOf b 8 8)
/-- BFX of a field (R93). -/
def bfxN (signed : Bool) (w a pos len : Nat) : Nat :=
  let n := fieldLen w pos len
  if n = 0 then 0 else if signed then wrapNat w (signedOf n (bitsOf a pos n)) else bitsOf a pos n
/-- BFI of a field (R93). -/
def bfiN (w c a pos len : Nat) : Nat :=
  let n := fieldLen w pos len
  c - bitsOf c pos n * 2 ^ pos + bitsOf a 0 n * 2 ^ pos

/-- The comparison of ICMP (R97). -/
def icmpVal (cond : Nat) (a b : Int) : Bool :=
  match cond with
  | 0 => a = b
  | 1 => a ≠ b
  | 2 => a < b
  | 3 => a ≤ b
  | 4 => b < a
  | _ => b ≤ a

/-- IDIV (R90). -/
def idivVal (t : Ty) (a b : Int) : Int := if b = 0 then (if tySigned t then -1 else (2 ^ tyBits t - 1 : Nat)) else a.tdiv b
/-- IREM (R90). -/
def iremVal (a b : Int) : Int := if b = 0 then a else a - b * a.tdiv b

/-- The lanes of P(c) whose divisor is zero (R90). -/
def zeroDivisors (e : Env) (x : XOps) : Word := maskWhere e.part fun l => asInt x.t (e.cw.opB x x.t l) = 0

/-- IDIV and IREM: with `.TRAPZ` a zero divisor in P(c) raises cause 0x0B before any effect (R90). -/
def divide (s : State) (e : Env) (i : Instr) (x : XOps) (f : Int → Int → Int) : Out :=
  if x.q && zeroDivisors e x ≠ 0 then trapAt s e 0x0B 0 (zeroDivisors e x)
  else if x.y && e.part = 0 then skip s e
  else completeLater s e i (dyad e x f)

/-- MOV of a value of type V into type T (R94). -/
def movVal (x : XOps) (src : Nat) : Nat :=
  let v := srcTy x
  if x.t = v then src % 2 ^ tyBits x.t
  else
    let n := asInt v src
    let (lo, hi) := intRange (tySigned x.t) (tyBits x.t)
    if lo ≤ n ∧ n ≤ hi then wrapNat (tyBits x.t) n
    else if tyRaw x.t || x.q then wrapNat (tyBits x.t) n
    else wrapNat (tyBits x.t) (satInt (tySigned x.t) (tyBits x.t) n)

/-- MOV writes its source bits unchanged where T = V, else the converted value; d is extended to 32 bits in every branch
(R86, R94). -/
def movEff (e : Env) (x : XOps) : Eff :=
  onLanes x.y e.part fun l =>
    let src := e.cw.opd (x.y || x.u) (srcTy x) x.b l
    (resultWrites x.y x.t x.d l (movVal x src), 0)

/-- A constant into d, per lane or uniform (R96). -/
def constEff (e : Env) (uni : Bool) (d c : Nat) : Eff := onLanes uni e.part fun l => (regWrites uni d l c 1, 0)

/-- A predicate operation (R98). -/
def predEff (e : Env) (d : Nat) (f : Nat → Bool) : Eff := toPred e d fun l => (f l, 0)

/-- The lanes of P(c) in which a predicate is true. -/
def voters (e : Env) (a : Nat) : Word := e.part &&& e.cw.rp a

/-- VOTE (R100). -/
def voteEff (e : Env) (x : XOps) : Eff :=
  let m := voters e x.a
  match x.v with
  | 0 => predEff e x.d fun _ => m = e.part
  | 1 => predEff e x.d fun _ => m ≠ 0
  | _ => onLanes x.y e.part fun l => (regWrites x.y x.d l m.toNat 1, 0)

/-- The source lane of SHFL (R101). -/
def shflLane (mode l b : Nat) : Int :=
  match mode with
  | 0 => b
  | 1 => (l : Int) - b
  | 2 => l + b
  | _ => (l ^^^ b : Nat)

/-- SHFL (R101). -/
def shflEff (e : Env) (x : XOps) : Eff :=
  perLane e.part fun l =>
    let j := shflLane x.v l (e.cw.opBz x l)
    let k := if 0 ≤ j ∧ j < 32 ∧ inMask e.part j.toNat then j.toNat else l
    (resultWrites false x.t x.d l (e.cw.opd false x.t x.a k), 0)

/-- The identity of a fold (R102). -/
def foldId (t : Ty) (v : Nat) : Nat :=
  match v with
  | 1 => if tySigned t then 0x7FFFFFFF else 0xFFFFFFFF
  | 2 => if tySigned t then 0x80000000 else 0
  | 3 => 0xFFFFFFFF
  | 6 => 0x80000000
  | 7 | 8 => Fmt.f32.nan
  | _ => 0

/-- One step of a fold and its flags (R102). -/
def foldOp (t : Ty) (v rnd acc x : Nat) : Nat × Flags :=
  match v with
  | 0 => ((acc + x) % 4294967296, 0)
  | 1 => (if asInt t x < asInt t acc then x else acc, 0)
  | 2 => (if asInt t acc < asInt t x then x else acc, 0)
  | 3 => (acc &&& x, 0)
  | 4 => (acc ||| x, 0)
  | 5 => (acc ^^^ x, 0)
  | 6 => fAdd .f32 (rndOf rnd) acc x
  | 7 => minNum .f32 acc x
  | _ => maxNum .f32 acc x

/-- The fold over lanes in ascending order: lane, value before it, value after it, flags of its step (R102). -/
def foldLanes (t : Ty) (v rnd : Nat) (f : Nat → Nat) : Nat → List Nat → List (Nat × Nat × Nat × Flags)
  | _, [] => []
  | acc, l :: ls => let r := foldOp t v rnd acc (f l); (l, acc, r.1, r.2) :: foldLanes t v rnd f r.1 ls

/-- The fold of CRED and CSCAN (R102). -/
def foldOf (e : Env) (x : XOps) : List (Nat × Nat × Nat × Flags) :=
  foldLanes x.t x.v x.rnd (fun l => (e.cw.rv x.a l).toNat) (foldId x.t x.v) (lanesOf e.part)

/-- CRED writes the last value to a uniform register (R102). -/
def credEff (e : Env) (x : XOps) : Eff :=
  let r := foldOf e x
  match r.getLast? with
  | none => {}
  | some (_, _, acc, _) => { wr := regWrites true x.d 0 acc 1, flags := r.map fun p => (p.1, p.2.2.2) }

/-- CSCAN writes each lane's value after, or with Q = 1 before, its step (R102). -/
def cscanEff (e : Env) (x : XOps) : Eff :=
  let r := foldOf e x
  { wr := r.flatMap fun p => regWrites false x.d p.1 (if x.q then p.2.1 else p.2.2.1) 1,
    flags := r.map fun p => (p.1, p.2.2.2) }

/-! ### IADD, ISUB -/

/-- IADD (R88). -/
def execIaddX (x : XOps) (s : State) : Out := issue s (.iaddX x) fun s e => complete s e (dyadClip e x (· + ·))
/-- ISUB (R88). -/
def execIsubX (x : XOps) (s : State) : Out := issue s (.isubX x) fun s e => complete s e (dyadClip e x (· - ·))
/-- IADD, shape R2 (R87). -/
def execIaddR2 (x : R2) (s : State) : Out := issue s (.iaddR2 x) fun s e => complete s e (dyadClip e (r2X x) (· + ·))
/-- ISUB, shape R2 (R87). -/
def execIsubR2 (x : R2) (s : State) : Out := issue s (.isubR2 x) fun s e => complete s e (dyadClip e (r2X x) (· - ·))
/-- IADD, shape I8 (R88). -/
def execIaddI8 (x : I8) (s : State) : Out := issue s (.iaddI8 x) fun s e => complete s e (dyadClip e (i8X x) (· + ·))
/-- IADD_16 (R72). -/
def execIadd16 (d b : Nat) (s : State) : Out :=
  issue s (.iadd16 d b) fun s e => complete s e (dyadClip e (shortX d b) (· + ·))
/-- ISUB_16 (R72). -/
def execIsub16 (d b : Nat) (s : State) : Out :=
  issue s (.isub16 d b) fun s e => complete s e (dyadClip e (shortX d b) (· - ·))
/-- IADDI_16 (R72). -/
def execIaddi16 (d b : Nat) (s : State) : Out :=
  issue s (.iaddi16 d b) fun s e => complete s e (dyadClip e (shortImmX d b) (· + ·))

/-! ### Multiply, address, minimum and maximum, division -/

/-- IMUL (R88). -/
def execImul (x : XOps) (s : State) : Out := issue s (.imul x) fun s e => complete s e (dyad e x (· * ·))
/-- IMULH (R88): bits [63:32] of the exact product. -/
def execImulh (x : XOps) (s : State) : Out :=
  issue s (.imulh x) fun s e => complete s e (dyad e x fun a b => a * b / 4294967296)
/-- The type of a 32-bit operand that is extended per T (R88). -/
def halfTy (t : Ty) : Ty := if tySigned t then .s32 else .z32
/-- IMAD (R88): the factors are single registers, c and d are as wide as T. -/
def execImad (x : XOps) (s : State) : Out :=
  issue s (.imad x) fun s e => complete s e (toDest0 e x x.t fun l =>
    wrapNat (tyBits x.t) (asInt (halfTy x.t) (e.cw.opA x .z32 l) * asInt (halfTy x.t) (e.cw.opB x .z32 l)
      + asInt x.t (e.cw.opC x x.t l)))
/-- The b of LEA (R88): one register or the immediate, extended per T. -/
def leaB (w : Crew) (x : XOps) (l : Nat) : Int :=
  if x.k then (if tySigned x.t then signedOf 13 x.imm else (x.imm % 8192 : Nat))
  else asInt (halfTy x.t) (w.opd (x.y || x.u) .z32 x.b l)
/-- LEA (R88). -/
def execLea (x : XOps) (s : State) : Out :=
  issue s (.lea x) fun s e => complete s e (toDest0 e x x.t fun l =>
    wrapNat (tyBits x.t) (asInt x.t (e.cw.opA x x.t l) + leaB e.cw x l * (2 ^ x.v : Nat)))
/-- IMIN (R88). -/
def execImin (x : XOps) (s : State) : Out :=
  issue s (.imin x) fun s e => complete s e (dyad e x fun a b => if b < a then b else a)
/-- IMAX (R88). -/
def execImax (x : XOps) (s : State) : Out :=
  issue s (.imax x) fun s e => complete s e (dyad e x fun a b => if a < b then b else a)
/-- IABS (R88, R89). -/
def execIabs (x : XOps) (s : State) : Out :=
  issue s (.iabs x) fun s e => complete s e (toDest0 e x x.t fun l =>
    clipOr x.q x.t (asInt x.t (e.cw.opA x x.t l)).natAbs)
/-- IDIV (R90). -/
def execIdiv (x : XOps) (s : State) : Out := issue s (.idiv x) fun s e => divide s e (.idiv x) x (idivVal x.t)
/-- IREM (R90). -/
def execIrem (x : XOps) (s : State) : Out := issue s (.irem x) fun s e => divide s e (.irem x) x iremVal

/-! ### Logic -/

/-- AND (R91). -/
def execAndX (x : XOps) (s : State) : Out := issue s (.andX x) fun s e => complete s e (logic e x (· &&& ·))
/-- OR (R91). -/
def execOrX (x : XOps) (s : State) : Out := issue s (.orX x) fun s e => complete s e (logic e x (· ||| ·))
/-- XOR (R91). -/
def execXorX (x : XOps) (s : State) : Out := issue s (.xorX x) fun s e => complete s e (logic e x (· ^^^ ·))
/-- ANDN (R91). -/
def execAndnX (x : XOps) (s : State) : Out :=
  issue s (.andnX x) fun s e => complete s e (logic e x (andNot (tyBits x.t)))
/-- AND, shape R2 (R87). -/
def execAndR2 (x : R2) (s : State) : Out := issue s (.andR2 x) fun s e => complete s e (logic e (r2X x) (· &&& ·))
/-- OR, shape R2 (R87). -/
def execOrR2 (x : R2) (s : State) : Out := issue s (.orR2 x) fun s e => complete s e (logic e (r2X x) (· ||| ·))
/-- XOR, shape R2 (R87). -/
def execXorR2 (x : R2) (s : State) : Out := issue s (.xorR2 x) fun s e => complete s e (logic e (r2X x) (· ^^^ ·))
/-- ANDN, shape R2 (R87). -/
def execAndnR2 (x : R2) (s : State) : Out := issue s (.andnR2 x) fun s e => complete s e (logic e (r2X x) (andNot 32))
/-- AND_16 (R72). -/
def execAnd16 (d b : Nat) (s : State) : Out :=
  issue s (.and16 d b) fun s e => complete s e (logic e (shortX d b) (· &&& ·))
/-- OR_16 (R72). -/
def execOr16 (d b : Nat) (s : State) : Out :=
  issue s (.or16 d b) fun s e => complete s e (logic e (shortX d b) (· ||| ·))
/-- XOR_16 (R72). -/
def execXor16 (d b : Nat) (s : State) : Out :=
  issue s (.xor16 d b) fun s e => complete s e (logic e (shortX d b) (· ^^^ ·))
/-- NOT (R91). -/
def execNotX (x : XOps) (s : State) : Out :=
  issue s (.notX x) fun s e => complete s e (toDest0 e x x.t fun l =>
    2 ^ tyBits x.t - 1 - e.cw.opA x x.t l % 2 ^ tyBits x.t)
/-- POPC (R91): d is one register. -/
def execPopc (x : XOps) (s : State) : Out :=
  issue s (.popc x) fun s e => complete s e (toDest0 e x .z32 fun l => popN (tyBits x.t) (e.cw.opA x x.t l))
/-- CLZ (R91): d is one register. -/
def execClz (x : XOps) (s : State) : Out :=
  issue s (.clz x) fun s e => complete s e (toDest0 e x .z32 fun l => clzN (tyBits x.t) (e.cw.opA x x.t l))
/-- BREV (R91). -/
def execBrev (x : XOps) (s : State) : Out :=
  issue s (.brev x) fun s e => complete s e (toDest0 e x x.t fun l => revN (tyBits x.t) (e.cw.opA x x.t l))
/-- BFX (R93). -/
def execBfx (x : XOps) (s : State) : Out :=
  issue s (.bfx x) fun s e => complete s e (toDest0 e x x.t fun l =>
    let p := fieldOf x (e.cw.opBz x l)
    bfxN (tySigned x.t) (tyBits x.t) (e.cw.opA x x.t l) p.1 p.2)
/-- BFI (R93). -/
def execBfi (x : XOps) (s : State) : Out :=
  issue s (.bfi x) fun s e => complete s e (toDest0 e x x.t fun l =>
    let p := fieldOf x (e.cw.opBz x l)
    bfiN (tyBits x.t) (e.cw.opC x x.t l) (e.cw.opA x x.t l) p.1 p.2)

/-! ### Shifts -/

/-- SHL (R92). -/
def execShlX (x : XOps) (s : State) : Out := issue s (.shlX x) fun s e => complete s e (shift e x shlN)
/-- SHR (R92). -/
def execShrX (x : XOps) (s : State) : Out := issue s (.shrX x) fun s e => complete s e (shift e x shrN)
/-- SAR (R92). -/
def execSarX (x : XOps) (s : State) : Out := issue s (.sarX x) fun s e => complete s e (shift e x sarN)
/-- ROTL (R92). -/
def execRotlX (x : XOps) (s : State) : Out := issue s (.rotlX x) fun s e => complete s e (shift e x rotlN)
/-- SHL, shape R2 (R87). -/
def execShlR2 (x : R2) (s : State) : Out := issue s (.shlR2 x) fun s e => complete s e (shift e (r2X x) shlN)
/-- SHR, shape R2 (R87). -/
def execShrR2 (x : R2) (s : State) : Out := issue s (.shrR2 x) fun s e => complete s e (shift e (r2X x) shrN)
/-- SAR, shape R2 (R87). -/
def execSarR2 (x : R2) (s : State) : Out := issue s (.sarR2 x) fun s e => complete s e (shift e (r2X x) sarN)
/-- ROTL, shape R2 (R87). -/
def execRotlR2 (x : R2) (s : State) : Out := issue s (.rotlR2 x) fun s e => complete s e (shift e (r2X x) rotlN)
/-- SHL, shape I6 (R92). -/
def execShlI6 (x : I6) (s : State) : Out := issue s (.shlI6 x) fun s e => complete s e (shift e (i6X x) shlN)
/-- SHR, shape I6 (R92). -/
def execShrI6 (x : I6) (s : State) : Out := issue s (.shrI6 x) fun s e => complete s e (shift e (i6X x) shrN)
/-- SAR, shape I6 (R92). -/
def execSarI6 (x : I6) (s : State) : Out := issue s (.sarI6 x) fun s e => complete s e (shift e (i6X x) sarN)
/-- ROTL, shape I6 (R92). -/
def execRotlI6 (x : I6) (s : State) : Out := issue s (.rotlI6 x) fun s e => complete s e (shift e (i6X x) rotlN)
/-- SHLI_16 (R72). -/
def execShli16 (d b : Nat) (s : State) : Out :=
  issue s (.shli16 d b) fun s e => complete s e (shift e (shortShiftX d b) shlN)
/-- SHRI_16 (R72). -/
def execShri16 (d b : Nat) (s : State) : Out :=
  issue s (.shri16 d b) fun s e => complete s e (shift e (shortShiftX d b) shrN)
/-- SARI_16 (R72). -/
def execSari16 (d b : Nat) (s : State) : Out :=
  issue s (.sari16 d b) fun s e => complete s e (shift e (shortShiftX d b) sarN)

/-! ### Moves and constants -/

/-- MOV (R94). -/
def execMov (x : XOps) (s : State) : Out := issue s (.mov x) fun s e => complete s e (movEff e x)
/-- MOV_16 (R72): MOV.B32. -/
def execMov16 (d b : Nat) (s : State) : Out :=
  issue s (.mov16 d b) fun s e => complete s e (movEff e { xForm noHdr d 0 b with t := .b32, v := tyCode .b32 })
/-- SEL (R95). -/
def execSel (x : XOps) (s : State) : Out :=
  issue s (.sel x) fun s e => complete s e (toDest0 e x x.t fun l =>
    if inMask (e.cw.rp x.c) l then e.cw.opA x x.t l else e.cw.opB x x.t l)
/-- MOVI (R96). -/
def execMovi (x : MoviOps) (s : State) : Out :=
  issue s (.movi x) fun s e => complete s e (constEff e x.y x.d (wrapNat 32 (signedOf 8 x.imm)))
/-- MOVI_16 (R72). -/
def execMovi16 (d b : Nat) (s : State) : Out :=
  issue s (.movi16 d b) fun s e => complete s e (constEff e false d (wrapNat 32 (signedOf 5 b)))
/-- MOVL (R96). -/
def execMovl (x : MovlOps) (s : State) : Out := issue s (.movl x) fun s e => complete s e (constEff e x.y x.d x.const)

/-! ### Compare and predicates -/

/-- ICMP (R97). -/
def execIcmp (x : XOps) (s : State) : Out :=
  issue s (.icmp x) fun s e => complete s e (predEff e x.d fun l =>
    icmpVal x.v (asInt x.t (e.cw.opA x x.t l)) (asInt x.t (e.cw.opB x x.t l)))
/-- PAND (R98). -/
def execPand (x : R4) (s : State) : Out :=
  issue s (.pand x) fun s e => complete s e (predEff e x.d (inMask (e.cw.rp x.a &&& e.cw.rp x.b)))
/-- POR (R98). -/
def execPor (x : R4) (s : State) : Out :=
  issue s (.por x) fun s e => complete s e (predEff e x.d (inMask (e.cw.rp x.a ||| e.cw.rp x.b)))
/-- PXOR (R98). -/
def execPxor (x : R4) (s : State) : Out :=
  issue s (.pxor x) fun s e => complete s e (predEff e x.d (inMask (e.cw.rp x.a ^^^ e.cw.rp x.b)))
/-- PNOT (R98). -/
def execPnot (x : R4) (s : State) : Out :=
  issue s (.pnot x) fun s e => complete s e (predEff e x.d (inMask (~~~(e.cw.rp x.a))))
/-- P2V (R99). -/
def execP2v (x : XOps) (s : State) : Out :=
  issue s (.p2v x) fun s e => complete s e (perLane e.part fun l =>
    (regWrites false x.d l ((List.range 8).foldr (fun k n => (if inMask (e.cw.rp k) l then 1 else 0) + 2 * n) 0) 1, 0))
/-- V2P (R99). -/
def execV2p (x : XOps) (s : State) : Out :=
  issue s (.v2p x) fun s e => complete s e (perLane e.part fun l =>
    ((List.range 7).map fun k => .p (k + 1) l (bitOf (e.cw.opA x .z32 l) (k + 1)), 0))

/-! ### Crew operations -/

/-- VOTE (R100). -/
def execVote (x : XOps) (s : State) : Out := issue s (.vote x) fun s e => complete s e (voteEff e x)
/-- SHFL (R101). -/
def execShfl (x : XOps) (s : State) : Out := issue s (.shfl x) fun s e => complete s e (shflEff e x)
/-- CRED (R102). -/
def execCred (x : XOps) (s : State) : Out := issue s (.cred x) fun s e => complete s e (credEff e x)
/-- CSCAN (R102). -/
def execCscan (x : XOps) (s : State) : Out := issue s (.cscan x) fun s e => complete s e (cscanEff e x)

end Sys2Proof.Machine
end

