-- ==== Sys2Proof/Machine/Moment.lean ====
section
/-! DEFINITION. The moment instructions that compute (R140 to R154). A step of a rule carries its value and its flags. -/

namespace Sys2Proof.Machine

/-! ### FP32 steps that gather flags (R141) -/

/-- A value as an FP32 pattern, with the flags raised so far. -/
abbrev Flt := Nat × Flags

/-- F of an exact sum, difference or product of two FP32 values. -/
def mAdd (a b : Flt) : Flt := let r := fAdd .f32 .rn a.1 b.1; (r.1, a.2 ||| b.2 ||| r.2)
/-- Difference. -/
def mSub (a b : Flt) : Flt := let r := fSub .f32 .rn a.1 b.1; (r.1, a.2 ||| b.2 ||| r.2)
/-- Product. -/
def mMul (a b : Flt) : Flt := let r := fMul .f32 .rn a.1 b.1; (r.1, a.2 ||| b.2 ||| r.2)
/-- Quotient. -/
def mDiv (a b : Flt) : Flt := let r := fDiv .f32 .rn a.1 b.1; (r.1, a.2 ||| b.2 ||| r.2)
/-- Product and sum with one rounding. -/
def mFma (a b c : Flt) : Flt := let r := fFma .f32 .rn a.1 b.1 c.1; (r.1, a.2 ||| b.2 ||| c.2 ||| r.2)
/-- A unary FP32 function. -/
def mFn (f : Nat → Nat × Flags) (a : Flt) : Flt := let r := f a.1; (r.1, a.2 ||| r.2)
/-- −x: the sign turned, no rounding. -/
def mNeg (a : Flt) : Flt := (a.1 ^^^ 0x80000000, a.2)
/-- A constant. -/
def mK (x : Nat) : Flt := (x, 0)
/-- 1, 2, 4 and 0.5 in FP32. -/
def m1 : Flt := mK 0x3F800000
/-- 2. -/
def m2 : Flt := mK 0x40000000
/-- 4. -/
def m4 : Flt := mK 0x40800000
/-- 0.5. -/
def mHalf : Flt := mK 0x3F000000

/-- F(F(x × y) × 2 × c) with the product by 2 exact before the rounding (R141, R145). -/
def mTwice (x c : Flt) : Flt :=
  let p := mulVal (mulVal (intVal 2) (valueOf .f32 x.1)).1 (valueOf .f32 c.1)
  let r := finish .f32 .rn false p.1 (flagIf p.2 flagNV ||| snanFlag .f32 [x.1, c.1])
  (r.1, x.2 ||| c.2 ||| r.2)

/-- F(x ± 2 × c), the product exact (R145). -/
def mAddTwice (sub : Bool) (x c : Flt) : Flt :=
  let t := (mulVal (intVal 2) (valueOf .f32 c.1)).1
  let v := addVal false (valueOf .f32 x.1) (if sub then t.opp else t)
  let r := finish .f32 .rn false v.1 (flagIf v.2 flagNV ||| snanFlag .f32 [x.1, c.1])
  (r.1, x.2 ||| c.2 ||| r.2)

/-- A moment as mean and variance. -/
structure Mom where
  mu : Flt
  var : Flt
  deriving DecidableEq, Repr

/-- The element of a moment (R46). -/
def Mom.bits (m : Mom) : DWord := BitVec.ofNat 64 (m.mu.1 + 4294967296 * m.var.1)
/-- The flags of a moment result. -/
def Mom.flags (m : Mom) : Flags := m.mu.2 ||| m.var.2

/-- A variance below zero fails its check; −0 counts as zero and a NaN passes (R143). -/
def negVar (v : Nat) : Bool :=
  match valueOf .f32 v with
  | .num neg n _ => neg && n ≠ 0
  | .inf neg => neg
  | .nan => false

/-- A source as it is read: under `.CLAMP` a failing variance reads as +0 (R143). -/
def momOf (x : DWord) : Mom :=
  let v := x.toNat / 4294967296
  { mu := (x.toNat % 4294967296, 0), var := (if negVar v then 0 else v, 0) }

/-- The covariance assumption (R142). -/
def covOf (cov : Nat) (a b : Mom) (supplied : Nat) : Flt :=
  match cov with
  | 1 => mMul (mFn sqrt32 a.var) (mFn sqrt32 b.var)
  | 2 => mNeg (mMul (mFn sqrt32 a.var) (mFn sqrt32 b.var))
  | 3 => mK supplied
  | _ => mK 0

/-- MADD and MSUB (R145). -/
def momAdd (sub : Bool) (a b : Mom) (c : Flt) : Mom :=
  { mu := if sub then mSub a.mu b.mu else mAdd a.mu b.mu, var := mAddTwice sub (mAdd a.var b.var) c }

/-- MMUL (R145); under IND the terms t4 and t5 are +0. -/
def momMul (ind : Bool) (a b : Mom) (c : Flt) : Mom :=
  let t1 := mMul (mMul a.mu a.mu) b.var
  let t2 := mMul (mMul b.mu b.mu) a.var
  let t3 := mMul a.var b.var
  let t4 := if ind then mK 0 else mTwice (mMul a.mu b.mu) c
  let t5 := if ind then mK 0 else mMul c c
  { mu := mFma a.mu b.mu c, var := mAdd (mAdd (mAdd (mAdd t1 t2) t3) t4) t5 }

/-- MSCALE (R146). -/
def momScale (a : Mom) (k : Nat) : Mom :=
  { mu := mMul a.mu (mK k), var := mMul a.var (mMul (mK k) (mK k)) }

/-- A pattern is a NaN. -/
def isNan32 (x : Nat) : Bool := decide (valueOf .f32 x = .nan)

/-- MRELU (R147). -/
def momRelu (a : Mom) : Mom :=
  if isNan32 a.mu.1 || isNan32 a.var.1 then
    { mu := (Fmt.f32.nan, snanFlag .f32 [a.mu.1]), var := (Fmt.f32.nan, snanFlag .f32 [a.var.1]) }
  else
    let sg := mFn sqrt32 a.var
    if (valueOf .f32 sg.1).isZero then
      { mu := if ltVal (intVal 0) (valueOf .f32 a.mu.1) then a.mu else mK 0, var := (0, sg.2) }
    else
      let z := mDiv a.mu sg
      let ph := mFn phi32 z
      let pd := mFn pdf32 z
      let mean := mAdd (mMul a.mu ph) (mMul sg pd)
      let e2 := mAdd (mMul (mAdd (mMul a.mu a.mu) a.var) ph) (mMul (mMul a.mu sg) pd)
      { mu := mean, var := mSub e2 (mMul mean mean) }

/-- MSIGM (R148). -/
def momSigm (a : Mom) : Mom :=
  let sd := mFn sqrt32 (mAdd m1 (mMul (mK fPI8) a.var))
  let mean := mFn sig32 (mDiv a.mu sd)
  let inv := mDiv m1 sd
  { mu := mean, var := mMul (mMul mean (mSub m1 mean)) (mSub m1 inv) }

/-- F(k × x ± …) where the product by a power of two is exact: F(2 × m − 1) (R149). -/
def mTwiceLess1 (m : Flt) : Flt := mFma m2 m (mK 0xBF800000)

/-- MTANH (R149). -/
def momTanh (a : Mom) : Mom :=
  let r := momSigm { mu := mMul m2 a.mu, var := mMul m4 a.var }
  { mu := mTwiceLess1 r.mu, var := mMul m4 r.var }

/-- Expm1D of a variance, rounded to FP32; +∞ stays (R150). -/
def mExpm1 (v : Flt) : Flt :=
  match valueOf .f32 v.1 with
  | .inf false => v
  | .nan => (Fmt.f32.nan, v.2 ||| snanFlag .f32 [v.1])
  | x => let r := roundTo .f32 (dVal (expm1D (dOf x))) .rn false; (r.1, v.2 ||| r.2)

/-- MEXP (R150): its pseudocode. Where v is zero and Exp32(F(2 × μ)) infinite, or v is −0, this differs from the rule's sentence
on v = 0 (DESIGN CHOICE, log 113). -/
def momExp (a : Mom) : Mom :=
  { mu := mFn exp32 (mAdd a.mu (mMul mHalf a.var)),
    var := mMul (mExpm1 a.var) (mFn exp32 (mAdd (mMul m2 a.mu) a.var)) }

/-! ### Checks and delivery (R143, R144) -/

/-- The lanes of P(c) in which a test of the variance of a source fails. -/
def failing (e : Env) (f : Nat → Nat) : Word := maskWhere e.part fun l => negVar (f l)

/-- The source check over the sources in order: the register number of the first that fails in some lane, and every
lane in which some source fails (R144). -/
def sourceCheck (e : Env) (srcs : List (Nat × (Nat → Nat))) : Option (Nat × Word) :=
  match srcs.find? fun p => failing e p.2 ≠ 0 with
  | none => none
  | some p => some (p.1, srcs.foldl (fun m q => m ||| failing e q.2) 0)

/-- The variance half of a moment register in a lane. -/
def varOf (e : Env) (r l : Nat) : Nat := (e.cw.rm r l).toNat / 4294967296

/-- The moment registers as sources of the check. -/
def momSrcs (e : Env) (rs : List Nat) : List (Nat × (Nat → Nat)) := rs.map fun r => (r, varOf e r)

/-- TRAPC[31:8] of cause 0x12: the register in [11:8], the result bit in [12] (R144). -/
def negInfo (r : Nat) (result : Bool) : Nat := r % 16 + (if result then 16 else 0)

/-- One lane's result: its moment, and whether a check of a result failed before any clamp (R143). -/
structure MomRes where
  m : Mom
  failed : Bool
  deriving DecidableEq, Repr

/-- A result under its check: `.CLAMP` writes a failing variance as +0 (R143). -/
def checked (clamp : Bool) (m : Mom) : MomRes :=
  if negVar m.var.1 then ⟨if clamp then { m with var := (0, m.var.2) } else m, true⟩ else ⟨m, false⟩

/-- A fixed-latency moment instruction (R143, R144): both checks before any lane is written. `srcs` are the checked
sources, `f` the result of a lane. -/
def momFixed (s : State) (e : Env) (x : XOps) (srcs : List (Nat × (Nat → Nat))) (f : Nat → MomRes) : Out :=
  let sc := sourceCheck e srcs
  match x.q, sc with
  | false, some (r, m) => trapAt s e 0x12 (negInfo r false) m
  | _, _ =>
    let rs := (lanesOf e.part).map fun l => (l, f l)
    let bad := rs.filter (·.2.failed)
    if !x.q && !bad.isEmpty then trapAt s e 0x12 (negInfo x.d true) (maskOf (bad.map (·.1)))
    else complete s e
      { wr := rs.map fun p => .m x.d p.1 p.2.m.bits, flags := rs.map fun p => (p.1, p.2.m.flags),
        clamp := x.q && (sc.isSome || !bad.isEmpty) }

/-- A variable-latency moment instruction: the source check at issue, a failed result check at the unpark (R144). -/
def momLater (s : State) (e : Env) (i : Instr) (x : XOps) (srcs : List (Nat × (Nat → Nat))) (f : Nat → MomRes)
    (wr : Nat → Mom → List Wr) : Out :=
  let sc := sourceCheck e srcs
  match x.q, sc with
  | false, some (r, m) => trapAt s e 0x12 (negInfo r false) m
  | _, _ =>
    let rs := (lanesOf e.part).map fun l => (l, f l)
    let bad := rs.any (·.2.failed)
    let late : Option Trap := if !x.q && bad then some { code := 0x12, info := negInfo x.d true } else none
    completeLater s e i
      { wr := rs.flatMap fun p => wr p.1 p.2.m, flags := rs.map fun p => (p.1, p.2.m.flags),
        clamp := x.q && (sc.isSome || bad), late := late }

/-- A moment operand of a lane. -/
def momAt (e : Env) (r l : Nat) : Mom := momOf (e.cw.rm r l)

/-- The covariance operand of a lane (R142). -/
def covAt (e : Env) (x : XOps) (l : Nat) : Flt :=
  covOf x.cov (momAt e x.a l) (momAt e x.b l) (e.cw.rs x.c).toNat

/-- A two-operand moment instruction. -/
def momTwo (s : State) (e : Env) (x : XOps) (f : Mom → Mom → Flt → Mom) : Out :=
  momFixed s e x (momSrcs e [x.a, x.b]) fun l => checked x.q (f (momAt e x.a l) (momAt e x.b l) (covAt e x l))

/-- A moment non-linearity. -/
def momUn (s : State) (e : Env) (i : Instr) (x : XOps) (f : Mom → Mom) : Out :=
  momLater s e i x (momSrcs e [x.a]) (fun l => checked x.q (f (momAt e x.a l))) fun l m => [.m x.d l m.bits]

/-! ### The instructions -/

/-- MADD (R145). -/
def execMadd (x : XOps) (s : State) : Out := issue s (.madd x) fun s e => momTwo s e x (momAdd false)
/-- MSUB (R145). -/
def execMsub (x : XOps) (s : State) : Out := issue s (.msub x) fun s e => momTwo s e x (momAdd true)
/-- MMUL (R145). -/
def execMmul (x : XOps) (s : State) : Out := issue s (.mmul x) fun s e => momTwo s e x (momMul (x.cov = 0))
/-- MFMA (R145): the product is checked as a result, then the addend is added as independent. -/
def execMfma (x : XOps) (s : State) : Out :=
  issue s (.mfma x) fun s e =>
    momFixed s e x (momSrcs e [x.a, x.b, x.c]) fun l =>
      let p := checked x.q (momMul (x.cov = 0) (momAt e x.a l) (momAt e x.b l) (covAt e x l))
      let c := momAt e x.c l
      let r := checked x.q { mu := mAdd p.m.mu c.mu, var := mAdd p.m.var c.var }
      ⟨r.m, p.failed || r.failed⟩
/-- MSCALE (R146). -/
def execMscale (x : XOps) (s : State) : Out :=
  issue s (.mscale x) fun s e => momFixed s e x (momSrcs e [x.a]) fun l =>
    checked x.q (momScale (momAt e x.a l) (e.cw.opB x .z32 l))
/-- MRELU (R147). -/
def execMrelu (x : XOps) (s : State) : Out := issue s (.mrelu x) fun s e => momUn s e (.mrelu x) x momRelu
/-- MSIGM (R148). -/
def execMsigm (x : XOps) (s : State) : Out := issue s (.msigm x) fun s e => momUn s e (.msigm x) x momSigm
/-- MTANH (R149). -/
def execMtanh (x : XOps) (s : State) : Out := issue s (.mtanh x) fun s e => momUn s e (.mtanh x) x momTanh
/-- MEXP (R150). -/
def execMexp (x : XOps) (s : State) : Out := issue s (.mexp x) fun s e => momUn s e (.mexp x) x momExp

/-- A pattern as MSET writes it: a NaN becomes canonical, a signalling one with NV (R121, R151). -/
def canon (x : Nat) : Flt := if isNan32 x then (Fmt.f32.nan, snanFlag .f32 [x]) else (x, 0)

/-- MSET (R151): the variance comes from a vector register, so a failure names d (R144). -/
def execMset (x : XOps) (s : State) : Out :=
  issue s (.mset x) fun s e =>
    momFixed s e x [(x.d, fun l => e.cw.opB x .z32 l)] fun l =>
      let v := e.cw.opB x .z32 l
      ⟨{ mu := canon (e.cw.rv x.a l).toNat, var := canon (if negVar v then 0 else v) }, false⟩

/-- MMOV (R152). -/
def execMmov (x : XOps) (s : State) : Out :=
  issue s (.mmov x) fun s e => complete s e (perLane e.part fun l => ([.m x.d l (e.cw.rm x.a l)], 0))

/-- The bounded variance of MCLAMP and its flags (R153). -/
def clampVar (v lo hi : Nat) : Flt :=
  let fl := snanFlag .f32 [v, lo, hi]
  if isNan32 v then (Fmt.f32.nan, fl)
  else
    let lo' := if isNan32 lo || bitOf lo 31 then 0 else lo
    let hi' := if isNan32 hi then 0x7F800000 else (maxNum .f32 hi 0).1
    ((minNum .f32 (maxNum .f32 v lo').1 hi').1, fl)

/-- MCLAMP (R153). -/
def execMclamp (x : XOps) (s : State) : Out :=
  issue s (.mclamp x) fun s e => complete s e (perLane e.part fun l =>
    let a := (e.cw.rm x.a l).toNat
    let v := clampVar (a / 4294967296) (e.cw.opB x .z32 l) (e.cw.opC x .z32 l)
    ([.m x.d l (BitVec.ofNat 64 (a % 4294967296 + 4294967296 * v.1))], v.2))

/-- MCOLL (R154). -/
def execMcoll (x : XOps) (s : State) : Out :=
  issue s (.mcoll x) fun s e =>
    momLater s e (.mcoll x) x (momSrcs e [x.a])
      (fun l =>
        let m := momAt e x.a l
        ⟨{ m with var := if x.v = 0 then mFn sqrt32 m.var else m.var }, false⟩)
      fun l m => regWrites false x.d l (m.mu.1 + 4294967296 * m.var.1) 2

end Sys2Proof.Machine
end

