-- ==== Sys2Proof/Machine/Dispatch.lean ====
section
/-! DEFINITION. The meaning of every instruction and event: one direct call for each constructor. -/

namespace Sys2Proof.Machine

/-- The effect of an instruction at the crew that stands at issue, or of an event (R6, R18). -/
def exec (i : Instr) (s : State) : Host.Outcome State Fault Refusal :=
  match i with
  | .mov16 d b => Sys2Proof.Machine.execMov16 d b s
  | .iadd16 d b => Sys2Proof.Machine.execIadd16 d b s
  | .isub16 d b => Sys2Proof.Machine.execIsub16 d b s
  | .iaddi16 d b => Sys2Proof.Machine.execIaddi16 d b s
  | .and16 d b => Sys2Proof.Machine.execAnd16 d b s
  | .or16 d b => Sys2Proof.Machine.execOr16 d b s
  | .xor16 d b => Sys2Proof.Machine.execXor16 d b s
  | .shli16 d b => Sys2Proof.Machine.execShli16 d b s
  | .shri16 d b => Sys2Proof.Machine.execShri16 d b s
  | .sari16 d b => Sys2Proof.Machine.execSari16 d b s
  | .fadd16 d b => Sys2Proof.Machine.execFadd16 d b s
  | .fsub16 d b => Sys2Proof.Machine.execFsub16 d b s
  | .fmul16 d b => Sys2Proof.Machine.execFmul16 d b s
  | .fmax16 d b => Sys2Proof.Machine.execFmax16 d b s
  | .fmin16 d b => Sys2Proof.Machine.execFmin16 d b s
  | .movi16 d b => Sys2Proof.Machine.execMovi16 d b s
  | .iaddR2 x => Sys2Proof.Machine.execIaddR2 x s
  | .isubR2 x => Sys2Proof.Machine.execIsubR2 x s
  | .andR2 x => Sys2Proof.Machine.execAndR2 x s
  | .orR2 x => Sys2Proof.Machine.execOrR2 x s
  | .xorR2 x => Sys2Proof.Machine.execXorR2 x s
  | .andnR2 x => Sys2Proof.Machine.execAndnR2 x s
  | .shlR2 x => Sys2Proof.Machine.execShlR2 x s
  | .shrR2 x => Sys2Proof.Machine.execShrR2 x s
  | .sarR2 x => Sys2Proof.Machine.execSarR2 x s
  | .rotlR2 x => Sys2Proof.Machine.execRotlR2 x s
  | .iaddI8 x => Sys2Proof.Machine.execIaddI8 x s
  | .shlI6 x => Sys2Proof.Machine.execShlI6 x s
  | .shrI6 x => Sys2Proof.Machine.execShrI6 x s
  | .sarI6 x => Sys2Proof.Machine.execSarI6 x s
  | .rotlI6 x => Sys2Proof.Machine.execRotlI6 x s
  | .movi x => Sys2Proof.Machine.execMovi x s
  | .pand x => Sys2Proof.Machine.execPand x s
  | .por x => Sys2Proof.Machine.execPor x s
  | .pxor x => Sys2Proof.Machine.execPxor x s
  | .pnot x => Sys2Proof.Machine.execPnot x s
  | .bra x => Sys2Proof.Machine.execBra x s
  | .call x => Sys2Proof.Machine.execCall x s
  | .brx x => Sys2Proof.Machine.execBrx x s
  | .ret x => Sys2Proof.Machine.execRet x s
  | .exit x => Sys2Proof.Machine.execExit x s
  | .trigger x => Sys2Proof.Machine.execTrigger x s
  | .regsGrow x => Sys2Proof.Machine.execRegsGrow x s
  | .regsShrink x => Sys2Proof.Machine.execRegsShrink x s
  | .csrr x => Sys2Proof.Machine.execCsrr x s
  | .csrw x => Sys2Proof.Machine.execCsrw x s
  | .trap x => Sys2Proof.Machine.execTrap x s
  | .nop x => Sys2Proof.Machine.execNop x s
  | .tret x => Sys2Proof.Machine.execTret x s
  | .bkpt x => Sys2Proof.Machine.execBkpt x s
  | .iaddX x => Sys2Proof.Machine.execIaddX x s
  | .isubX x => Sys2Proof.Machine.execIsubX x s
  | .shlX x => Sys2Proof.Machine.execShlX x s
  | .shrX x => Sys2Proof.Machine.execShrX x s
  | .sarX x => Sys2Proof.Machine.execSarX x s
  | .rotlX x => Sys2Proof.Machine.execRotlX x s
  | .andX x => Sys2Proof.Machine.execAndX x s
  | .orX x => Sys2Proof.Machine.execOrX x s
  | .xorX x => Sys2Proof.Machine.execXorX x s
  | .andnX x => Sys2Proof.Machine.execAndnX x s
  | .imul x => Sys2Proof.Machine.execImul x s
  | .imulh x => Sys2Proof.Machine.execImulh x s
  | .imad x => Sys2Proof.Machine.execImad x s
  | .lea x => Sys2Proof.Machine.execLea x s
  | .idiv x => Sys2Proof.Machine.execIdiv x s
  | .irem x => Sys2Proof.Machine.execIrem x s
  | .imin x => Sys2Proof.Machine.execImin x s
  | .imax x => Sys2Proof.Machine.execImax x s
  | .iabs x => Sys2Proof.Machine.execIabs x s
  | .notX x => Sys2Proof.Machine.execNotX x s
  | .popc x => Sys2Proof.Machine.execPopc x s
  | .clz x => Sys2Proof.Machine.execClz x s
  | .brev x => Sys2Proof.Machine.execBrev x s
  | .bfx x => Sys2Proof.Machine.execBfx x s
  | .bfi x => Sys2Proof.Machine.execBfi x s
  | .icmp x => Sys2Proof.Machine.execIcmp x s
  | .sel x => Sys2Proof.Machine.execSel x s
  | .mov x => Sys2Proof.Machine.execMov x s
  | .p2v x => Sys2Proof.Machine.execP2v x s
  | .v2p x => Sys2Proof.Machine.execV2p x s
  | .movl x => Sys2Proof.Machine.execMovl x s
  | .fadd x => Sys2Proof.Machine.execFadd x s
  | .fsub x => Sys2Proof.Machine.execFsub x s
  | .fmul x => Sys2Proof.Machine.execFmul x s
  | .ffma x => Sys2Proof.Machine.execFfma x s
  | .fmin x => Sys2Proof.Machine.execFmin x s
  | .fmax x => Sys2Proof.Machine.execFmax x s
  | .fcmp x => Sys2Proof.Machine.execFcmp x s
  | .fclass x => Sys2Proof.Machine.execFclass x s
  | .fdiv x => Sys2Proof.Machine.execFdiv x s
  | .fsqrt x => Sys2Proof.Machine.execFsqrt x s
  | .frcp x => Sys2Proof.Machine.execFrcp x s
  | .frsq x => Sys2Proof.Machine.execFrsq x s
  | .frnd x => Sys2Proof.Machine.execFrnd x s
  | .f2f x => Sys2Proof.Machine.execF2f x s
  | .f2i x => Sys2Proof.Machine.execF2i x s
  | .i2f x => Sys2Proof.Machine.execI2f x s
  | .fexp2 x => Sys2Proof.Machine.execFexp2 x s
  | .flog2 x => Sys2Proof.Machine.execFlog2 x s
  | .fexp x => Sys2Proof.Machine.execFexp x s
  | .flog x => Sys2Proof.Machine.execFlog x s
  | .fsin x => Sys2Proof.Machine.execFsin x s
  | .fcos x => Sys2Proof.Machine.execFcos x s
  | .ftanh x => Sys2Proof.Machine.execFtanh x s
  | .fsigm x => Sys2Proof.Machine.execFsigm x s
  | .ferf x => Sys2Proof.Machine.execFerf x s
  | .qscl x => Sys2Proof.Machine.execQscl x s
  | .qpk x => Sys2Proof.Machine.execQpk x s
  | .qupk x => Sys2Proof.Machine.execQupk x s
  | .ctabW x => Sys2Proof.Machine.execCtabW x s
  | .ctabSwap x => Sys2Proof.Machine.execCtabSwap x s
  | .lut4 x => Sys2Proof.Machine.execLut4 x s
  | .madd x => Sys2Proof.Machine.execMadd x s
  | .msub x => Sys2Proof.Machine.execMsub x s
  | .mmul x => Sys2Proof.Machine.execMmul x s
  | .mfma x => Sys2Proof.Machine.execMfma x s
  | .mscale x => Sys2Proof.Machine.execMscale x s
  | .mclamp x => Sys2Proof.Machine.execMclamp x s
  | .mmov x => Sys2Proof.Machine.execMmov x s
  | .mrelu x => Sys2Proof.Machine.execMrelu x s
  | .msigm x => Sys2Proof.Machine.execMsigm x s
  | .mtanh x => Sys2Proof.Machine.execMtanh x s
  | .mexp x => Sys2Proof.Machine.execMexp x s
  | .mset x => Sys2Proof.Machine.execMset x s
  | .mcoll x => Sys2Proof.Machine.execMcoll x s
  | .mld x => Sys2Proof.Machine.execMld x s
  | .mst x => Sys2Proof.Machine.execMst x s
  | .rseed x => Sys2Proof.Machine.execRseed x s
  | .rnext x => Sys2Proof.Machine.execRnext x s
  | .rctr x => Sys2Proof.Machine.execRctr x s
  | .runi x => Sys2Proof.Machine.execRuni x s
  | .rmask x => Sys2Proof.Machine.execRmask x s
  | .ld x => Sys2Proof.Machine.execLd x s
  | .st x => Sys2Proof.Machine.execSt x s
  | .lds x => Sys2Proof.Machine.execLds x s
  | .atom x => Sys2Proof.Machine.execAtom x s
  | .tbinit x => Sys2Proof.Machine.execTbinit x s
  | .tbarr x => Sys2Proof.Machine.execTbarr x s
  | .tbwait x => Sys2Proof.Machine.execTbwait x s
  | .srput x => Sys2Proof.Machine.execSrput x s
  | .srputCommit x => Sys2Proof.Machine.execSrputCommit x s
  | .srget x => Sys2Proof.Machine.execSrget x s
  | .srrel x => Sys2Proof.Machine.execSrrel x s
  | .join x => Sys2Proof.Machine.execJoin x s
  | .leave x => Sys2Proof.Machine.execLeave x s
  | .bar x => Sys2Proof.Machine.execBar x s
  | .barBlk x => Sys2Proof.Machine.execBarBlk x s
  | .fence x => Sys2Proof.Machine.execFence x s
  | .rcfence x => Sys2Proof.Machine.execRcfence x s
  | .layout x => Sys2Proof.Machine.execLayout x s
  | .vote x => Sys2Proof.Machine.execVote x s
  | .shfl x => Sys2Proof.Machine.execShfl x s
  | .cred x => Sys2Proof.Machine.execCred x s
  | .cscan x => Sys2Proof.Machine.execCscan x s
  | .mxw x => Sys2Proof.Machine.execMxw x s
  | .mxa x => Sys2Proof.Machine.execMxa x s
  | .mxg x => Sys2Proof.Machine.execMxg x s
  | .mxm x => Sys2Proof.Machine.execMxm x s
  | .mxtl x => Sys2Proof.Machine.execMxtl x s
  | .mxts x => Sys2Proof.Machine.execMxts x s
  | .accz x => Sys2Proof.Machine.execAccz x s
  | .accld x => Sys2Proof.Machine.execAccld x s
  | .accst x => Sys2Proof.Machine.execAccst x s
  | .accdr x => Sys2Proof.Machine.execAccdr x s
  | .mxprog x => Sys2Proof.Machine.execMxprog x s
  | .cpg x => Sys2Proof.Machine.execCpg x s
  | .cps x => Sys2Proof.Machine.execCps x s
  | .cphIn x => Sys2Proof.Machine.execCphIn x s
  | .cphOut x => Sys2Proof.Machine.execCphOut x s
  | .ctok x => Sys2Proof.Machine.execCtok x s
  | .cwait x => Sys2Proof.Machine.execCwait x s
  | .pref x => Sys2Proof.Machine.execPref x s
  | .fatom x => Sys2Proof.Machine.execFatom x s
  | .fwait x => Sys2Proof.Machine.execFwait x s
  | .l2lck x => Sys2Proof.Machine.execL2lck x s
  | .l2ulk x => Sys2Proof.Machine.execL2ulk x s
  | .publ x => Sys2Proof.Machine.execPubl x s
  | .compact x => Sys2Proof.Machine.execCompact x s
  | .envrst x => Sys2Proof.Machine.execEnvrst x s
  | .bpsort x => Sys2Proof.Machine.execBpsort x s
  | .bvht x => Sys2Proof.Machine.execBvht x s
  | .qpush x => Sys2Proof.Machine.execQpush x s
  | .qpushRound x => Sys2Proof.Machine.execQpushRound x s
  | .qpop x => Sys2Proof.Machine.execQpop x s
  | .sfact x => Sys2Proof.Machine.execSfact x s
  | .ssolve x => Sys2Proof.Machine.execSsolve x s
  | .sadj x => Sys2Proof.Machine.execSadj x s
  | .slsq x => Sys2Proof.Machine.execSlsq x s
  | .sstat x => Sys2Proof.Machine.execSstat x s
  | .optsub x => Sys2Proof.Machine.execOptsub x s
  | .optwait x => Sys2Proof.Machine.execOptwait x s
  | .coll x => Sys2Proof.Machine.execColl x s
  | .csend x => Sys2Proof.Machine.execCsend x s
  | .csendRwd x => Sys2Proof.Machine.execCsendRwd x s
  | .crecv x => Sys2Proof.Machine.execCrecv x s
  | .rjopen x => Sys2Proof.Machine.execRjopen x s
  | .rjtick x => Sys2Proof.Machine.execRjtick x s
  | .rjpop x => Sys2Proof.Machine.execRjpop x s
  | .rjstat x => Sys2Proof.Machine.execRjstat x s
  | .rjstatCfg x => Sys2Proof.Machine.execRjstatCfg x s
  | .resultReturn b c k => Sys2Proof.Machine.execResultReturn b c k s
  | .unpark b c => Sys2Proof.Machine.execUnpark b c s
  | .regsGrant b c => Sys2Proof.Machine.execRegsGrant b c s
  | .trapEntry b c => Sys2Proof.Machine.execTrapEntry b c s
  | .crewDrainComplete b c => Sys2Proof.Machine.execCrewDrainComplete b c s
  | .storeQueueWrite b c => Sys2Proof.Machine.execStoreQueueWrite b c s
  | .atomPerform b c => Sys2Proof.Machine.execAtomPerform b c s
  | .tbinitPerform b c => Sys2Proof.Machine.execTbinitPerform b c s
  | .tbarrPerform b c => Sys2Proof.Machine.execTbarrPerform b c s
  | .tbwaitComplete b c => Sys2Proof.Machine.execTbwaitComplete b c s
  | .srputWake b c => Sys2Proof.Machine.execSrputWake b c s
  | .srgetWake b c => Sys2Proof.Machine.execSrgetWake b c s
  | .barrierRelease b k => Sys2Proof.Machine.execBarrierRelease b k s
  | .envrstPerform b c => Sys2Proof.Machine.execEnvrstPerform b c s
  | .fenceComplete b c => Sys2Proof.Machine.execFenceComplete b c s
  | .mxwTurn b => Sys2Proof.Machine.execMxwTurn b s
  | .streamCommandTurn b => Sys2Proof.Machine.execStreamCommandTurn b s
  | .streamStep b => Sys2Proof.Machine.execStreamStep b s
  | .mxtlTurn b => Sys2Proof.Machine.execMxtlTurn b s
  | .mxtsTurn b => Sys2Proof.Machine.execMxtsTurn b s
  | .acczTurn b => Sys2Proof.Machine.execAcczTurn b s
  | .accldTurn b => Sys2Proof.Machine.execAccldTurn b s
  | .accstTurn b => Sys2Proof.Machine.execAccstTurn b s
  | .accdrTurn b => Sys2Proof.Machine.execAccdrTurn b s
  | .mxprogTurn b => Sys2Proof.Machine.execMxprogTurn b s
  | .latchedCommandTurn b => Sys2Proof.Machine.execLatchedCommandTurn b s
  | .streamerChunk b k => Sys2Proof.Machine.execStreamerChunk b k s
  | .streamerCopyComplete b k => Sys2Proof.Machine.execStreamerCopyComplete b k s
  | .cwaitComplete b c => Sys2Proof.Machine.execCwaitComplete b c s
  | .farAtomicPerform b c k => Sys2Proof.Machine.execFarAtomicPerform b c k s
  | .chainedAtomicRelease b c k => Sys2Proof.Machine.execChainedAtomicRelease b c k s
  | .fwaitSatisfied b c => Sys2Proof.Machine.execFwaitSatisfied b c s
  | .l2lckComplete b c => Sys2Proof.Machine.execL2lckComplete b c s
  | .publFlip b c => Sys2Proof.Machine.execPublFlip b c s
  | .lineFill die k => Sys2Proof.Machine.execLineFill die k s
  | .translationWalk die k => Sys2Proof.Machine.execTranslationWalk die k s
  | .rdcEviction die line => Sys2Proof.Machine.execRdcEviction die line s
  | .writeThroughAck k => Sys2Proof.Machine.execWriteThroughAck k s
  | .dieToDieTransfer k => Sys2Proof.Machine.execDieToDieTransfer k s
  | .dieToDieTransferFailed k => Sys2Proof.Machine.execDieToDieTransferFailed k s
  | .swap die k => Sys2Proof.Machine.execSwap die k s
  | .epochHalving die => Sys2Proof.Machine.execEpochHalving die s
  | .sweeperStep die => Sys2Proof.Machine.execSweeperStep die s
  | .activationCounterSaturated die stack row => Sys2Proof.Machine.execActivationCounterSaturated die stack row s
  | .retrainingStart die stack => Sys2Proof.Machine.execRetrainingStart die stack s
  | .retrainingComplete die stack => Sys2Proof.Machine.execRetrainingComplete die stack s
  | .hostSnoop line take bytes => Sys2Proof.Machine.execHostSnoop line take bytes s
  | .hostCompletion k status bytes => Sys2Proof.Machine.execHostCompletion k status bytes s
  | .hostCompletionTimeout k => Sys2Proof.Machine.execHostCompletionTimeout k s
  | .launch sq x => Sys2Proof.Machine.execLaunch sq x s
  | .headLaunchCheck sq => Sys2Proof.Machine.execHeadLaunchCheck sq s
  | .ctxCreate x => Sys2Proof.Machine.execCtxCreate x s
  | .ctxEnd x => Sys2Proof.Machine.execCtxEnd x s
  | .ctxReclaim x => Sys2Proof.Machine.execCtxReclaim x s
  | .sqCreate x => Sys2Proof.Machine.execSqCreate x s
  | .oqBind x => Sys2Proof.Machine.execOqBind x s
  | .oqUnbind x => Sys2Proof.Machine.execOqUnbind x s
  | .resolveResume x => Sys2Proof.Machine.execResolveResume x s
  | .resolveRetry x => Sys2Proof.Machine.execResolveRetry x s
  | .resolveKill x => Sys2Proof.Machine.execResolveKill x s
  | .setAge x => Sys2Proof.Machine.execSetAge x s
  | .ptRoot x => Sys2Proof.Machine.execPtRoot x s
  | .inval x => Sys2Proof.Machine.execInval x s
  | .invalFlush x => Sys2Proof.Machine.execInvalFlush x s
  | .asidFlush x => Sys2Proof.Machine.execAsidFlush x s
  | .l2Quota x => Sys2Proof.Machine.execL2Quota x s
  | .tierCtl x => Sys2Proof.Machine.execTierCtl x s
  | .tierPin x => Sys2Proof.Machine.execTierPin x s
  | .tierUnpin x => Sys2Proof.Machine.execTierUnpin x s
  | .sweep x => Sys2Proof.Machine.execSweep x s
  | .sweepStop x => Sys2Proof.Machine.execSweepStop x s
  | .hbmRate x => Sys2Proof.Machine.execHbmRate x s
  | .cqdb w => Sys2Proof.Machine.execCqdb w s
  | .sqdb sq w => Sys2Proof.Machine.execSqdb sq w s
  | .pcapWrite w => Sys2Proof.Machine.execPcapWrite w s
  | .evtailRead die => Sys2Proof.Machine.execEvtailRead die s
  | .unsupportedRequest off size write => Sys2Proof.Machine.execUnsupportedRequest off size write s
  | .dispatchDecision die => Sys2Proof.Machine.execDispatchDecision die s
  | .ageingInterval grid => Sys2Proof.Machine.execAgeingInterval grid s
  | .stagingComplete b => Sys2Proof.Machine.execStagingComplete b s
  | .drainComplete b => Sys2Proof.Machine.execDrainComplete b s
  | .launchCompletion grid => Sys2Proof.Machine.execLaunchCompletion grid s
  | .blockAbort b => Sys2Proof.Machine.execBlockAbort b s
  | .blockSave b => Sys2Proof.Machine.execBlockSave b s
  | .saveDeadlineExceeded b => Sys2Proof.Machine.execSaveDeadlineExceeded b s
  | .contextStopComplete slot => Sys2Proof.Machine.execContextStopComplete slot s
  | .holdRecordWrite slot => Sys2Proof.Machine.execHoldRecordWrite slot s
  | .compactComplete b => Sys2Proof.Machine.execCompactComplete b s
  | .bpsortJob b c => Sys2Proof.Machine.execBpsortJob b c s
  | .bvhtJob b c => Sys2Proof.Machine.execBvhtJob b c s
  | .qpushPlace b c => Sys2Proof.Machine.execQpushPlace b c s
  | .qpopTake b c => Sys2Proof.Machine.execQpopTake b c s
  | .sfactComplete b c => Sys2Proof.Machine.execSfactComplete b c s
  | .ssolveComplete b c => Sys2Proof.Machine.execSsolveComplete b c s
  | .sadjComplete b c => Sys2Proof.Machine.execSadjComplete b c s
  | .slsqCheckpoint k => Sys2Proof.Machine.execSlsqCheckpoint k s
  | .slsqComplete k => Sys2Proof.Machine.execSlsqComplete k s
  | .sstatComplete b c => Sys2Proof.Machine.execSstatComplete b c s
  | .optsubAccept b c => Sys2Proof.Machine.execOptsubAccept b c s
  | .optimiserCheckpoint k => Sys2Proof.Machine.execOptimiserCheckpoint k s
  | .optimiserJobComplete k => Sys2Proof.Machine.execOptimiserJobComplete k s
  | .optwaitComplete b c => Sys2Proof.Machine.execOptwaitComplete b c s
  | .collChunk k => Sys2Proof.Machine.execCollChunk k s
  | .collComplete k => Sys2Proof.Machine.execCollComplete k s
  | .sendMatch k j => Sys2Proof.Machine.execSendMatch k j s
  | .rewardRecord die => Sys2Proof.Machine.execRewardRecord die s
  | .rjopenEvent b c => Sys2Proof.Machine.execRjopenEvent b c s
  | .rjtickEvent b c => Sys2Proof.Machine.execRjtickEvent b c s
  | .rjstatCfgEvent b c => Sys2Proof.Machine.execRjstatCfgEvent b c s
  | .rjstatEvent b c => Sys2Proof.Machine.execRjstatEvent b c s
  | .joinTimeout die slot => Sys2Proof.Machine.execJoinTimeout die slot s
  | .rjpopComplete b c => Sys2Proof.Machine.execRjpopComplete b c s
  | .flitReceive port f => Sys2Proof.Machine.execFlitReceive port f s
  | .flitResend k => Sys2Proof.Machine.execFlitResend k s
  | .portDown port => Sys2Proof.Machine.execPortDown port s
  | .destinationUnreachable k => Sys2Proof.Machine.execDestinationUnreachable k s
  | .powerCapClockChange down => Sys2Proof.Machine.execPowerCapClockChange down s
  | .d0Idle => Sys2Proof.Machine.execD0Idle s
  | .d3hot => Sys2Proof.Machine.execD3hot s
  | .d3cold => Sys2Proof.Machine.execD3cold s
  | .coldReset => Sys2Proof.Machine.execColdReset s
  | .functionLevelReset => Sys2Proof.Machine.execFunctionLevelReset s
  | .firmwareUpdate req => Sys2Proof.Machine.execFirmwareUpdate req s
  | .getVersion req => Sys2Proof.Machine.execGetVersion req s
  | .getCapabilities req => Sys2Proof.Machine.execGetCapabilities req s
  | .negotiateAlgorithms req => Sys2Proof.Machine.execNegotiateAlgorithms req s
  | .getDigests req => Sys2Proof.Machine.execGetDigests req s
  | .getCertificate req => Sys2Proof.Machine.execGetCertificate req s
  | .challenge req => Sys2Proof.Machine.execChallenge req s
  | .getMeasurements req => Sys2Proof.Machine.execGetMeasurements req s
  | .illegalEncoding b c => Sys2Proof.Machine.execIllegalEncoding b c s
  | .fetchOutsideImage b c => Sys2Proof.Machine.execFetchOutsideImage b c s
  | .cxlMemRequest addr write bytes => Sys2Proof.Machine.execCxlMemRequest addr write bytes s
  | .returnToD0 => Sys2Proof.Machine.execReturnToD0 s
  | .dieToDieRetrainingComplete => Sys2Proof.Machine.execDieToDieRetrainingComplete s
  | .msiXUnmask vec => Sys2Proof.Machine.execMsiXUnmask vec s

end Sys2Proof.Machine
end

