-- ==== Sys2Proof/Machine/Agents.lean ====
section
/-! DEFINITION. Who may move (R3, R6): the issue of a crew (R18, R180), and the events of the machine that may happen in a
state. What the host does, and failures that come from outside, happen only when a turn says so. -/

namespace Sys2Proof.Machine

/-- Something that may move. -/
abbrev Agent := State → Out

/-- A crew issues (R18): its instruction is fetched and has its effect, or a check of the fetch raises its cause (R75). -/
def issueAt (b c : Nat) (s : State) : Out :=
  match readyCrew s b c with
  | none => notEnabled "ISSUE"
  | some (_, w) =>
    match fetchLines b c w.ipc 4 s with
    | .ok s (.instr i) => exec i { s with cur := some (b, c) }
    | .ok s (.bad _ _) => execIllegalEncoding b c s
    | .ok s .outside => execFetchOutsideImage b c s
    | .ok _ (.missing _) => notEnabled "ISSUE"
    | .wait s' => ifAsked s s' "ISSUE"
    | .fail s t => .next (s.fatalBlock b c 0 { t with pc := w.ipc, lanes := w.active w.ipc })

/-- The events of a crew. -/
def crewAgents (b c : Nat) (w : Crew) : List Agent :=
  [execUnpark b c, execRegsGrant b c, execTrapEntry b c, execCrewDrainComplete b c, execStoreQueueWrite b c,
   execAtomPerform b c, execTbinitPerform b c, execTbarrPerform b c, execTbwaitComplete b c, execSrputWake b c,
   execSrgetWake b c, execEnvrstPerform b c, execFenceComplete b c, execCwaitComplete b c, execFwaitSatisfied b c,
   execL2lckComplete b c, execPublFlip b c, execBpsortJob b c, execBvhtJob b c, execQpushPlace b c, execQpopTake b c,
   execSfactComplete b c, execSsolveComplete b c, execSadjComplete b c, execSstatComplete b c, execOptsubAccept b c,
   execOptwaitComplete b c, execRjopenEvent b c, execRjtickEvent b c, execRjstatCfgEvent b c, execRjstatEvent b c,
   execRjpopComplete b c] ++ w.outs.map fun p => execResultReturn b c p.order
/-- The events of a block. -/
def blockAgents (b : Nat) (x : Block) : List Agent :=
  [execStagingComplete b, execDrainComplete b, execBlockAbort b, execBlockSave b, execSaveDeadlineExceeded b,
   execCompactComplete b, execMxwTurn b, execStreamCommandTurn b, execStreamStep b, execMxtlTurn b, execMxtsTurn b,
   execAcczTurn b, execAccldTurn b, execAccstTurn b, execAccdrTurn b, execMxprogTurn b, execLatchedCommandTurn b]
    ++ ((List.range 9).map fun k => execBarrierRelease b k) ++ x.crews.flatMap fun p => crewAgents b p.1 p.2
/-- The events of a die. -/
def dieAgents (s : State) (die : Nat) : List Agent :=
  let d := s.die die
  [execDispatchDecision die, execEpochHalving die, execSweeperStep die, execRewardRecord die]
    ++ (d.misses.flatMap fun p => [execTranslationWalk die p.1, execLineFill die p.1])
    ++ (d.swaps.map fun p => execSwap die p.1) ++ (d.rdc.map fun l => execRdcEviction die l.va)
    ++ ((d.rowcnt.filter fun p => decide (Config.rowMax ≤ p.2)).map fun p =>
      execActivationCounterSaturated die (p.1 / 4294967296) (p.1 % 4294967296))
    ++ (List.range 4).flatMap fun k => [execRetrainingStart die (4 * die + k), execRetrainingComplete die (4 * die + k)]
/-- The objects of the package. -/
def objectAgents (s : State) : List Agent :=
  (s.copies.flatMap fun p => [execStreamerChunk p.2.blk p.1, execStreamerCopyComplete p.2.blk p.1])
    ++ (s.fars.flatMap fun p => [execFarAtomicPerform p.2.blk p.2.crew p.1, execChainedAtomicRelease p.2.blk p.2.crew p.1])
    ++ (s.d2d.flatMap fun p => [execDieToDieTransfer p.1, execWriteThroughAck p.1])
    ++ (s.slsqs.flatMap fun p => [execSlsqCheckpoint p.1, execSlsqComplete p.1])
    ++ (s.opts.flatMap fun p => [execOptimiserCheckpoint p.1, execOptimiserJobComplete p.1])
    ++ (s.colls.flatMap fun p => [execCollChunk p.1, execCollComplete p.1])
    ++ (s.sends.flatMap fun p => (s.sends.map fun q => execSendMatch p.1 q.1))
    ++ (s.fab.waiting.flatMap fun p => (s.sends.map fun q => execSendMatch p.1 q.1))
    ++ (s.fab.rejected.map fun p => execDestinationUnreachable p.1)
    ++ (s.hostReqs.map fun p => execHostCompletionTimeout p.1)
    ++ (s.grids.flatMap fun p => [execAgeingInterval p.1, execLaunchCompletion p.1])
/-- The command at the head of a submission queue as its die would read it; a queue whose memory is not ready gives
one that LAUNCH replaces by a wait or a fault. -/
def peekLaunch (s : State) (slot q : Nat) : Cmd :=
  match look (s.ctx slot).sqs q with
  | none => cmdOf 0
  | some k => match s.gread (dispAcc slot 0 false) (k.ring + 64 * k.head) 64 with
    | .ok _ (bs, _) => cmdOf (bytesToNat bs)
    | _ => cmdOf 0
/-- The events of a context. -/
def ctxAgents (s : State) (slot : Nat) (x : Ctx) : List Agent :=
  [execContextStopComplete slot, execHoldRecordWrite slot, execJoinTimeout 0 slot, execJoinTimeout 1 slot]
    ++ x.sqs.flatMap fun p => [execLaunch (8 * slot + p.1) (peekLaunch s slot p.1), execHeadLaunchCheck (8 * slot + p.1)]
/-- The command at the head of the control queue is carried out or refused. -/
def commandAgent (x : Cmd) : Agent :=
  match cqOp x with
  | some .ctxCreate => execCtxCreate x
  | some .ctxEnd => execCtxEnd x
  | some .ctxReclaim => execCtxReclaim x
  | some .sqCreate => execSqCreate x
  | some .oqBind => execOqBind x
  | some .oqUnbind => execOqUnbind x
  | some .resolveResume => execResolveResume x
  | some .resolveRetry => execResolveRetry x
  | some .resolveKill => execResolveKill x
  | some .setAge => execSetAge x
  | some .ptRoot => execPtRoot x
  | some .inval => execInval x
  | some .invalFlush => execInvalFlush x
  | some .asidFlush => execAsidFlush x
  | some .l2Quota => execL2Quota x
  | some .tierCtl => execTierCtl x
  | some .tierPin => execTierPin x
  | some .tierUnpin => execTierUnpin x
  | some .sweep => execSweep x
  | some .sweepStop => execSweepStop x
  | some .hbmRate => execHbmRate x
  | none => refuseHead
/-- The crews that the quadrants of the cores pick (R180). -/
def issueAgents (s : State) : List Agent :=
  let live (k : Nat) : Bool := (s.ctx k).state = .live
  let cores := (s.blocks.map fun p => (p.2.die, p.2.cluster, p.2.core)).eraseDups
  cores.flatMap fun k => (List.range 4).filterMap fun q =>
    (picks (s.onCore k.1 k.2.1 k.2.2) live q).map fun p => issueAt p.1 p.2
/-- Everything that may try to move. -/
def agents (s : State) : List Agent :=
  issueAgents s ++ (s.blocks.flatMap fun p => blockAgents p.1 p.2) ++ dieAgents s 0 ++ dieAgents s 1 ++ objectAgents s
    ++ (s.ctxs.flatMap fun p => ctxAgents s p.1 p.2) ++ (s.cqCmd.map commandAgent).toList
    ++ (if s.cqSound then [] else [refuseHead])
    ++ [execD0Idle, execDieToDieRetrainingComplete] ++ (if s.host.flr then [execFunctionLevelReset] else [])
/-- An agent can move: its event is not refused in this state. -/
def canMove (s : State) (f : Agent) : Bool :=
  match f s with
  | .refused _ => false
  | _ => true
/-- The agents that can move. -/
def movers (s : State) : List Agent := (agents s).filter (canMove s)

/-- A turn is taken. -/
def takeTurn (t : Turn) (s : State) : Out :=
  match t with
  | .issue b c => issueAt b c s
  | .event i => exec i { s with cur := none }
  | .refuse => refuseHead s
  | .mask v => maskVector v s
/-- A step has been taken, and some cycles of the arithmetic clock have passed. -/
def State.tick (s : State) : State := { s with steps := s.steps + 1, clock := s.clock + Config.elapsed s.steps }
/-- The end of a step. -/
def ticked : Out → Out
  | .next s => .next s.tick
  | r => r

/-! ### A program placed for the next step -/

/-- The role of a team slot of the placed block. -/
def placedTeam (r : Role) : Team := ⟨true, r, 1⟩
/-- The launch of the placed block: one resident block of one crew with every role. -/
def placedLaunch : LaunchRec :=
  { res := true, clen := 128, vg := 8, mg := 4, lmem := 65536, spill := 256,
    teams := [placedTeam .copy, placedTeam .matrix, placedTeam .vector] ++ List.replicate 5 {} }
/-- A block whose image holds the bytes given, ready to issue at PC 0. -/
def placedBlock (grid : Nat) (bs : List Byte) : Block :=
  { grid := grid, r := placedLaunch, crews := [(0, freshCrew placedLaunch 0 0)], teams := placedLaunch.teams,
    code := [(0, bs ++ List.replicate (128 - bs.length) 0)] }
/-- The grid of the placed block. -/
def placedGrid : Grid :=
  { slot := 0, sq := 0, seq := 0, va := 0, saveBase := 0, saveStride := 0, dieMask := 1, irq := false, compl := 0,
    checked := true, r := placedLaunch, next := 1 }
/-- A block with the given bytes at its PC is placed in a LIVE context of slot 0, and its crew issues next. -/
def State.place (s : State) (bs : List Byte) : State :=
  let k := s.fresh
  { (((s.setCtx 0 { s.ctx 0 with state := .live }).setGrid k placedGrid).setBlock (k + 1) (placedBlock k bs)) with
      fresh := k + 2, turns := .issue (k + 1) 0 :: s.turns }

end Sys2Proof.Machine
end

