-- ==== Sys2Proof/Machine/Step.lean ====
section
/-! DEFINITION. One step of the machine: the turn at the head of the list is taken; with none, the one agent that can move
moves, or the one that the free choice picks among several; with no agent the machine stays as it is. -/

namespace Sys2Proof.Machine

/-- One step (R3, R6). -/
def step (s : State) : Host.Outcome State Fault Refusal :=
  match s.turns with
  | t :: rest => ticked (takeTurn t { s with turns := rest })
  | [] =>
    match movers s with
    | [] => .next s.tick
    | [f] => ticked (f s)
    | f :: fs => ticked (((f :: fs).getD (Config.pick s.steps % (fs.length + 1)) f) s)

/-- The machine with an instruction of the opcode table at the place where the next step fetches (R65): its words in their
byte order, zeros after them. -/
def State.withFetchWord (s : State) (nbits w : Nat) : State :=
  s.place (natToBytes (nbits / 8) w ++ List.replicate 12 0)

end Sys2Proof.Machine
end

