-- ==== Sys2Proof/Safety.lean ====
section
/-! DEFINITION. What counts as a safe run and as a completed instruction, in the terms that the statements use. -/

namespace Sys2Proof.Machine

/-- The memories hold their canonical form: device memory, host memory, and the marks on device memory. -/
def State.memOk (s : State) : Bool :=
  Memory.wf s.dmem && Memory.wf s.hmem && tableWf false s.poison && tableWf false s.ecc

/-! ### Crew instructions -/

/-- Instruction `i` stands at issue in the environment `e`: a ready crew of a running block, the checks of R75 that need
the crew pass, and nothing that the block's core stores for it carries an error. -/
structure Ready (s : State) (i : Instr) (e : Env) : Prop where
  env : envOf s i = some e
  checks : crewCheck e.blk e.c e.cw i = none
  clean : e.blk.errs = []

/-- The issuing crew after a fixed-latency instruction: its writes are in place, its flags and MCLF have merged, and
every active lane stands after the instruction (R18, R138). -/
def crewAfter (s : State) (e : Env) (ws : List Wr) (fl : Flags) (cl : Bool) : Crew :=
  let w := e.advance s (e.cw.write ws)
  { w with fpc := w.fpc ||| fl.setWidth 32, mclf := w.mclf || cl }

/-- The state after an instruction whose crew is `w` and whose block is `blk` afterwards; the switch marker parks the
crew (R30). -/
def movedOn (s : State) (e : Env) (blk : Block) (w : Crew) : State :=
  finishIssue (s.setBlock e.b (blk.setCrew e.c w)) e

/-- The state after a fixed-latency instruction. -/
def settled (s : State) (e : Env) (ws : List Wr) (fl : Flags) (cl : Bool) : State :=
  movedOn s e e.blk (crewAfter s e ws fl cl)

/-- The lanes that a form computes in: those of P(c), or the first of them for the uniform form, which computes once
(R21, R85). -/
def formLanes (uni : Bool) (m : Word) : List Nat := if uni then (lanesOf m).take 1 else lanesOf m

/-- The writes of a form. -/
def written (uni : Bool) (m : Word) (f : Nat → List Wr) : List Wr := (formLanes uni m).flatMap f

/-- The OR of the flags that a form raises. -/
def raisedBy (uni : Bool) (m : Word) (f : Nat → Flags) : Flags := (formLanes uni m).foldl (fun a l => a ||| f l) 0

/-- Instruction `i` completes with the writes given and touches nothing else. -/
def Runs (i : Instr) (ws : Env → List Wr) : Prop :=
  ∀ s e, Ready s i e → exec i s = .next (settled s e (ws e) 0 false)

/-- The state after a fixed-latency instruction whose lanes raise the flags given (R138, R139): its writes are in place and
its flags have merged; where a flag rose whose enable is set, cause 0x11 follows, with the enabled flags that arose and the
lanes in which one did. -/
def merged (s : State) (e : Env) (ws : List Wr) (fl : Nat → Flags) (cl : Bool) : State :=
  let all := raisedBy false e.part fl
  let en := e.cw.enables
  if all &&& en = 0 then settled s e ws all cl
  else (s.setBlock e.b (e.blk.setCrew e.c (crewAfter s e ws all cl))).raise e.b e.c
    { code := 0x11, info := (all &&& en).toNat, pc := e.next, lanes := maskWhere e.part fun l => fl l &&& en ≠ 0,
      next := e.next }

/-- The flags that stand for a lane: its own, or in the uniform form those of the one computation (R21, R85). -/
def laneFlags (uni : Bool) (e : Env) (f : Nat → Flags) (l : Nat) : Flags := if uni then raisedBy true e.part f else f l

/-- Instruction `i` completes with the writes and the flags of each lane given (R138), and traps where a flag's enable is
set (R139). -/
def RunsFl (i : Instr) (ws : Env → List Wr) (fl : Env → Nat → Flags) : Prop :=
  ∀ s e, Ready s i e → exec i s = .next (merged s e (ws e) (fl e) false)

/-- A variable-latency instruction has issued: its writes and flags wait to return, the registers it will write are
pending, and every active lane stands after it (R28). -/
def deferred (s : State) (e : Env) (i : Instr) (ws : List Wr) (fl : Flags) (cl : Bool) (late : Option Trap) : State :=
  finishIssue (defer s e i { wr := ws, flags := [(0, fl)], clamp := cl, late := late } true) e

/-- Instruction `i` issues and its writes and flags wait to return; a uniform form with P(c) empty only moves on (R21). -/
def RunsLater (i : Instr) (uni : Bool) (ws : Env → List Wr) (fl : Env → Flags) : Prop :=
  ∀ s e, Ready s i e →
    exec i s = .next (if uni && e.part = 0 then settled s e [] 0 false else deferred s e i (ws e) (fl e) false none)

end Sys2Proof.Machine
end

