-- ==== Sys2Proof/Certificates/Slice0/Obligations.lean ====
section
/-! DEFINITION. The statements for the provers. -/

open Sys2Proof Sys2Proof.Machine

/-! ### Integer, logic, shift, move and predicate instructions -/

/-- Operands a and b of a shape-X instruction as integers of its type. -/
abbrev intA (e : Env) (x : XOps) (l : Nat) : Int := asInt x.t (e.cw.opA x x.t l)
/-- Operand b. -/
abbrev intB (e : Env) (x : XOps) (l : Nat) : Int := asInt x.t (e.cw.opB x x.t l)
/-- The writes of a shape-X result of type T. -/
abbrev resultOf (e : Env) (x : XOps) (t : Ty) (f : Nat → Nat) : List Wr :=
  written x.y e.part fun l => resultWrites x.y t x.d l (f l)
/-- The 32-bit operand b of a shape-R2 instruction: a uniform register or the lane's own. -/
abbrev r2B (e : Env) (x : R2) (l : Nat) : Word := if x.u then e.cw.rs x.b else e.cw.rv x.b l

/-- R87, R72: the short forms of IADD and ISUB act on 32-bit words modulo 2^32, the immediates sign-extended. -/
def Claim.ShortSumsAreWordSums : Prop :=
  (∀ x : R2, Runs (.iaddR2 x) fun e => written false e.part fun l => [.v x.d l (e.cw.rv x.a l + r2B e x l)]) ∧
  (∀ x : R2, Runs (.isubR2 x) fun e => written false e.part fun l => [.v x.d l (e.cw.rv x.a l - r2B e x l)]) ∧
  (∀ x : I8, Runs (.iaddI8 x) fun e => written false e.part fun l =>
    [.v x.d l (e.cw.rv x.a l + (BitVec.ofNat 8 x.imm).signExtend 32)]) ∧
  (∀ d b, Runs (.iadd16 d b) fun e => written false e.part fun l => [.v d l (e.cw.rv d l + e.cw.rv b l)]) ∧
  (∀ d b, Runs (.isub16 d b) fun e => written false e.part fun l => [.v d l (e.cw.rv d l - e.cw.rv b l)]) ∧
  (∀ d b, Runs (.iaddi16 d b) fun e => written false e.part fun l =>
    [.v d l (e.cw.rv d l + (BitVec.ofNat 5 b).signExtend 32)])

/-- R88, R89: the exact integer result of the operands read as T, wrapped, or saturated where `.CLIP` stands. -/
def Claim.IntegerResults : Prop := ∀ x : XOps,
  Runs (.iaddX x) (fun e => resultOf e x x.t fun l => clipOr x.q x.t (intA e x l + intB e x l)) ∧
  Runs (.isubX x) (fun e => resultOf e x x.t fun l => clipOr x.q x.t (intA e x l - intB e x l)) ∧
  Runs (.iabs x) (fun e => resultOf e x x.t fun l => clipOr x.q x.t (intA e x l).natAbs) ∧
  Runs (.imul x) (fun e => resultOf e x x.t fun l => wrapNat (tyBits x.t) (intA e x l * intB e x l)) ∧
  Runs (.imulh x) (fun e => resultOf e x x.t fun l => wrapNat (tyBits x.t) (intA e x l * intB e x l / 2 ^ 32)) ∧
  Runs (.imin x) (fun e => resultOf e x x.t fun l => wrapNat (tyBits x.t) (min (intA e x l) (intB e x l))) ∧
  Runs (.imax x) (fun e => resultOf e x x.t fun l => wrapNat (tyBits x.t) (max (intA e x l) (intB e x l))) ∧
  Runs (.imad x) (fun e => resultOf e x x.t fun l =>
    wrapNat (tyBits x.t) (asInt (halfTy x.t) (e.cw.opA x .z32 l) * asInt (halfTy x.t) (e.cw.opB x .z32 l)
      + asInt x.t (e.cw.opC x x.t l))) ∧
  Runs (.lea x) (fun e => resultOf e x x.t fun l =>
    wrapNat (tyBits x.t) (intA e x l + leaB e.cw x l * 2 ^ x.v))

/-- R72, R87 to R89: sums, differences, products, minima and maxima of every form: 32-bit words modulo 2^32 in the short
forms, and the exact result of the operands read as T, wrapped or saturated, in the long ones. -/
def Obligations.IntegerSumsAndProducts : Prop := Claim.ShortSumsAreWordSums ∧ Claim.IntegerResults

/-- R90: the quotient is truncated and the remainder takes the dividend's sign; a zero divisor in P(c) raises cause
0x0B under `.TRAPZ`, before any effect, and otherwise gives all ones and the dividend.
Pending bits where no lane takes part, and a uniform form that then only moves on, are readings of R21 and R28 (log 21). -/
def Obligations.DivisionResults : Prop := ∀ x : XOps,
  let zero (e : Env) : Word := maskWhere e.part fun l => intB e x l = 0
  let value (f : Int → Int → Int) (e : Env) : List Wr :=
    written x.y e.part fun l => resultWrites x.y x.t x.d l (wrapNat (tyBits x.t) (f (intA e x l) (intB e x l)))
  let out (s : State) (e : Env) (i : Instr) (f : Int → Int → Int) : State :=
    if x.q && zero e ≠ 0 then s.raiseAt e 0x0B 0 (zero e)
    else if x.y && e.part = 0 then settled s e [] 0 false
    else deferred s e i (value f e) 0 false none
  (∀ s e, Ready s (.idiv x) e → exec (.idiv x) s = .next (out s e (.idiv x) fun a b => if b = 0 then -1 else a.tdiv b)) ∧
  (∀ s e, Ready s (.irem x) e → exec (.irem x) s = .next (out s e (.irem x) fun a b => if b = 0 then a else a.tmod b))

/-- R91, R93: bitwise results, counts and bit fields; AND, OR, XOR and ANDN of the short forms act on 32-bit words. -/
def Obligations.LogicResults : Prop :=
  (∀ x : R2,
    Runs (.andR2 x) (fun e => written false e.part fun l => [.v x.d l (e.cw.rv x.a l &&& r2B e x l)]) ∧
    Runs (.orR2 x) (fun e => written false e.part fun l => [.v x.d l (e.cw.rv x.a l ||| r2B e x l)]) ∧
    Runs (.xorR2 x) (fun e => written false e.part fun l => [.v x.d l (e.cw.rv x.a l ^^^ r2B e x l)]) ∧
    Runs (.andnR2 x) (fun e => written false e.part fun l => [.v x.d l (e.cw.rv x.a l &&& ~~~(r2B e x l))])) ∧
  (∀ d b,
    Runs (.and16 d b) (fun e => written false e.part fun l => [.v d l (e.cw.rv d l &&& e.cw.rv b l)]) ∧
    Runs (.or16 d b) (fun e => written false e.part fun l => [.v d l (e.cw.rv d l ||| e.cw.rv b l)]) ∧
    Runs (.xor16 d b) (fun e => written false e.part fun l => [.v d l (e.cw.rv d l ^^^ e.cw.rv b l)])) ∧
  (∀ x : XOps,
    Runs (.andX x) (fun e => resultOf e x x.t fun l => e.cw.opA x x.t l &&& e.cw.opB x x.t l) ∧
    Runs (.orX x) (fun e => resultOf e x x.t fun l => e.cw.opA x x.t l ||| e.cw.opB x x.t l) ∧
    Runs (.xorX x) (fun e => resultOf e x x.t fun l => e.cw.opA x x.t l ^^^ e.cw.opB x x.t l) ∧
    Runs (.andnX x) (fun e => resultOf e x x.t fun l => andNot (tyBits x.t) (e.cw.opA x x.t l) (e.cw.opB x x.t l)) ∧
    Runs (.notX x) (fun e => resultOf e x x.t fun l => 2 ^ tyBits x.t - 1 - e.cw.opA x x.t l % 2 ^ tyBits x.t) ∧
    Runs (.popc x) (fun e => resultOf e x .z32 fun l => popN (tyBits x.t) (e.cw.opA x x.t l)) ∧
    Runs (.clz x) (fun e => resultOf e x .z32 fun l => clzN (tyBits x.t) (e.cw.opA x x.t l)) ∧
    Runs (.brev x) (fun e => resultOf e x x.t fun l => revN (tyBits x.t) (e.cw.opA x x.t l)) ∧
    Runs (.bfx x) (fun e => resultOf e x x.t fun l =>
      bfxN (tySigned x.t) (tyBits x.t) (e.cw.opA x x.t l) (fieldOf x (e.cw.opBz x l)).1 (fieldOf x (e.cw.opBz x l)).2) ∧
    Runs (.bfi x) (fun e => resultOf e x x.t fun l =>
      bfiN (tyBits x.t) (e.cw.opC x x.t l) (e.cw.opA x x.t l) (fieldOf x (e.cw.opBz x l)).1
        (fieldOf x (e.cw.opBz x l)).2))

/-- R92: a count at or above the width gives 0 for SHL and SHR and the sign for SAR; ROTL takes it modulo the width. -/
def Obligations.ShiftResults : Prop :=
  let shl (a k : Word) : Word := if k.toNat < 32 then a <<< k.toNat else 0
  let shr (a k : Word) : Word := if k.toNat < 32 then a >>> k.toNat else 0
  let sar (a k : Word) : Word := a.sshiftRight (min k.toNat 32)
  let rot (a k : Word) : Word := a.rotateLeft (k.toNat % 32)
  let r2 (x : R2) (f : Word → Word → Word) (e : Env) : List Wr :=
    written false e.part fun l => [.v x.d l (f (e.cw.rv x.a l) (r2B e x l))]
  let i6 (x : I6) (f : Word → Word → Word) (e : Env) : List Wr :=
    written false e.part fun l => [.v x.d l (f (e.cw.rv x.a l) (BitVec.ofNat 32 (x.count % 8192)))]
  let i16 (d b : Nat) (f : Word → Word → Word) (e : Env) : List Wr :=
    written false e.part fun l => [.v d l (f (e.cw.rv d l) (BitVec.ofNat 32 (b % 8192)))]
  let xs (x : XOps) (f : Nat → Nat → Nat → Nat) (e : Env) : List Wr :=
    resultOf e x x.t fun l => f (tyBits x.t) (e.cw.opA x x.t l) (e.cw.opBz x l)
  (∀ x, Runs (.shlR2 x) (r2 x shl) ∧ Runs (.shrR2 x) (r2 x shr) ∧ Runs (.sarR2 x) (r2 x sar)
    ∧ Runs (.rotlR2 x) (r2 x rot)) ∧
  (∀ x, Runs (.shlI6 x) (i6 x shl) ∧ Runs (.shrI6 x) (i6 x shr) ∧ Runs (.sarI6 x) (i6 x sar)
    ∧ Runs (.rotlI6 x) (i6 x rot)) ∧
  (∀ d b, Runs (.shli16 d b) (i16 d b shl) ∧ Runs (.shri16 d b) (i16 d b shr) ∧ Runs (.sari16 d b) (i16 d b sar)) ∧
  (∀ x, Runs (.shlX x) (xs x shlN) ∧ Runs (.shrX x) (xs x shrN) ∧ Runs (.sarX x) (xs x sarN)
    ∧ Runs (.rotlX x) (xs x rotlN))

/-- R72, R94 to R96: moves, selection and constants. -/
def Claim.MoveResults : Prop :=
  (∀ d b, Runs (.mov16 d b) fun e => written false e.part fun l => [.v d l (e.cw.rv b l)]) ∧
  (∀ d b, Runs (.movi16 d b) fun e => written false e.part fun l => [.v d l ((BitVec.ofNat 5 b).signExtend 32)]) ∧
  (∀ x : MoviOps, Runs (.movi x) fun e => written x.y e.part fun l =>
    [if x.y then .s x.d ((BitVec.ofNat 8 x.imm).signExtend 32) else .v x.d l ((BitVec.ofNat 8 x.imm).signExtend 32)]) ∧
  (∀ x : MovlOps, Runs (.movl x) fun e => written x.y e.part fun l =>
    [if x.y then .s x.d (BitVec.ofNat 32 x.const) else .v x.d l (BitVec.ofNat 32 x.const)]) ∧
  (∀ x : XOps,
    Runs (.sel x) (fun e => resultOf e x x.t fun l =>
      if (e.cw.rp x.c).getLsbD l then e.cw.opA x x.t l else e.cw.opB x x.t l) ∧
    Runs (.mov x) (fun e => written x.y e.part fun l =>
      resultWrites x.y x.t x.d l (movVal x (e.cw.opd (x.y || x.u) (srcTy x) x.b l))))

/-- R97 to R99: comparisons, predicate logic, and the moves between the predicates and a register. -/
def Claim.PredicateResults : Prop :=
  let pred (e : Env) (d : Nat) (m : Word) : List Wr := written false e.part fun l => [.p d l (m.getLsbD l)]
  (∀ x : R4,
    Runs (.pand x) (fun e => pred e x.d (e.cw.rp x.a &&& e.cw.rp x.b)) ∧
    Runs (.por x) (fun e => pred e x.d (e.cw.rp x.a ||| e.cw.rp x.b)) ∧
    Runs (.pxor x) (fun e => pred e x.d (e.cw.rp x.a ^^^ e.cw.rp x.b)) ∧
    Runs (.pnot x) (fun e => pred e x.d (~~~(e.cw.rp x.a)))) ∧
  (∀ x : XOps,
    Runs (.icmp x) (fun e => written false e.part fun l => [.p x.d l (icmpVal x.v (intA e x l) (intB e x l))]) ∧
    Runs (.p2v x) (fun e => written false e.part fun l =>
      [.v x.d l (BitVec.ofNat 32 (((List.range 8).map fun k => if (e.cw.rp k).getLsbD l then 2 ^ k else 0).sum))]) ∧
    Runs (.v2p x) (fun e => written false e.part fun l =>
      (List.range 7).map fun k => .p (k + 1) l (bitOf (e.cw.opA x .z32 l) (k + 1))))

/-- R100 to R102: votes, the shuffle, the reduction and the scan over the lanes of P(c). -/
def Claim.CrewOperationResults : Prop := ∀ x : XOps,
  (x.v = 0 → Runs (.vote x) fun e => written false e.part fun l =>
    [.p x.d l (decide (e.part &&& e.cw.rp x.a = e.part))]) ∧
  (x.v = 1 → Runs (.vote x) fun e => written false e.part fun l => [.p x.d l (decide (e.part &&& e.cw.rp x.a ≠ 0))]) ∧
  (2 ≤ x.v → Runs (.vote x) fun e => written x.y e.part fun l =>
    [if x.y then .s x.d (e.part &&& e.cw.rp x.a) else .v x.d l (e.part &&& e.cw.rp x.a)]) ∧
  Runs (.shfl x) (fun e => written false e.part fun l =>
    let j := shflLane x.v l (e.cw.opBz x l)
    let k := if 0 ≤ j ∧ j < 32 ∧ e.part.getLsbD j.toNat then j.toNat else l
    resultWrites false x.t x.d l (e.cw.opd false x.t x.a k)) ∧
  RunsFl (.cred x)
    (fun e => match (foldOf e x).getLast? with
      | none => []
      | some r => [.s x.d (BitVec.ofNat 32 r.2.2.1)])
    (fun e l => (((foldOf e x).find? fun r => r.1 = l).map fun r => r.2.2.2).getD 0) ∧
  RunsFl (.cscan x)
    (fun e => (foldOf e x).map fun r => .v x.d r.1 (BitVec.ofNat 32 (if x.q then r.2.1 else r.2.2.1)))
    (fun e l => (((foldOf e x).find? fun r => r.1 = l).map fun r => r.2.2.2).getD 0)

/-- R72, R94 to R102: moves, selection, constants, comparisons, predicate logic, votes, shuffles and reductions over lanes. -/
def Obligations.MoveAndLaneResults : Prop := Claim.MoveResults ∧ Claim.PredicateResults ∧ Claim.CrewOperationResults

/-! ### Floating-point, quantisation, moment and random instructions -/

/-- A fixed-latency float instruction of shape X whose result of type T in a lane is `f`. -/
abbrev floatRuns (i : Instr) (x : XOps) (t : Ty) (f : Env → Nat → Nat × Flags) : Prop :=
  RunsFl i (fun e => written x.y e.part fun l => resultWrites x.y t x.d l (f e l).1)
    (fun e => laneFlags x.y e fun l => (f e l).2)
/-- The same for a variable-latency float instruction. -/
abbrev floatLater (i : Instr) (x : XOps) (f : Env → Nat → Nat × Flags) : Prop :=
  RunsLater i x.y (fun e => written x.y e.part fun l => resultWrites x.y x.t x.d l (f e l).1)
    (fun e => raisedBy x.y e.part fun l => (f e l).2)
/-- A dyadic float operation in a lane, element by element (R119). -/
abbrev dyadIn (x : XOps) (op : Fmt → Nat → Nat → Nat × Flags) (e : Env) (l : Nat) : Nat × Flags :=
  float2 x.t op (e.cw.opA x x.t l) (e.cw.opB x x.t l)
/-- A unary float operation in a lane, element by element (R119). -/
abbrev unaryIn (x : XOps) (op : Fmt → Nat → Nat × Flags) (e : Env) (l : Nat) : Nat × Flags :=
  float1 x.t op (e.cw.opA x x.t l)

/-- R122, R123, R125: sums, differences, products, fused products, minima, maxima and rounding to an integer, with the
rounding mode of the instruction; the 16-bit forms act on FP32 to nearest even. -/
def Claim.FloatResults : Prop :=
  (∀ x : XOps,
    floatRuns (.fadd x) x x.t (dyadIn x fun f => fAdd f (rndOf x.rnd)) ∧
    floatRuns (.fsub x) x x.t (dyadIn x fun f => fSub f (rndOf x.rnd)) ∧
    floatRuns (.fmul x) x x.t (dyadIn x fun f => fMul f (rndOf x.rnd)) ∧
    floatRuns (.fmin x) x x.t (dyadIn x minNum) ∧
    floatRuns (.fmax x) x x.t (dyadIn x maxNum) ∧
    floatRuns (.frnd x) x x.t (unaryIn x fun f => fRnd f (rndOf x.rnd) x.q) ∧
    floatRuns (.ffma x) x x.t (fun e l => float3 x.t (fun f => fFma f (rndOf x.rnd))
      (e.cw.opA x x.t l) (e.cw.opB x x.t l) (e.cw.opC x x.t l))) ∧
  (∀ d b : Nat,
    let short (i : Instr) (op : Nat → Nat → Nat × Flags) : Prop :=
      RunsFl i
        (fun e => written false e.part fun l => [.v d l (BitVec.ofNat 32 (op (e.cw.rv d l).toNat (e.cw.rv b l).toNat).1)])
        (fun e l => (op (e.cw.rv d l).toNat (e.cw.rv b l).toNat).2)
    short (.fadd16 d b) (fAdd .f32 .rn) ∧ short (.fsub16 d b) (fSub .f32 .rn) ∧ short (.fmul16 d b) (fMul .f32 .rn) ∧
    short (.fmin16 d b) (minNum .f32) ∧ short (.fmax16 d b) (maxNum .f32))

/-- R124, R126, R127: comparison, classification and the conversions. -/
def Claim.FloatConversions : Prop := ∀ x : XOps,
  let fmt := (elemFmt x.t).1
  let src := (elemFmt (srcTy x)).1
  RunsFl (.fcmp x)
    (fun e => written false e.part fun l =>
      [.p x.d l (fCmp fmt x.v (elemOf fmt (e.cw.opA x x.t l) 0) (elemOf fmt (e.cw.opB x x.t l) 0)).1])
    (fun e l => (fCmp fmt x.v (elemOf fmt (e.cw.opA x x.t l) 0) (elemOf fmt (e.cw.opB x x.t l) 0)).2) ∧
  Runs (.fclass x) (fun e => resultOf e x .z32 fun l => fClass fmt (elemOf fmt (e.cw.opA x x.t l) 0)) ∧
  floatRuns (.f2f x) x x.t (fun e l =>
    packElems fmt ((f2fSources x (e.cw.opA x (srcTy x) l) (e.cw.opB x (srcTy x) l)).map
      (fCvt src fmt (rndOf x.rnd) x.o))) ∧
  floatRuns (.f2i x) x x.t (fun e l =>
    let r := fToInt src (tySigned x.t) (tyBits x.t) (rndOf x.rnd) (elemOf src (e.cw.opA x (srcTy x) l) 0)
    (wrapNat (tyBits x.t) r.1, r.2)) ∧
  floatRuns (.i2f x) x x.t (fun e l =>
    roundTo fmt (intVal (asInt (srcTy x) (e.cw.opA x (srcTy x) l))) (rndOf x.rnd) x.o)

/-- R72, R122 to R127, R139: the fixed-latency floating-point instructions. Where the enabled flag of a uniform form rises, TRAPM
is P(c), a reading (log 22). -/
def Obligations.FloatFixedResults : Prop := Claim.FloatResults ∧ Claim.FloatConversions

/-- R27, R125, R128: division, roots, reciprocals and the transcendentals issue with their results outstanding.
Pending bits where no lane takes part are a reading (log 21). -/
def Obligations.FloatLaterResults : Prop := ∀ x : XOps,
  let fn (k : Fn) : Env → Nat → Nat × Flags := unaryIn x fun f => fTrans f k (rndOf x.rnd) x.o
  floatLater (.fdiv x) x (dyadIn x fun f => fDiv f (rndOf x.rnd)) ∧
  floatLater (.fsqrt x) x (unaryIn x fun f => fSqrt f (rndOf x.rnd)) ∧
  floatLater (.frcp x) x (unaryIn x fun f => fRcp f (rndOf x.rnd)) ∧
  floatLater (.frsq x) x (unaryIn x fun f => fRsq f (rndOf x.rnd)) ∧
  floatLater (.fexp2 x) x (fn .exp2) ∧ floatLater (.flog2 x) x (fn .log2) ∧ floatLater (.fexp x) x (fn .exp) ∧
  floatLater (.flog x) x (fn .log) ∧ floatLater (.fsin x) x (fn .sin) ∧ floatLater (.fcos x) x (fn .cos) ∧
  floatLater (.ftanh x) x (fn .tanh) ∧ floatLater (.fsigm x) x (fn .sigm) ∧ floatLater (.ferf x) x (fn .erf)

/-- R130 to R132, R136: scales, packed codes, decoded codes and code-table entries. -/
def Claim.QuantResults : Prop := ∀ x : XOps,
  RunsFl (.qscl x)
    (fun e => written false e.part fun l => [.v x.d l (BitVec.ofNat 32 (groupScale e x l).1)])
    (fun e l => (groupScale e x l).2 ||| snanFlag .f32 [(e.cw.rv x.a l).toNat]) ∧
  RunsFl (.qpk x)
    (fun e => written false e.part fun l => [.v x.d l (BitVec.ofNat 32
      (if l < codeBits x.t then
        ((List.range (32 / codeBits x.t)).map fun k =>
          let j := l * (32 / codeBits x.t) + k
          (if e.part.getLsbD j then (qpkCode e x j).1 % 2 ^ codeBits x.t else 0) * 2 ^ (codeBits x.t * k)).sum
      else 0))])
    (fun e l => (qpkCode e x l).2) ∧
  (x.t = .s8 ∨ x.t = .z8 →
    let val (e : Env) (l : Nat) : Nat × Flags :=
      q8Value (x.t = .z8) (bitsOf (e.cw.rv x.a (l / 4)).toNat (l % 4 * 8) 8) (e.cw.opB x .z32 l)
    RunsFl (.qupk x) (fun e => written false e.part fun l => [.v x.d l (BitVec.ofNat 32 (val e l).1)])
      (fun e l => (val e l).2)) ∧
  (x.t ≠ .s8 → x.t ≠ .z8 →
    let code (e : Env) (l : Nat) : Nat :=
      bitsOf (e.cw.rv x.a (l / (32 / codeBits x.t))).toNat (l % (32 / codeBits x.t) * codeBits x.t) (codeBits x.t)
    let val (e : Env) (l : Nat) : Nat × Flags :=
      roundTo .f32 (mulVal (valueOf (elemFmt x.t).1 (code e l)) (laneScale e x l).1).1 (rndOf x.rnd) x.o
    RunsFl (.qupk x) (fun e => written false e.part fun l => [.v x.d l (BitVec.ofNat 32 (val e l).1)])
      (fun e l => (val e l).2 ||| qupkInvalid e x (code e l) l)) ∧
  (x.t = .f32 → Runs (.lut4 x) fun e => resultOf e x .z32 fun l =>
    (fCvt .bf16 .f32 .rn false (ctValue e.blk (bitsOf (e.cw.opA x .z32 l) (4 * x.v) 4))).1) ∧
  (x.t ≠ .f32 → Runs (.lut4 x) fun e => resultOf e x .z32 fun l =>
    ctValue e.blk (bitsOf (e.cw.opA x .z32 l) (8 * x.v) 4)
      + 65536 * ctValue e.blk (bitsOf (e.cw.opA x .z32 l) (8 * x.v + 4) 4))

/-- R133, R134: CTAB.W writes entries of the inactive bank, so that what LUT4 reads does not change, and CTAB.SWAP makes
the other bank active; nothing else changes. -/
def Claim.CodeTableWrites : Prop := ∀ (x : XOps) (s : State) (e : Env),
  (Ready s (.ctabW x) e → ∃ ct, exec (.ctabW x) s = .next (movedOn s e { e.blk with ctab := ct } (e.advance s e.cw)) ∧
    (∀ k, k < 16 → getAt 0 ct (16 * e.blk.bank.toNat + k) = e.blk.ctEntry e.blk.bank k) ∧
    (∀ k, k < 16 → (∀ l ∈ formLanes x.y e.part, e.cw.opB x .z32 l % 16 ≠ k) →
      getAt 0 ct (16 * (!e.blk.bank).toNat + k) = e.blk.ctEntry (!e.blk.bank) k) ∧
    (∀ l, (formLanes x.y e.part).getLast? = some l →
      getAt 0 ct (16 * (!e.blk.bank).toNat + e.cw.opB x .z32 l % 16) = BitVec.ofNat 16 (e.cw.opA x .z32 l))) ∧
  (Ready s (.ctabSwap x) e → exec (.ctabSwap x) s = .next
    (movedOn s e { e.blk with bank := if e.part = 0 then e.blk.bank else !e.blk.bank } (e.advance s e.cw)))

/-- R130 to R136: block quantisation and the code table. The code of an all-zero group, the flags of QUPK and the lanes of a
group's flags are readings (logs 18, 19, 93). -/
def Obligations.QuantisationResults : Prop := Claim.QuantResults ∧ Claim.CodeTableWrites

/-- A fixed-latency moment instruction: with no source variance below zero in a lane of P(c), or with `.CLAMP`, and no
result that fails without `.CLAMP`, every lane takes its result (R143, R144). -/
abbrev momRuns (i : Instr) (x : XOps) (srcs : List Nat) (f : Env → Nat → MomRes) : Prop :=
  ∀ s e, Ready s i e →
    (x.q = false → ∀ l ∈ lanesOf e.part, (∀ r ∈ srcs, negVar (varOf e r l) = false) ∧ (f e l).failed = false) →
    exec i s = .next (merged s e (written false e.part fun l => [.m x.d l (f e l).m.bits]) (fun l => (f e l).m.flags)
      (x.q && (lanesOf e.part).any fun l => (srcs.any fun r => negVar (varOf e r l)) || (f e l).failed))

/-- R145, R146: sums, differences, products, the fused product and the scaled moment. -/
def Claim.MomentResults : Prop := ∀ x : XOps,
  momRuns (.madd x) x [x.a, x.b] (fun e l => checked x.q (momAdd false (momAt e x.a l) (momAt e x.b l) (covAt e x l))) ∧
  momRuns (.msub x) x [x.a, x.b] (fun e l => checked x.q (momAdd true (momAt e x.a l) (momAt e x.b l) (covAt e x l))) ∧
  momRuns (.mmul x) x [x.a, x.b] (fun e l => checked x.q (momMul (x.cov = 0) (momAt e x.a l) (momAt e x.b l) (covAt e x l))) ∧
  momRuns (.mscale x) x [x.a] (fun e l => checked x.q (momScale (momAt e x.a l) (e.cw.opB x .z32 l))) ∧
  momRuns (.mfma x) x [x.a, x.b, x.c] (fun e l =>
    let p := checked x.q (momMul (x.cov = 0) (momAt e x.a l) (momAt e x.b l) (covAt e x l))
    let r := checked x.q { mu := mAdd p.m.mu (momAt e x.c l).mu, var := mAdd p.m.var (momAt e x.c l).var }
    ⟨r.m, p.failed || r.failed⟩)

/-- R151 to R153: a moment is set from two registers, moved, and its variance is held between two bounds. -/
def Claim.MomentMoves : Prop := ∀ x : XOps,
  Runs (.mmov x) (fun e => written false e.part fun l => [.m x.d l (e.cw.rm x.a l)]) ∧
  RunsFl (.mclamp x)
    (fun e => written false e.part fun l =>
      [.m x.d l (BitVec.ofNat 64 ((e.cw.rm x.a l).toNat % 2 ^ 32 + 2 ^ 32 *
        (clampVar (varOf e x.a l) (e.cw.opB x .z32 l) (e.cw.opC x .z32 l)).1))])
    (fun e l => (clampVar (varOf e x.a l) (e.cw.opB x .z32 l) (e.cw.opC x .z32 l)).2) ∧
  (∀ s e, Ready s (.mset x) e →
    (x.q = false → ∀ l ∈ lanesOf e.part, negVar (e.cw.opB x .z32 l) = false) →
    let m (l : Nat) : Mom :=
      { mu := canon (e.cw.rv x.a l).toNat,
        var := canon (if negVar (e.cw.opB x .z32 l) then 0 else e.cw.opB x .z32 l) }
    exec (.mset x) s = .next (merged s e (written false e.part fun l => [.m x.d l (m l).bits]) (fun l => (m l).flags)
      (x.q && (lanesOf e.part).any fun l => negVar (e.cw.opB x .z32 l))))

/-- R143 to R146, R151 to R153: the fixed-latency moment instructions. -/
def Obligations.MomentFixedResults : Prop := Claim.MomentResults ∧ Claim.MomentMoves

/-- A moment non-linearity issues with its results outstanding; a result that fails its check is a late cause 0x12
(R144, R147 to R150). -/
abbrev momLaterRuns (i : Instr) (x : XOps) (f : Mom → Mom) : Prop :=
  ∀ s e, Ready s i e →
    (x.q = false → ∀ l ∈ lanesOf e.part, negVar (varOf e x.a l) = false) →
    let r (l : Nat) : MomRes := checked x.q (f (momAt e x.a l))
    exec i s = .next (deferred s e i (written false e.part fun l => [.m x.d l (r l).m.bits])
      (raisedBy false e.part fun l => (r l).m.flags)
      (x.q && (lanesOf e.part).any fun l => negVar (varOf e x.a l) || (r l).failed)
      (if !x.q && (lanesOf e.part).any fun l => (r l).failed then some { code := 0x12, info := negInfo x.d true }
       else none))

/-- R147 to R150, R154: the moment non-linearities and the collapse of a moment. -/
def Claim.MomentLaterResults : Prop := ∀ x : XOps,
  momLaterRuns (.mrelu x) x momRelu ∧ momLaterRuns (.msigm x) x momSigm ∧ momLaterRuns (.mtanh x) x momTanh ∧
  momLaterRuns (.mexp x) x momExp ∧
  (∀ s e, Ready s (.mcoll x) e → (x.q = false → ∀ l ∈ lanesOf e.part, negVar (varOf e x.a l) = false) →
    let m (l : Nat) : Mom := momAt e x.a l
    let second (l : Nat) : Flt := if x.v = 0 then mFn sqrt32 (m l).var else (m l).var
    exec (.mcoll x) s = .next (deferred s e (.mcoll x)
      (written false e.part fun l => regWrites false x.d l ((m l).mu.1 + 2 ^ 32 * (second l).1) 2)
      (raisedBy false e.part fun l => (m l).mu.2 ||| (second l).2)
      (x.q && (lanesOf e.part).any fun l => negVar (varOf e x.a l)) none))

/-- The fixed-latency moment instructions that check their results, with their source registers and the result of a lane
(R145, R146). -/
def checkedMoments (x : XOps) (e : Env) : List (Instr × List Nat × (Nat → MomRes)) :=
  let a (l : Nat) : Mom := momAt e x.a l
  let b (l : Nat) : Mom := momAt e x.b l
  [(.madd x, [x.a, x.b], fun l => checked x.q (momAdd false (a l) (b l) (covAt e x l))),
   (.msub x, [x.a, x.b], fun l => checked x.q (momAdd true (a l) (b l) (covAt e x l))),
   (.mmul x, [x.a, x.b], fun l => checked x.q (momMul (x.cov = 0) (a l) (b l) (covAt e x l))),
   (.mscale x, [x.a], fun l => checked x.q (momScale (a l) (e.cw.opB x .z32 l))),
   (.mfma x, [x.a, x.b, x.c], fun l =>
     let p := checked x.q (momMul (x.cov = 0) (a l) (b l) (covAt e x l))
     let r := checked x.q { mu := mAdd p.m.mu (momAt e x.c l).mu, var := mAdd p.m.var (momAt e x.c l).var }
     ⟨r.m, p.failed || r.failed⟩)]

/-- R143, R144: without `.CLAMP` a negative variance in a source of a lane of P(c) raises cause 0x12 before any effect, with
the number of the first source that fails in some lane and every lane in which a source fails; a source of MSET is named by
its destination. Where no source fails, a negative variance in a result of a fixed-latency form raises 0x12 before any
effect, with the destination, the result bit and the lanes that fail. -/
def Claim.NegativeVarianceTraps : Prop := ∀ (x : XOps) (s : State) (e : Env), x.q = false →
  let below (r : Nat) : Word := maskWhere e.part fun l => negVar (varOf e r l)
  (∀ i srcs, (i, srcs) ∈ (checkedMoments x e).map (fun p => (p.1, p.2.1)) ++
      [(Instr.mrelu x, [x.a]), (.msigm x, [x.a]), (.mtanh x, [x.a]), (.mexp x, [x.a]), (.mcoll x, [x.a])] →
    Ready s i e → ∀ before r after, srcs = before ++ r :: after → (∀ q ∈ before, below q = 0) → below r ≠ 0 →
    exec i s = .next (s.raiseAt e 0x12 (r % 16) (srcs.foldl (fun m q => m ||| below q) 0))) ∧
  (Ready s (.mset x) e → let m := maskWhere e.part fun l => negVar (e.cw.opB x .z32 l)
    m ≠ 0 → exec (.mset x) s = .next (s.raiseAt e 0x12 (x.d % 16) m)) ∧
  (∀ i srcs f, (i, srcs, f) ∈ checkedMoments x e → Ready s i e → (∀ r ∈ srcs, below r = 0) →
    let m := maskWhere e.part fun l => (f l).failed
    m ≠ 0 → exec i s = .next (s.raiseAt e 0x12 (x.d % 16 + 16) m))

/-- R144, R147 to R150, R154: the variable-latency moment instructions, and the trap of a negative source variance. Pending bits
where no lane takes part, and none of FPC for MCOLL.VAR, are readings (log 21). -/
def Obligations.MomentLateResults : Prop := Claim.MomentLaterResults ∧ Claim.NegativeVarianceTraps

/-- R156 to R163: seeding, drawing with the position advanced by one, the counter form, the uniform number and the
keep mask. -/
def Obligations.RandomResults : Prop := ∀ x : XOps,
  (∀ s e, Ready s (.rseed x) e → ∃ w, exec (.rseed x) s = .next (movedOn s e e.blk (e.advance s w)) ∧
    w = { e.cw with strm := w.strm } ∧
    ∀ l, w.strmOf l = if l ∈ lanesOf e.part then
      streamOfParts (e.cw.opC x .z32 l) 0 (e.cw.opA x .z32 l + 2 ^ 32 * e.cw.opB x .z32 l) else e.cw.strmOf l) ∧
  (∀ s e, Ready s (.rnext x) e → ∃ st,
    let draw (l : Nat) : Nat := (strmDraw (e.cw.strmOf l) (gtidOf e.blk e.cw l)).toNat
    let ws := written false e.part fun l => regWrites false x.d l (draw l) (if x.v = 0 then 4 else 1)
    exec (.rnext x) s = .next (movedOn s e e.blk (e.advance s { e.cw.write ws with strm := st })) ∧
    ∀ l, getAt 0 st l = if l ∈ lanesOf e.part then
      streamOfParts (strmNum (e.cw.strmOf l)) (strmPos (e.cw.strmOf l) + 1) (strmKey (e.cw.strmOf l))
      else e.cw.strmOf l) ∧
  Runs (.rctr x) (fun e => written x.y e.part fun l =>
    regWrites x.y x.d l (sumac (quadOf (e.cw.regs x.y x.a l 4))
      (BitVec.ofNat 32 (e.cw.regs (x.y || x.u) x.b l 2))
      (BitVec.ofNat 32 (e.cw.regs (x.y || x.u) x.b l 2 / 2 ^ 32))).toNat 4) ∧
  Runs (.runi x) (fun e => resultOf e x .z32 fun l =>
    (roundTo .f32 (dyadic false (e.cw.opA x .z32 l / 256) (-24)) .rn false).1) ∧
  Runs (.rmask x) (fun e => resultOf e x .z32 fun l =>
    ((List.range 16).map fun i =>
      if min 256 (e.cw.opBz x l) ≤ bitsOf (e.cw.regs false x.a l 4) (8 * i) 8 then 2 ^ i else 0).sum)

/-! ### Control flow, CSRs, traps and register granules -/

/-- The crew after a control instruction: each active lane at the PC given, one more issue (R18). -/
abbrev jumped (s : State) (e : Env) (f : Nat → Word) : Crew := Env.issued s (e.cw.setPcs e.act f)

/-- R103, R107: a branch takes the lanes of P(c) to ipc + 2 × its signed offset, BRX to the even part of their register;
the other active lanes go on; no register, predicate or memory changes. -/
def Claim.BranchResults : Prop :=
  (∀ (x : BOps) s e, Ready s (.bra x) e → exec (.bra x) s = .next (movedOn s e e.blk (jumped s e fun l =>
    if e.part.getLsbD l then e.ipc + 2 * (BitVec.ofNat 20 x.off).signExtend 32 else e.next))) ∧
  (∀ (x : R4) s e, Ready s (.brx x) e → exec (.brx x) s = .next (movedOn s e e.blk (jumped s e fun l =>
    if e.part.getLsbD l then e.cw.rv x.a l &&& 0xFFFFFFFE else e.next)))

/-- R104 to R106: CALL pushes the return PC of every lane of P(c) onto its spill slot and jumps, RET pops it and returns
there; a lane with no room, or with nothing to return to, makes the instruction raise cause 0x0C or 0x0D with the lanes
concerned and no other effect. -/
def Claim.CallAndReturn : Prop :=
  (∀ (x : BOps) s e, Ready s (.call x) e →
    if overrun e = 0 then
      exec (.call x) s = .next (movedOn s e { e.blk with spill := pushed e } (jumped s e fun l =>
        if e.part.getLsbD l then e.ipc + 2 * (BitVec.ofNat 20 x.off).signExtend 32 else e.next))
    else exec (.call x) s = .next (s.raiseAt e 0x0C 0 (overrun e))) ∧
  (∀ (x : R4) s e, Ready s (.ret x) e →
    if atBottom e = 0 then
      exec (.ret x) s = .next (movedOn s e { e.blk with spill := popped e } (jumped s e fun l =>
        if e.part.getLsbD l then returnPc e l else e.next))
    else exec (.ret x) s = .next (s.raiseAt e 0x0D 0 (atBottom e)))

/-- R103 to R107: branches, calls and returns. -/
def Obligations.BranchesAndCalls : Prop := Claim.BranchResults ∧ Claim.CallAndReturn

/-- R108 to R110: EXIT takes the lanes of P(c) out of Live(c) and parks the crew, TRIGGER marks the block as triggered,
NOP only moves on; with P(c) empty each of them only moves on. -/
def Claim.ExitTriggerNop : Prop :=
  (∀ (x : R4) s e, Ready s (.exit x) e → exec (.exit x) s = .next
    (if e.part = 0 then settled s e [] 0 false
     else (s.setBlock e.b (e.blk.setCrew e.c
       { e.advance s e.cw with live := e.cw.live &&& ~~~e.part })).park e.b e.c (.exit e.next))) ∧
  (∀ (x : R4) s e, Ready s (.trigger x) e → exec (.trigger x) s = .next
    (let s' := s.setBlock e.b (e.blk.setCrew e.c (e.advance s e.cw))
     finishIssue (if e.part = 0 then s' else s'.trigger e.b) e)) ∧
  (∀ x : NOps, Runs (.nop x) fun _ => [])

/-- R109, R354: the triggering of a block is recorded at its grid under the block's index, and at the block. -/
def Claim.TriggerIsRecorded : Prop := ∀ (s : State) (b : Nat) (x : Block) (g : Grid),
  s.block b = some x → s.grid x.grid = some g →
  (s.trigger b).block b = some { x with triggered := true } ∧
  ∃ g', (s.trigger b).grid x.grid = some g' ∧ getAt false g'.trig x.index = true

/-- R108 to R110, R354: EXIT, TRIGGER with its record at the grid, and NOP. EXIT without a lane only moves on, and its lanes leave
before its park: both are readings (logs 16, 36). -/
def Obligations.ExitTriggerNopResults : Prop := Claim.ExitTriggerNop ∧ Claim.TriggerIsRecorded

/-- R111, R112, R114, R115: CSRR of a lane CSR writes a vector register of each lane of P(c), of a crew CSR the uniform
register; reading the cycle count makes the context timing-exposed. CSRW writes the writable fields.
The cycle count is free (log 2). -/
def Obligations.CsrResults : Prop := ∀ (x : NOps) (s : State) (e : Env),
  (Ready s (.csrr x) e → csrLane x.num = true → exec (.csrr x) s = .next (settled s e
    (written false e.part fun l => [.v x.d l (BitVec.ofNat 32 (csrOfLane e.blk e.cw x.num l))]) 0 false)) ∧
  (Ready s (.csrr x) e → csrLane x.num = false → exec (.csrr x) s = .next
    (settled (if (x.num = 0x020 ∨ x.num = 0x021) ∧ e.part ≠ 0 then
        s.setCtx e.blk.slot { s.ctx e.blk.slot with texp := true } else s) e
      (written true e.part fun _ => [.s x.d (BitVec.ofNat 32 (csrOfCrew s e.blk e.c e.cw x.num))]) 0 false)) ∧
  (Ready s (.csrw x) e → e.part ≠ 0 → exec (.csrw x) s = .next (movedOn s e e.blk
    (match x.num with
     | 0x010 => { e.advance s e.cw with mclf := (e.cw.rs x.d).getLsbD 0 }
     | 0x011 => { e.advance s e.cw with fpc := e.cw.rs x.d &&& 0x1F1F }
     | _ => { e.advance s e.cw with trappc := e.cw.rs x.d &&& 0xFFFFFFFE }))) ∧
  (Ready s (.csrw x) e → e.part = 0 → exec (.csrw x) s = .next (settled s e [] 0 false))

/-- R116, R117: TRAP raises 0x0E with its number, BKPT 0x0F, both after they have completed, with TRAPPC at the next
instruction and the lanes of P(c); with P(c) empty they only move on. -/
def Claim.TrapAndBreakpoint : Prop := ∀ (x : NOps) (s : State) (e : Env),
  let after : State := s.setBlock e.b (e.blk.setCrew e.c (e.advance s e.cw))
  let cause (code info : Nat) : Trap := { code := code, info := info, pc := e.next, lanes := e.part, next := e.next }
  (Ready s (.trap x) e → exec (.trap x) s = .next
    (if e.part = 0 then settled s e [] 0 false else after.raise e.b e.c (cause 0x0E x.num))) ∧
  (Ready s (.bkpt x) e → exec (.bkpt x) s = .next
    (if e.part = 0 then settled s e [] 0 false else finishIssue (after.raise e.b e.c (cause 0x0F 0)) e))

/-- R117, R171: TRET in the trap routine takes the lanes of TRAPM to TRAPPC and the others to the PC recorded at entry; with
a held cause the crew parks, and the routine is entered again, before any lane issues. Outside the routine it raises cause
0x10, with the PC of the TRET in TRAPPC (log 32). With P(c) empty it only moves on. -/
def Claim.TrapReturn : Prop := ∀ (x : NOps) (s : State) (e : Env), Ready s (.tret x) e →
  (e.part = 0 → exec (.tret x) s = .next (settled s e [] 0 false)) ∧
  (e.cw.inTrap = false → e.part ≠ 0 → exec (.tret x) s = .next (s.raiseAt e 0x10 0 e.act)) ∧
  (e.cw.inTrap = true → e.part ≠ 0 → e.cw.held = none → exec (.tret x) s = .next
    (movedOn s e e.blk (Env.issued s e.cw.leaveTrap))) ∧
  (e.cw.inTrap = true → e.part ≠ 0 → ∀ l, e.cw.held = some l →
    let w : Crew := { Env.issued s e.cw.leaveTrap with wait := .parked (.trap { l.trap with next := e.next }) }
    exec (.tret x) s = .next (s.setBlock e.b (e.blk.setCrew e.c
      (if e.cw.outs = [] then w.enterTrap e.blk.r.trapr { l.trap with next := e.next } else w)))) ∧
  e.cw.leaveTrap.inTrap = false ∧ e.cw.leaveTrap.held = none ∧
  ∀ l, e.cw.live.getLsbD l = true → e.cw.leaveTrap.pcOf l =
    if e.cw.trapm.getLsbD l then e.cw.trappc else getAt 0 e.cw.rpcv l

/-- R116, R117: TRAP, BKPT and TRET. The switch marker on them, the registers BKPT writes and TRAPPC of cause 0x10 are readings
(logs 32, 36). -/
def Obligations.TrapInstructions : Prop := Claim.TrapAndBreakpoint ∧ Claim.TrapReturn

/-- R24, R25, R184: REGS.GROW above the maximum raises 0x0A, at or below the present count it only moves on, and
otherwise the crew waits for the grant; REGS.SHRINK gives the upper granules back unless one of their registers is
pending (0x08).
The wait for a grant where granules are free is a reading (log 36). -/
def Obligations.RegisterGranules : Prop := ∀ (x : RegsOps) (s : State) (e : Env),
  let most : Nat := if e.blk.r.res then (if x.cls = 0 then max e.blk.r.vg e.blk.r.vgx else max e.blk.r.mg e.blk.r.mgx)
    else if x.cls = 0 then 8 else 4
  let have_ : Nat := if x.cls = 0 then e.cw.vg else e.cw.mg
  (Ready s (.regsGrow x) e → exec (.regsGrow x) s = .next
    (if most < x.count then s.raiseAt e 0x0A 0 e.act
     else if x.count ≤ have_ then settled s e [] 0 false
     else s.setBlock e.b (e.blk.setCrew e.c
       { e.cw with wait := .waiting (.regsGrow x) e.ipc e.act e.part, lastIssue := s.steps + 1 }))) ∧
  (Ready s (.regsShrink x) e → exec (.regsShrink x) s = .next
    (if e.cw.pendingFrom x.cls x.count then s.raiseAt e 0x08 0 e.act
     else if x.count < have_ then movedOn s e e.blk ((e.advance s e.cw).setGranules x.cls x.count)
     else settled s e [] 0 false))

/-- R169: entry to the trap routine of a crew with nothing outstanding and nothing late: TRAPC, TRAPPC and TRAPM take
the cause, RPCV the PC of every live lane, and every live lane starts at TRAPR; registers keep their values.
Entry in the same step is the model's choice (log 23). -/
def Obligations.TrapEntrySaves : Prop := ∀ (s : State) (b c : Nat) (x : Block) (w : Crew) (t : Trap),
  s.block b = some x → look x.crews c = some w → dispOf t.code = .program → x.r.trapr ≠ 0xFFFFFFFF →
  w.inTrap = false → w.wait ≠ .draining → w.live ≠ 0 → w.outs = [] → w.late = none → w.held = none →
  ∃ w', (s.raise b c t).crew b c = some w' ∧ w'.inTrap = true ∧ w'.wait = .ready ∧
    w'.trapc = BitVec.ofNat 32 (t.code + 256 * t.info) ∧ w'.trappc = t.pc ∧ w'.trapm = t.lanes ∧ w'.held = none ∧
    w'.live = w.live ∧ w'.v = w.v ∧ w'.m = w.m ∧ w'.s = w.s ∧ w'.p = w.p ∧
    (∀ l, l < 32 → w.live.getLsbD l = true → w'.pcOf l = x.r.trapr ∧ getAt 0 w'.rpcv l = w.pcOf l)

/-- R166 to R168, R172: a program-handled cause with no routine, in the routine, or while the crew drains ends the
context with the bits NOROUT, NESTED and DRAIN, and the crew is left as it was.
That every bit whose condition holds is set is a reading (log 77). -/
def Obligations.UnhandledCauseIsFatal : Prop := ∀ (s : State) (b c : Nat) (x : Block) (w : Crew) (t : Trap),
  s.block b = some x → look x.crews c = some w → dispOf t.code = .program → (s.ctx x.slot).state = .live →
  x.r.trapr = 0xFFFFFFFF ∨ w.inTrap = true ∨ w.wait = .draining →
  ((s.raise b c t).ctx x.slot).state = .ending ∧ (s.raise b c t).block b = some x ∧
  ∃ r, ((s.raise b c t).ctx x.slot).first = some r ∧ r.cause = t.code ∧ r.info = t.info ∧ r.pc = t.pc ∧
    r.lanes = t.lanes ∧
    (bitOf r.flags 8 = true ↔ x.r.trapr = 0xFFFFFFFF) ∧ (bitOf r.flags 9 = true ↔ w.inTrap = true) ∧
    (bitOf r.flags 10 = true ↔ w.wait = .draining ∨ w.live = 0)

/-- R139: a flag whose enable is set raises cause 0x11 after its results and flags are in place: a per-lane FADD with an
enabled flag completes and then raises 0x11 with the enabled flags and the lanes that raised one. -/
def Claim.EnabledFlagTraps : Prop := ∀ (x : XOps) (s : State) (e : Env), Ready s (.fadd x) e → x.y = false →
  let r (l : Nat) : Nat × Flags := float2 x.t (fun f => fAdd f (rndOf x.rnd)) (e.cw.opA x x.t l) (e.cw.opB x x.t l)
  let fl := raisedBy false e.part fun l => (r l).2
  fl &&& e.cw.enables ≠ 0 →
  exec (.fadd x) s = .next
    ((s.setBlock e.b (e.blk.setCrew e.c
      (crewAfter s e (written false e.part fun l => resultWrites false x.t x.d l (r l).1) fl false))).raise e.b e.c
      { code := 0x11, info := (fl &&& e.cw.enables).toNat, pc := e.next,
        lanes := maskWhere e.part fun l => (r l).2 &&& e.cw.enables ≠ 0, next := e.next })

/-- R30, R138, R139, R477: at an unpark the flags that fell due merge into FPC; a late cause that fell due is raised alone,
else a merged flag whose enable is set raises cause 0x11, with TRAPM 0 and TRAPPC after the instruction that parked; a park
by EXIT or COMPACT only records flags. -/
def Claim.UnparkTraps : Prop := ∀ (s : State) (b c : Nat) (x : Block) (w : Crew),
  s.block b = some x → look x.crews c = some w → x.phase = .running → (s.ctx x.slot).state = .live → w.outs = [] →
  let merged : Crew := { w with
    fpc := w.fpc ||| w.hflags.setWidth 32, mclf := w.mclf || w.hclamp, hflags := 0, hclamp := false, late := none,
    vpend := 0, spend := 0, mpend := 0, ppend := 0, fpcp := false }
  let after (v : Wait) : State := s.setBlock b (x.setCrew c { merged with wait := v })
  (∀ ret, w.wait = .parked (.marker ret) →
    (∀ l, w.late = some l → exec (.unpark b c) s = .next ((after .ready).raise b c { l.trap with pc := ret, next := ret })) ∧
    (w.late = none → w.hflags &&& w.enables ≠ 0 → exec (.unpark b c) s = .next ((after .ready).raise b c
      { code := 0x11, info := (w.hflags &&& w.enables).toNat, pc := ret, lanes := 0, next := ret })) ∧
    (w.late = none → w.hflags &&& w.enables = 0 → exec (.unpark b c) s = .next (after .ready))) ∧
  (∀ ret, w.wait = .parked (.exit ret) → w.live ≠ 0 →
    (∀ l, w.late = some l → exec (.unpark b c) s = .next
      ((after .ready).raise b c { l.trap with pc := ret, lanes := 0, next := ret })) ∧
    (w.late = none → exec (.unpark b c) s = .next (after .ready))) ∧
  (∀ i pc act, w.wait = .parked (.compact i pc act) → w.late = none →
    exec (.unpark b c) s = .next (after (.waiting i pc act act)))

/-- R75, R16, R28, R29, R74: of any instruction whose crew stands at issue, the checks come in this order: the role (0x03), the
register granules (0x09), the pending bits of its registers, of its guard and of FPC (0x08); each raises its cause with
TRAPPC at the instruction and the active lanes, before any effect. -/
def Claim.IssueChecksInOrder : Prop := ∀ (i : Instr) (s : State) (e : Env), (words i).isSome = true →
  envOf s i = some e →
  let regs := sources e.blk.r.lrec i ++ dests e.blk.r.lrec i
  let role : Prop := roleHeld e.blk e.c i = true
  let owned : Prop := ∀ r ∈ regs, e.cw.owns r = true
  (¬role → exec i s = .next (s.raiseAt e 0x03 0 e.act)) ∧
  (role → ¬owned → exec i s = .next (s.raiseAt e 0x09 0 e.act)) ∧
  (role → owned → ((∃ r ∈ regs, e.cw.pending r = true) ∨ e.cw.pending (.p (hdrOf i).g) = true ∨
      (touchesFpc i = true ∧ e.cw.fpcp = true)) →
    exec i s = .next (s.raiseAt e 0x08 0 e.act))

/-- The image of block `x` holds the bytes `bs`, the whole of an encoding, at `pc`, inside one fetched line (R65, R67). -/
abbrev imageHolds (x : Block) (pc : Word) (bs : List Byte) : Prop :=
  pc.toNat % 128 + bs.length ≤ 128 ∧ pc.toNat + bs.length ≤ x.r.clen ∧ needed bs = bs.length ∧
    ∀ k, k < bs.length → ∃ l, look x.code (pc.toNat / 128) = some l ∧ l.getD (pc.toNat % 128 + k) 0 = bs.getD k 0

/-- R65, R67, R70, R75: an encoding that is no instruction raises cause 0x01, one that sets a reserved field 0x02, and a
PC whose parcel lies at or beyond the image's length 0x04, with TRAPPC at it and the active lanes, before any effect. -/
def Claim.FetchTraps : Prop := ∀ (s : State) (b c : Nat) (x : Block) (w : Crew), readyCrew s b c = some (x, w) →
  let cause (code len : Nat) : Trap :=
    { code := code, pc := w.ipc, lanes := w.active w.ipc, next := w.ipc + BitVec.ofNat 32 len }
  (∀ bs len, imageHolds x w.ipc bs →
    (decode bs = .illegal len → exec (.illegalEncoding b c) s = .next (s.raiseIssue b c (cause 0x01 len))) ∧
    (decode bs = .reserved len → exec (.illegalEncoding b c) s = .next (s.raiseIssue b c (cause 0x02 len)))) ∧
  (x.r.clen < w.ipc.toNat + 2 → exec (.fetchOutsideImage b c) s = .next (s.raiseIssue b c (cause 0x04 2)))

/-- R16, R28, R65, R67, R74, R75, R139, R477: the checks at issue of every instruction in their order, those of the fetch among
them, and the trap of an enabled flag at the completion and at an unpark; the statements of results give it for the other
fixed-latency forms. TRAPPC and TRAPM at an unpark are readings (log 20). -/
def Obligations.IssueAndFlagTraps : Prop := Claim.EnabledFlagTraps ∧ Claim.UnparkTraps ∧ Claim.IssueChecksInOrder ∧ Claim.FetchTraps

/-- R14: p0 reads as true in every lane whatever is written to it, and a write of one register leaves the others. -/
def Obligations.RegisterWrites : Prop := ∀ (w : Crew) (ws : List Wr),
  (w.write ws).rp 0 = 0xFFFFFFFF ∧
  (∀ r l, (∀ x, Wr.v r l x ∉ ws) → l < 32 → (∀ r' l' x, Wr.v r' l' x ∈ ws → l' < 32) → (w.write ws).rv r l = w.rv r l) ∧
  (∀ r l, (∀ x, Wr.m r l x ∉ ws) → l < 32 → (∀ r' l' x, Wr.m r' l' x ∈ ws → l' < 32) → (w.write ws).rm r l = w.rm r l) ∧
  (∀ r, (∀ x, Wr.s r x ∉ ws) → (w.write ws).rs r = w.rs r) ∧
  (∀ k l, (∀ x, Wr.p k l x ∉ ws) → ((w.write ws).rp k).getLsbD l = (w.rp k).getLsbD l)

/-! ### Local memory, atomics, barriers and rings -/

/-- Every lane of P(c) accesses `n` bytes inside the share, aligned (R229). -/
abbrev fits (e : Env) (n : Nat) (f : Nat → Int) : Prop :=
  ∀ l ∈ lanesOf e.part, 0 ≤ f l ∧ f l + n ≤ e.blk.r.lmem ∧ f l % n = 0
/-- No entry of the crew's store queue is more than a store (R233). -/
abbrev onlyStores (e : Env) : Prop := e.cw.queue.all isStore = true

/-- R155, R227 to R230, R233: a load returns, byte by byte, what the crew's own queued stores hold, else the share. -/
def Claim.QuickLoads : Prop := ∀ (x : XOps) (s : State) (e : Env), onlyStores e →
  (Ready s (.ld x) e → fits e (tyBits x.t / 8) (memAddr e x) → exec (.ld x) s = .next
    (if x.y && e.part = 0 then settled s e [] 0 false
     else deferred s e (.ld x) (resultOf e x x.t fun l => crewRead e.blk e.cw (memAddr e x l).toNat (tyBits x.t / 8))
      0 false none)) ∧
  (Ready s (.lds x) e → fits e (4 * ldsWords x) (memAddr e x) → exec (.lds x) s = .next
    (deferred s e (.lds x) (written false e.part fun l => regWrites false x.d l
      (crewRead e.blk e.cw (memAddr e x l).toNat (4 * ldsWords x)) (ldsWords x)) 0 false none)) ∧
  (Ready s (.mld x) e → fits e 8 (memAddr e x) → exec (.mld x) s = .next
    (settled s e (written false e.part fun l =>
      [.m x.d l (BitVec.ofNat 64 (crewRead e.blk e.cw (memAddr e x l).toNat 8))]) 0 false))

/-- R155, R230, R233: a load behind a queued entry that is more than a store comes after every entry of the crew's queue: the
queue drains in the load's issue step (log 33), and the load takes its value from the share as the entries left it; where a
cause of an entry came first, the crew stands elsewhere and the load has not issued. -/
def Claim.LoadsBehindAtomics : Prop := ∀ (x : XOps) (s : State) (e : Env) (i : Instr) (n : Nat)
    (done : State → Env → State),
  (i, n, done) ∈ [
    (Instr.ld x, tyBits x.t / 8, fun s e => if x.y && e.part = 0 then settled s e [] 0 false else
      deferred s e (.ld x) (resultOf e x x.t fun l => crewRead e.blk e.cw (memAddr e x l).toNat (tyBits x.t / 8)) 0
        false none),
    (.lds x, 4 * ldsWords x, fun s e => deferred s e (.lds x) (written false e.part fun l => regWrites false x.d l
      (crewRead e.blk e.cw (memAddr e x l).toNat (4 * ldsWords x)) (ldsWords x)) 0 false none),
    (.mld x, 8, fun s e => settled s e (written false e.part fun l =>
      [.m x.d l (BitVec.ofNat 64 (crewRead e.blk e.cw (memAddr e x l).toNat 8))]) 0 false)] →
  Ready s i e → fits e n (memAddr e x) → ¬ onlyStores e →
  let s1 := s.drainQueue e.b e.c
  (∀ e1, envOf s1 i = some e1 → e1.ipc = e.ipc → e1.cw.inTrap = e.cw.inTrap → e1.blk.errs = [] →
    exec i s = .next (done s1 e1)) ∧
  ((∀ e1, envOf s1 i = some e1 → e1.ipc ≠ e.ipc ∨ e1.cw.inTrap ≠ e.cw.inTrap) → exec i s = .next s1)

/-- R155, R194, R230: a store enters the crew's queue, lane by lane; the share does not change yet. -/
def Claim.LocalStores : Prop := ∀ (x : XOps) (s : State) (e : Env),
  let queued (qs : List QEntry) : State :=
    movedOn s e e.blk { e.advance s e.cw with queue := e.cw.queue ++ qs }
  (Ready s (.st x) e → fits e (tyBits x.t / 8) (memAddr e x) → exec (.st x) s = .next
    (queued ((formLanes x.y e.part).map fun l =>
      .store (memAddr e x l).toNat (natToBytes (tyBits x.t / 8) (e.cw.opd x.y x.t x.d l))))) ∧
  (Ready s (.mst x) e → fits e 8 (memAddr e x) → exec (.mst x) s = .next
    (queued ((formLanes false e.part).map fun l => .store (memAddr e x l).toNat (natToBytes 8 (e.cw.rm x.d l).toNat))))

/-- R229, R231, R235, R241: an access of a lane of P(c) outside the share raises 0x13 with those lanes, else a misaligned one
0x14, before any effect: nothing enters the queue and no register is pending. The object of a barrier and the descriptor of a
ring are accesses of 16 and of 32 bytes for every lane of P(c). -/
def Claim.AddressChecks : Prop := ∀ (x : XOps) (s : State) (e : Env) (i : Instr) (n : Nat) (at_ : Nat → Int),
  let object (_ : Nat) : Int := (e.cw.rs x.a).toNat
  (i, n, at_) ∈ [(Instr.ld x, tyBits x.t / 8, memAddr e x), (.st x, tyBits x.t / 8, memAddr e x),
    (.lds x, 4 * ldsWords x, memAddr e x), (.mld x, 8, memAddr e x), (.mst x, 8, memAddr e x),
    (.atom x, tyBits x.t / 8, atomAddr e x), (.tbinit x, 16, object), (.tbarr x, 16, object), (.tbwait x, 16, object),
    (.srput x, 32, object), (.srputCommit x, 32, object), (.srget x, 32, object), (.srrel x, 32, object)] →
  Ready s i e → ¬(i = .atom x ∧ x.v = 8 ∧ e.blk.r.det = true) →
  let out : Word := maskWhere e.part fun l => at_ l < 0 ∨ e.blk.r.lmem < at_ l + n
  let mis : Word := maskWhere e.part fun l => at_ l % n ≠ 0
  (out ≠ 0 → exec i s = .next (s.raiseAt e 0x13 0 out)) ∧
  (out = 0 → mis ≠ 0 → exec i s = .next (s.raiseAt e 0x14 0 mis))

/-- R155, R194, R227 to R231, R233, R235, R241: loads and stores of local memory, and the address checks of every
instruction that accesses it. The moment at which a
load takes its value, and pending bits where no lane takes part, are readings (logs 33, 21). -/
def Obligations.LocalAccesses : Prop := Claim.QuickLoads ∧ Claim.LoadsBehindAtomics ∧ Claim.LocalStores ∧ Claim.AddressChecks

/-- R231 to R233: ATOM enters the store queue with its lanes' addresses and operands, its result outstanding; ATOM.FADD
in a deterministic grid raises 0x15; with P(c) empty nothing enters the queue, and the uniform form only moves on (R21).
The order of the checks, and pending bits where no lane takes part, are readings (logs 21, 35). -/
def Obligations.AtomResults : Prop := ∀ (x : XOps) (s : State) (e : Env), Ready s (.atom x) e →
  (x.v = 8 → e.blk.r.det = true → e.part ≠ 0 → exec (.atom x) s = .next (s.raiseAt e 0x15 0 e.part)) ∧
  (¬(x.v = 8 ∧ e.blk.r.det = true) → e.part ≠ 0 → fits e (tyBits x.t / 8) (atomAddr e x) →
    let w := e.advance s e.cw
    let p : Pend := { order := e.cw.issues, ready := false }
    let w1 := (dests e.blk.r.lrec (.atom x)).foldl Crew.setPending { w with outs := w.outs ++ [p] }
    let w2 := { w1 with fpcp := w1.fpcp || raisesFlags (.atom x) }
    exec (.atom x) s = .next (movedOn s e e.blk { w2 with queue := w2.queue ++
      [.atom e.cw.issues x.v x.t x.rnd x.y x.d ((formLanes x.y e.part).map fun l =>
        { lane := l, addr := (atomAddr e x l).toNat, b := e.cw.opB x x.t l,
          c := if x.v = 7 then e.cw.opC x x.t l else 0 })] })) ∧
  (e.part = 0 → exec (.atom x) s = .next (if x.y then settled s e [] 0 false else deferred s e (.atom x) [] 0 false none))

/-- The block of `b` is `x`, free of errors, and holds crew `c`, whose queue starts with `h`. -/
structure HeadIs (s : State) (b c : Nat) (x : Block) (w : Crew) (h : QEntry) : Prop where
  block : s.block b = some x
  crew : look x.crews c = some w
  clean : x.errs = []
  head : w.queue.head? = some h

/-- R194, R231, R233, R236, R242, R275: the head of a store queue is performed: a store reaches the share; an ATOM, lane after
lane in ascending order, writes its operation's value there and fills its result with the old ones; TBINIT writes an object of quota N with
GEN 0; a TBARR counts down OWED and gives its ticket; a commit or release changes its descriptor or raises cause 0x17; an
ENVRST, lane after lane, gives each slot the template, its episode and cursor 0. -/
def Obligations.QueueHeadEffects : Prop := ∀ (s : State) (b c : Nat) (x : Block) (w : Crew),
  (∀ a bs, HeadIs s b c x w (.store a bs) → ∃ t, exec (.storeQueueWrite b c) s = .next t ∧
    t.block b = some { x.setCrew c { w with queue := w.queue.tail } with share := writeBytes x.share a bs }) ∧
  (∀ order op ty rnd uni d ks, HeadIs s b c x w (.atom order op ty rnd uni d ks) →
    let n := tyBits ty / 8
    let lane (m : Sparse Byte × List Wr × Flags) (k : AtomLane) : Sparse Byte × List Wr × Flags :=
      let old := readLE m.1 k.addr n
      let r := atomOp op ty rnd old k.b k.c
      (writeBytes m.1 k.addr (natToBytes n r.1), m.2.1 ++ resultWrites uni ty d k.lane old, m.2.2 ||| r.2)
    let r := ks.foldl lane (x.share, [], 0)
    ∃ t, exec (.atomPerform b c) s = .next t ∧
      t.block b = some { x.setCrew c ({ w with queue := w.queue.tail }.fill order fun p =>
          { p with writes := r.2.1, flags := r.2.2, ready := true }) with share := r.1 }) ∧
  (∀ order a n pc act, HeadIs s b c x w (.tbinit order a n pc act) →
    let popped := x.setCrew c { w with queue := w.queue.tail }
    (1 ≤ n → n ≤ 1048575 → ∃ t, exec (.tbinitPerform b c) s = .next t ∧
      t.block b = some { popped with share := writeBytes x.share a (natToBytes 16 (2 ^ 4 * n + 2 ^ 80 * n)) }) ∧
    (n = 0 ∨ 1048575 < n → (∀ k, w.wait ≠ .parked (.trap k)) → exec (.tbinitPerform b c) s = .next
      ((s.setBlock b popped).raise b c { code := 0x18, info := 4, pc := pc, lanes := act, next := pc + 8 }))) ∧
  (∀ order i a v pc act, HeadIs s b c x w (.ring order i a v pc act) →
    let popped := x.setCrew c { w with queue := w.queue.tail }
    (∀ r n, ringAct x a (ringHead i v) = .done r n → exec (.storeQueueWrite b c) s = .next
      (s.setBlock b { popped with share := writeBytes x.share a (natToBytes 32 r.bits) })) ∧
    (∀ k, ringAct x a (ringHead i v) = .fail k → (∀ t, w.wait ≠ .parked (.trap t)) →
      exec (.storeQueueWrite b c) s = .next ((s.setBlock b popped).raise b c
        { code := 0x17, info := k, pc := pc, lanes := act, next := pc + 8 }))) ∧
  (∀ a d inb pc act i ipc iact part, HeadIs s b c x w (.tbarr a d inb pc act) → w.wait = .waiting i ipc iact part →
    (hdrOf i).s = false → tbarrCheck (x.tbar a) inb = none →
    ∃ t y, exec (.tbarrPerform b c) s = .next t ∧ t.block b = some y ∧
      y.share = writeBytes x.share a (natToBytes 16 (tbarrNext (x.tbar a) inb).bits) ∧
      ∃ w', look y.crews c = some w' ∧ w'.wait = .ready ∧ w'.rs d = BitVec.ofNat 32 (x.tbar a).gen) ∧
  (∀ d slots, HeadIs s b c x w (.envrst d slots) →
    ∃ t, exec (.envrstPerform b c) s = .next t ∧
      t.block b = some { x.setCrew c { w with queue := w.queue.tail } with
        share := slots.foldl (fun m p => writeBytes (writeBytes (writeBytes m p.1 (readBytes m d.tbase d.ssize))
          (p.1 + d.epoff) (natToBytes 8 p.2)) (p.1 + d.curoff) (natToBytes 4 0)) x.share })

/-- R236, R237: an arrival lowers OWED by one and adds its inbound bytes; when both counts are zero the object turns
over: GEN rises by one modulo 16 and OWED becomes QUOTA. -/
def Claim.BarrierTurnover : Prop := ∀ (o : TBar) (inb : Nat), tbarrCheck o inb = none →
  (o.owed = 1 ∧ o.inbound + inb = 0 →
    tbarrNext o inb = { o with gen := (o.gen + 1) % 16, owed := o.quota, inbound := 0 }) ∧
  (¬(o.owed = 1 ∧ o.inbound + inb = 0) →
    tbarrNext o inb = { o with owed := o.owed - 1, inbound := o.inbound + inb })

/-- The crew waits with instruction `i`: its PCs stand at it (R31). -/
abbrev waitingAt (s : State) (e : Env) (i : Instr) : Crew :=
  { e.cw with wait := .waiting i e.ipc e.act e.part, lastIssue := s.steps + 1 }

/-- R235, R238: TBINIT enters the store queue; TBARR too, and its crew waits for its ticket; TBWAIT completes when GEN
has left its ticket's value with no fault, and otherwise its crew waits. Leaving a TBWAIT orders the crew after the jobs that
the arrivals of its generation came after (a reading, log 91). -/
def Claim.BarrierInstructions : Prop := ∀ (x : XOps) (s : State) (e : Env), e.part ≠ 0 →
  fits e 16 (fun _ => (e.cw.rs x.a).toNat) →
  (Ready s (.tbinit x) e → exec (.tbinit x) s = .next (movedOn s e e.blk
    { e.advance s e.cw with queue := e.cw.queue ++ [.tbinit e.cw.issues (e.cw.rs x.a).toNat (uniB e x) e.ipc e.act] })) ∧
  (Ready s (.tbarr x) e → e.cw.queue = [] → exec (.tbarr x) s = .next (s.setBlock e.b (e.blk.setCrew e.c
    { waitingAt s e (.tbarr x) with
      queue := [.tbarr (e.cw.rs x.a).toNat x.d (if x.q then uniB e x else 0) e.ipc e.act] }))) ∧
  (Ready s (.tbwait x) e → onlyStores e →
    let o := tbarOf (crewRead e.blk e.cw (e.cw.rs x.a).toNat 16)
    let s' := s.setBlock e.b (e.blk.setCrew e.c (waitingAt s e (.tbwait x)))
    o.malformed = false →
    (o.gen = uniB e x % 16 → exec (.tbwait x) s = .next s') ∧
    (o.gen ≠ uniB e x % 16 → o.fault = 0 → exec (.tbwait x) s = .next
      ((s'.seeJobs e.b e.c (e.cw.rs x.a).toNat (uniB e x % 16)).resume e.b e.c (.tbwait x) e.ipc e.act [])))

/-- The crew `c` of block `b` waits with instruction `i` at `pc`, its block free of errors and its context LIVE. -/
structure WaitsWith (s : State) (b c : Nat) (x : Block) (w : Crew) (i : Instr) (pc act part : Word) : Prop where
  block : s.block b = some x
  crew : look x.crews c = some w
  clean : x.errs = []
  wait : w.wait = .waiting i pc act part
  live : (s.ctx x.slot).state = .live

/-- R238, R242, R246: a waiting TBWAIT, SRPUT or SRGET completes once its condition holds. -/
def Claim.WaitsEnd : Prop := ∀ (s : State) (b c : Nat) (x : Block) (w : Crew) (y : XOps) (pc act part : Word),
  (WaitsWith s b c x w (.tbwait y) pc act part →
    let o := tbarOf (crewRead x w (w.rs y.a).toNat 16)
    let ticket := if y.k then y.imm else (w.rs y.b).toNat
    o.malformed = false → o.gen ≠ ticket % 16 → o.fault = 0 →
    exec (.tbwaitComplete b c) s = .next
      ((s.seeJobs b c (w.rs y.a).toNat (ticket % 16)).resume b c (.tbwait y) pc act [])) ∧
  (WaitsWith s b c x w (.srput y) pc act part → w.queue = [] →
    ∀ r v, ringAct x (w.rs y.a).toNat ringPut = .done r v →
    exec (.srputWake b c) s = .next
      ((s.setBlock b { x with share := writeBytes x.share (w.rs y.a).toNat (natToBytes 32 r.bits) }).resume b c
        (.srput y) pc act [.s y.d (BitVec.ofNat 32 v)])) ∧
  (WaitsWith s b c x w (.srget y) pc act part → w.queue = [] →
    ∀ r v, ringAct x (w.rs y.a).toNat ringGet = .done r v →
    exec (.srgetWake b c) s = .next
      ((s.setBlock b { x with share := writeBytes x.share (w.rs y.a).toNat (natToBytes 32 r.bits) }).resume b c
        (.srget y) pc act [.s y.d (BitVec.ofNat 32 v)]))

/-- R233, R241, R242: SRPUT and SRGET take their step at once when they stand at the head of the store queue and the descriptor
allows it, and otherwise their crew waits; SRPUT.COMMIT and SRREL enter the queue and their crew goes on; a malformed
descriptor raises 0x17 with reason 1.
That one at the head is performed in its issue step is a reading (log 34). -/
def Obligations.RingInstructions : Prop := ∀ (x : XOps) (s : State) (e : Env), e.part ≠ 0 → onlyStores e →
  fits e 32 (fun _ => (e.cw.rs x.a).toNat) →
  let a := (e.cw.rs x.a).toNat
  let bad : Bool := (ringOf (crewRead e.blk e.cw a 32)).malformed e.blk.r.lmem
  let waits (i : Instr) (d : Nat) (f : Ring → RingAct) : Prop :=
    Ready s i e →
    let s' := s.setBlock e.b (e.blk.setCrew e.c (waitingAt s e i))
    (bad = true → exec i s = .next (s.raiseAt e 0x17 1 e.act)) ∧
    (bad = false → e.cw.queue ≠ [] → exec i s = .next s') ∧
    (bad = false → e.cw.queue = [] → exec i s = .next (match ringAct e.blk a f with
      | .done r v => (s.setBlock e.b { e.blk.setCrew e.c (waitingAt s e i) with
          share := writeBytes e.blk.share a (natToBytes 32 r.bits) }).resume e.b e.c i e.ipc e.act
            [.s d (BitVec.ofNat 32 v)]
      | .wait => s'
      | .fail k => s'.failWait e.b e.c i e.ipc e.act 0x17 k))
  let queues (i : Instr) (v : Nat) : Prop :=
    Ready s i e → exec i s = .next (if bad then s.raiseAt e 0x17 1 e.act
      else movedOn s e e.blk { e.advance s e.cw with
        queue := e.cw.queue ++ [.ring e.cw.issues i a v e.ipc e.act] })
  waits (.srput x) x.d ringPut ∧ waits (.srget x) x.d ringGet ∧
  queues (.srputCommit x) (e.cw.rs x.b).toNat ∧ queues (.srrel x) 0

/-- R240, R242: what a put, a commit, a get and a release do to a well-formed ring of free and committed slots, and which
descriptors are malformed. -/
def Claim.RingRules : Prop := (∀ (r : Ring), r.head < r.nslot → r.tail < r.nslot →
  (r.count = r.nslot → ringPut r = .wait) ∧
  (r.count < r.nslot → ∃ r', ringPut r = .done r' (r.sbase + r.head * r.ssize + 2 ^ 24 * r.head) ∧
    r'.count = r.count + 1 ∧ r'.nget = r.nget + 1 ∧ r'.head = (r.head + 1) % r.nslot ∧ r'.tail = r.tail ∧
    r'.phb = r.phb ∧ r'.gph = r.gph ∧ bitOf r'.opn r.head = true) ∧
  (∀ v, bitsOf v 24 5 ≥ r.nslot ∨ bitOf r.opn (bitsOf v 24 5) = false → ringCommit r v = .fail 2) ∧
  (∀ v, bitsOf v 24 5 < r.nslot → bitOf r.opn (bitsOf v 24 5) = true →
    ∃ r', ringCommit r v = .done r' 0 ∧ bitOf r'.opn (bitsOf v 24 5) = false ∧
      r'.phb = r.phb ^^^ 2 ^ bitsOf v 24 5 ∧ r'.count = r.count ∧ r'.nget = r.nget) ∧
  (r.nget = 0 ∨ bitsOf r.phb r.tail 1 = r.gph → ringGet r = .wait) ∧
  (r.nget ≠ 0 → bitsOf r.phb r.tail 1 ≠ r.gph →
    ∃ r', ringGet r = .done r' (r.sbase + r.tail * r.ssize + 2 ^ 24 * r.tail) ∧ r'.nget = r.nget - 1 ∧
      r'.count = r.count ∧ r'.tail = (r.tail + 1) % r.nslot ∧ r'.head = r.head ∧ r'.phb = r.phb ∧
      r'.gph = if r.tail + 1 = r.nslot then 1 - r.gph else r.gph) ∧
  (r.count = r.nget → ringRel r = .fail 3) ∧
  (r.count ≠ r.nget → ringRel r = .done { r with count := r.count - 1 } 0)) ∧
  (∀ (r : Ring) (lmem : Nat), r.malformed lmem = true ↔
    r.rsv ≠ 0 ∨ r.ssize = 0 ∨ r.ssize % 16 ≠ 0 ∨ r.sbase % 16 ≠ 0 ∨ lmem < r.sbase + r.nslot * r.ssize ∨
    r.nslot ≤ r.head ∨ r.nslot ≤ r.tail ∨ r.nslot < r.count ∨ r.count < r.nget ∨ 2 ^ r.nslot ≤ r.phb ∨
    2 ^ r.nslot ≤ r.opn) ∧
  (∀ (x : Block) (a : Nat) (f : Ring → RingAct), (ringOf (readLE x.share a 32)).malformed x.r.lmem = true →
    ringAct x a f = .fail 1)

/-- R236, R237, R242: what an arrival does to a barrier object, and what a put, a commit, a get and a release do to a ring. -/
def Obligations.SyncObjectRules : Prop := Claim.BarrierTurnover ∧ Claim.RingRules

/-- R245, R246: JOIN and LEAVE change the members of a valid team slot; BAR and BAR.BLK add the crew to an arrival set
and the crew waits; a slot that is not valid raises 0x16 with reason 1, a crew that is no member with reason 2. -/
def Claim.TeamInstructions : Prop := ∀ (x : XOps) (s : State) (e : Env), e.part ≠ 0 →
  let t := e.blk.team x.v
  let arrived (i : Instr) (k : Nat) : State :=
    s.setBlock e.b { e.blk.setCrew e.c (waitingAt s e i) with
      arrive := setAt 0 e.blk.arrive k (e.blk.arrived k ||| (1#64 <<< e.c)) }
  (Ready s (.join x) e → exec (.join x) s = .next
    (if t.valid then movedOn s e (e.blk.setMembers x.v fun m => m ||| (1#64 <<< e.c)) (e.advance s e.cw)
     else s.raiseAt e 0x16 1 e.act)) ∧
  (Ready s (.leave x) e → exec (.leave x) s = .next
    (if t.valid = false then s.raiseAt e 0x16 1 e.act
     else if t.members.getLsbD e.c then
      movedOn s e (e.blk.setMembers x.v fun m => m &&& ~~~(1#64 <<< e.c)) (e.advance s e.cw)
     else s.raiseAt e 0x16 2 e.act)) ∧
  (Ready s (.bar x) e → e.cw.queue = [] → exec (.bar x) s = .next
    (if t.members.getLsbD e.c then arrived (.bar x) x.v else s.raiseAt e 0x16 2 e.act)) ∧
  (Ready s (.barBlk x) e → e.cw.queue = [] → exec (.barBlk x) s = .next (arrived (.barBlk x) 8))

/-- R235, R238, R245, R246: the instructions of barrier objects and of teams. -/
def Obligations.BarrierAndTeamInstructions : Prop := Claim.BarrierInstructions ∧ Claim.TeamInstructions

/-- R246: a barrier opens exactly when its arrival set is not empty and holds every crew it needs; the set is then empty
and every crew that waited in it with BAR or BAR.BLK, unmarked, stands ready after it.
The crews that it joins come after the jobs that any of them came after (log 91). -/
def Claim.BarrierOpens : Prop := ∀ (s : State) (b k : Nat) (x : Block), s.block b = some x →
  ((∃ t, exec (.barrierRelease b k) s = .next t) ↔
    k ≤ 8 ∧ x.arrived k ≠ 0 ∧ x.needed k &&& ~~~(x.arrived k) = 0) ∧
  (∀ t, exec (.barrierRelease b k) s = .next t → ∃ y, t.block b = some y ∧ y.arrived k = 0 ∧ y.share = x.share ∧
    ((s.ctx x.slot).state = .live → ∀ c w i pc act part, c < 64 → (x.arrived k).getLsbD c = true →
      look x.crews c = some w → w.wait = .waiting i pc act part →
      (∃ z : XOps, (i = .bar z ∨ i = .barBlk z) ∧ z.h.s = false) →
      ∃ w', look y.crews c = some w' ∧ w'.wait = .ready ∧ w'.v = w.v ∧ w'.m = w.m ∧ w'.s = w.s ∧ w'.p = w.p ∧
        ∀ l, act.getLsbD l = true → w.live.getLsbD l = true → l < 32 → w'.pcOf l = pc + 8))

/-- R238, R242, R246: what ends the wait at a barrier object, at a ring and at a team barrier. -/
def Obligations.WaitsAndBarriersEnd : Prop := Claim.WaitsEnd ∧ Claim.BarrierOpens

/-! ### Layouts, fences, the streamer and far memory -/

/-- What the state is once a read made for a crew at issue has succeeded: its completed host requests are gone. -/
abbrev served (s : State) (e : Env) : State := s.forget (crewOwner e.b e.c)

/-- R189 to R193, R249, R250: LAYOUT writes the swizzled address of the element that a lane's indices name, or raises 0x1A
for an invalid layout; RCFENCE drops the core's cached records of the context's ASID. -/
def Claim.LayoutInstructions : Prop := ∀ (x : XOps) (s : State) (e : Env),
  (Ready s (.layout x) e → ∀ s1 l, s.layoutOf e.blk (e.cw.group x.b) (crewOwner e.b e.c) = .ok s1 l →
    exec (.layout x) s = .next (match l with
      | some l => settled (served s1 e) (e.refresh (served s1 e))
        (written false e.part fun k => [.v x.d k (BitVec.ofNat 32 (layoutResult e.cw l x.a k))]) 0 false
      | none => (served s1 e).raiseAt e 0x1A 0 e.act)) ∧
  (Ready s (.rcfence x) e → e.part ≠ 0 → e.cw.queue = [] → ∃ s1,
    exec (.rcfence x) s = .next (settled s1 e [] 0 false) ∧ s1 = { s with records := s1.records } ∧
    ∀ r, r ∈ s1.records ↔ r ∈ s.records ∧ ¬(r.1 = e.blk.coreNo ∧ r.2.1 = (s.ctx e.blk.slot).asid))

/-- R189: the swizzle permutes the offsets of each 256-byte group, so that two elements never share an address. -/
def Claim.SwizzleIsInjective : Prop := ∀ m o o', m < 16 → swizzle m o = swizzle m o' → o = o'

/-- The dirty bytes of the context set out for a release at scope `v` of package or wider (R408). -/
abbrev sentOut (s : State) (x : Block) (v : Nat) : State :=
  if 6 ≤ v then s.writeThrough x.die (s.ctx x.slot).asid else s
/-- The copies of the context's DC lines are gone for an acquire at scope `v` of package or wider (R409). -/
abbrev freshened (s : State) (x : Block) (v : Nat) : State :=
  if 6 ≤ v then s.selfInvalidate x.die (s.ctx x.slot).asid else s
/-- What a release waits for is done: the crew's global writes, at NODE scope or wider its sends (R458), and at package scope or
wider the acknowledgements of the bytes that set out (R408). -/
abbrev releaseDone (s : State) (x : Block) (b c v : Nat) : Prop :=
  s.writesOut b c = false ∧ (9 ≤ v → s.sendsOut b c = false) ∧
  (6 ≤ v → (sentOut s x v).allAcked x.die (s.ctx x.slot).asid = true)
/-- Crew `w`, which waits in state `t` with an instruction that releases, goes on in state `r`: of the faults that it holds the one
of the command issued first is raised after the instruction, and the others are discarded (R395). -/
abbrev releaseEnds (t : State) (b c : Nat) (i : Instr) (w : Crew) (pc act : Word) (r : State) : Prop :=
  (w.hfaults = [] → r = t.resume b c i pc act []) ∧
  (∀ before f after, w.hfaults = before ++ f :: after → (∀ g ∈ before, f.order < g.order) →
    (∀ g ∈ after, f.order ≤ g.order) → let next := pc + BitVec.ofNat 32 (lenOf i)
    r = (t.setCrew b c { w.setPcs act (fun _ => next) with hfaults := [], wait := .ready, issues := w.issues + 1 }).raise b c
      { f.trap with pc := next, lanes := 0, next := next })

/-- R248, R378, R395, R408, R409, R458: a fence that acquires completes once the crew's reads are done, one that releases once
its writes are; at package scope or wider the dirty bytes of the context set out and are awaited, and an acquire drops its DC
lines. A release orders what the crew has written before what it reads later (log 98) and raises the held fault of the
command issued first. Where something is outstanding the crew waits. -/
def Claim.FenceCompletes : Prop := ∀ (x : XOps) (s : State) (e : Env), Ready s (.fence x) e → e.part ≠ 0 →
  x.d < 3 → x.v < 12 → e.cw.queue = [] →
  let w := waitingAt s e (.fence x)
  let s' := s.setBlock e.b (e.blk.setCrew e.c w)
  let sent := sentOut s' e.blk x.v
  (x.d = 0 → exec (.fence x) s = .next (if s.readsOut e.b e.c then s'
    else (freshened s' e.blk x.v).resume e.b e.c (.fence x) e.ipc e.act [])) ∧
  (x.d ≠ 0 → s.writesOut e.b e.c = true ∨ (9 ≤ x.v ∧ s.sendsOut e.b e.c = true) → exec (.fence x) s = .next s') ∧
  (x.d ≠ 0 → s.writesOut e.b e.c = false → (9 ≤ x.v → s.sendsOut e.b e.c = false) → 6 ≤ x.v →
    sent.allAcked e.blk.die (s.ctx e.blk.slot).asid = false → exec (.fence x) s = .next sent) ∧
  (x.d ≠ 0 → releaseDone s' e.blk e.b e.c x.v →
    let t := sent.noOlds e.b e.c
    (x.d = 1 → ∃ r, exec (.fence x) s = .next r ∧ releaseEnds t e.b e.c (.fence x) w e.ipc e.act r) ∧
    (x.d = 2 → s.readsOut e.b e.c = true → exec (.fence x) s = .next t) ∧
    (x.d = 2 → s.readsOut e.b e.c = false → ∃ r, exec (.fence x) s = .next r ∧
      releaseEnds (freshened t e.blk x.v) e.b e.c (.fence x) w e.ipc e.act r))

/-- R189 to R193, R248 to R250, R378, R395, R408, R409, R458: LAYOUT and its swizzle, RCFENCE and FENCE at every scope. -/
def Obligations.LayoutsAndFences : Prop := Claim.LayoutInstructions ∧ Claim.SwizzleIsInjective ∧ Claim.FenceCompletes

/-- The streamer's copy commands with their kinds and the register of the token (R386). -/
def copyCommands (x : StreamOps) : List (Instr × CopyKind × Option Nat) :=
  [(.cpg x, .cpg, none), (.cps x, .cps, some x.d), (.cphIn x, .cphIn, none), (.cphOut x, .cphOut, some x.d)]

/-- R385 to R389, R394: a copy command that passes its checks enters the streamer with its operands as read at issue;
CPS and CPH.OUT give their crew a fresh token, pending, or raise 0x45 with reason 2 where it is still live; an invalid layout
raises 0x1A, and a command that fails a check 0x44 with its reason; where the streamer of the core is full the command waits.
The order of the checks, and a follow-on record that decodes to nothing, are readings (logs 44, 43). -/
def Claim.CopyCommands : Prop := ∀ (x : StreamOps) (s : State) (e : Env) (i : Instr) (kind : CopyKind)
    (d : Option Nat), (i, kind, d) ∈ copyCommands x → Ready s i e → e.part ≠ 0 → e.cw.queue = [] →
  (64 ≤ coreLoad s e.blk → exec i s = .next s) ∧
  (coreLoad s e.blk < 64 → ∀ s1, s.layoutOf e.blk (e.cw.group x.b) (crewOwner e.b e.c) = .ok s1 none →
    exec i s = .next ((served s1 e).raiseAt e 0x1A 0 e.act)) ∧
  (coreLoad s e.blk < 64 →
  ∀ s1 l, s.layoutOf e.blk (e.cw.group x.b) (crewOwner e.b e.c) = .ok s1 (some l) →
  let s2 := served s1 e
  let e2 := e.refresh s2
  let k := copyOf e2 x kind l
  let m := (e2.cw.rs x.m).toNat
  let fo := if x.mx then followOf e2.blk e2.c e2.cw.issues m (readBytes e2.blk.share m 48) else none
  let s3 : State := { s2 with fresh := s2.fresh + 1 }
  e2.blk.errs = [] →
  (∀ r, copyReason e2.blk k (x.mx && (fo.isNone || decide (e2.blk.r.lmem < m + 48))) = some r →
    exec i s = .next (s2.raiseAt e2 0x44 r e2.act)) ∧
  (copyReason e2.blk k (x.mx && (fo.isNone || decide (e2.blk.r.lmem < m + 48))) = none →
    (d = none → exec i s = .next
      (settled { s3 with copies := put s2.copies s2.fresh { k with follow := fo } } e2 [] 0 false)) ∧
    (∀ r t, d = some r → s2.liveToken e2.b e2.c (nextToken e2) = some t →
      exec i s = .next (s3.raiseAt e2 0x45 2 e2.act)) ∧
    (∀ r, d = some r → s2.liveToken e2.b e2.c (nextToken e2) = none → exec i s = .next
      (movedOn { s3 with
          copies := put s2.copies s2.fresh { k with follow := fo, token := some (nextToken e2) },
          tokens := s2.tokens ++ [⟨e2.b, e2.c, nextToken e2, false, none⟩] } e2 e2.blk
        { ((e2.advance s2 e2.cw).write [.s r (BitVec.ofNat 32 (nextToken e2))]).setPending (.s r) with
          tokc := (e2.cw.tokc + 1) % 1024 }))))

/-- A crew has ended a CWAIT, its token gone, and raises the fault that the token held after the instruction (R394). -/
abbrev faultAfter (s : State) (e : Env) (w : Crew) (f : Trap) : State :=
  (s.setCrew e.b e.c { w.setPcs e.act (fun _ => e.next) with wait := .ready, issues := w.issues + 1 }).raise e.b e.c
    { f with pc := e.next, lanes := 0, next := e.next }

/-- R394 to R396: CTOK reads the state of a live token and does not wait, CWAIT ends at once for a completed command, raising
the fault that the token holds, and otherwise waits; either raises 0x45 for a dead token; PREF asks for the lines of its range
and raises 0x44 for a length of 0 or above 2^30 bytes. -/
def Claim.TokenInstructions : Prop := ∀ (x : StreamOps) (s : State) (e : Env), e.part ≠ 0 →
  (Ready s (.ctok x) e → ∀ t, s.liveToken e.b e.c (e.cw.rs x.a).toNat = some t →
    exec (.ctok x) s = .next (movedOn s e e.blk
      (((e.advance s e.cw).write [.s x.d (BitVec.ofNat 32 (match t.done, t.fault with
        | false, _ => 0
        | true, none => 1
        | true, some f => 1 + 256 * errCode f.code))]).setPending (.s x.d)))) ∧
  (Ready s (.cwait x) e → ∀ t, s.liveToken e.b e.c (e.cw.rs x.a).toNat = some t →
    let s' := s.setBlock e.b (e.blk.setCrew e.c (waitingAt s e (.cwait x)))
    let gone : State :=
      { s' with tokens := s.tokens.filter (fun k => !(k.blk = e.b && k.crew = e.c && k.tok = t.tok)),
                olds := s.olds.filter fun o => !(o.blk = e.b && o.crew = e.c && o.tok = t.tok) }
    exec (.cwait x) s = .next (match t.done, t.fault with
      | false, _ => s'
      | true, none => gone.resume e.b e.c (.cwait x) e.ipc e.act []
      | true, some f => faultAfter gone e (waitingAt s e (.cwait x)) f)) ∧
  (∀ i ∈ [Instr.ctok x, .cwait x], Ready s i e → s.liveToken e.b e.c (e.cw.rs x.a).toNat = none →
    exec i s = .next (s.raiseAt e 0x45 1 e.act)) ∧
  (Ready s (.pref x) e → e.blk.r.res = false → exec (.pref x) s = .next (s.raiseAt e 0x44 1 e.act)) ∧
  (Ready s (.pref x) e → e.blk.r.res = true → (e.cw.rs x.b).toNat = 0 ∨ 2 ^ 30 < (e.cw.rs x.b).toNat →
    exec (.pref x) s = .next (s.raiseAt e 0x44 8 e.act)) ∧
  (Ready s (.pref x) e → e.blk.r.res = true → (e.cw.rs x.b).toNat ≠ 0 → (e.cw.rs x.b).toNat ≤ 2 ^ 30 →
    64 ≤ coreLoad s e.blk → exec (.pref x) s = .next s) ∧
  (Ready s (.pref x) e → e.blk.r.res = true → (e.cw.rs x.b).toNat ≠ 0 → (e.cw.rs x.b).toNat ≤ 2 ^ 30 →
    coreLoad s e.blk < 64 →
    let va := e.cw.rs2 x.a
    let last := va + (e.cw.rs x.b).toNat - 1
    let d := s.die e.blk.die
    exec (.pref x) s = .next (settled ({ s with fresh := s.fresh + 1 }.setDie e.blk.die
      { d with misses := put d.misses s.fresh ⟨e.blk.slot, e.blk.coreNo, va / 128, last / 128 + 1 - va / 128, false⟩ }) e [] 0 false))

/-- R385 to R389, R394, R396: the commands of the streamer and their tokens. The order of the checks, the state of the next token
among them, and a follow-on record that decodes to nothing, are readings (logs 44, 43). -/
def Obligations.StreamerCommands : Prop := Claim.CopyCommands ∧ Claim.TokenInstructions

/-- R402 to R405, R399, R380: FATOM sends one operation for each lane of P(c), FWAIT and PUBL make their crew wait, L2LCK
hands over its range with its result outstanding, L2ULK unlocks the lines it may and holds the fault of the others (log 30);
every one raises 0x44 with reason 1 in a block that is not resident. In a deterministic grid FADD raises 0x15, and an
operation that reads back, XCHG or CAS on a location of a chained region is held for the blocks of lower index.
The order of the checks, and L2ULK passing over such lines, are readings (logs 85, 30). -/
def Obligations.FarInstructions : Prop := ∀ (x : FarOps) (s : State) (e : Env), e.part ≠ 0 →
  (∀ i ∈ [Instr.fatom x, .fwait x, .l2lck x, .l2ulk x, .publ x], Ready s i e → e.blk.r.res = false →
    exec i s = .next (s.raiseAt e 0x44 1 e.act)) ∧
  (e.blk.r.res = true →
    let sent (s1 : State) (fs : List Far) : State := if x.ret then
        finishIssue ((defer (served s1 e) (e.refresh (served s1 e)) (.fatom x) {} false).addFars fs)
          (e.refresh (served s1 e))
      else settled ((served s1 e).addFars fs) (e.refresh (served s1 e)) [] 0 false
    (Ready s (.fatom x) e → x.op = 8 → e.blk.r.det = true → exec (.fatom x) s = .next (s.raiseAt e 0x15 0 e.part)) ∧
    (Ready s (.fatom x) e → ¬(x.op = 8 ∧ e.blk.r.det = true) → farBad e x ≠ 0 →
      exec (.fatom x) s = .next (s.raiseAt e 0x44 5 (farBad e x))) ∧
    (Ready s (.fatom x) e → e.blk.r.det = false → farBad e x = 0 →
      exec (.fatom x) s = .next (sent s ((formLanes x.y e.part).map fun l => farOf e x l []))) ∧
    (Ready s (.fatom x) e → e.blk.r.det = true → x.op ≠ 8 → farBad e x = 0 →
      ∀ s1 fs, farAll e x (farLanes e x) s = .ok s1 fs →
      exec (.fatom x) s = .next (sent s1 fs) ∧ fs.map (·.lane) = formLanes x.y e.part ∧
      ∀ f ∈ fs, (f.hold = (!f.regions.isEmpty && (x.ret || x.op = 6 || x.op = 7))) ∧
        ∀ j ∈ f.regions, ∃ r, e.blk.r.regions[j]? = some r ∧ r.chain = true) ∧
    (Ready s (.fwait x) e → exec (.fwait x) s = .next (if e.cw.rs2 x.a % farBytes x.t = 0 then
      s.setBlock e.b (e.blk.setCrew e.c (waitingAt s e (.fwait x))) else s.raiseAt e 0x44 5 e.act)) ∧
    (∀ i ∈ [Instr.l2lck x, .l2ulk x], Ready s i e → ∀ r, lockReason (e.cw.rs2 x.a) (e.cw.rs x.b).toNat = some r →
      exec i s = .next (s.raiseAt e 0xA7 r e.act)) ∧
    (Ready s (.l2lck x) e → lockReason (e.cw.rs2 x.a) (e.cw.rs x.b).toNat = none →
      let w := e.advance s e.cw
      let p : Pend := { order := e.cw.issues, ready := false }
      let w1 := { w with outs := w.outs ++ [p] }.setPending (.s x.d)
      exec (.l2lck x) s = .next (movedOn s e e.blk { w1 with
        jobs := w1.jobs ++ [⟨.l2lck x, e.ipc, e.act, e.part, e.cw.issues, s.steps, none⟩] })) ∧
    (Ready s (.l2ulk x) e → lockReason (e.cw.rs2 x.a) (e.cw.rs x.b).toNat = none →
      ∀ s1 ps f, unlockable { accOf e.blk (crewOwner e.b e.c) with use := .forbid }
        (linesFrom (e.cw.rs2 x.a) (e.cw.rs x.b).toNat) s = .ok s1 (ps, f) →
      let late : List Late := f.toList.map fun t => ⟨e.cw.issues, { t with pc := 0, lanes := 0 }⟩
      exec (.l2ulk x) s = .next (settled (unlockLines s1 (s1.ctx e.blk.slot).asid ps)
        { e with cw := { e.cw with hfaults := e.cw.hfaults ++ late } } [] 0 false)) ∧
    (Ready s (.publ x) e → onlyStores e → ∀ r, publReason e.blk e.cw (e.cw.rs x.a).toNat (e.cw.rs x.b).toNat = some r →
      exec (.publ x) s = .next (s.raiseAt e 0xA6 r e.act)) ∧
    (Ready s (.publ x) e → onlyStores e → publReason e.blk e.cw (e.cw.rs x.a).toNat (e.cw.rs x.b).toNat = none →
      exec (.publ x) s = .next (s.setBlock e.b (e.blk.setCrew e.c { waitingAt s e (.publ x) with
        publ := publList e.blk e.cw (e.cw.rs x.a).toNat (e.cw.rs x.b).toNat }))))

/-- R237, R242, R390, R391: what a chunk and the end of a copy do in a block that stores no error. The elements that a chunk
has read are written to the share one after another, and its bytes are subtracted from the barrier of SYNC 1, modulo 2^48 (log 104); a copy that
ends commits the slot of SYNC 2, completes its token, and leaves the streamer. -/
def Claim.StreamerLaws : Prop := ∀ (s : State) (b : Nat) (x : Block), s.block b = some x → x.errs = [] →
  (∀ (k : Copy) es bs, k.lay.ew ≠ 0 → es ≠ [] →
    let w := ewBytes k.lay.ew
    copyIn b k es bs s = s.setBlock b { x with
      share := ((List.range es.length).zip es).foldl
        (fun m p => writeBytes m (k.localAddr p.2) ((bs.drop (w * p.1)).take w)) x.share }) ∧
  (∀ a n, s.debit b a n = s.setBlock b { x with share := writeBytes x.share a (natToBytes 16
    (if (x.tbar a).owed = 0 ∧ (x.tbar a).inbound - n = 0 then
      { x.tbar a with gen := ((x.tbar a).gen + 1) % 16, owed := (x.tbar a).quota, inbound := 0 }
     else { x.tbar a with inbound := (x.tbar a).inbound - n } : TBar).bits) }) ∧
  (∀ (key : Nat) (k : Copy) a, k.inbound = true → ∀ s1 ps a1 s2 bs,
    readyAll (k.pieces k.chunks fun _ => []) s (k.acc x key) = .ok s1 (ps, a1, true) →
    readParts a1 ps s1 = .ok s2 bs → a = a1 → (∀ o ∈ s2.olds, ¬(o.blk = k.blk ∧ o.crew = k.crew)) →
    let s3 := copyIn k.blk k (k.chunkElems k.chunks) bs (s2.forget a1.owner)
    moveChunk s x key k = .ok (if k.sync = 1 then s3.debit k.blk k.obj (k.chunkBytes k.chunks) else s3) a) ∧
  (∀ (key : Nat) (k : Copy), k.blk = b → k.follow = none →
    let gone (s1 : State) : State := { s1.forget (2 * key) with copies := dropAt s1.copies key }
    let done (s1 : State) : State := match k.token with
      | some tok => s1.endToken b k.crew tok none
      | none => s1
    (k.sync ≠ 2 → endCopy s key k = .ok (gone (done s)) ()) ∧
    (k.sync = 2 → ∀ r v, ringAct x k.obj (fun r => ringCommit r k.slotw) = .done r v →
      endCopy s key k = .ok (gone (done (s.setBlock b { x with
        share := writeBytes x.share k.obj (natToBytes 32 r.bits) }))) ()) ∧
    (k.sync = 2 → ∀ n, ringAct x k.obj (fun r => ringCommit r k.slotw) = .fail n →
      endCopy s key k = .ok (gone (copyFault s k { code := 0x17, info := 2 })) ()))

/-- R382, R385, R390, R394, R395, R398: the streamer takes a chunk of the copy that R385 names; a chunk that it has taken
moves, a fault stops the copy, and one that is context-fatal ends the context; a copy whose chunks have all moved ends, and
a crew that waits for its token goes on. A chunk is one step (logs 46, 49). -/
def Claim.StreamerEvents : Prop := ∀ (s : State) (b c k : Nat) (x : Block), s.block b = some x →
  (s.ctx x.slot).state = .live →
  (∀ q, look s.copies k = some q → q.blk = b → q.taken = false → nextCopy s x = some k →
    exec (.streamerChunk b k) s = .next { s with copies := put s.copies k { q with taken := true } }) ∧
  (∀ q, look s.copies k = some q → q.blk = b → q.taken = true → (x.phase = .running ∨ ∃ d, x.phase = .saving d) →
    (∀ a s1, moveChunk s x k q = .ok s1 a →
      let q' : Copy := { q with sides := a.sides }
      exec (.streamerChunk b k) s = .next { copyLast s1 x q' (q'.lastLines q'.chunks) with
        copies := put s1.copies k { q' with chunks := q.chunks + 1, taken := false } }) ∧
    (∀ s1 t, moveChunk s x k q = .fail s1 t → exec (.streamerChunk b k) s = .next
      (if errCode t.code = 0 then s1.fatalBlock b q.crew 0 t
       else { copyLast s1 x q (q.halfRead q.chunks) with
         copies := put s1.copies k { q with err := some t, taken := false } }))) ∧
  (∀ q s1, look s.copies k = some q → q.blk = b → x.phase = .running → q.err = none → q.total ≤ q.chunks →
    endCopy s k q = .ok s1 () → exec (.streamerCopyComplete b k) s = .next s1 ∧ look s1.copies k = none) ∧
  (∀ q t, look s.copies k = some q → q.blk = b → x.phase = .running → q.err = some t → q.sync ≠ 2 →
    exec (.streamerCopyComplete b k) s = .next (copyFault { s with copies := dropAt s.copies k } q t)) ∧
  (∀ w y pc act part t, look x.crews c = some w → w.wait = .waiting (.cwait y) pc act part →
    s.liveToken b c (w.rs y.a).toNat = some t → t.done = true → t.fault = none →
    exec (.cwaitComplete b c) s = .next
      ({ s with tokens := s.tokens.filter (fun k => !(k.blk = b && k.crew = c && k.tok = t.tok)),
                olds := s.olds.filter fun o => !(o.blk = b && o.crew = c && o.tok = t.tok) }.resume b c
        (.cwait y) pc act []))

/-- R375, R377, R378, R380, R381, R395, R399, R400, R403 to R405: what the events of far memory do when the access that they
make succeeds: a far atomic is performed and returns, a held one is let go once the chain is open, FWAIT ends when its
condition holds, a lock writes its status, a publication flips the bits that its list named at its issue, in one step (log 49),
and a fence ends, raising the first fault that its crew holds where it releases. -/
def Claim.FarEvents : Prop := ∀ (s : State) (b c k : Nat) (x : Block), s.block b = some x →
  (s.ctx x.slot).state = .live →
  (∀ f s1 old, look s.fars k = some f → f.blk = b → f.crew = c → f.hold = false → farBehind s k f = false →
    s.gatomic (farAcc x k f) f.va (farBytes f.t) f.op f.b f.c (fun old => (farOp f old).1) = .ok s1 old →
    exec (.farAtomicPerform b c k) s = .next
      (farReturn { s1.forget (2 * k) with fars := dropAt s1.fars k } f old (farOp f old).2)) ∧
  (∀ f, look s.fars k = some f → f.blk = b → f.crew = c → f.hold = true → chainOpen s x f.regions = true →
    exec (.chainedAtomicRelease b c k) s = .next { s with fars := put s.fars k { f with hold := false } }) ∧
  (∀ w y pc act part s1 bs a, look x.crews c = some w → w.wait = .waiting (.fwait y) pc act part →
    s.gread { accOf x (crewOwner b c) with rd := true, pkg := true, scope := some y.scope, use := .forbid }
      (w.rs2 y.a) (farBytes y.t) = .ok s1 (bs, a) →
    farCond y.t y.cond (bytesToNat bs) (if farBytes y.t = 8 then w.rs2 y.b else (w.rs y.b).toNat) = true →
    exec (.fwaitSatisfied b c) s = .next ((s1.forget (crewOwner b c)).resume b c (.fwait y) pc act [])) ∧
  (∀ w y pc act part s1 t, look x.crews c = some w → w.wait = .waiting (.fwait y) pc act part →
    s.gread { accOf x (crewOwner b c) with rd := true, pkg := true, scope := some y.scope, use := .forbid }
      (w.rs2 y.a) (farBytes y.t) = .fail s1 t → errCode t.code ≠ 0 →
    exec (.fwaitSatisfied b c) s = .next ((s1.setCrew b c { w with
      late := earlier w.late (some ⟨w.issues, { t with pc := 0, lanes := 0 }⟩) }).resume b c (.fwait y) pc act [])) ∧
  (∀ w j y s1 ps, look x.crews c = some w → w.jobOf (· matches .l2lck _) = some j → j.i = .l2lck y →
    resolveLines { accOf x (crewOwner b c) with rd := true, use := .forbid }
      (linesFrom (w.rs2 y.a) (w.rs y.b).toNat) s = .ok s1 ps → lockStatus s1 x.slot ps ≠ 0 →
    exec (.l2lckComplete b c) s = .next
      (s1.endJob b c j fun p => { p with writes := [.s y.d (BitVec.ofNat 32 (lockStatus s1 x.slot ps))] })) ∧
  (∀ w j y s1 ps s2 s3, look x.crews c = some w → w.jobOf (· matches .l2lck _) = some j → j.i = .l2lck y →
    resolveLines { accOf x (crewOwner b c) with rd := true, use := .forbid }
      (linesFrom (w.rs2 y.a) (w.rs y.b).toNat) s = .ok s1 ps → lockStatus s1 x.slot ps = 0 →
    crossAll { accOf x (crewOwner b c) with rd := true, use := .forbid } ps s1 = .ok s2 () →
    lockLines (s.ctx x.slot).asid ps s2 = .ok s3 () →
    exec (.l2lckComplete b c) s = .next
      ((s3.forget (crewOwner b c)).endJob b c j fun p => { p with writes := [.s y.d 0] })) ∧
  (∀ w y pc act part s1 s2 pages, look x.crews c = some w → w.wait = .waiting (.publ y) pc act part →
    s.released x b c y.scope = (s1, true) → s1.block b = some x → publPages s1 x.slot w.publ = .ok s2 pages →
    (∀ p, pages.find? (fun e => !scopeOk e.cc y.scope) = some p → exec (.publFlip b c) s = .next
      (s2.resumeFault b c (.publ y) pc act { code := 0xA5, info := 1 + 16 * p.cc })) ∧
    (pages.all (fun e => scopeOk e.cc y.scope) = true → s2.block b = s.block b → ∃ r,
      exec (.publFlip b c) s = .next r ∧
      releaseEnds (s2.setCtx x.slot (flip (s2.ctx x.slot) w.publ)) b c (.publ y) w pc act r)) ∧
  (∀ w y pc act part, look x.crews c = some w → w.wait = .waiting (.fence y) pc act part → y.d = 0 → y.v < 12 →
    s.readsOut b c = false →
    exec (.fenceComplete b c) s = .next ((freshened s x y.v).resume b c (.fence y) pc act [])) ∧
  (∀ w y pc act part, look x.crews c = some w → w.wait = .waiting (.fence y) pc act part → y.d = 1 ∨ y.d = 2 → y.v < 12 →
    releaseDone s x b c y.v → (y.d = 2 → s.readsOut b c = false) →
    let t := (sentOut s x y.v).noOlds b c
    ∃ r, exec (.fenceComplete b c) s = .next r ∧
      releaseEnds (if y.d = 2 then freshened t x y.v else t) b c (.fence y) w pc act r)

/-- R237, R242, R375 to R382, R385, R390, R394, R395, R399, R400, R403 to R405: what the events of the streamer and of far
memory do when the access they make succeeds. A chunk and a publication are one step each, LAST drops each line after its last
byte, and INBOUND stands modulo 2^48, so that a debit below -2^47 wraps: the model's choices and readings (logs 46, 49, 45, 104). -/
def Obligations.StreamerAndFarEvents : Prop := Claim.StreamerLaws ∧ Claim.StreamerEvents ∧ Claim.FarEvents

/-! ### The matrix array -/

/-- The commands of the matrix queue (R206). -/
def isMatrixCommand : Instr → Bool
  | .mxw _ | .mxa _ | .mxg _ | .mxm _ | .mxtl _ | .mxts _ | .accz _ | .accld _ | .accst _ | .accdr _ | .mxprog _ => true
  | _ => false

/-- The layout of a matrix command as it is read at issue, if it has one: the state and the environment afterwards. -/
def layoutRead (s : State) (e : Env) (i : Instr) (s1 : State) (l : Option Layout) : Prop :=
  if usesLayout i then ∃ s0, s.layoutOf e.blk (e.cw.group (mxA i)) (crewOwner e.b e.c) = .ok s0 l ∧ s1 = served s0 e
  else s1 = s ∧ l = some {}

/-- R206, R207: a command enters the matrix queue with its operands as read at issue, its crew goes on (with the result
outstanding for MXPROG and for ACCDR to registers), or the first check that fails raises its cause.
The crew's store queue is empty: log 34 says how it drains. -/
def Obligations.MatrixCommands : Prop := ∀ (i : Instr) (s : State) (e : Env), isMatrixCommand i = true → Ready s i e →
  e.part ≠ 0 → e.cw.queue = [] → e.blk.mx.queue.length < 64 → ∀ s1 l, layoutRead s e i s1 l →
  let e1 := e.refresh s1
  let check := matrixCheck e1.blk i l ((mxBv e1.cw i).getD 0 0) (mxRows e1.cw i)
  let blk := e1.blk.mxEnter (mxCmd e1 i (l.getD {}))
  let s2 := s1.setBlock e1.b blk
  let e2 : Env := { e1 with blk := blk }
  e1.blk.errs = [] →
  (∀ code, check = some code → exec i s = .next (s1.raiseAt e1 code 0 e1.act)) ∧
  (check = none → exec i s = .next (if mxReturns i then finishIssue (defer s2 e2 i {} false) e2
    else settled s2 e2 [] 0 false))

/-- The head of a block's matrix queue is `q` and may take its turn: no cause is latched, the command has not failed and
nothing carries an error (R209). -/
structure Turning (s : State) (b : Nat) (x : Block) (q : MCmd) : Prop where
  block : s.block b = some x
  may : mxMayRun s x = true
  head : x.mx.queue.head? = some q
  fail : q.fail = 0
  latch : x.mx.lcause = 0
  clean : x.errs = []

/-- The scatter of a window of elements to a layout in the share. -/
abbrev scattered (s : State) (b : Nat) (l : Layout) (n0 n1 : Nat) (swap : Bool) (v : Nat → Nat → Nat) : State :=
  (pairs n0 n1).foldl (fun s p => if swap then s.putElem b l p.1 p.2 (v p.1 p.2) else s.putElem b l p.2 p.1 (v p.1 p.2)) s

/-- R212, R213, R217 to R219, R221: the head of the queue takes its turn.
The flags of a step, the reading of storage errors, the order of a scatter's writes and the zero-extension of S8 and S16 in a
register are readings (logs 42, 94, 83, 102). -/
def Obligations.MatrixTurns : Prop := ∀ (s : State) (b : Nat) (x : Block) (q : MCmd), Turning s b x q →
  let becomes (m : Matrix) : Host.Outcome State Fault Refusal := .next (s.setBlock b { x with mx := m })
  (∀ y, q.i = .mxw y → exec (.mxwTurn b) s = becomes (mxwEffect x q y)) ∧
  (∀ y mom, streamOf q.i = some (y, mom) → q.begun = false → exec (.streamCommandTurn b) s = becomes
    ((if y.zero && q.g = 0 then streamZero x.mx y mom else x.mx).setHead { q with begun := true })) ∧
  (∀ y mom, streamOf q.i = some (y, mom) → q.begun = true → exec (.streamStep b) s = becomes (streamEffect x q y mom)) ∧
  (∀ y, q.i = .mxtl y → exec (.mxtlTurn b) s = becomes (tileLoaded x q y)) ∧
  (∀ y, q.i = .mxts y → exec (.mxtsTurn b) s = .next
    ((scattered s b q.lay (y.rlen1 + 1) (256 / ewNibbles q.lay.ew) y.trans fun r j =>
      packedElem x.mx.tiles (16384 * y.tile + 128 * r) q.lay.ew j).setMx b
        (if y.rel then x.mx.relTile y.tile else x.mx).pop)) ∧
  (∀ y, q.i = .accz y → exec (.acczTurn b) s = becomes
    (if y.mode = 4 then accZero (accZero x.mx y.acc y.mode y.rel) (y.acc + 1) y.mode y.rel
     else accZero x.mx y.acc y.mode y.rel).pop) ∧
  (∀ y, q.i = .accld y → exec (.accldTurn b) s = becomes (accLoaded x q y)) ∧
  (∀ y, q.i = .accst y → exec (.accstTurn b) s = .next
    ((scattered s b q.lay (y.rlen1 + 1) (y.clen1 + 1) false fun m n => (x.mx.entry y.acc m n).toNat).setMx b
      (if y.rel then x.mx.relAcc y.acc else x.mx).pop)) ∧
  (∀ y, q.i = .accdr y →
    let sT := q.bv.getD 0 0
    exec (.accdrTurn b) s = .next
      ((if y.dst = 0 then scattered s b q.lay (y.rlen1 + 1) (y.clen1 + 1) false fun r j => (drained x y sT r j).1
        else if 2 ≤ y.dst then s.fillCrew b q.crew q.order fun p => { p with writes := drainWrites x y sT, ready := true }
        else s).setMx b (drainMatrix x y sT))) ∧
  (∀ y, q.i = .mxprog y → exec (.mxprogTurn b) s = .next
    ((s.fillCrew b q.crew q.order fun p =>
      { p with writes := [.s y.d x.mx.pcnt, .s (y.d + 1) x.mx.msw], late := none, ready := true }).setMx b
      (progMatrix x.mx y.clr)))

/-- R209, R221, R222: a follow-on command that failed latches its cause, MSW.LCAUSE, when it takes its turn; while one is
latched every command but MXPROG leaves the queue without an effect on array, tiles, accumulators, share and crews'
registers, and the latch keeps its cause; MXPROG returns PCNT and MSW with the latched cause as its late cause, clears the
latch, and with CLR the flags. -/
def Obligations.LatchedCause : Prop := ∀ (s : State) (b : Nat) (x : Block) (q : MCmd) (rest : List MCmd),
  s.block b = some x → mxMayRun s x = true → x.mx.queue = q :: rest → q.fail < 256 →
  (q.fail ≠ 0 ∨ (x.mx.lcause ≠ 0 ∧ ¬ q.i matches .mxprog _) →
    ∃ t y, exec (.latchedCommandTurn b) s = .next t ∧ t.block b = some y ∧ y.mx.queue = rest ∧ y.share = x.share ∧
      y.mx.tiles = x.mx.tiles ∧ y.mx.accs = x.mx.accs ∧ y.mx.w0 = x.mx.w0 ∧ y.mx.w1 = x.mx.w1 ∧
      y.mx.pcnt = x.mx.pcnt ∧ y.mx.lcause = (if x.mx.lcause = 0 then q.fail else x.mx.lcause) ∧
      y.mx.msw &&& 0xFFFF00FF = x.mx.msw &&& 0xFFFF00FF ∧
      ∀ c w, look x.crews c = some w → ∃ w', look y.crews c = some w' ∧ w'.v = w.v ∧ w'.s = w.s ∧ w'.p = w.p ∧
        w'.m = w.m ∧ w'.fpc = w.fpc) ∧
  (∀ i ∈ [Instr.mxwTurn b, .mxtlTurn b, .mxtsTurn b, .acczTurn b, .accldTurn b, .accstTurn b, .accdrTurn b,
      .streamCommandTurn b, .streamStep b], x.mx.lcause ≠ 0 → ∀ t, exec i s ≠ .next t) ∧
  (∀ y, q.i = .mxprog y → q.fail = 0 → ∃ m : Matrix, exec (.mxprogTurn b) s = .next
      ((s.fillCrew b q.crew q.order fun p => { p with
          writes := [.s y.d x.mx.pcnt, .s (y.d + 1) x.mx.msw], ready := true,
          late := if x.mx.lcause = 0 then none else some { code := x.mx.lcause, info := 1, lanes := 0 } }).setMx b m) ∧
    m.lcause = 0 ∧ m.pcnt = x.mx.pcnt ∧ m.queue = rest ∧ m.tiles = x.mx.tiles ∧ m.accs = x.mx.accs ∧
    m.msw = x.mx.msw &&& (if y.clr then 0xFFFF00C0 else 0xFFFF00FF))

/-- A step of MXA on its window touches no entry outside it, and every stream and slot lies in the array (R203, R210). -/
structure InArray (x : Block) (y : MxOps) : Prop where
  acc : y.acc < 4
  rows : y.mlen1 < 128
  cols : (x.mx.slot y.slot).nlen ≤ 128
/-- The flags that the entries of a window raise are ORed into MSW, and no other bit of it changes (R213, R222). -/
abbrev orsInto (x : Block) (y : MxOps) (t : Matrix) (bits : Nat → Nat → Word) : Prop :=
  ∀ k, t.msw.getLsbD k = true ↔ x.mx.msw.getLsbD k = true ∨
    ∃ m n, m < mlenOf y ∧ n < (x.mx.slot y.slot).nlen ∧ (bits m n).getLsbD k = true

/-- R55, R213, R214: each step of an integer stream adds to every entry of its window the exact sum G of its products of offset
bytes: modulo 2^64 in mode S64, modulo 2^32 in mode S32W, clamped to the signed 32-bit range in mode S32S, where a clamp sets
MSW.ISAT; a 32-bit entry stands sign-extended. No other entry and no other bit of MSW changes. -/
def Claim.IntegerEntries : Prop := ∀ (x : Block) (q : MCmd) (y : MxOps) (g : Nat), q.i = .mxa y →
  mclass y.fmt = .integer → InArray x y →
  let w := x.mx.slot y.slot
  let old (m n : Nat) : Nat := (x.mx.entry y.acc m n).toNat
  let new (m n : Nat) : Int := signedOf 64 ((gemmStep x q y g).entry y.acc m n).toNat
  let sum (m n : Nat) : Int := ((List.range (stepSize .integer)).map fun j =>
    let k := g * stepSize .integer + j
    (byteInt y.fmt (streamElem x q m k) - byteInt y.fmt y.za) * (byteInt w.fmt (w.raw k n) - byteInt w.fmt w.zw)).sum
  let exact32 (m n : Nat) : Int := signedOf 32 (old m n) + sum m n
  let clamped (m n : Nat) : Prop := x.mx.mode y.acc = 1 ∧ (exact32 m n < -2147483648 ∨ 2147483647 < exact32 m n)
  (∀ m n, m < mlenOf y → n < w.nlen →
    (x.mx.mode y.acc = 3 → new m n = signedOf 64 (wrapNat 64 (signedOf 64 (old m n) + sum m n))) ∧
    (x.mx.mode y.acc = 2 → new m n = signedOf 32 (wrapNat 32 (exact32 m n))) ∧
    (x.mx.mode y.acc = 1 → new m n = max (-2147483648) (min 2147483647 (exact32 m n)))) ∧
  (1 ≤ x.mx.mode y.acc → x.mx.mode y.acc ≤ 3 →
    (∀ k, k ≠ 5 → (gemmStep x q y g).msw.getLsbD k = x.mx.msw.getLsbD k) ∧
    ((gemmStep x q y g).msw.getLsbD 5 = true ↔ x.mx.msw.getLsbD 5 = true ∨
      ∃ m n, m < mlenOf y ∧ n < w.nlen ∧ clamped m n)) ∧
  (∀ a m n, m < 128 → n < 128 → (a ≠ y.acc ∨ mlenOf y ≤ m ∨ w.nlen ≤ n) →
    (gemmStep x q y g).entry a m n = x.mx.entry a m n)

/-- The numerator and denominator of the sum of some numbers, exact. -/
def fracSum (ps : List (Bool × Nat × Nat)) : Int × Nat :=
  ps.foldl (fun t p => (t.1 * p.2.2 + (if p.1 then -(p.2.1 : Int) else p.2.1) * t.2, t.2 * p.2.2)) (0, 1)

/-- R53, R54, R213, R216: what a step of a stream of numbers does to each entry of its window.
The sum of a group is a NaN, an infinity, or exact; a step of a narrow class adds it, times the two scales, with one rounding.
The other classes add their products one at a time in ascending K, each sum rounded. MXM adds mean and variance terms the same
way, the variance term rounded first; a negative variance makes it a NaN and sets MSW.NV. The flags of the roundings, and NV for
signalling operands (R39, log 42), are ORed into MSW. -/
def Claim.RealSteps : Prop :=
  (∀ ps : List Val,
    (Val.nan ∈ ps ∨ (Val.inf true ∈ ps ∧ Val.inf false ∈ ps) → groupSum ps = .nan) ∧
    (∀ s, Val.nan ∉ ps → Val.inf s ∈ ps → Val.inf (!s) ∉ ps → groupSum ps = .inf s) ∧
    (∀ ns : List (Bool × Nat × Nat), ps = ns.map (fun p => .num p.1 p.2.1 p.2.2) → (∀ p ∈ ns, p.2.2 ≠ 0) →
      ∃ s n d, groupSum ps = .num s n d ∧ d ≠ 0 ∧ (n = 0 → s = false) ∧
        (if s then -(n : Int) else n) * (fracSum ns).2 = (fracSum ns).1 * d)) ∧
  (∀ (x : Block) (q : MCmd) (y : MxOps) (g : Nat), InArray x y →
    let w := x.mx.slot y.slot
    let sb := q.bv.getD 0 0
    let old (a m n : Nat) : Nat := (x.mx.entry a m n).toNat
    let plus (c : Nat) (v : Val) : Nat × Flags := roundTo .f64 (addVal false (valueOf .f64 c) v).1 .rn false
    let times (a b : Val) : Val := (mulVal a b).1
    let wide (f : Flags) : Word := f.setWidth 32
    (∀ a m n, m < 128 → n < 128 → (a ≠ y.acc ∨ mlenOf y ≤ m ∨ w.nlen ≤ n) →
      (gemmStep x q y g).entry a m n = x.mx.entry a m n) ∧
    (mclass y.fmt = .narrow →
      let ks := (List.range 32).map fun j => 32 * g + j
      let r (m n : Nat) : Nat × Flags := plus (old y.acc m n) (times (times
        (groupSum (ks.map fun k => times (streamVal x q y.fmt sb m k) (w.val k n))) (streamScale x y.fmt sb g m)) (w.scale g n))
      (∀ m n, m < mlenOf y → n < w.nlen → (gemmStep x q y g).entry y.acc m n = BitVec.ofNat 64 (r m n).1) ∧
      orsInto x y (gemmStep x q y g) fun m n => wide ((r m n).2 ||| snanFlag .f64 [old y.acc m n]
        ||| streamSnan x q y.fmt sb g m ks ||| w.snan g n ks)) ∧
    (mclass y.fmt ≠ .narrow → mclass y.fmt ≠ .integer →
      let size := stepSize (mclass y.fmt)
      let add (m n : Nat) (c : Nat × Flags) (k : Nat) : Nat × Flags :=
        let p := times (valueOf (mfmtFmt y.fmt) (streamElem x q m k)) (valueOf (mfmtFmt w.fmt) (w.raw k n))
        let r := roundTo .f64 (addVal false p (valueOf .f64 c.1)).1 .rn false
        (r.1, c.2 ||| r.2 ||| snanFlag .f64 [c.1] ||| snanFlag (mfmtFmt y.fmt) [streamElem x q m k]
          ||| snanFlag (mfmtFmt w.fmt) [w.raw k n])
      let r (m n : Nat) : Nat × Flags :=
        ((List.range size).map fun j => g * size + j).foldl (add m n) (old y.acc m n, 0)
      (∀ m n, m < mlenOf y → n < w.nlen → (gemmStep x q y g).entry y.acc m n = BitVec.ofNat 64 (r m n).1) ∧
      orsInto x y (gemmStep x q y g) fun m n => wide (r m n).2) ∧
    (y.acc < 3 →
      let negative (v : Nat) : Bool := ltVal (valueOf .f32 v) (.num false 0 1)
      let add (m n : Nat) (c : Nat × Nat) (k : Nat) : Nat × Nat :=
        let a := streamElem x q m k
        let mu := valueOf .f32 (a % 2 ^ 32)
        let v := valueOf .f32 (a / 2 ^ 32)
        let wm := valueOf .f32 (w.pair k n).1
        let wv := valueOf .f32 (w.pair k n).2
        let tv := if w.fmt = .mw then (addVal false (addVal false (times (times wm wm) v) (times (times wv mu) mu)).1
          (times wv v)).1 else times (times wm wm) v
        let bad := negative (a / 2 ^ 32) || (w.fmt = .mw && negative (w.pair k n).2)
        ((plus c.1 (times wm mu)).1, (plus c.2 (if bad then .nan else valueOf .f64 (roundTo .f64 tv .rn false).1)).1)
      let r (m n : Nat) : Nat × Nat :=
        ((List.range 32).map fun j => 32 * g + j).foldl (add m n) (old y.acc m n, old (y.acc + 1) m n)
      (∀ m n, m < mlenOf y → n < w.nlen →
        (momentStep x q y g).entry y.acc m n = BitVec.ofNat 64 (r m n).1 ∧
        (momentStep x q y g).entry (y.acc + 1) m n = BitVec.ofNat 64 (r m n).2) ∧
      (∀ a m n, m < 128 → n < 128 → ((a ≠ y.acc ∧ a ≠ y.acc + 1) ∨ mlenOf y ≤ m ∨ w.nlen ≤ n) →
        (momentStep x q y g).entry a m n = x.mx.entry a m n) ∧
      (∀ m n j, m < mlenOf y → n < w.nlen → j < 32 →
        negative (streamElem x q m (32 * g + j) / 2 ^ 32) = true ∨
          (w.fmt = .mw ∧ negative (w.pair (32 * g + j) n).2 = true) →
        (momentStep x q y g).msw.getLsbD 0 = true) ∧
      (∀ k, x.mx.msw.getLsbD k = true → (momentStep x q y g).msw.getLsbD k = true)))

/-- R53 to R55, R213, R214, R216: what one step of a stream does to every entry of its window, in each class of formats and each
mode, and to MSW; no other entry changes. -/
def Obligations.IntegerStep : Prop := Claim.IntegerEntries ∧ Claim.RealSteps


/-! ### Cluster units, solver and optimiser -/

/-- The issuing crew of a variable-latency instruction whose result an engine will fill: its registers are pending and
every active lane stands after it (R28). -/
def pendingCrew (s : State) (e : Env) (i : Instr) : Crew :=
  let w := e.advance s e.cw
  let p : Pend := { order := e.cw.issues, ready := false }
  let w1 := (dests e.blk.r.lrec i).foldl Crew.setPending { w with outs := w.outs ++ [p] }
  { w1 with fpcp := w1.fpcp || raisesFlags i }

/-- The state after the crew has handed instruction `i` to a unit as a job (R271), with the bytes that a push has read. -/
def handed (s : State) (e : Env) (i : Instr) (bytes : Option (List (List Byte)) := none) : State :=
  movedOn s e e.blk { pendingCrew s e i with
    jobs := e.cw.jobs ++ [⟨i, e.ipc, e.act, e.part, e.cw.issues, s.steps, bytes⟩] }

/-- R272, R274 to R285: COMPACT parks its crew and, with nothing outstanding, waits at the barrier; ENVRST queues its
slots and restarts its lanes' streams, or raises 0x81 with the lowest reason that a lane of P(c) fails and the lanes that fail it;
the others hand a job to their unit, or only move on where P(c) is empty (R21); a queue check that fails raises 0xA8, an entry of a
QPUSH or QPOP outside the share 0x13, a misaligned one 0x14.
Draining the store queue first, the modes of a queue, the reason of several that hold, QPOP.NB taking its entries in its issue
step, and the job that a QPUSH or QPOP hands over, are readings (logs 34, 50, 103, 31, 76). -/
def Obligations.ClusterInstructions : Prop := ∀ (x : CluOps) (s : State) (e : Env),
  (Ready s (.compact x) e → ∃ t w, exec (.compact x) s = .next t ∧ t.crew e.b e.c = some w ∧
    (e.cw.outs ≠ [] → w.wait = .parked (.compact (.compact x) e.ipc e.act)) ∧
    (e.cw.outs = [] → e.cw.late = none → w.wait = .waiting (.compact x) e.ipc e.act e.act) ∧
    (e.cw.outs ≠ [] ∨ e.cw.late = none → w.pcv = e.cw.pcv) ∧ w.v = e.cw.v ∧ w.m = e.cw.m ∧ w.s = e.cw.s ∧
    w.p = e.cw.p) ∧
  (Ready s (.envrst x) e → e.part ≠ 0 → onlyStores e → fits e 16 (fun _ => (e.cw.rs x.c).toNat) →
    let d := envDescOf (crewRead e.blk e.cw (e.cw.rs x.c).toNat 16)
    envFail e.blk e.part d (fun l => (e.cw.rv x.a l).toNat) = none →
    ∃ st, exec (.envrst x) s = .next (movedOn s e e.blk { e.advance s e.cw with
        strm := st, queue := e.cw.queue ++ [.envrst d ((lanesOf e.part).map fun l =>
          (d.sbase + (e.cw.rv x.a l).toNat * d.ssize, e.cw.rv2 x.b l % 2 ^ 40))] }) ∧
      ∀ l, getAt 0 st l = if l ∈ lanesOf e.part then
        streamOfParts (e.cw.rv2 x.b l % 2 ^ 40 % 65536) 0 (strmKey (e.cw.strmOf l)) else e.cw.strmOf l) ∧
  (Ready s (.envrst x) e → e.part ≠ 0 → onlyStores e → fits e 16 (fun _ => (e.cw.rs x.c).toNat) →
    let d := envDescOf (crewRead e.blk e.cw (e.cw.rs x.c).toNat 16)
    let slot (l : Nat) : Nat := d.sbase + (e.cw.rv x.a l).toNat * d.ssize
    let malformed : Prop := d.rsv ≠ 0 ∨ d.ssize < 16 ∨ 65536 < d.ssize ∨ d.ssize % 16 ≠ 0 ∨ d.tbase % 16 ≠ 0 ∨ d.sbase % 16 ≠ 0 ∨
      d.epoff % 8 ≠ 0 ∨ d.curoff % 4 ≠ 0 ∨ d.ssize < d.epoff + 8 ∨ d.ssize < d.curoff + 4 ∨
      rangesMeet d.epoff 8 d.curoff 4 = true
    let out : Word := maskWhere e.part fun l => e.blk.r.lmem < slot l + d.ssize ∨ e.blk.r.lmem < d.tbase + d.ssize
    let lap : Word := maskWhere e.part fun l => rangesMeet (slot l) d.ssize d.tbase d.ssize
    (malformed → exec (.envrst x) s = .next (s.raiseAt e 0x81 1 e.part)) ∧
    (¬malformed → out ≠ 0 → exec (.envrst x) s = .next (s.raiseAt e 0x81 2 out)) ∧
    (¬malformed → out = 0 → lap ≠ 0 → exec (.envrst x) s = .next (s.raiseAt e 0x81 3 lap))) ∧
  (∀ i ∈ [Instr.bpsort x, .bvht x, .qpush x, .qpop x, .qpushRound x], e.part = 0 → Ready s i e →
    exec i s = .next (settled s e [] 0 false)) ∧
  (e.part ≠ 0 → e.cw.queue = [] →
    (Ready s (.bpsort x) e → exec (.bpsort x) s = .next (handed s e (.bpsort x))) ∧
    (Ready s (.bvht x) e → exec (.bvht x) s = .next (handed s e (.bvht x)))) ∧
  (e.part ≠ 0 → e.cw.queue = [] → ∀ i push nb,
    (i, push, nb) ∈ [(Instr.qpush x, true, false), (.qpop x, false, decide (x.opt = 1)), (.qpushRound x, true, false)] →
    Ready s i e →
    let id := (e.cw.rs x.b).toNat
    (∀ r, queueReason s e.blk id push nb = some r → exec i s = .next (s.raiseAt e 0xA8 r e.act)) ∧
    (queueReason s e.blk id push nb = none → ∀ q, s.oqueue id = some q →
      let out : Word := maskWhere e.part fun l => e.blk.r.lmem < queueAddr e x.a l + q.es
      let mis : Word := maskWhere e.part fun l => queueAddr e x.a l % 64 ≠ 0
      (i ≠ .qpushRound x → (out ≠ 0 → exec i s = .next (s.raiseAt e 0x13 0 out)) ∧
        (out = 0 → mis ≠ 0 → exec i s = .next (s.raiseAt e 0x14 0 mis))) ∧
      ((∀ l ∈ lanesOf e.part, queueAddr e x.a l + q.es ≤ e.blk.r.lmem ∧ queueAddr e x.a l % 64 = 0) →
        (i = .qpush x → exec i s = .next (handed s e i
          (some ((lanesOf e.part).map fun l => readBytes e.blk.share (e.cw.rv x.a l).toNat q.es)))) ∧
        (i = .qpop x → x.opt = 0 → exec i s = .next (handed s e i)) ∧
        (i = .qpop x → x.opt ≠ 0 → (∀ o ∈ q.entries, o.err = 0) →
          let got := (lanesOf e.part).zip (poppable s q e.blk.r.det)
          let s1 := popInto (s.setQueue id (q.take (got.map (·.2)))) e.b e.c e.cw x.a got
          exec i s = .next (deferred s1 (e.refresh s1) i
            ((lanesOf e.part).map fun l => .v x.d l (if (look got l).isSome then 0 else 1)) 0 false none))) ∧
      (i = .qpushRound x → exec i s = .next (settled
        (if e.blk.r.det then s.setQueue id (q.addRound e.blk.grid e.blk.index e.c) else s) e [] 0 false))))

/-- R289 to R295, R301, R304, R313 to R315: a solver job, an SSTAT or an OPTWAIT is handed to its unit, SLSQ joins the
unit's queue, OPTSUB is accepted, or waits for room or for the crew's earlier stores; a failed check raises 0x86, 0x88 or
0x89.
The order of the checks, and a ninth SLSQ that issues again, are readings (logs 29, 34, 76). -/
def Obligations.SolverInstructions : Prop := ∀ (x : SolOps) (s : State) (e : Env), e.part ≠ 0 →
  (∀ y : OptOps, Ready s (.optsub y) e → e.cw.queue ≠ [] →
    exec (.optsub y) s = .next (s.setBlock e.b (e.blk.setCrew e.c (waitingAt s e (.optsub y))))) ∧
  (e.cw.queue = [] →
  let a := (e.cw.rs x.a).toNat
  (∀ i rhs n, (i, rhs, n) ∈ [(Instr.sfact x, false, 0), (.ssolve x, true, x.nrhs1 + 1), (.sadj x, true, x.nrhs1 + 1)] →
    Ready s i e → exec i s = .next (match solReason e.blk.r.lmem (solRanges e.cw x rhs) n with
      | none => handed s e i
      | some r => s.raiseAt e 0x86 r e.act)) ∧
  (Ready s (.sstat x) e → exec (.sstat x) s = .next (match solReason e.blk.r.lmem [(a, 128, 64)] 0 with
    | none => handed s e (.sstat x)
    | some r => s.raiseAt e 0x86 r e.act)) ∧
  (Ready s (.slsq x) e → solReason e.blk.r.lmem [(a, 128, 64)] 0 = none →
    (∀ k j, (k, j) ∈ s.slsqs → j.blk = e.b → j.record ≠ a) → (s.slsqs.filter fun p => p.2.blk = e.b).length < 8 →
    exec (.slsq x) s = .next (settled { s with
      fresh := s.fresh + 1,
      slsqs := put s.slsqs s.fresh
        { blk := e.b, crew := e.c, record := a, known := 1#64 <<< e.c, arrived := s.steps, since := 0, run := none } } e [] 0 false)) ∧
  (∀ y : OptOps, Ready s (.optwait y) e → exec (.optwait y) s = .next (handed s e (.optwait y))) ∧
  (∀ y : OptOps, Ready s (.optsub y) e →
    let s' := s.setBlock e.b (e.blk.setCrew e.c (waitingAt s e (.optsub y)))
    (16 ≤ (openJobs s e.b).length → exec (.optsub y) s = .next s') ∧
    ((openJobs s e.b).length < 16 → ∀ j, optCheck e.blk e.b e.c (e.cw.rs y.a).toNat = .inl j →
      exec (.optsub y) s = .next ({ s' with fresh := s.fresh + 1, opts := put s.opts s.fresh { j with arrived := s.steps } }.resume e.b e.c
        (.optsub y) e.ipc e.act [])) ∧
    ((openJobs s e.b).length < 16 → ∀ code info, optCheck e.blk e.b e.c (e.cw.rs y.a).toNat = .inr (code, info) →
      exec (.optsub y) s = .next (s'.failWait e.b e.c (.optsub y) e.ipc e.act code info))))

/-- A unit works on job `j` of crew `w`, whose block `x` runs, in a state where no unit's storage carries an error. -/
structure Working (s : State) (b c : Nat) (x : Block) (w : Crew) (j : Job) : Prop where
  block : s.block b = some x
  crew : look x.crews c = some w
  job : w.jobs = [j]
  runs : x.phase = .running
  live : (s.ctx x.slot).state = .live
  clean : x.errs = []
  units0 : s.die0.uerr = []
  units1 : s.die1.uerr = []

/-- The job ends with writes. -/
abbrev endsWith (s : State) (b c : Nat) (j : Job) (ws : List Wr) : State := s.endJob b c j fun p => { p with writes := ws }

/-- R277, R278, R281, R282, R284, R285: what the events of the sort and traversal units and of the ordered queues do with the
job that stands first at its unit (R268). A push reads its bytes at the head of the store queue, then waits for room. -/
def Claim.UnitEvents : Prop := ∀ (s : State) (b c : Nat) (x : Block) (w : Crew) (j : Job) (y : CluOps),
  Working s b c x w j →
  (j.i = .bpsort y → jobFirst s b c x j (· matches .bpsort _) = true →
    let a := (w.rs y.a).toNat
    let r := sortRecOf (readLE x.share a 64)
    (bitOf r.flags 0 = true → s.readsOut b c = false) →
    (∀ k, sortReason x a r = some k → exec (.bpsortJob b c) s = .next
      (s.endJob b c j fun p => { p with late := some { code := 0x82, info := k } })) ∧
    (sortReason x a r = none → ∀ s1 n f, sortRun s b c x r y.opt = .ok s1 (some (n, f)) →
      (s1.die x.die).uerr = [] → exec (.bpsortJob b c) s = .next
      (endsWith (s1.forget (crewOwner b c)) b c j [.s y.d (BitVec.ofNat 32 n), .s (y.d + 1) (BitVec.ofNat 32 f)]))) ∧
  (j.i = .bvht y → jobFirst s b c x j (· matches .bvht _) = true →
    ∀ s1 rs, bvhtLanes b c x w y (lanesOf j.part) s = .ok s1 rs →
    (s1.die x.die).uerr = [] → (∀ r ∈ rs, ∀ f, r.2.2 = some f → f.1 ≠ 0) →
    exec (.bvhtJob b c) s = .next (s1.forget (crewOwner b c) |>.endJob b c j fun p =>
      { p with writes := rs.map fun r => .v y.d r.1 (BitVec.ofNat 32 r.2.1), late := bvhtCause rs })) ∧
  (j.i = .qpush y → ∀ q, s.oqueue (w.rs y.b).toNat = some q →
    (j.bytes = none → w.queue = [] → exec (.qpushPlace b c) s = .next (s.setBlock b (x.setCrew c { w with
      jobs := [{ j with bytes := some ((lanesOf j.part).map fun l => readBytes x.share (w.rv y.a l).toNat q.es) }] }))) ∧
    (∀ bs, j.bytes = some bs → q.entries.length + (lanesOf j.part).length ≤ q.cap →
      exec (.qpushPlace b c) s = .next (endsWith (s.setQueue (w.rs y.b).toNat
        (((lanesOf j.part).zip bs).foldl (fun q p => q.push x w c p.1 p.2) q)) b c j
        ((lanesOf j.part).map fun l => .v y.d l 0))) ∧
    (∀ bs, j.bytes = some bs → q.cap < q.entries.length + (lanesOf j.part).length →
      ∀ t, exec (.qpushPlace b c) s ≠ .next t)) ∧
  (j.i = .qpop y → ∀ q, s.oqueue (w.rs y.b).toNat = some q → (∀ o ∈ q.entries, o.err = 0) →
    (lanesOf j.part).length ≤ (poppable s q x.r.det).length →
    let got := (lanesOf j.part).zip (poppable s q x.r.det)
    exec (.qpopTake b c) s = .next (endsWith
      (popInto (s.setQueue (w.rs y.b).toNat (q.take (got.map (·.2)))) b c w y.a got) b c j
      ((lanesOf j.part).map fun l => .v y.d l 0)))

/-- Every live lane of block `b` has arrived at COMPACT `y`, crew `c` waiting with the PC `pc c`, and the compactor, free of
errors, takes the block next (R268, R272). -/
structure Compacting (s : State) (b : Nat) (x : Block) (y : CluOps) (pc part : Nat → Word) : Prop where
  block : s.block b = some x
  runs : x.phase = .running
  live : (s.ctx x.slot).state = .live
  clean : x.errs = []
  units0 : s.die0.uerr = []
  units1 : s.die1.uerr = []
  some : liveCrews x ≠ []
  waits : ∀ p ∈ liveCrews x, p.2.wait = .waiting (.compact y) (pc p.1) p.2.live (part p.1) ∧ p.2.queue = []
  first : compactFirst s b x = true
  keys : (x.crews.map (·.1)).Nodup

/-- Lane `l` of crew `w'` holds the per-lane state that lane `k` of crew `w` held (R273). -/
def sameLane (w' : Crew) (l : Nat) (w : Crew) (k : Nat) : Prop :=
  (∀ r, w'.rv r l = w.rv r k) ∧ (∀ r, w'.rm r l = w.rm r k) ∧
  (∀ p, 0 < p → p < 8 → inMask (w'.rp p) l = inMask (w.rp p) k) ∧ w'.strmOf l = w.strmOf k ∧ w'.tidOf l = w.tidOf k

/-- R272, R273: when every live lane of the block has arrived, a failed check raises 0x80 in every arrived crew, and otherwise
the live lanes, ordered by key and then GTID, fill the lanes of the crews that held live lanes, 32 to a crew, with all
their per-lane state, at the next instruction; a crew left without a live lane drains and leaves its teams. -/
def Claim.CompactionRegroups : Prop := ∀ (s : State) (b : Nat) (x : Block) (y : CluOps) (pc part : Nat → Word),
  Compacting s b x y pc part →
  (∀ r, compactReason (liveCrews x) = some r → exec (.compactComplete b) s = .next ((liveCrews x).foldl
    (fun s p => s.failWait b p.1 (.compact y) (pc p.1) p.2.live 0x80 r) s)) ∧
  (compactReason (liveCrews x) = none → ∃ t z, exec (.compactComplete b) s = .next t ∧ t.block b = some z ∧
    z.share = x.share ∧
    (z.crews.map fun p => (lanesOf p.2.live).length).sum = (x.crews.map fun p => (lanesOf p.2.live).length).sum ∧
    ∃ ls : List LaneKey, ls.Pairwise (fun a b => b.before a = false) ∧
      (∀ k, k ∈ ls ↔ ∃ p ∈ liveCrews x, ∃ l ∈ lanesOf p.2.live, k =
        { crew := p.1, lane := l, key := (p.2.rv y.a l).toNat % 65536, gtid := gtidOf x p.2 l }) ∧
      ls.length = (x.crews.map fun p => (lanesOf p.2.live).length).sum ∧
      ∀ i p, (liveCrews x)[i]? = some p → ∃ w', look z.crews p.1 = some w' ∧
        (∀ l, l < 32 → (inMask w'.live l = true ↔ 32 * i + l < ls.length)) ∧
        (∀ l k, l < 32 → ls[32 * i + l]? = some k → ∃ w, look x.crews k.crew = some w ∧ sameLane w' l w k.lane ∧
          w'.pcOf l = p.2.ipc + 12) ∧
        (w'.live ≠ 0 → w'.wait = .ready) ∧
        (w'.live = 0 → w'.wait = .draining ∧ ∀ m ∈ z.teams, m.members.getLsbD p.1 = false))

/-- R284, R285: in deterministic mode a pop takes entries in the order of their keys and only rounds below the frontier,
in ordinary mode entries in the order of their arrival. -/
def Claim.PopOrder : Prop := ∀ (s : State) (q : OQueue),
  poppable s q false = q.entries ∧
  (∀ e, e ∈ poppable s q true ↔ e ∈ q.entries ∧ ∀ f, frontier s q = some f → e.round < f) ∧
  (poppable s q true).Pairwise (fun a b => b.before a = false)

/-- R268, R272, R273, R277, R278, R281, R282, R284, R285: the events of the cluster units, and the order in which a queue is popped.
When a crew arrives at COMPACT, the order of checks, lanes and reasons, and the boxes without pairs are readings
(logs 47, 48, 50, 84, 89, 103). -/
def Obligations.ClusterUnitEvents : Prop := Claim.UnitEvents ∧ Claim.CompactionRegroups ∧ Claim.PopOrder

/-- R289, R296 to R304: what the events of the solver do with the job that stands first in its queue: SFACT, SSOLVE and SADJ
write their results or raise their late cause, SSTAT returns the status of its record, SLSQ starts, goes from checkpoint to
checkpoint and writes its outputs. The checkpoints are the model's (log 54), the bytes of a work area free (log 3). -/
def Claim.SolverUnitEvents : Prop := ∀ (s : State) (b c : Nat) (x : Block) (w : Crew) (j : Job) (y : SolOps),
  (Working s b c x w j →
    (solverFirst s x (x.r.prio, j.since, b, c) = true →
      ∀ rhs run ev, (j.i, rhs, run, ev) ∈ [(Instr.sfact y, false, sfactRun x.share b c w y, Instr.sfactComplete b c),
        (.ssolve y, true, solveRun x.share b c w y false, .ssolveComplete b c),
        (.sadj y, true, solveRun x.share b c w y true, .sadjComplete b c)] →
      exec ev s = .next (match run with
        | .inl t => s.endJob b c j fun p => { p with late := some t }
        | .inr (st, f) => endsWith (f s) b c j [.s y.d (BitVec.ofNat 32 st)])) ∧
    (j.i = .sstat y → (∀ p ∈ s.slsqs, ¬(p.2.blk = b ∧ p.2.record = (w.rs y.a).toNat ∧ p.2.known.getLsbD c = true ∧
        p.2.arrived < j.since)) →
      let st := readLE x.share ((w.rs y.a).toNat + 0x4C) 4
      exec (.sstatComplete b c) s = .next (s.endJob b c j fun p => { p with
        writes := [.s y.d (BitVec.ofNat 32 st),
                   .s (y.d + 1) (BitVec.ofNat 32 (readLE x.share ((w.rs y.a).toNat + 0x48) 4))],
        late := if st % 16 = 4 then some { code := 0x86, info := (bitsOf st 8 4 + 8) % 16 } else none }))) ∧
  (∀ k l, look s.slsqs k = some l → s.block l.blk = some x → x.phase = .running → (s.ctx x.slot).state = .live →
    s.die0.uerr = [] → s.die1.uerr = [] → x.errs = [] → solverFirst s x (x.r.prio, l.arrived, l.blk, k) = true →
    let r := lsqRecOf (readLE x.share l.record 128)
    let s0 := s.setBlock l.blk { x with share := writeBytes x.share (l.record + 0x4C) (natToBytes 4 0) }
    (l.run = none → ∀ n, lsqReason x.share x.r.lmem l.record r = some n → exec (.slsqCheckpoint k) s = .next
      { s0 with slsqs := put s.slsqs k { l with run := some (lsqInvalid n), since := s.clock } }) ∧
    (l.run = none → lsqReason x.share x.r.lmem l.record r = none → exec (.slsqCheckpoint k) s = .next
      (let s1 := if r.cyc then s0.setCtx x.slot { s.ctx x.slot with texp := true } else s0
       let s2 := s1.scribble l.blk l.crew l.record r.work r.workLen
       { s2 with slsqs := put s.slsqs k { l with run := some (lsqStart x.share r), since := s.clock } })) ∧
    (∀ u, l.run = some u → u.stop = none → exec (.slsqCheckpoint k) s = .next
      (let s1 := s.scribble l.blk l.crew l.record r.work r.workLen
       { s1 with slsqs := put s1.slsqs k { l with run := some (lsqStep x.share r u (s.clock - l.since)) } })) ∧
    (∀ u code, l.run = some u → u.stop = some code → ∃ t z, exec (.slsqComplete k) s = .next t ∧
      look t.slsqs k = none ∧ t.block l.blk = some z ∧ readLE z.share (l.record + 0x4C) 4 = code % 2 ^ 32))

/-- R310, R314, R315, R319, R320: what the events of the optimiser do: a waiting OPTSUB is accepted, a job of the engine moves
on by one line of writes or one block (log 54), a finished job completes, and OPTWAIT returns the status of the job it waits for,
the newest of its card that its crew comes after, or 0x8000_0000 where there is none. -/
def Claim.OptimiserEvents : Prop := ∀ (s : State) (b c : Nat) (x : Block) (w : Crew),
  (∀ j (o : OptOps), Working s b c x w j → j.i = .optwait o →
    let mine := s.opts.filter fun p => p.2.blk = b && p.2.off = (w.rs o.a).toNat && p.2.known.getLsbD c
      && decide (p.2.arrived < j.since)
    (mine = [] → exec (.optwaitComplete b c) s = .next (endsWith s b c j [.s o.d 0x80000000])) ∧
    (∀ p, mine.getLast? = some p → p.2.done = true →
      exec (.optwaitComplete b c) s = .next (endsWith s b c j [.s o.d p.2.status])) ∧
    (∀ p, mine.getLast? = some p → p.2.done = false → ∀ t, exec (.optwaitComplete b c) s ≠ .next t)) ∧
  (∀ o pc act part off z, s.block b = some x → look x.crews c = some w → w.wait = .waiting (.optsub o) pc act part →
    (s.ctx x.slot).state = .live →
    w.queue = [] → x.errs = [] → (openJobs s b).length < 16 → off = (w.rs o.a).toNat → optCheck x b c off = .inl z →
    exec (.optsubAccept b c) s = .next ({ s with
      fresh := s.fresh + 1, opts := put s.opts s.fresh { z with arrived := s.steps } }.resume b c (.optsub o) pc act [])) ∧
  (∀ k o, look s.opts k = some o → o.done = false →
    (o.finished = true →
      exec (.optimiserJobComplete k) s = .next { s with opts := put s.opts k { o with done := true } }) ∧
    (s.block o.blk = some x → engineTakes s k o x = true → ∀ s1 o1, optRun x k s o = .ok s1 o1 →
      (s1.die o.die).uerr = [] →
      exec (.optimiserCheckpoint k) s = .next { s1 with opts := put s1.opts k o1 }))

/-- R289, R296 to R304, R310, R314, R315, R319, R320: what the events of the solver and of the optimiser do. Where the
model's steps lie, the bytes of a work area and the order of the checks are readings (logs 3, 51 to 55, 90, 91). -/
def Obligations.SolverEvents : Prop := Claim.SolverUnitEvents ∧ Claim.OptimiserEvents

/-! ### The fabric and the join table -/

/-- The state after a token-returning command: its crew holds a fresh token in a pending register and goes on (R394). -/
def tokened (s : State) (e : Env) (d : Nat) : State :=
  movedOn { s with tokens := s.tokens ++ [⟨e.b, e.c, nextToken e, false, none⟩] } e e.blk
    { ((e.advance s e.cw).write [.s d (BitVec.ofNat 32 (nextToken e))]).setPending (.s d) with
      tokc := (e.cw.tokc + 1) % 1024 }
/-- The state with send or receive `k` under way. -/
def sendAdded (s : State) (k : Send) : State := { s with fresh := s.fresh + 1, sends := put s.sends s.fresh k }
/-- The state with an event on its way to the table of a die. -/
def eventAdded (s : State) (die : Nat) (t : TableEvent) : State :=
  s.setDie die { s.die die with tevents := (s.die die).tevents ++ [t] }

/-- R448 to R451, R456, R457, R460, R462, R465: a command of the fabric that passes its checks gives its crew a token, or
sends an event to the join table; in a task grid it raises 0xAB with reason 1, and a failed check 0xAB with its reason.
The order of the checks and the moment at which bytes are read are readings (logs 44, 71). -/
def Obligations.FabricInstructions : Prop := ∀ (s : State) (e : Env), e.part ≠ 0 → e.cw.queue = [] →
  (∀ x : FabOps, ∀ i ∈ [Instr.coll x, .csend x, .csendRwd x, .crecv x, .rjopen x, .rjtick x, .rjpop x, .rjstat x,
    .rjstatCfg x], Ready s i e → e.blk.r.res = false → exec i s = .next (s.raiseAt e 0xAB 1 e.act)) ∧
  (e.blk.r.res = true → ∀ x : FabOps,
    let a := (e.cw.rs x.a).toNat
    let n := (e.cw.rs x.b).toNat
    let word := (e.cw.rs x.c).toNat
    let free : Prop := s.liveToken e.b e.c (nextToken e) = none
    (Ready s (.coll x) e →
      let dom := readBytes e.blk.share a 64
      let desc := readBytes e.blk.share n 32
      let k := collOf e x dom desc
      if shareBad e.blk a 64 64 || shareBad e.blk n 32 32 then exec (.coll x) s = .next (s.raiseAt e 0xAB 2 e.act)
      else match collReason k dom desc with
        | some r => exec (.coll x) s = .next (s.raiseAt e 0xAB r e.act)
        | none => free → exec (.coll x) s = .next (tokened (s.addColl k) e x.d)) ∧
    (∀ i k, (i, k) ∈ [(Instr.csend x, sendOf e x false false), (.crecv x, sendOf e x true false)] → Ready s i e →
      match sendReason e.blk a n 1 16 1048576 word 3 with
      | some r => exec i s = .next (s.raiseAt e 0xAB r e.act)
      | none => free → exec i s = .next (tokened
          (if k.recv ∨ (s.dieOfEp k.ep).isSome then sendAdded s k
           else (sendAdded s k).sendFab e.blk.die (s.ctx e.blk.slot).asid k.ep
             (.data s.fresh k.tag (readBytes e.blk.share a n))) e x.d)) ∧
    (Ready s (.csendRwd x) e →
      let k := sendOf e x false true
      let recs := unpackWords 16 n (readBytes e.blk.share a (16 * n))
      match sendReason e.blk a n 16 1 4096 word 19 with
      | some r => exec (.csendRwd x) s = .next (s.raiseAt e 0xAB r e.act)
      | none => free → exec (.csendRwd x) s = .next (tokened
          (match s.dieOfEp k.ep with
           | some d => eventAdded (sendAdded s k) d ⟨e.blk.slot, e.b, e.c, .rewards s.fresh none recs⟩
           | none => (sendAdded s k).sendFab e.blk.die (s.ctx e.blk.slot).asid k.ep (.reward s.fresh recs)) e x.d)) ∧
    (Ready s (.rjopen x) e →
      let va := e.cw.rs2 x.a
      exec (.rjopen x) s = .next
        (if va % 64 ≠ 0 ∨ 2 ^ 57 < va + 0x4140 then s.raiseAt e 0xAB 4 e.act
         else movedOn (eventAdded s e.blk.die ⟨e.blk.slot, e.b, e.c, .open_ va e.cw.issues x.d⟩) e e.blk
           (pendingCrew s e (.rjopen x)))) ∧
    (Ready s (.rjtick x) e → exec (.rjtick x) s = .next
      (settled (eventAdded s e.blk.die ⟨e.blk.slot, e.b, e.c, .tick (a % 65536)⟩) e [] 0 false)) ∧
    (Ready s (.rjstatCfg x) e →
      let bs := readBytes e.blk.share a 32
      exec (.rjstatCfg x) s = .next
        (if shareBad e.blk a 32 32 then s.raiseAt e 0xAB 2 e.act
         else match configReason bs with
          | some r => s.raiseAt e 0xAB r e.act
          | none => settled (eventAdded s e.blk.die ⟨e.blk.slot, e.b, e.c,
              .config (sliceNat bs 0 4) (sliceNat bs 8 8) (sliceNat bs 16 4)⟩) e [] 0 false)) ∧
    (Ready s (.rjstat x) e → exec (.rjstat x) s = .next
      (movedOn (eventAdded s e.blk.die ⟨e.blk.slot, e.b, e.c, .stat e.cw.issues x.d⟩) e e.blk
        (pendingCrew s e (.rjstat x)))) ∧
    (Ready s (.rjpop x) e → exec (.rjpop x) s = .next (handed s e (.rjpop x))))

/-- R460, R461, R463: what the join table does with a segment and with a reward record.
RJOPEN: a malformed record is 0xAB with reason 6, a closed version answers CLOSED, an open key is 0xAA, a full table 0xA9, and
otherwise the segment opens and Release runs. A reward record that fits writes its reward and clears its bit of MISS; a stale
one and an orphan are counted and noted. Release scans and writes the head segment, frees it and appends it to the learner
queue, as long as the head may be released; one that memory holds up after an event goes on by itself (log 70), and the fences of the
event's crew wait for it (R378). -/
def Claim.JoinTableLaws : Prop := ∀ (s : State) (die slot : Nat),
  let j := s.join die slot
  (∀ va who s1 hd a, let acc : Acc := { joinAcc die slot false with use := .forbid }
    s.greadAll acc [(va, 0x140), (va + 0x413F, 1)] = .ok s1 (hd, a) →
    let s2 := s1.forget acc.owner
    let key := sliceNat hd 0 8
    let ver := sliceNat hd 0xC 4
    let taken : Bool := (segsOf s2 die slot).any fun g => g.key = key
    (segBad hd va die = true → openSegment s die slot va who = .ok s2 (.inr { code := 0xAB, info := 6 })) ∧
    (segBad hd va die = false → ver < (s2.join die slot).cb → openSegment s die slot va who = .ok s2 (.inl 1)) ∧
    (segBad hd va die = false → (s2.join die slot).cb ≤ ver →
      (taken = true → openSegment s die slot va who = .ok s2 (.inr { code := 0xAA })) ∧
      (taken = false → 65536 ≤ (s2.die die).segs.length → openSegment s die slot va who = .ok s2 (.inr { code := 0xA9 })) ∧
      (taken = false → (s2.die die).segs.length < 65536 → ∀ s3 a3 s4,
        s2.gwrite (joinAcc die slot true) (va + 0x20) (natToBytes 4 0) = .ok s3 a3 →
        release (s3.setDie die { s3.die die with segs := (s3.die die).segs ++ [
          ⟨slot, va, key, ver, sliceNat hd 8 4, sliceNat hd 0xC0 128, sliceNat hd 0x1C 4, (s2.join die slot).ticks⟩] })
          die slot = .ok s4 () →
        openSegment s die slot va who = .ok (s4.setOwed die slot []) (.inl 0)))) ∧
  (∀ rec who, let key := bitsOf rec 0 64
    let step := bitsOf rec 64 10
    let counted : State := (s.setJoin die slot { j with orphans := min 4294967295 (j.orphans + 1) }).note die 0xE5
      (dieLoc die) (s.ctx slot).asid
    (j.oring = 0 → bitsOf rec 74 6 ≠ 0 → reward s die slot rec who = .ok counted ()) ∧
    (j.oring ≠ 0 → bitsOf rec 74 6 ≠ 0 → ∀ s1, s.gread (joinAcc die slot false) j.oring 8 = .wait s1 →
      reward s die slot rec who = .wait s1) ∧
    (bitsOf rec 74 6 = 0 → bitsOf rec 80 16 + j.lag < j.cb → reward s die slot rec who = .ok
      ((s.setJoin die slot { j with stale := min 4294967295 (j.stale + 1) }).note die 0xE6 (dieLoc die)
        (s.ctx slot).asid) ()) ∧
    (bitsOf rec 74 6 = 0 → j.cb ≤ bitsOf rec 80 16 + j.lag →
      ((segsOf s die slot).find? (fun g => g.key = key) = none → j.oring = 0 → reward s die slot rec who = .ok counted ()) ∧
      (∀ g, (segsOf s die slot).find? (fun g => g.key = key) = some g →
        (g.len ≤ step ∨ bitOf g.miss step = false → j.oring = 0 → reward s die slot rec who = .ok counted ()) ∧
        (step < g.len → bitOf g.miss step = true → ∀ s1 a,
          s.gwrite (joinAcc die slot true) (g.va + 0x1140 + 4 * step) (natToBytes 4 (bitsOf rec 96 32)) = .ok s1 a →
          reward s die slot rec who = releaseOn (s1.mapSeg die slot key fun g => some { g with miss := g.miss - 2 ^ step })
            die slot who)))) ∧
  (∀ g, headSeg s die slot = some g → g ∈ segsOf s die slot ∧ g.ver < j.cb ∧
    ∀ h ∈ segsOf s die slot, h.ver < j.cb → ¬(h.ver < g.ver ∨ h.ver = g.ver ∧ h.key < g.key)) ∧
  (∀ g, releasable s die slot g = true ↔ j.learner.length < 65536 ∧
    (g.miss = 0 ∨ g.tmo ≠ 0 ∧ g.tmo ≤ j.ticks - g.opened)) ∧
  ((∀ g, headSeg s die slot = some g → releasable s die slot g = false) → release s die slot = .ok s ()) ∧
  (∀ s1 who, (release s die slot = .ok s1 () → releaseOn s die slot who = .ok (s1.setOwed die slot []) ()) ∧
    (release s die slot = .wait s1 → releaseOn s die slot who =
      .ok (s1.setOwed die slot ((s1.join die slot).owed ++ who.toList)) ())) ∧
  (∀ b c x, s.block b = some x → x.slot = slot → (b, c) ∈ j.owed →
    s.writesOut b c = true ∧ s.readsOut b c = true) ∧
  (∀ g n s1 bs a s2 a2, headSeg s die slot = some g → releasable s die slot g = true →
    s.greadAll (joinAcc die slot false) [(g.va, 0x140), (g.va + 0x140, 4 * g.len), (g.va + 0x1140, 4 * g.len)] =
      .ok s1 (bs, a) →
    let out := scan (bs.take 0x140) (slice bs 0x140 (4 * g.len)) (bs.drop (0x140 + 4 * g.len)) g.len g.miss
    let late : Bool := g.miss ≠ 0
    s1.gwriteAll (joinAcc die slot true) [(g.va + 0x2140, packWords 4 (out.map (·.1))),
      (g.va + 0x3140, packWords 4 (out.map (·.2))), (g.va + 0xC0, natToBytes 128 g.miss),
      (g.va + 0x20, packWords 4 [if late then 3 else 1, missing g.miss g.len])] = .ok s2 a2 →
    let s3 := (s2.forget (joinAcc die slot false).owner).mapSeg die slot g.key fun _ => none
    let j3 := s3.join die slot
    let s4 := s3.setJoin die slot { j3 with
      learner := j3.learner ++ [(g.va, late)], touts := if late then min 65535 (j3.touts + 1) else j3.touts }
    releaseFrom die slot (n + 1) s = releaseFrom die slot n (if late then
      (s4.setCtx slot { s4.ctx slot with texp := true }).note die 0xE7 (dieLoc die) (s4.ctx slot).asid else s4))

/-- R458, R460 to R463, R465: what each event of a join table does: an open installs its configuration, raises the close
bound or reports, and then Release runs; a reward reaches its segment, and the last one of its message completes the
command; a pop takes the head of the learner queue. An event stays at the table of the die on which it was issued.
Events of one context are taken in the order of issue, and none while Release is held up by memory, the model's choices
(log 70). -/
def Claim.TableEvents : Prop := ∀ (s : State) (b c : Nat) (x : Block) (slot dt : Nat) (t : TableEvent),
  (tableTurn s b c = some (slot, dt, t) → ∃ y, s.block b = some y ∧ slot = y.slot ∧ (s.ctx slot).state = .live ∧
    (dt = y.die ∨ dt = 1 - y.die) ∧ nextTableEvent s dt slot = some t ∧ t.blk = b ∧ t.crew = c ∧
    releasing s dt slot = false) ∧
  (tableTurn s b c = some (slot, dt, t) →
    let s0 := s.dropTableEvent dt t
    let j := s.join dt slot
    (∀ va order d s1 r, t.op = .open_ va order d → openSegment s dt slot va (b, c) = .ok s1 r →
      exec (.rjopenEvent b c) s = .next (answerOpen (s1.dropTableEvent dt t) b c order d r)) ∧
    (∀ cb s1, t.op = .tick cb →
      release (s0.setJoin dt slot { j with cb := max j.cb cb, ticks := j.ticks + 1 }) dt slot = .ok s1 () →
      exec (.rjtickEvent b c) s = .next (s1.setOwed dt slot [])) ∧
    (∀ lag ring log, t.op = .config lag ring log → exec (.rjstatCfgEvent b c) s = .next
      (s0.setJoin dt slot { j with lag := lag, oring := ring, orlog := log })) ∧
    (∀ order d, t.op = .stat order d → exec (.rjstatEvent b c) s = .next
      (s0.fillCrew b c order fun p => { p with ready := true, writes :=
        [.s d (BitVec.ofNat 32 (segsOf s dt slot).length), .s (d + 1) (BitVec.ofNat 32 j.orphans),
         .s (d + 2) (BitVec.ofNat 32 j.stale), .s (d + 3) (BitVec.ofNat 32 (j.touts + 65536 * j.overflows))] }))) ∧
  (∀ die u g key ep rec rest s1, rewardTurns s die = u :: g → u.op = .rewards key ep (rec :: rest) →
    reward s die u.slot rec (if ep.isSome then none else some (u.blk, u.crew)) = .ok s1 () →
    exec (.rewardRecord die) s = .next (if rest = [] then rewardsDone (s1.dropTableEvent die u) die u.slot key ep
      else s1.setDie die { s1.die die with tevents := (s1.die die).tevents.map fun v =>
        if v = u then { u with op := .rewards key ep rest } else v })) ∧
  (∀ die k g s1, headSeg s die k = some g → releasable s die k g = true →
    (s.ctx k).state = .live → release s die k = .ok s1 () → exec (.joinTimeout die k) s = .next (s1.setOwed die k [])) ∧
  (∀ w j (p : FabOps), Working s b c x w j → j.i = .rjpop p →
    let cfg := s.join x.die x.slot
    let give (s : State) (w0 w1 w2 : Nat) : State := endsWith s b c j
      [.s p.d (BitVec.ofNat 32 w0), .s (p.d + 1) (BitVec.ofNat 32 w1), .s (p.d + 2) (BitVec.ofNat 32 w2)]
    (∀ va late rest s1, cfg.learner = (va, late) :: rest →
      release (s.setJoin x.die x.slot { cfg with learner := rest }) x.die x.slot = .ok s1 () →
      exec (.rjpopComplete b c) s = .next (give (s1.setOwed x.die x.slot []) (va % 2 ^ 32) (va / 2 ^ 32) (if late then 2 else 0))) ∧
    (cfg.learner = [] → p.nb = true → nextTableEvent s x.die x.slot = none → releasing s x.die x.slot = false →
      exec (.rjpopComplete b c) s = .next (give s 0 0 1)))

/-- R458, R460 to R463, R465: what the join table does with segments and rewards, and what its events do. Events of one context
are taken in the order of issue, the model's choice (log 70). -/
def Obligations.JoinTableEvents : Prop := Claim.JoinTableLaws ∧ Claim.TableEvents

/-- R453, R454, R464: the reduction splits the ranks at the greatest power of two below their number, a granule has one
owner among the shards, and the advantages and returns of a segment follow the recurrence of the scan from its last step
down. -/
def Obligations.FabricArithmetic : Prop :=
  let f2 (g : Fmt → Rnd → Nat → Nat → Nat × Flags) (x y : Nat) : Nat := (g .f32 .rn x y).1
  (∀ c lo, tree c 14 lo 1 = c lo) ∧
  (∀ c lo n, 2 ≤ n → n ≤ 8192 → ∃ k, 2 ^ k < n ∧ n ≤ 2 ^ (k + 1) ∧
    tree c 14 lo n = f2 fAdd (tree c 14 lo (2 ^ k)) (tree c 14 (lo + 2 ^ k) (n - 2 ^ k))) ∧
  (∀ va n, va < 2 ^ 57 → shardOwner va n =
    ((va / 2 ^ 16 % 2 ^ 16) ^^^ (va / 2 ^ 32 % 2 ^ 16) ^^^ (va / 2 ^ 48)) % n) ∧
  (∀ hd v r len miss,
    let gamma := sliceNat hd 0x10 4
    let gl := f2 fMul gamma (sliceNat hd 0x14 4)
    let done (t : Nat) : Bool := bitOf (sliceNat hd 0x40 128) t
    let vNext (t : Nat) : Nat := if t + 1 = len then sliceNat hd 0x18 4 else wordAt v (t + 1)
    let reward (t : Nat) : Nat := if bitOf miss t then 0 else wordAt r t
    let delta (t : Nat) : Nat := f2 fSub (f2 fAdd (reward t) (if done t then 0 else f2 fMul gamma (vNext t))) (wordAt v t)
    (scan hd v r len miss).length = len ∧ ∃ adv : Nat → Nat, adv len = 0 ∧ ∀ t, t < len →
      adv t = f2 fAdd (delta t) (if done t then 0 else f2 fMul gl (adv (t + 1))) ∧
      (scan hd v r len miss)[t]? = some (adv t, f2 fAdd (adv t) (wordAt v t)))

/-- R451 to R455: what a step of a joined collective does. A list that differs from a member's raises 0xE3; while a digest
is missing the collective waits; a chunk of the source becomes the rank's contribution, block by block of 32 elements with
their BF16 or E4M3 rounding, and the last chunk sets it out to every member; once every contribution has come, a chunk of
the result is written, the tree over the ranks for AR and RS, the contributions side by side for AG. -/
def Claim.CollectiveLaws : Prop :=
  (∀ (s : State) (key : Nat) (k : Coll), k.joined = true →
    (digestsDiffer s k = true →
      collStep s key k = some (.ok s (s.fatalDie k.die k.slot { code := 0xE3, info := k.dkey }))) ∧
    (digestsDiffer s k = false → digestsIn s k = false → collStep s key k = none) ∧
    (digestsDiffer s k = false → digestsIn s k = true →
      (k.formed = false → k.k.kind ≠ 1 → k.k.res = false → ∀ s1 bs a,
        let lo := k.chunks * k.perChunk
        let n := min k.perChunk (k.k.count - lo)
        s.greadAll (k.acc key false) [(k.src + 4 * lo, 4 * n)] = .ok s1 (bs, a) →
        let k1 : Coll := { k with
          vals := k.vals ++ ((List.range n).map (lo + ·)).zip
            ((contributions k.k.dt (n / 32 + 1) (unpackWords 4 n bs)).map (·.1)), chunks := k.chunks + 1 }
        let s2 := s1.forget (2 * key)
        collStep s key k = some (.ok s2 (if k1.chunks < k.chunksOf k.k.count then
            { s2 with colls := put s2.colls key k1 }
          else publish { s2 with colls := put s2.colls key { k1 with formed := true } } k1))) ∧
      (k.formed = true → disagree k (s.contribsOf k) = true →
        collStep s key k = some (.ok s (s.fatalDie k.die k.slot { code := 0xE3, info := k.dkey }))) ∧
      (k.formed = true → disagree k (s.contribsOf k) = false → (s.contribsOf k).length < k.nmem →
        collStep s key k = none) ∧
      (k.formed = true → disagree k (s.contribsOf k) = false → k.nmem ≤ (s.contribsOf k).length → k.k.sh = false →
        k.outChunk < k.chunksOf k.outs → ∀ s1 a,
        let lo := k.outChunk * k.perChunk
        let n := min k.perChunk (k.outs - lo)
        let at_ (rank i : Nat) : Nat := contribAt (s.contribsOf k) rank i
        let value (i : Nat) : Nat :=
          if k.k.kind = 1 then at_ (i / k.k.count) (i % k.k.count)
          else tree (fun r => at_ r (if k.k.kind = 2 then k.rank * (k.k.count / k.nmem) + i else i)) 14 0 k.nmem
        s.gwrite (k.acc key true) (k.dst + lo * k.width)
          (packWords k.width ((List.range n).map fun i => value (lo + i))) = .ok s1 a →
        let s2 := s1.forget (2 * key)
        collStep s key k = some (.ok s2 { s2 with
          colls := put s2.colls key { k with chunks := k.chunks + 1, sides := a.sides } })))) ∧
  (∀ dt n xs i, i < xs.length → xs.length ≤ 32 * n →
    (contributions dt n xs)[i]? = (xs[i]?).map fun x =>
      contribution dt x (if dt = 2 then fp8Scale .e4m3 ((xs.drop (32 * (i / 32))).take 32) else 0)) ∧
  (∀ dt x sc, let v := valueOf .f32 x
    contribution dt x sc = (
      let c : Val := if dt = 0 then v
        else if dt = 1 then valueOf .bf16 (roundTo .bf16 v .rn false).1
        else match bandVal sc with
          | .num s n d => if n = 0 then .num false 0 1 else
            (mulVal (.num s n d) (valueOf .e4m3 (roundTo .e4m3 (divVal v (.num s n d)).1 .rn false).1)).1
          | _ => .nan
      ((roundTo .f32 c .rn false).1, (roundTo .f32 (addVal false v c.opp).1 .rn false).1)))

/-- Message `f` has been taken at this package before. -/
def seenBefore (s : State) (f : Flit) : Prop := ∃ a ∈ s.fab.acked, a.2.1 = f.src ∧ a.2.2 = f.seq

/-- R447, R451, R455, R456: the engine takes the next step of a collective and ends it when its rank has written its part;
a send meets the oldest receive of its pair and tag, and unequal lengths end both with cause 0xE4; a good message is
acknowledged and taken once, or rejected where no LIVE context has its ASID.
Messages stand for their flits (log 69); 64 attempts are a first and 63 again (log 73); acknowledgements are log 97. -/
def Claim.FabricMessages : Prop := ∀ (s : State) (k : Nat),
  (∀ c s1 s2, look s.colls k = some c → (s.ctx c.slot).state = .live → collStep s k c = some (.ok s1 s2) →
    exec (.collChunk k) s = .next s2) ∧
  (∀ c, look s.colls k = some c → (s.ctx c.slot).state = .live → c.joined = true → c.formed = true →
    c.chunksOf c.outs ≤ c.outChunk → exec (.collComplete k) s = .next (s.endColl k c c.fault) ∧
    look (s.endColl k c c.fault).colls k = none) ∧
  (∀ j r c x y, look s.sends j = some r → look s.sends k = some c → s.sendRuns r = true → s.sendRuns c = true →
    firstRecv s r.slot r.die r.ep r.tag = some j → s.dieOfEp r.ep = some c.die → c.ep = s.endpoint r.die →
    firstSend s r.slot c.die c.ep r.tag = some k → s.block c.blk = some x → x.errs = [] → s.block r.blk = some y →
    y.errs = [] →
    exec (.sendMatch k j) s = .next
      (if c.len = r.len then
        ((s.setBlock r.blk { y with share := writeBytes y.share r.off (readBytes x.share c.off c.len) }).endSend j r
          true).endSend k c true
       else (s.endSend j r false).endSend k c false)) ∧
  (∀ o, look s.fab.leaving k = some o →
    (o.tries < 63 → exec (.flitResend k) s = .next
      ({ s with fab := { s.fab with leaving := put s.fab.leaving k { o with tries := o.tries + 1 } } }.note (o.port / 8)
        0xE0 (dieLoc (o.port / 8)) o.flit.asid o.port)) ∧
    (63 ≤ o.tries → s.portUp o.port = true → ∃ t, exec (.portDown o.port) s = .next t ∧ t.portUp o.port = false ∧
      (∀ p ∈ t.fab.leaving, p ∈ s.fab.leaving ∧ p.2.port ≠ o.port) ∧ (∀ r ∈ t.fab.routes, o.port ∉ r.2))) ∧
  (∀ die asid ep, look s.fab.rejected k = some (die, asid, ep) → exec (.destinationUnreachable k) s = .next
    ({ s with fab := { s.fab with rejected := dropAt s.fab.rejected k } }.fatalAsid die asid
      { code := 0xE2, info := ep })) ∧
  (∀ f : Flit, s.portUp k = true → s.power ≠ .d3cold →
    (f.good = false → exec (.flitReceive k f) s = .next s) ∧
    (f.good = true → ∀ id, f.msg = .ack id → exec (.flitReceive k f) s = .next { s with fab := { s.fab with
      leaving := s.fab.leaving.filter fun p => !(p.1 = id && p.2.port = k) } }) ∧
    (f.good = true → (∀ id, f.msg ≠ .ack id) →
      let got : State := { s with fab := { s.fab with acked := s.fab.acked ++ [(k, f.src, f.seq)] } }
      (seenBefore s f → exec (.flitReceive k f) s = .next got) ∧
      (¬ seenBefore s f → ∀ die slot, s.dieOfEp f.dst = some die → s.liveSlot f.asid = some slot →
        (∀ id tag bs, f.msg = .data id tag bs → exec (.flitReceive k f) s = .next { got with
          fresh := s.fresh + 1, fab := { got.fab with waiting := put s.fab.waiting s.fresh f } }) ∧
        (∀ dkey num rank ms kind vals, f.msg = .contrib dkey num rank ms kind vals →
          exec (.flitReceive k f) s = .next { got with
            contribs := s.contribs ++ [⟨slot, die, dkey, num, rank, ms, kind, vals⟩] }) ∧
        (∀ id recs, f.msg = .reward id recs → exec (.flitReceive k f) s = .next
          (eventAdded got die ⟨slot, 0, 255, .rewards id (some f.src) recs⟩))) ∧
      (¬ seenBefore s f → ∀ die, s.dieOfEp f.dst = some die → s.liveSlot f.asid = none → isWork f.msg = true →
        exec (.flitReceive k f) s = .next (got.sendFab die f.asid f.src (.reject f.dst f.seq)))))

/-- R447, R451 to R456: the steps of a collective and the messages of the fabric. Messages stand for their flits (log 69), lists for
their digests (log 72); 64 attempts are a first and 63 again (log 73); acknowledgements are log 97. -/
def Obligations.FabricEvents : Prop := Claim.CollectiveLaws ∧ Claim.FabricMessages

/-! ### The events of a crew and of a block -/

/-- Block `x` runs in a LIVE context and holds crew `c`. -/
structure Alive (s : State) (b c : Nat) (x : Block) (w : Crew) : Prop where
  block : s.block b = some x
  crew : look x.crews c = some w
  runs : x.phase = .running
  live : (s.ctx x.slot).state = .live

/-- R25, R26, R28, R30, R32, R138: a result that is ready returns without clearing pending bits; a park with nothing
outstanding ends, merging the flags that fell due and clearing every pending bit; the first waiter of a quadrant takes its
granules, or raises 0x0A when every crew bound there waits; a drained crew ceases to exist, and its block retires with the
last one.
Which waiter is first between grids, and when a grow is impossible, are readings (logs 26, 68). -/
def Obligations.CrewEvents : Prop := ∀ (s : State) (b c : Nat) (x : Block) (w : Crew), Alive s b c x w →
  (∀ k p, w.outs.find? (fun p => p.order = k) = some p → p.ready = true →
    ∃ w', exec (.resultReturn b c k) s = .next (s.setBlock b (x.setCrew c w')) ∧
      w'.outs = w.outs.filter (fun q => q.order ≠ k) ∧ w'.v = (w.write p.writes).v ∧ w'.m = (w.write p.writes).m ∧
      w'.s = (w.write p.writes).s ∧ w'.p = (w.write p.writes).p ∧ w'.hflags = w.hflags ||| p.flags ∧
      w'.vpend = w.vpend ∧ w'.spend = w.spend ∧ w'.mpend = w.mpend ∧ w'.ppend = w.ppend ∧ w'.fpcp = w.fpcp ∧
      w'.fpc = w.fpc ∧ w'.pcv = w.pcv ∧ w'.wait = w.wait) ∧
  (∀ ret, w.wait = .parked (.marker ret) → w.outs = [] → w.late = none → w.hflags &&& w.enables = 0 →
    exec (.unpark b c) s = .next (s.setBlock b (x.setCrew c { w with
      fpc := w.fpc ||| w.hflags.setWidth 32, mclf := w.mclf || w.hclamp, hflags := 0, hclamp := false, vpend := 0,
      spend := 0, mpend := 0, ppend := 0, fpcp := false, wait := .ready }))) ∧
  (∀ t, w.wait = .parked (.trap t) → w.outs = [] →
    exec (.trapEntry b c) s = .next (s.setBlock b (x.setCrew c (w.enterTrap x.r.trapr t)))) ∧
  (∀ y pc act part, w.wait = .waiting (.regsGrow y) pc act part →
    let bs := s.onCore x.die x.cluster x.core
    let q := poolOf bs w.quad
    ((growers bs w.quad).any fun t => growBefore t (x.index, b, c)) = false →
    (y.count - w.granules y.cls ≤ (if y.cls = 0 then q.v else q.m) → exec (.regsGrant b c) s = .next
      ((s.setBlock b (x.setCrew c (w.setGranules y.cls y.count))).resume b c (.regsGrow y) pc act [])) ∧
    ((if y.cls = 0 then q.v else q.m) < y.count - w.granules y.cls →
      (boundTo bs w.quad).all (fun v => v.growing.isSome) = true →
      exec (.regsGrant b c) s = .next (s.failWait b c (.regsGrow y) pc act 0x0A 0))) ∧
  (w.wait = .draining → s.acked x b c w = true → w.hfaults = [] →
    (∀ t ∈ s.tokens, t.blk = b → t.crew = c → t.fault = none) →
    let x1 := { x with crews := dropAt x.crews c }
    let s1 := ({ s with tokens := s.tokens.filter (fun t => !(t.blk = b && t.crew = c)),
                        olds := s.olds.filter fun o => !(o.blk = b && o.crew = c) }).setBlock b x1
    (x1.crews ≠ [] → exec (.crewDrainComplete b c) s = .next s1) ∧
    (x1.crews = [] → x.mx.lcause = 0 → exec (.crewDrainComplete b c) s = .next (s1.retire b)))

/-- R349, R352, R357 to R359: the events of a block: its regions are staged and it starts, its regions are drained and it is
done, a task block gives way and waits for a place again, a resident one is saved, and a save that takes too long ends its
context with cause 0x49. -/
def Claim.BlockSteps : Prop := ∀ (s : State) (b : Nat) (x : Block), s.block b = some x →
  (∀ j s1 y, (s.ctx x.slot).state = .live → x.stageAt = some j → x.hold = none → x.asked = false → x.errs = [] →
    stageFrom b ((numbered x.r.regions).drop j) (s.setBlock b x) = .ok s1 () → s1.block b = some y →
    exec (.stagingComplete b) s = .next ((s1.startAcquire y).setBlock b y.start) ∧
    y.start.phase = .running ∧ y.start.teams = y.r.teams ∧
    ∀ c w, look y.start.crews c = some w → w.wait = .ready ∧ ∀ l, l < 32 → w.live.getLsbD l = true ∧ w.pcOf l = y.r.entry) ∧
  (∀ j chained s1, (s.ctx x.slot).state = .live → x.phase = .draining j chained → x.hold = none → chained = false →
    drainAll b j chained x s = .ok s1 () → exec (.drainComplete b) s = .next (s1.endBlock b x) ∧
    (s1.endBlock b x).block b = none) ∧
  (∀ j g, x.phase = .draining j true → s.grid x.grid = some g → g.frontier ≠ x.index →
    (∃ r ∈ x.r.regions, r.out = true ∧ x.r.chained r = true) → ∀ t, exec (.drainComplete b) s ≠ .next t) ∧
  (∀ j g s1, (s.ctx x.slot).state = .live → x.phase = .draining j true → x.hold = none → s.grid x.grid = some g →
    g.frontier = x.index → drainAll b j true x s = .ok s1 () →
    exec (.drainComplete b) s = .next (s1.endBlock b x)) ∧
  (x.asked = true → (∀ j c, x.phase ≠ .draining j c) → ∃ t, exec (.blockAbort b) s = .next t ∧ t.block b = none ∧
    ∀ g, s.grid x.grid = some g → t.grid x.grid = some { g with waiting := g.waiting ++ [x.index] }) ∧
  (∀ since, x.phase = .saving since → (s.ctx x.slot).state = .live →
    let late : Prop := (if x.r.dline = 0 then 180000 else x.r.dline) < s.clock - since
    (¬ late → unquiet x = true → exec (.blockSave b) s = .next (quieten s b x)) ∧
    (¬ late → unquiet x = false → mayPark x = true → (∀ p ∈ s.copies, p.2.blk = b → p.2.taken = false) → x.errs = [] →
      ∀ g s1 a, s.grid x.grid = some g →
      let y := { x with crews := x.crews.map fun p => (p.1, p.2.settle) }
      s.gwriteAll (saveAcc x b true) ((saveSections y).map fun p => (g.saveVa x.index + p.1, p.2)) = .ok s1 a →
      exec (.blockSave b) s = .next ((s1.forget (2 * b)).setBlock b y.saved) ∧ y.saved.phase = .saved ∧
        y.saved.crews = []) ∧
    (late → exec (.saveDeadlineExceeded b) s = .next (s.fatalBlock b 255 0 { code := 0x49 }) ∧
      ∀ t, exec (.blockSave b) s ≠ .next t))

/-- R352: the commit frontier passes, in order, every block that is done and every one that has retired without a chained
region to write, and no other. -/
def Claim.FrontierAdvances : Prop := ∀ (s : State) (gk : Nat) (g : Grid), s.grid gk = some g →
  (∃ f, s.commit gk = s.setGrid gk { g with frontier := f } ∧ g.frontier ≤ f ∧
    (∀ i, g.frontier ≤ i → i < f → i < g.r.nblk ∧ frontierPasses s gk g i = true) ∧
    (f < g.r.nblk → frontierPasses s gk g f = false)) ∧
  (∀ i, frontierPasses s gk g i = true ↔ getAt false g.fin i = true ∨ ∃ b y, s.blockOf gk i = some (b, y) ∧
    (∃ j c, y.phase = .draining j c) ∧ ¬ ∃ r ∈ g.r.regions, g.r.chained r = true ∧ r.out = true)

/-- R196 to R198, R305, R359: the restore of a saved block. A dispatcher that comes to it places it on the first core on which
it fits and reads its area; a header that breaks a check raises 0x48 with INFO 0xFF, a crew with its index; otherwise the
block runs with the share, the spill area, the crews and the flags of its area, its SLSQ jobs resume, and a dependant's block
acquires what its producers released (R354, a reading: log 106). -/
def Claim.BlockRestored : Prop := ∀ (s : State),
  (∀ die gk g rest b x i gr s1 core qs, contenders s die = (gk, g) :: rest → s.grid gk = some g →
    takesPart s gk g = true → nextIndex s gk g = some i →
    s.blocks.find? (fun q => q.2.grid = gk && q.2.index = i && q.2.phase = .saved) = some (b, x) →
    savedGranules s b x g = .ok s1 gr → findCore s1 gk i g.r gr (coresOf g.dieMask) = some (core, qs) →
    (∀ s2, restoreBlock s1 b x g core qs = .ok s2 () →
      exec (.dispatchDecision die) s = .next (s2.servedGrid die gk i)) ∧
    (∀ s2 t, restoreBlock s1 b x g core qs = .fail s2 t → exec (.dispatchDecision die) s = .next
      ((s2.setBlock b { x with die := core.1, cluster := core.2.1, core := core.2.2 }).fatalBlock b 255 0 t))) ∧
  (∀ b x g core qs s1 hdr a1, let va := g.saveVa x.index
    let acc := saveAcc x b false
    s.gread acc va 256 = .ok s1 (hdr, a1) →
    (headerBad x hdr = true → restoreBlock s b x g core qs = .fail s1 { code := 0x48, info := 0xFF }) ∧
    (headerBad x hdr = false → ∀ s2 bs a2, let spans := restoreSpans x (sliceNat hdr 0xC 4)
      s1.greadAll acc (spans.map fun p => (va + p.1, p.2)) = .ok s2 (bs, a2) →
      let parts := splitBy (spans.map (·.2)) bs
      (∀ k, restoredBlock x core qs hdr parts = .error k →
        restoreBlock s b x g core qs = .fail s2 { code := 0x48, info := k }) ∧
      (∀ y, restoredBlock x core qs hdr parts = .ok y → x.r.isMatrix = false →
        restoreBlock s b x g core qs = .ok ((((s2.forget (2 * b)).rearrive b).startAcquire y).setBlock b y) ()))) ∧
  (∀ x core qs hdr parts y, restoredBlock x core qs hdr parts = .ok y →
    y.phase = .running ∧ y.r = x.r ∧ (y.die, y.cluster, y.core) = core ∧ y.index = x.index ∧
    y.share = memOf (parts.getD (3 * x.r.ncrew) []) ∧ y.spill = memOf (parts.getD (3 * x.r.ncrew + 1) []) ∧
    y.triggered = bitOf (sliceNat hdr 3 1) 0 ∧ y.bank = bitOf (sliceNat hdr 3 1) 1 ∧ y.arrive = [] ∧
    (∀ k, k < x.r.ncrew → crewRecordBad x.r (parts.getD (3 * k) []) = false) ∧
    (∀ c w, look y.crews c = some w → ∃ q st, look x.stays c = some st ∧ w = crewOfRecord q st (parts.getD (3 * c) [])
      (parts.getD (3 * c + 1) []) (parts.getD (3 * c + 2) [])) ∧
    (∀ c, c < x.r.ncrew → (look x.stays c).isSome → (look y.crews c).isSome))

/-- R196 to R198, R305, R349, R352, R354, R357 to R359: the events of a block, the commit of its chained regions at the frontier,
and its restore. What a save keeps beside the area, and the checks of a record, are readings (logs 24, 64 to 66, 106). -/
def Obligations.BlockEvents : Prop := Claim.BlockSteps ∧ Claim.FrontierAdvances ∧ Claim.BlockRestored

/-! ### The dispatcher, launches and contexts -/

/-- R339, R342 to R345, R348, R355: a LAUNCH is accepted at its queue's head, its records are read when it becomes the head
launch, a decision of a dispatcher places the next block of the grid first in arbitration on the first core on which it
fits, and a launch whose blocks are done writes DONE; a LAUNCH that is refused writes REFUSED, and a record that fails its
checks ends the context.
The path of the dispatcher's accesses, and launches that cannot be read at the end of a context, are readings (logs 63, 66). -/
def Obligations.LaunchEvents : Prop := ∀ (s : State),
  (∀ sq x k s1 bs a s2 a2, let slot := sq / 8
    look (s.ctx slot).sqs (sq % 8) = some k → (s.ctx slot).state = .live → k.head ≠ k.tail → s.awake = true →
    s.gread (dispAcc slot 0 false) (k.ring + 64 * k.head) 64 = .ok s1 (bs, a) → cmdOf (bytesToNat bs) = x →
    let bad : Bool := launchRefused s1 slot (sq % 8) x
    let next := (k.head + 1) % k.entries
    s1.gwriteAll (dispAcc slot 2 true) ((if x.op = 1 ∧ bad = true then [(x.a3, completionBytes x.seq 3)] else [])
      ++ [(k.headwb, natToBytes 8 next)]) = .ok s2 a2 →
    let s3 := s2.forget (dispAcc slot 2 true).owner
    let s4 := s3.setCtx slot { s3.ctx slot with sqs := put (s3.ctx slot).sqs (sq % 8) { k with head := next } }
    launchRefused s4 slot (sq % 8) x = bad →
    exec (.launch sq x) s = .next ((if x.op ≠ 1 then
        { s4 with host := { s4.host with statSeq := x.seq, statOp := x.op, refused := true } }
      else if bad = true then s4 else acceptLaunch s4 slot (sq % 8) x).forget (dispAcc slot 0 false).owner)) ∧
  (∀ sq k g, s.headLaunch (sq / 8) (sq % 8) = some (k, g) → g.checked = false → (s.ctx (sq / 8)).state = .live →
    (∀ s1 r ds, readLaunch s g = .ok s1 (r, ds) →
      exec (.headLaunchCheck sq) s = .next ((s1.forget (dispAcc (sq / 8) 0 false).owner).setGrid k
        { g with checked := true, r := r, deps := ds }).settleDeps) ∧
    (∀ s1 t, readLaunch s g = .fail s1 t → exec (.headLaunchCheck sq) s = .next
      (s1.fatal (sq / 8) { dieRec 0 t with grid := g.va }))) ∧
  (∀ die gk g rest i core qs, contenders s die = (gk, g) :: rest → s.grid gk = some g →
    takesPart s gk g = true → nextIndex s gk g = some i →
    (∀ q ∈ s.blocks, ¬(q.2.grid = gk ∧ q.2.index = i ∧ q.2.phase = .saved)) →
    findCore s gk i g.r g.r.granules (coresOf g.dieMask) = some (core, qs) →
    exec (.dispatchDecision die) s = .next ((State.setBlock { s with fresh := s.fresh + 1 } s.fresh
      { slot := g.slot, grid := gk, index := i, die := core.1, cluster := core.2.1, core := core.2.2, phase := .placed,
        r := g.r, crews := (List.range g.r.ncrew).map fun k => (k, freshCrew g.r k (qs.getD k 0)) }).servedGrid die gk i)) ∧
  (∀ k g, s.grid k = some g → takesPart s k g = true → s.age0 ≠ 0 → s.age0 ≤ s.clock - g.since →
    exec (.ageingInterval k) s = .next s) ∧
  (∀ k g s1 s2, s.grid k = some g → g.checked = true → g.complete = false → g.r.nblk ≤ g.fin.length →
    (s.ctx g.slot).state = .live → s.systemRelease (s.ctx g.slot).asid = (s1, true) →
    completionWord s1 g.slot (2 * k) g.compl g.seq 1 = .ok s2 () →
    let t := (s2.setGrid k { g with complete := true }).settleDeps
    exec (.launchCompletion k) s = .next (if g.irq then t.sendVec (s.ctx g.slot).cvec else t)) ∧
  (∀ slot s1, (s.ctx slot).state = .ending → 
    ((ringRecords slot (ringEntries s slot) s).bind fun s2 rs => endWrites slot (endRecords s2 slot ++ rs) s2) =
      .ok s1 () →
    ∃ t, exec (.contextStopComplete slot) s = .next t ∧ (t.ctx slot).state = .ended ∧
      (∀ p ∈ t.blocks, p.2.slot ≠ slot) ∧ ∀ p ∈ t.grids, p.2.slot ≠ slot) ∧
  (∀ slot r rest s1 old a s2 a2, (s.ctx slot).hrecs = r :: rest → (s.ctx slot).state = .live →
    let va := (s.ctx slot).hring + 64 * ((s.ctx slot).holdsW % 64)
    let bs := recordBytes r 0 true
    s.gread (dispAcc slot 3 false) va 4 = .ok s1 (old, a) → bytesToNat old < 2 ^ 31 →
    s1.gwriteAll { dispAcc slot 4 true with use := .hidden } [(va + 4, bs.drop 4), (va, bs.take 4)] = .ok s2 a2 →
    let s3 := (s2.forget (dispAcc slot 3 false).owner).forget (dispAcc slot 4 true).owner
    exec (.holdRecordWrite slot) s = .next ((s3.setCtx slot { s3.ctx slot with
      hrecs := rest, holdsW := (s3.ctx slot).holdsW + 1 }).sendVec (s3.ctx slot).hvec))

/-- The head of the control queue is command `x`, an operation `o` without a reserved bit, and the device is awake. -/
structure Command (s : State) (o : CqOp) (x : Cmd) : Prop where
  head : s.cqCmd = some x
  op : cqOp x = some o
  plain : x.rsv = 0
  awake : s.awake = true

/-- A command of the control queue breaks the limits of its table (R341, R343, R372, R418), names a slot in the wrong state,
or, for CTX_CREATE, an ASID that is not flushed; where it does, it is refused. -/
def breaks (s : State) (o : CqOp) (x : Cmd) : Prop :=
  let c := s.ctx (bitsOf x.a0 0 6)
  let free : Prop := c.state = .free
  let v (k : Nat) : Nat := bitsOf x.a3 (16 * k) 16
  let queue := look (s.die (bitsOf x.a0 12 1)).queues (bitsOf x.a0 6 6)
  let es := 64 * bitsOf x.a0 16 16
  let pages := bitsOf x.a2 0 32
  let other : Prop := x.a1 ≠ 0 ∨ x.a2 ≠ 0 ∨ x.a3 ≠ 0
  let queueBad : Prop := 2 ^ 32 ≤ x.a0 ∨ bitsOf x.a0 14 2 ≠ 0 ∨ free ∨ es = 0 ∨ 4096 < es ∨ x.a1 < 32 ∨ 2 ^ 35 ≤ x.a2 ∨
    x.a3 ≠ 0
  let frameBad : Prop := x.a0 % 65536 ≠ 0 ∨ 2 ^ 41 ≤ x.a0 ∨ 2 ≤ x.a1 ∨ x.a2 ≠ 0 ∨ x.a3 ≠ 0
  let rangeBad : Prop := 64 ≤ x.a0 ∨ free ∨ x.a1 % 65536 ≠ 0 ∨ 2 ^ 57 ≤ x.a1 ∨ pages = 0 ∨ 2 ^ 31 ≤ pages ∨
    2 ^ 33 ≤ x.a2 ∨ x.a3 ≠ 0
  let resolves : Prop := 64 ≤ x.a0 ∨ 2 ^ 32 ≤ x.a1 ∨ bitsOf x.a2 35 5 ≠ 0 ∨ 2 ^ 42 ≤ x.a2 ∨ x.a3 ≠ 0 ∨ free ∨
    heldBlock s x = none
  match o with
  | .ctxCreate => 2 ^ 22 ≤ x.a0 ∨ (s.ctx (bitsOf x.a0 16 6)).state ≠ .free ∨ x.a1 % 64 ≠ 0 ∨ x.a2 % 4096 ≠ 0 ∨
      2 ^ 48 ≤ x.a3 ∨ (∃ k < 3, v k = 0 ∨ 255 < v k) ∨ asidTaken s (bitsOf x.a0 0 16) = true ∨ s.mgmt.recov = true
  | .ctxEnd => 64 ≤ x.a0 ∨ free ∨ other
  | .ctxReclaim => 64 ≤ x.a0 ∨ c.state ≠ .ended ∨ other
  | .sqCreate => 512 ≤ x.a0 ∨ free ∨ (look c.sqs (bitsOf x.a0 6 3)).isSome ∨ x.a1 % 4096 ≠ 0 ∨ ringSize x.a2 = false ∨
      x.a3 % 8 ≠ 0
  | .oqBind => queueBad ∨ queue.isSome ∨
      8388608 < ((s.die (bitsOf x.a0 12 1)).queues.map fun p => p.2.es * p.2.cap).sum + es * x.a1
  | .oqUnbind => queueBad ∨ ∀ q, queue = some q → q.slot ≠ bitsOf x.a0 0 6
  | .resolveResume | .resolveKill => resolves
  | .resolveRetry => resolves ∨ ∀ b y h, heldBlock s x = some (b, y, h) → h.trap.code ≠ 0xA2
  | .setAge => 2 ^ 32 ≤ x.a0 ∨ other
  | .ptRoot => 64 ≤ x.a0 ∨ free ∨ x.a1 % 4096 ≠ 0 ∨ 2 ^ 41 ≤ x.a1 ∨ x.a2 ≠ 0 ∨ x.a3 ≠ 0
  | .inval | .invalFlush => rangeBad
  | .asidFlush => 2 ^ 16 ≤ x.a0 ∨ other
  | .l2Quota => 64 ≤ x.a0 ∨ free ∨ 786432 < x.a1 ∨ x.a2 ≠ 0 ∨ x.a3 ≠ 0
  | .tierCtl => 8 ≤ x.a0 ∨ 2 ^ 16 ≤ x.a1 ∨ 2 ^ 32 ≤ x.a2 ∨ x.a2 < 4096 ∨ x.a3 ≠ 0
  | .tierPin => frameBad ∨ otherPinned (s.die (dieOf x.a0)) x.a0 = true
  | .tierUnpin => frameBad
  | .sweep | .sweepStop => x.a0 % 64 ≠ 0 ∨ 2 ^ 41 ≤ x.a0 ∨ x.a1 = 0 ∨ 2 ^ 25 < x.a1 ∨ bitsOf x.a2 4 8 ≠ 0 ∨ 2 ^ 41 ≤ x.a2 ∨
      6 < bitsOf x.a2 0 4 ∨ 2 ^ (10 + bitsOf x.a2 0 4) ≤ bitsOf x.a3 0 32 ∨ bitsOf x.a3 32 31 ≠ 0
  | .hbmRate => 8 ≤ x.a0 ∨ 2 < x.a1 ∨ x.a2 ≠ 0 ∨ x.a3 ≠ 0

/-- Command `i` of operation `o` at the head of the control queue is refused: the status word of the queue receives it, and
nothing else changes but the head (R341). -/
def Refused (s : State) (x : Cmd) (i : Instr) (o : CqOp) : Prop :=
  s.cqCmd = some x → cqOp x = some o → s.awake = true → x.rsv ≠ 0 ∨ breaks s o x →
  exec i s = .next ({ s with host := { s.host with statSeq := x.seq, statOp := x.op, refused := true } }).cqNext

/-- R174, R339 to R343, R347, R355, R372: the commands of the control queue for contexts and queues, and the doorbells: each
has its effect and the queue's head moves on; one whose operands break the limits of the table, which names a slot in the
wrong state or sets a reserved bit, is refused, and so is an operation that the queue does not have.
The size of the control queue is the model's choice (log 4); the operands checked are readings (logs 31, 67). -/
def Obligations.ContextCommands : Prop := ∀ (s : State) (x : Cmd),
  let slot := bitsOf x.a0 0 6
  let c := s.ctx slot
  let zero (l : List Nat) : Prop := ∀ n ∈ l, n = 0
  (Command s .ctxCreate x →
    let new := bitsOf x.a0 16 6
    let v (k : Nat) : Nat := bitsOf x.a3 (16 * k) 16
    x.a0 < 2 ^ 22 → (s.ctx new).state = .free → x.a1 % 64 = 0 → x.a2 % 4096 = 0 → x.a3 < 2 ^ 48 →
    (∀ k < 3, 1 ≤ v k ∧ v k ≤ 255) → asidTaken s (bitsOf x.a0 0 16) = false → s.mgmt.recov = false →
    let made : Ctx :=
      { state := .live, asid := bitsOf x.a0 0 16, frec := x.a1, hring := x.a2, fvec := v 0, hvec := v 1, cvec := v 2,
        born := s.fresh }
    exec (.ctxCreate x) s = .next
      ({ s.setCtx new made with stale := s.stale ++ [bitsOf x.a0 0 16], power := .d0Active }).cqNext) ∧
  (Command s .ctxEnd x → x.a0 < 64 → c.state ≠ .free → zero [x.a1, x.a2, x.a3] → exec (.ctxEnd x) s = .next
    (if c.state = .live then s.setCtx slot { c with state := .ending, first := none, more := 0 } else s).cqNext) ∧
  (Command s .ctxReclaim x → x.a0 < 64 → c.state = .ended → zero [x.a1, x.a2, x.a3] →
    ∃ t, exec (.ctxReclaim x) s = .next t ∧ (t.ctx slot).state = .free ∧ (t.ctx slot).texp = c.texp) ∧
  (Command s .sqCreate x → x.a0 < 512 → c.state ≠ .free → look c.sqs (bitsOf x.a0 6 3) = none → x.a1 % 4096 = 0 →
    ringSize x.a2 = true → x.a3 % 8 = 0 → exec (.sqCreate x) s = .next (s.setCtx slot { c with
      sqs := put c.sqs (bitsOf x.a0 6 3) { ring := x.a1, entries := x.a2, headwb := x.a3, head := 0, tail := 0 } }).cqNext) ∧
  (let q := bitsOf x.a0 6 6
   let die := bitsOf x.a0 12 1
   let d := s.die die
   (Command s .oqBind x → x.a0 < 2 ^ 32 → bitsOf x.a0 14 2 = 0 → c.state ≠ .free →
    let es := 64 * bitsOf x.a0 16 16
    1 ≤ es → es ≤ 4096 → 32 ≤ x.a1 → x.a2 < 2 ^ 35 → x.a3 = 0 → look d.queues q = none →
    (d.queues.map fun p => p.2.es * p.2.cap).sum + es * x.a1 ≤ 8388608 →
    let o : OQueue :=
      { slot := slot, es := es, cap := x.a1, psq := bitsOf x.a2 32 3, pseq := bitsOf x.a2 0 32,
        pgrid := (s.latest slot (bitsOf x.a2 32 3) (bitsOf x.a2 0 32)).map (·.1), entries := [], rounds := [],
        pushes := [] }
    exec (.oqBind x) s = .next (s.setDie die { d with queues := put d.queues q o }).cqNext) ∧
   (Command s .oqUnbind x → x.a0 < 2 ^ 32 → bitsOf x.a0 14 2 = 0 → c.state ≠ .free →
    1 ≤ 64 * bitsOf x.a0 16 16 → 64 * bitsOf x.a0 16 16 ≤ 4096 → 32 ≤ x.a1 → x.a2 < 2 ^ 35 → x.a3 = 0 →
    (∃ o, look d.queues q = some o ∧ o.slot = slot) →
    exec (.oqUnbind x) s = .next (s.setDie die { d with queues := dropAt d.queues q }).cqNext)) ∧
  (∀ b y h, heldBlock s x = some (b, y, h) → resolveBad s x = false →
    (Command s .resolveResume x → exec (.resolveResume x) s = .next (s.setBlock b { y with hold := none }).cqNext) ∧
    (Command s .resolveRetry x → h.trap.code = 0xA2 → exec (.resolveRetry x) s = .next (s.setBlock b { y with
      hold := none, phase := y.phase.restart,
      share := if (y.phase matches .staging _) then [] else y.share }).cqNext) ∧
    (Command s .resolveKill x → exec (.resolveKill x) s = .next
      (s.fatal y.slot (faultRec s y (h.crew.getD 255) flagHostk h.trap)).cqNext)) ∧
  (Command s .setAge x → x.a0 < 2 ^ 32 → zero [x.a1, x.a2, x.a3] →
    exec (.setAge x) s = .next ({ s with age0 := x.a0, age1 := x.a0 }).cqNext) ∧
  (Command s .ptRoot x → x.a0 < 64 → c.state ≠ .free → x.a1 % 4096 = 0 → x.a1 < 2 ^ 41 → zero [x.a2, x.a3] →
    exec (.ptRoot x) s = .next (s.setCtx slot { c with root := x.a1 }).cqNext) ∧
  (Command s .l2Quota x → x.a0 < 64 → c.state ≠ .free → x.a1 ≤ 786432 → zero [x.a2, x.a3] →
    exec (.l2Quota x) s = .next (s.setCtx slot { c with quota := x.a1 }).cqNext) ∧
  (∀ i o, (i, o) ∈ [(Instr.ctxCreate x, CqOp.ctxCreate), (.ctxEnd x, .ctxEnd), (.ctxReclaim x, .ctxReclaim),
      (.sqCreate x, .sqCreate), (.oqBind x, .oqBind), (.oqUnbind x, .oqUnbind), (.resolveResume x, .resolveResume),
      (.resolveRetry x, .resolveRetry), (.resolveKill x, .resolveKill), (.setAge x, .setAge), (.ptRoot x, .ptRoot),
      (.l2Quota x, .l2Quota)] → Refused s x i o) ∧
  (∀ rest, s.turns = .refuse :: rest → s.cqCmd = some x → cqOp x = none → s.awake = true →
    ∃ t, step s = .next t ∧ t.host.refused = true ∧ t.host.statSeq = x.seq ∧ t.host.statOp = x.op ∧
      t.host.cqHead = (s.host.cqHead + 1) % Config.cqSize ∧ t.ctxs = s.ctxs) ∧
  (∀ w, s.awake = true →
    exec (.cqdb w) s = .next { s with host := { s.host with cqTail := w % Config.cqSize } } ∧
    ∀ sq k, look (s.ctx (sq / 8)).sqs (sq % 8) = some k → exec (.sqdb sq w) s = .next (s.setCtx (sq / 8)
      { s.ctx (sq / 8) with sqs := put (s.ctx (sq / 8)).sqs (sq % 8) { k with tail := w % k.entries } }))

/-! ### Memory, tiers and the package -/

/-- R372, R418, R420, R424: the commands of the control queue for translation and the tiers: INVAL drops the translations of
its range on both dies and the walkers' entries of its context, with FLUSH also its lines; TIER_PIN freezes a group whose
frame is in slot 0, and otherwise has it swapped in first; a command that breaks the limits of its table is refused.
What the walker keeps, and the operands checked, are readings (logs 58, 67). -/
def Obligations.MemoryCommands : Prop := ∀ (s : State) (x : Cmd),
  let asid := (s.ctx (bitsOf x.a0 0 6)).asid
  let d := s.die (dieOf x.a0)
  let g := groupNo x.a0
  let zero (l : List Nat) : Prop := ∀ n ∈ l, n = 0
  let last := x.a1 + 65536 * bitsOf x.a2 0 32
  (invalBad s x = false →
    (Command s .inval x → ∃ t, exec (.inval x) s = .next t ∧
      (∀ k e, e ∈ (t.die k).tlb ↔ e ∈ (s.die k).tlb ∧ ¬(e.asid = asid ∧ e.va < last ∧ x.a1 < e.va + e.size)) ∧
      (∀ k e, e ∈ (t.die k).walker ↔ e ∈ (s.die k).walker ∧ e.asid ≠ asid) ∧
      t.ctxs = s.ctxs ∧ t.dmem = s.dmem) ∧
    (Command s .invalFlush x → hostWaits s (lineIn asid (x.a1 / 128) (last / 128)) = false →
      ∀ s1, flushLines s (lineIn asid (x.a1 / 128) (last / 128)) = .ok s1 () →
      exec (.invalFlush x) s = .next (s1.dropTlb asid x.a1 last).cqNext)) ∧
  (Command s .asidFlush x → x.a0 < 2 ^ 16 → zero [x.a1, x.a2, x.a3] → hostWaits s (lineIn x.a0 0 (2 ^ 64)) = false →
    ∀ s1, flushLines s (lineIn x.a0 0 (2 ^ 64)) = .ok s1 () →
    let s2 := s1.dropTlb x.a0 0 (2 ^ 64)
    exec (.asidFlush x) s = .next (if s2.ctxs.any fun p => p.2.asid = x.a0 && (p.2.state = .live || p.2.state = .ending)
      then s2 else { s2 with stale := s2.stale.filter (· ≠ x.a0) }).cqNext) ∧
  (Command s .tierCtl x → x.a0 < 8 → x.a1 < 2 ^ 16 → 4096 ≤ x.a2 → x.a2 < 2 ^ 32 → x.a3 = 0 →
    ∃ t, exec (.tierCtl x) s = .next t ∧ ∀ k < 2, t.die k = if bitOf x.a0 k then
      { s.die k with swapOn := bitOf x.a0 2, thr := bitsOf x.a1 0 8, minc := bitsOf x.a1 8 8, epoch := x.a2 }
      else s.die k) ∧
  (pinBad x = false →
    (Command s .tierPin x → otherPinned d x.a0 = false → look d.swaps g = none → exec (.tierPin x) s = .next
      (if slotOfPa d x.a0 = 0 then (s.setDie (dieOf x.a0) { d with pin := setAt false d.pin g true }).cqNext
       else s.setDie (dieOf x.a0) { d with swaps := put d.swaps g ⟨g, bitsOf x.a0 16 2, true⟩ })) ∧
    (Command s .tierUnpin x → exec (.tierUnpin x) s = .next
      (s.setDie (dieOf x.a0) { d with pin := setAt false d.pin g false }).cqNext)) ∧
  (Command s .sweep x → x.a0 % 64 = 0 → x.a0 < 2 ^ 41 → x.a1 ≠ 0 → x.a1 ≤ 2 ^ 25 → bitsOf x.a2 4 8 = 0 →
    x.a2 < 2 ^ 41 → bitsOf x.a2 0 4 ≤ 6 → bitsOf x.a3 0 32 < 2 ^ (10 + bitsOf x.a2 0 4) → bitsOf x.a3 32 31 = 0 →
    let ring := x.a2 - bitsOf x.a2 0 4
    ∀ s1 head, sweepRead s ring 4 = .ok s1 head →
    exec (.sweep x) s = .next (s1.setDie (dieOf x.a0) { s1.die (dieOf x.a0) with sweep :=
      { on := true, table := x.a0, entries := x.a1, ring := ring, log := bitsOf x.a2 0 4, mark := bitsOf x.a3 0 32,
        hand := 0, tail := 0, head := head.getD 0, idle := 0 } }).cqNext ∧
    (s.poison = [] → (s.die (dieOf ring)).rerr = [] → head = some (readLE s.dmem ring 4))) ∧
  (Command s .sweepStop x → x.a0 % 64 = 0 → x.a0 < 2 ^ 41 → x.a1 ≠ 0 → x.a1 ≤ 2 ^ 25 → bitsOf x.a2 4 8 = 0 →
    x.a2 < 2 ^ 41 → bitsOf x.a2 0 4 ≤ 6 → bitsOf x.a3 0 32 < 2 ^ (10 + bitsOf x.a2 0 4) →
    bitsOf x.a3 32 31 = 0 → exec (.sweepStop x) s = .next ({ s with
      die0 := { s.die0 with sweep := { s.die0.sweep with on := false } },
      die1 := { s.die1 with sweep := { s.die1.sweep with on := false } } }).cqNext) ∧
  (Command s .hbmRate x → x.a0 < 8 → x.a1 ≤ 2 → zero [x.a2, x.a3] → exec (.hbmRate x) s = .next
    (s.setDie (x.a0 / 4) { s.die (x.a0 / 4) with
      retrain := setAt 0 (s.die (x.a0 / 4)).retrain x.a0 (x.a1 + 1) }).cqNext) ∧
  (∀ i o, (i, o) ∈ [(Instr.inval x, CqOp.inval), (.invalFlush x, .invalFlush), (.asidFlush x, .asidFlush),
      (.tierCtl x, .tierCtl), (.tierPin x, .tierPin), (.tierUnpin x, .tierUnpin), (.sweep x, .sweep),
      (.sweepStop x, .sweepStop), (.hbmRate x, .hbmRate)] → Refused s x i o)

/-- R365, R383, R396, R407, R408: a prefetched line is translated and filled, an evicted line leaves its RDC with its
dirty bytes on their way or with the errors of its storage, and a message between the dies arrives, a write-through to be
acknowledged and a request to be filled, each by a transfer of its own, or fails for good and ends every context that has one
in flight.
Skipped lines of a prefetch, and what the messages are, are readings (logs 56, 57). -/
def Claim.CacheMoves : Prop := ∀ (s : State) (die k : Nat),
  let d := s.die die
  (∀ m, look d.misses k = some m → m.left ≠ 0 →
    let a := missAcc die m
    let next (t : State) : State := t.setMiss die k { m with line := m.line + 1, left := m.left - 1, walked := false }
    (m.walked = false → ∀ s1 p, resolve s a (128 * m.line) = .ok s1 p →
      exec (.translationWalk die k) s = .next (s1.setMiss die k { m with walked := true })) ∧
    (m.walked = false → ∀ s1 t, resolve s a (128 * m.line) = .fail s1 t →
      exec (.translationWalk die k) s = .next (next s1)) ∧
    (m.walked = true → ∀ s1 t, resolve s a (128 * m.line) = .fail s1 t →
      exec (.lineFill die k) s = .next (next s1)) ∧
    (m.walked = true → ∀ s1 p b, resolve s a (128 * m.line) = .ok s1 (p, b) →
      (p.expander = true → exec (.lineFill die k) s = .next (next s1)) ∧
      (p.expander = false → ∀ s2 l, readLine s1 a p = .ok s2 l →
        exec (.lineFill die k) s = .next (next (s2.endAsk a p))) ∧
      (p.expander = false → ∀ s2 t, readLine s1 a p = .fail s2 t → exec (.lineFill die k) s = .next (next s2)) ∧
      (p.expander = false → 2 ^ 41 ≤ p.pa → ∀ s2, readLine s1 a p = .wait s2 →
        exec (.lineFill die k) s = .next (next s2)))) ∧
  (∀ l, d.rdc.find? (fun l => l.va = k) = some l →
    (l.err = 0 → exec (.rdcEviction die k) s = .next
      (State.dropLine (if l.pa < 2 ^ 41 then s.sendThrough die l else s.writeBack l) die true l)) ∧
    (l.err = 2 → l.dirty ≠ 0 → exec (.rdcEviction die k) s = .next
      ((s.dropLine die true l).fatalAsid die l.asid { code := 0xAC, info := 2, va := 128 * l.va }))) ∧
  (∀ m, look s.d2d k = some m →
    let away : Nat := 1 - m.src
    (m.acked = false → s.d2dDown = false →
      (m.back = false → d2dBehind s k m = false → ∃ n, n < 16 ∧
        let s0 := s.noteRetries m.src m.asid n
        (m.ask = true → exec (.dieToDieTransfer k) s = .next { s0 with d2d := put s0.d2d k { m with back := true } }) ∧
        (m.ask = false → ∀ s1, homeWrite s0 m.asid m.va m.side m.pa m.cc m.bytes = .ok s1 () →
          exec (.dieToDieTransfer k) s = .next { s1 with d2d := put s1.d2d k { m with acked := true } })) ∧
      (m.back = true → m.ask = true → ∃ n, n < 16 ∧ let s0 := s.noteRetries away m.asid n
        exec (.dieToDieTransfer k) s = .next
          { s0 with d2d := put s0.d2d k { m with back := false, acked := true } })) ∧
    (m.acked = true → m.ask = false → s.d2dDown = false → ∃ n, n < 16 ∧ let s0 := s.noteRetries away m.asid n
      exec (.writeThroughAck k) s = .next { s0 with d2d := dropAt s.d2d k }) ∧
    (m.flies = true → s.d2dDown = false → ∃ t, exec (.dieToDieTransferFailed k) s = .next t ∧ t.d2dDown = true ∧
      look t.d2d k = none ∧ t.dmem = s.dmem ∧
      (∀ p ∈ s.d2d, p.2.flies = true → ∀ slot, (s.ctx slot).state = .live → (s.ctx slot).asid = p.2.asid →
        (∀ q ∈ s.ctxs, q.2.state ≠ .free → q.2.asid = p.2.asid → q.1 = slot) →
        (t.ctx slot).state = .ending ∧ ∃ r, (t.ctx slot).first = some r ∧ r.cause = 0xC9 ∧ r.info = m.sender) ∧
      (∀ slot, (∀ p ∈ s.d2d, p.2.flies = true → ∀ q ∈ s.ctxs, q.1 = slot → q.2.state ≠ .free → q.2.asid ≠ p.2.asid) →
        t.ctx slot = s.ctx slot))) ∧
  (s.d2dDown = true → exec .dieToDieRetrainingComplete s = .next { s with d2dDown := false })

/-- Device memory serves every access without an error and without a wait (R421, R424, R425). -/
structure Sound (s : State) : Prop where
  poison : s.poison = []
  ecc : s.ecc = []
  remap : ∀ k, (s.die k).rerr = []
  rates : ∀ k, (s.die k).retraining = []
/-- The entry of a level in the walk for an address, as device memory holds it: the root's table at level 0, then the table that
the entry before names (R368, R369). -/
def walkEntryAt (s : State) (va root : Nat) : Nat → Nat
  | 0 => readLE s.dmem (root + 8 * bitsOf va 48 9) 8
  | k + 1 => readLE s.dmem (256 * bitsOf (walkEntryAt s va root k) 8 40 +
      8 * (if k = 3 then bitsOf va 16 5 else bitsOf va (39 - 9 * k) 9)) 8

/-- R368 to R371, R374, R375, R384, R393, R399, R432: what the home die answers to an access. A walk that fails gives cause
0xA3 with its reason and level, a page without a permission that the access needs 0xA4 with the access kinds, a scoped
operation against the class of its page 0xA5, one against the shadowing rules 0xA6, an address of the reserved range 0xC6;
otherwise the access lands at its page's frame, on the side that the publish table names. A task block's translation fault is
0xA2.
The order of the checks, and the TLB entries that stay, are readings (logs 85, 25). -/
def Claim.AccessChecks : Prop := ∀ (s : State) (a : Acc) (va : Nat),
  let asid := (s.ctx a.slot).asid
  let root := (s.ctx a.slot).root
  let e (k : Nat) : Nat := walkEntryAt s va root k
  let addr (k : Nat) : Nat := 256 * bitsOf (e k) 8 40
  let size (k : Nat) : Nat := if k = 4 then 2 ^ 16 else if k = 3 then 2 ^ 21 else 2 ^ 30
  let table (k : Nat) : Prop := k ≠ 4 ∧ bitsOf (e k) 48 16 = 0 ∧ bitsOf (e k) 2 6 = 0 ∧ (k < 3 → addr k % 4096 = 0) ∧
    addr k < 2 ^ 41
  let leaf (k : Nat) : Prop := 2 ≤ k ∧ bitsOf (e k) 58 6 = 0 ∧ (bitOf (e k) 7 = false → bitsOf (e k) 48 10 = 0) ∧
    addr k % (if bitOf (e k) 7 then 4 * size k else size k) = 0 ∧ bitsOf (e k) 5 2 ≠ 3 ∧
    (bitsOf (e k) 5 2 < 2 → addr k < 2 ^ 41) ∧ (addr k < 2 ^ 41 → dieOf (addr k + va % size k) = homeDie va)
  let fails (reason lvl : Nat) : Prop := ∃ s1, resolve s a va = .fail s1
    { code := 0xA3, info := 256 * reason + 4096 * lvl + (if a.px then 64 else 0), va := va }
  (2 ^ 57 ≤ va → fails 4 0) ∧
  (va < 2 ^ 57 → (∀ t ∈ (s.die (homeDie va)).tlb, t.covers asid va = false) →
    (root = 0 → fails 3 0) ∧
    (root ≠ 0 → Sound s → (∀ w ∈ (s.die (homeDie va)).walker, w.asid ≠ asid) → ∀ lvl, lvl < 5 →
      (∀ k, k < lvl → bitOf (e k) 0 = true ∧ bitOf (e k) 1 = false ∧ table k) →
      (bitOf (e lvl) 0 = false → fails 1 lvl) ∧
      (bitOf (e lvl) 0 = true → bitOf (e lvl) 1 = false → ¬table lvl → fails 2 lvl) ∧
      (bitOf (e lvl) 0 = true → bitOf (e lvl) 1 = true → ¬leaf lvl → fails 2 lvl) ∧
      (bitOf (e lvl) 0 = true → bitOf (e lvl) 1 = true → leaf lvl → ∃ s1, translate s a.slot va a.px = .ok s1
        { asid := asid, va := va - va % size lvl, size := size lvl, pa := addr lvl, cc := bitsOf (e lvl) 5 2,
          sh := bitOf (e lvl) 7, pti := bitsOf (e lvl) 48 10, pr := bitOf (e lvl) 2, pw := bitOf (e lvl) 3,
          px := bitOf (e lvl) 4, err := 0 }))) ∧
  (∀ s1 t, translate s a.slot va a.px = .ok s1 t →
    let home := homeDie va
    let pa := t.pa + (va - t.va)
    let denied : Prop := (a.rd = true ∧ t.pr = false) ∨ (a.wr = true ∧ t.pw = false) ∨ (a.px = true ∧ t.px = false)
    let stays (scope : Nat) : Prop :=
      (t.cc = 0 → scope ≤ 5) ∧ (t.cc = 1 → scope ≤ 6 ∨ (9 ≤ scope ∧ scope ≤ 11))
    let wrongScope : Prop := ∃ sc, a.scope = some sc ∧ (¬stays sc ∨ (a.sc = true ∧ t.cc ≠ 2) ∨ (a.dc = true ∧ t.cc ≠ 1))
    let wrongKind : Prop := ∃ w op, a.scope.isSome = true ∧ a.atom = some (w, op) ∧
      ((t.cc = 2 ∧ w = 2) ∨ (2 ^ 46 ≤ pa ∧ pa < 2 ^ 47 ∧ op ≠ 0 ∧ op ≠ 6 ∧ op ≠ 7))
    let wrongDie : Prop := a.scope.isSome = true ∧ a.atom.isSome = true ∧ t.cc = 0 ∧ home ≠ a.die
    let gives (code info : Nat) : Prop := resolve s a va = .fail s1 { code := code, info := info, va := va }
    (denied → gives 0xA4 ((if a.rd then 1 else 0) + (if a.wr then 2 else 0) + (if a.px then 4 else 0))) ∧
    (¬denied → wrongScope → gives 0xA5 (1 + 16 * t.cc)) ∧
    (¬denied → ¬wrongScope → wrongKind → gives 0xA5 (2 + 16 * t.cc)) ∧
    (¬denied → ¬wrongScope → ¬wrongKind → wrongDie → gives 0xA5 (3 + 16 * t.cc)) ∧
    (¬denied → ¬wrongScope → ¬wrongKind → ¬wrongDie →
      (t.sh = true → t.cc = 2 → gives 0xA6 5) ∧
      (t.sh = true → t.cc ≠ 2 → a.use = .forbid → gives 0xA6 4) ∧
      (t.sh = false → a.use = .mustHide → gives 0xA6 3) ∧
      ((t.sh = true → t.cc ≠ 2 ∧ a.use ≠ .forbid) → (t.sh = false → a.use ≠ .mustHide) →
        (2 ^ 47 ≤ pa → resolve s a va = .fail s1 { code := 0xC6, info := 4, va := va - va % 128 }) ∧
        (pa < 2 ^ 47 → ∃ p b, resolve s a va = .ok s1 (p, b) ∧ p.va = va ∧ p.home = home ∧ p.cc = t.cc ∧ p.sh = t.sh ∧
          p.pa = pa + (if p.side then 3 * t.size else 0) ∧
          (t.sh = false → p.side = false ∧ b = a) ∧
          (t.sh = true → ∀ side, look a.sides t.pti = some side → p.side = side ∧ b = a) ∧
          (t.sh = true → look a.sides t.pti = none →
            p.side = ((a.use = .hidden || a.use = .mustHide) != getAt false (s1.ctx a.slot).publ t.pti) ∧
            look b.sides t.pti = some p.side))))) ∧
  (∀ b j x lvl reason, s.block b = some x → x.r.res = false →
    regionFault s b j false { code := 0xA3, info := 256 * reason + 4096 * lvl, va := va } =
      s.holdBlock b none { code := 0xA2, info := j + (256 * reason + 4096 * lvl) / 256 % 128 * 256, va := va } j)

/-- The lines that an access of a die to a location of its own home finds: the L2 of the die holds `l`, without an error (R365). -/
structure HomeLine (s : State) (a : Acc) (p : Spot) (l : Line) : Prop where
  home : p.home = a.die
  dev : p.pa < 2 ^ 41
  here : (s.cache (dieOf p.pa) false).find? (Line.tagged (s.ctx a.slot).asid (p.va / 128) p.side) = some l
  clean : l.err = 0 ∧ l.poison = 0

/-- R363 to R365, R383, R417, R421: a read at the home returns the line that the home L2 holds; a write there changes the bytes it
stores, of that line alone, and no memory yet; a line that the L2 lacks is filled from device memory, clean; and the
dirty bytes of a line that is written back, and no others, reach device memory. -/
def Claim.LineAccesses : Prop := ∀ (s : State) (a : Acc) (p : Spot),
  let pa := p.pa - p.pa % 128
  let off := p.va % 128
  (∀ l, HomeLine s a p l → readLine s a p = .ok s l) ∧
  (∀ l bs, HomeLine s a p l → p.cc ≠ 2 → off + bs.length ≤ 128 → ∃ s1 l1,
    writeLine s a p bs = .ok s1 () ∧ readLine s1 a p = .ok s1 l1 ∧
    (∀ i, i < 128 → getByte l1.bytes i = if off ≤ i ∧ i < off + bs.length then bs.getD (i - off) 0 else getByte l.bytes i) ∧
    s1.dmem = s.dmem ∧ s1.hmem = s.hmem ∧ s1.poison = s.poison ∧ s1.blocks = s.blocks ∧ s1.ctxs = s.ctxs ∧
    (∀ d rdc k, d < 2 → ¬(d = dieOf p.pa ∧ rdc = false ∧ Line.tagged (s.ctx a.slot).asid (p.va / 128) p.side k = true) →
      (k ∈ s1.cache d rdc ↔ k ∈ s.cache d rdc))) ∧
  (Sound s → p.home = a.die → p.pa < 2 ^ 41 →
    (s.cache (dieOf p.pa) false).find? (Line.tagged (s.ctx a.slot).asid (p.va / 128) p.side) = none →
    ((s.cache (dieOf p.pa) false).filter fun l =>
      Config.setOf l.va % 65536 = Config.setOf (p.va / 128) % 65536).length < 16 →
    ∃ s1 l, readLine s a p = .ok s1 l ∧ l.dirty = 0 ∧ l.poison = 0 ∧ s1.dmem = s.dmem ∧
      s1.cache (dieOf p.pa) false = s.cache (dieOf p.pa) false ++ [l] ∧
      ∀ i, i < 128 → getByte l.bytes i = getByte s.dmem (pa + i)) ∧
  (∀ l : Line, Sound s → l.pa < 2 ^ 41 → l.pa % 128 = 0 →
    (∀ i, i < 128 → getByte (s.writeBack l).dmem (l.pa + i) =
      if l.dirty.getLsbD i then getByte l.bytes i else getByte s.dmem (l.pa + i)) ∧
    (∀ b, b < l.pa ∨ l.pa + 128 ≤ b → getByte (s.writeBack l).dmem b = getByte s.dmem b) ∧
    (s.writeBack l).hmem = s.hmem)

/-- Access `b` reads where an access `a` that has taken the sides `sides` wrote: from the same die, for the same context, at the
same copy. -/
abbrev sameView (a b : Acc) (sides : List (Nat × Bool)) : Prop :=
  b.die = a.die ∧ b.slot = a.slot ∧ b.pkg = a.pkg ∧ b.use = a.use ∧ b.sides = sides

/-- R365, R375, R377, R400, R403, R410: a read by virtual address after a write there returns the bytes written; a far atomic takes
the value that a read would have returned, and a read after it returns its operation's value, which stands at the home L2 of a
location of device memory. Each holds for a location inside one line, outside the expander window. -/
def Claim.GlobalAccesses : Prop := ∀ (s : State) (a : Acc) (va : Nat) (s0 : State) (p : Spot) (a1 : Acc),
  resolve s a va = .ok s0 (p, a1) → p.pa < 2 ^ 46 →
  (∀ bs s1 a2 b s2 got a3, va % 128 + bs.length ≤ 128 → s.gwrite a va bs = .ok s1 a2 → sameView a b a1.sides →
    s1.gread b va bs.length = .ok s2 (got, a3) → got = bs) ∧
  (∀ n op v c f s1 old, va % 128 + n ≤ 128 → s.gatomic a va n op v c f = .ok s1 old →
    (∀ s2 got a2, s.gread a va n = .ok s2 (got, a2) → old = bytesToNat got) ∧
    (∀ b s2 got a2, sameView a b a1.sides → s1.gread b va n = .ok s2 (got, a2) → got = natToBytes n (f old)) ∧
    (p.home = a.die ∨ a.pkg = true → p.pa < 2 ^ 41 → ∃ l ∈ s1.cache (dieOf p.pa) false,
      Line.tagged (s.ctx a.slot).asid (va / 128) p.side l = true ∧
      readBytes l.bytes (va % 128) n = natToBytes n (f old)))

/-- R365, R370, R371, R375, R383, R384, R396, R399, R403, R407, R408, R417: the events of the
caches and of the link between the dies, and what an access to global memory comes to: its translation and checks, the line
that it reads or writes, and the bytes that a later read returns. Skipped lines of a prefetch, and what the messages of
the link are, are readings (logs 56, 57). -/
def Obligations.CacheEvents : Prop := Claim.CacheMoves ∧ Claim.AccessChecks ∧ Claim.LineAccesses ∧ Claim.GlobalAccesses

/-- R416 to R420, R423, R424: a swap moves a frame into slot 0 and leaves every byte of memory; counters are halved at an
epoch; the sweeper passes over an entry, clears its accessed bit or pushes it to its ring, and writes TAIL and HAND there;
a saturated activation counter is cleared and noted; a stack retrains unless a save is in progress.
The activation counters' widths are the model's choice (log 59). -/
def Obligations.TierEvents : Prop := ∀ (s : State) (die k : Nat),
  let d := s.die die
  (die < 2 → ∀ j, look d.swaps k = some j → getAt false d.retraining (stackOf j.group) = false →
    getAt 0 d.rerr (j.group / 2 / 12) = 0 → j.frame < 4 →
    ∃ t, exec (.swap die k) s = .next t ∧ t.dmem = s.dmem ∧ t.poison = s.poison ∧ t.blocks = s.blocks ∧
      (t.die die).remap = setAt 0 d.remap j.group (swapped (getAt 0 d.remap j.group) j.frame) ∧
      (getAt 0 d.remap j.group < 24 →
        (permOf (swapped (getAt 0 d.remap j.group) j.frame)).getD j.frame 9 = 0 ∧
        (permOf (swapped (getAt 0 d.remap j.group) j.frame)).getD (fastFrame d j.group) 9 =
          (permOf (getAt 0 d.remap j.group)).getD j.frame 9)) ∧
  (d.epochAt + d.epoch ≤ s.clock → ∃ t, exec (.epochHalving die) s = .next t ∧
    ((die < 2 ∧ tableWf 0 d.cnt = true) → ∀ f, getAt 0 (t.die die).cnt f = getAt 0 d.cnt f / 2)) ∧
  (∀ w, w = d.sweep.see (readLE s.dmem d.sweep.ring 4) → w.on = true → w.idle < w.entries →
    (w.tail + 2 ^ (10 + w.log) - w.head % 2 ^ (10 + w.log)) % 2 ^ (10 + w.log) < w.mark →
    s.poison = [] → s.ecc = [] → (∀ k, (s.die k).rerr = [] ∧ (s.die k).retraining = []) → die < 2 →
    w.ring % 4096 = 0 → w.entries ≤ 2 ^ 25 → w.hand < w.entries → w.tail < 2 ^ (10 + w.log) → w.log ≤ 6 →
    let e := readLE s.dmem (w.table + 8 * w.hand) 8
    let f := bitsOf e 16 25
    let home := dieOf (65536 * f)
    let skipped : Prop := bitOf e 0 = false ∨ bitsOf e 1 15 ≠ 0 ∨ bitsOf e 41 23 ≠ 0
    let accessed : Prop := getAt false (s.die home).abit f = true
    ∃ t, exec (.sweeperStep die) s = .next t ∧
      (t.die die).sweep.hand = (w.hand + 1) % w.entries ∧
      readLE t.dmem (w.ring + 8) 4 = (w.hand + 1) % w.entries ∧
      (skipped ∨ accessed → (t.die die).sweep.tail = w.tail ∧ (t.die die).sweep.idle = w.idle + 1 ∧
        ∀ b, (∀ i < 4, b ≠ w.ring + 8 + i) → getByte t.dmem b = getByte s.dmem b) ∧
      (¬skipped → accessed → getAt false (t.die home).abit f = false) ∧
      (¬skipped → ¬accessed → let tail := (w.tail + 1) % 2 ^ (10 + w.log)
        (t.die die).sweep.tail = tail ∧ (t.die die).sweep.idle = 0 ∧ readLE t.dmem (w.ring + 4) 4 = tail ∧
        readLE t.dmem (w.ring + 0x40 + 4 * w.tail) 4 = w.hand) ∧
      (∀ k g, ¬(¬skipped ∧ accessed ∧ k = home ∧ g = f) → k < 2 →
        getAt false (t.die k).abit g = getAt false (s.die k).abit g)) ∧
  (∀ stack row, exec (.activationCounterSaturated die stack row) s = .next
    (State.note (s.setDie die { d with rowcnt := setAt 0 d.rowcnt (4294967296 * stack + row) 0 }) die 0xC4 (dieLoc die)
      65535 stack)) ∧
  (getAt 0 d.retrain k ≠ 0 → getAt false d.retraining k = false → exec (.retrainingStart die k) s = .next
    (if savingOn s die then s.note die 0xC5 (dieLoc die) 65535 k
     else s.setDie die { d with retrain := setAt 0 d.retrain k 0, rates := setAt 0 d.rates k (getAt 0 d.retrain k - 1),
                                retraining := setAt false d.retraining k true })) ∧
  (getAt false d.retraining k = true → exec (.retrainingComplete die k) s = .next
    (s.setDie die { d with retraining := setAt false d.retraining k false }))

/-! ### The host, power and reset -/

/-- R428, R429, R432: the host takes a line, answers a request, or does not answer for a millisecond, which is cause 0xC6;
a CXL.mem request reads or writes one line of device memory, once what the device holds of it has gone home.
The status codes and the HDM range are the model's choice (log 60). -/
def Obligations.HostEvents : Prop := ∀ (s : State) (k : Nat),
  (∀ take bs, k < 2 ^ 39 - 2 ^ 34 → exec (.hostSnoop k take bs) s = .next
    (let t := snoopDie (snoopDie s (2 ^ 41 + 128 * k) take 0) (2 ^ 41 + 128 * k) take 1
     if take then { t with hmem := bs.foldl (fun m p => setByte m (128 * k + p.1 % 128) p.2) t.hmem } else t)) ∧
  (∀ r, look s.hostReqs k = some r → r.done = none →
    (∀ bs, exec (.hostCompletion k 0 bs) s = .next (hostAnswer s k r bs)) ∧
    (∀ bs n, r.kind = .read n → ∃ t, exec (.hostCompletion k 0 bs) s = .next t ∧
      t.hmem = writeBytes s.hmem (hostAddr r.pa) (bs.take n) ∧
      look t.hostReqs k = some { r with done := some (readBytes t.hmem (hostAddr r.pa) n) }) ∧
    (∀ status bs, status = 1 ∨ status = 2 → r.owner ≠ 0 → exec (.hostCompletion k status bs) s = .next
      (State.fatalDie { s with hostReqs := dropAt s.hostReqs k } r.die r.slot
        { code := 0xC6, info := status, va := r.va - r.va % 128 })) ∧
    (r.since + 3600000 ≤ s.clock → r.owner ≠ 0 → exec (.hostCompletionTimeout k) s = .next
      (State.fatalDie { s with hostReqs := dropAt s.hostReqs k } r.die r.slot
        { code := 0xC6, info := 3, va := r.va - r.va % 128 }))) ∧
  (∀ write bs s1, s.host.hdmBase ≤ k → k < s.host.hdmBase + s.host.hdmSize → k < 2 ^ 41 →
    retrainingAt s (k - k % 128) = false → s.power ≠ .d3hot → s.power ≠ .d3cold →
    backInvalidate s (k - k % 128) = .ok s1 () → exec (.cxlMemRequest k write bs) s = .next
      (if write then cxlWrite s1 (k - k % 128) (cxlBytes k bs) else cxlRead s1 (k - k % 128)) ∧
      (write = false → scLines s1 (k - k % 128) = [] → ∀ s2 data poison,
        dramRead s1 65536 (k - k % 128) 0 = .ok s2 (data, poison) →
        exec (.cxlMemRequest k write bs) s = .next { s2 with host := { s2.host with
          answer := some (k - k % 128, readBytes data 0 128, poison ≠ 0),
          copies := s2.host.copies.filter (· ≠ k - k % 128) ++ [k - k % 128] } }))

/-- R430, R431, R435, R436: the registers of the host window and the power states: PCAP takes a value between 800 and 2,600
and ignores others, an unmasked vector sends what it held, a masked one holds, the clock moves by 100 MHz under the power cap.
What D3hot keeps, the steps of the clock and the log that takes cause 0xC7 are readings (logs 74, 80, 87); what a masked vector
holds and an unmasked one sends is presumed from PCI Express (log 12). -/
def Obligations.WindowAndPower : Prop := ∀ (s : State),
  (s.awake = true →
    (∀ w, exec (.pcapWrite w) s = .next (if 800 ≤ w % 65536 ∧ w % 65536 ≤ 2600 then
      { s with host := { s.host with pcap := w % 65536 } } else s)) ∧
    (∀ die, die < 2 → exec (.evtailRead die) s = .next (s.setDie die { s.die die with evread := true })) ∧
    (∀ off size w, (size ≠ 4 ∧ size ≠ 8) ∨ off % size ≠ 0 → exec (.unsupportedRequest off size w) s = .next s) ∧
    (s.host.clock < 3600 → exec (.powerCapClockChange false) s = .next
      (State.note { s with host := { s.host with clock := s.host.clock + 100 } } 0 0xC7 (dieLoc 0) 65535
        (s.host.clock + 100))) ∧
    (1200 < s.host.clock → ∃ t, exec (.powerCapClockChange true) s = .next t ∧ t.host.clock = s.host.clock - 100 ∧
      t.blocks = s.blocks ∧ t.dmem = s.dmem) ∧
    ((∀ p ∈ s.ctxs, p.2.state = .free) → ∀ o, s.flushAll = .ok o () → ∃ t, exec .d3hot s = .next t ∧
      t.power = .d3hot ∧ t.ctxs = [] ∧ t.blocks = [] ∧ t.die0.remap = o.die0.remap ∧ t.dmem = o.dmem ∧
      t.hmem = o.hmem ∧ t.host.clock = o.host.clock)) ∧
  (∀ vec, vec < 256 → s.power ≠ .d3cold → ∃ t, exec (.msiXUnmask vec) s = .next t ∧
    getAt false t.host.unmasked vec = true ∧ getAt false t.host.pending vec = false ∧
    t.host.sent = s.host.sent ++ (if getAt false s.host.pending vec then [vec] else [])) ∧
  (∀ vec rest, vec < 256 → s.power ≠ .d3cold → s.turns = .mask vec :: rest →
    ∃ t, step s = .next t ∧ getAt false t.host.unmasked vec = false ∧ t.host.sent = s.host.sent) ∧
  (s.power = .d0Active → (∀ p ∈ s.ctxs, p.2.state ≠ .live) → exec .d0Idle s = .next { s with power := .d0Idle }) ∧
  (s.power ≠ .d3cold → ∃ t, exec .d3cold s = .next t ∧ t.power = .d3cold ∧ t.dmem = [] ∧ t.blocks = [] ∧ t.ctxs = []) ∧
  (s.power = .d3hot → exec .returnToD0 s = .next { s with power := .d0Active })

/-- R433, R434, R437: resets and the management controller: a cold reset empties device memory and frees every slot, a
function-level reset first ends the LIVE contexts and then keeps device memory; the controller verifies the image that a
cold reset starts, stages a verified image of an update, and answers the requests of an SPDM exchange in their order.
The order of SPDM and its byte places are presumed (log 13); what a function-level reset keeps, and that the controller verifies an
image by its signature and least version, are readings (logs 74, 101). -/
def Obligations.ResetAndManagement : Prop := ∀ (s : State) (req : List Byte),
  (∃ t, exec .coldReset s = .next t ∧ t.dmem = [] ∧ t.ctxs = [] ∧ t.blocks = [] ∧ t.die0 = State.reset.die0 ∧
    t.die1 = State.reset.die1 ∧ t.host = State.reset.host ∧ t.power = .d0Active ∧ t.hmem = s.hmem ∧
    let image := s.mgmt.staged.getD s.mgmt.image
    let verified : Bool := Config.imageSigned image && decide (s.mgmt.minVersion ≤ Config.imageVersion image)
    t.mgmt.image = image ∧ t.mgmt.staged = none ∧ t.mgmt.fwok = verified ∧ t.mgmt.recov = !verified) ∧
  (s.power ≠ .d3hot → s.power ≠ .d3cold → s.host.flr = false →
    (∃ p ∈ s.ctxs, p.2.state = .live ∨ p.2.state = .ending) → ∃ t, exec .functionLevelReset s = .next t ∧
      t.host.flr = true ∧ t.dmem = s.dmem ∧
      ∀ slot, (t.ctx slot).state = if (s.ctx slot).state = .live then .ending else (s.ctx slot).state) ∧
  (s.power ≠ .d3hot → s.power ≠ .d3cold → (∀ p ∈ s.ctxs, p.2.state = .free ∨ p.2.state = .ended) →
    ∀ o, s.flushAll = .ok o () → ∃ t, exec .functionLevelReset s = .next t ∧ t.ctxs = [] ∧ t.dmem = o.dmem ∧
      t.hmem = o.hmem) ∧
  (s.power ≠ .d3cold → exec (.firmwareUpdate req) s = .next
    (if Config.imageSigned req ∧ s.mgmt.minVersion ≤ Config.imageVersion req then
      { s with mgmt := { s.mgmt with staged := some req } } else s)) ∧
  (s.power ≠ .d3cold → s.mgmt.recov = false →
    let answers (i : Instr) (need step : Nat) (r : Reply) : Prop := exec i s = .next { s with mgmt :=
      if s.mgmt.spdm < need then { s.mgmt with replies := s.mgmt.replies ++ [.error] }
      else { s.mgmt with spdm := step, replies := s.mgmt.replies ++ [r] } }
    let off := sliceNat req 4 2
    answers (.getVersion req) 0 1 .version ∧ answers (.getCapabilities req) 1 2 .capabilities ∧
    answers (.negotiateAlgorithms req) 2 (if offers req then 3 else 2) (.algorithms (offers req)) ∧
    answers (.getDigests req) 3 s.mgmt.spdm (.digests (Config.digest ((List.range 65536).map Config.certificate))) ∧
    answers (.getCertificate req) 3 s.mgmt.spdm
      (.certificate off ((List.range (sliceNat req 6 2)).map fun i => Config.certificate (off + i))) ∧
    answers (.challenge req) 3 s.mgmt.spdm (.challenge (Config.signature s.steps req)) ∧
    answers (.getMeasurements req) 3 s.mgmt.spdm
      (.measurements ((measurements s).filter fun b => sliceNat req 3 1 = 255 || b.1 = sliceNat req 3 1)
        (if bitOf (sliceNat req 2 1) 0 then some (Config.signature s.steps req) else none)))

/-! ### Reset, fetch, decoding and whole-machine rules -/

/-- R14, R341, R343, R356, R416, R418, R436, R437: after a cold reset every cache, TLB and table is empty, every context slot is
FREE, every remap entry is 0, SET_AGE, TIER_CTL and PCAP have their reset values and no block is placed.
That the access counters start at 0 is the model's choice (log 99). -/
def Obligations.ResetValues : Prop :=
  (∀ slot, (State.reset.ctx slot).state = .free) ∧ State.reset.blocks = [] ∧ State.reset.grids = [] ∧
  (∀ k, let d := State.reset.die k
    d.l2 = [] ∧ d.rdc = [] ∧ d.tlb = [] ∧ d.queues = [] ∧ d.segs = [] ∧ d.log = [] ∧
    (∀ g, getAt 0 d.remap g = 0) ∧ (∀ f, getAt 0 d.cnt f = 0) ∧ d.swapOn = false ∧ d.thr = 16 ∧ d.minc = 32 ∧
    d.epoch = 3600000) ∧
  State.reset.age0 = 3600000 ∧ State.reset.age1 = 3600000 ∧ State.reset.host.pcap = 2600

/-- The memories have their canonical form after a reset.
The canonical form is the model's own (log 10). -/
def Obligations.ResetMemOk : Prop := State.reset.memOk = true

/-- Every step, whoever moves, keeps the canonical form of the memories.
The canonical form is the model's own (log 10). -/
def Obligations.EveryStepKeepsMemory : Prop := ∀ s t : State, s.memOk = true → step s = .next t → t.memOk = true

/-- R18, R65, R67: when the next turn is the issue of a ready crew and the lines of its image hold a well-formed instruction
at its issue PC, the step is that instruction's effect with that crew at issue; a turn that names an event is the event's
effect with no crew at issue; either ends with one step counted and some cycles passed.
The list of turns and the cycles of a step are the model's own (logs 1, 2, 81). -/
def Obligations.StepRunsDecoded : Prop := ∀ (s : State) (rest : List Turn),
  let s0 : State := { s with turns := rest }
  let counted (o : Host.Outcome State Fault Refusal) : Host.Outcome State Fault Refusal := match o with
    | .next t => .next { t with steps := t.steps + 1, clock := t.clock + Config.elapsed t.steps }
    | o => o
  (∀ b c x w i, s.turns = .issue b c :: rest → readyCrew s b c = some (x, w) → x.fetch w.ipc = .instr i →
    step s = counted (exec i { s0 with cur := some (b, c) })) ∧
  (∀ i, s.turns = .event i :: rest → step s = counted (exec i { s0 with cur := none })) ∧
  (∀ (x : Block) (pc : Word) (bs : List Byte) i len, decode bs = .ok i len → imageHolds x pc bs → x.fetch pc = .instr i)

/-- R65, R66, R68, R69, R72: the worked encodings of the opcode map decode to their instructions: a guarded FFMA with a switch
marker, LD.B32 with a byte offset, a 16-bit IADD with an immediate, two branches, EXIT and MOVL; a guard of p0 with sense 1
is no instruction. -/
def Obligations.DecodeWords : Prop :=
  let plain : Hdr := ⟨false, 0, false⟩
  let blank : XOps :=
    { h := plain, d := 0, a := 0, b := 0, c := 0, imm := 0, cov := 0, v := 0, t := .s32, q := false, k := false,
      y := false, u := false, o := false, rnd := 0 }
  decode (natToBytes 4 0xC61442A1 ++ natToBytes 4 0x00E02203) =
    .ok (.ffma { blank with h := ⟨false, 2, true⟩, d := 4, a := 5, b := 6, c := 7, t := .f32, rnd := 1 }) 8 ∧
  decode (natToBytes 4 0x000880C9 ++ natToBytes 4 0x00001481) =
    .ok (.ld { blank with h := ⟨false, 0, true⟩, d := 8, a := 2, t := .b32, k := true }) 8 ∧
  decode (natToBytes 2 0xF066) = .ok (.iaddi16 3 0x1E) 2 ∧
  decode (natToBytes 4 0x00006955) = .ok (.bra { h := ⟨true, 1, false⟩, off := 6 }) 4 ∧
  decode (natToBytes 4 0x00004055) = .ok (.bra { h := plain, off := 4 }) 4 ∧
  decode (natToBytes 4 0x80000059) = .ok (.exit { h := plain, d := 0, a := 0, b := 0 }) 4 ∧
  decode (natToBytes 4 0x0004901F ++ natToBytes 4 0x3FC00001) =
    .ok (.movl { h := plain, d := 9, y := false, const := 0x3FC00001 }) 8 ∧
  decode (natToBytes 4 0x80000859) = .illegal 4

/-- R65 to R73: the words of every well-formed instruction decode to that instruction and to its length, whatever follows
them. -/
def Obligations.DecodeOfEncode : Prop := ∀ (i : Instr) (rest : List Byte), i.wf = true → encode i ≠ [] →
  decode (encode i ++ rest) = .ok i (encode i).length

/-- The instructions that only compute: integer, logic, shift, move and lane operations, floating point, quantisation,
table lookups, moments and the random numbers without a stream. -/
def registerOnly : Instr → Bool
  | .mov16 _ _ | .iadd16 _ _ | .isub16 _ _ | .iaddi16 _ _ | .and16 _ _ | .or16 _ _ | .xor16 _ _ | .shli16 _ _
  | .shri16 _ _ | .sari16 _ _ | .fadd16 _ _ | .fsub16 _ _ | .fmul16 _ _ | .fmax16 _ _ | .fmin16 _ _ | .movi16 _ _
  | .iaddR2 _ | .isubR2 _ | .andR2 _ | .orR2 _ | .xorR2 _ | .andnR2 _ | .shlR2 _ | .shrR2 _ | .sarR2 _ | .rotlR2 _
  | .iaddI8 _ | .shlI6 _ | .shrI6 _ | .sarI6 _ | .rotlI6 _ | .movi _ | .movl _ | .pand _ | .por _ | .pxor _ | .pnot _
  | .iaddX _ | .isubX _ | .shlX _ | .shrX _ | .sarX _ | .rotlX _ | .andX _ | .orX _ | .xorX _ | .andnX _ | .imul _
  | .imulh _ | .imad _ | .lea _ | .idiv _ | .irem _ | .imin _ | .imax _ | .iabs _ | .notX _ | .popc _ | .clz _ | .brev _
  | .bfx _ | .bfi _ | .icmp _ | .sel _ | .mov _ | .p2v _ | .vote _ | .shfl _ | .cred _ | .cscan _ | .fadd _ | .fsub _
  | .fmul _ | .ffma _ | .fmin _ | .fmax _ | .fcmp _ | .fclass _ | .fdiv _ | .fsqrt _ | .frcp _ | .frsq _ | .frnd _
  | .f2f _ | .f2i _ | .i2f _ | .fexp2 _ | .flog2 _ | .fexp _ | .flog _ | .fsin _ | .fcos _ | .ftanh _ | .fsigm _
  | .ferf _ | .qscl _ | .qpk _ | .qupk _ | .lut4 _ | .madd _ | .msub _ | .mmul _ | .mfma _ | .mscale _ | .mclamp _
  | .mmov _ | .mrelu _ | .msigm _ | .mtanh _ | .mexp _ | .mset _ | .mcoll _ | .rctr _ | .runi _ | .rmask _ => true
  | _ => false

/-- R14, R18, R21, R28: an instruction that only computes, whether it completes, waits for its result or traps, leaves every
memory, every other block, the share, spill area, array and teams of its block, every other crew, and every register of its
own crew but its destinations as they were; without an entry to the trap routine the trap registers stay too. -/
def Obligations.RegisterFrame : Prop := ∀ (i : Instr) (s t : State) (e : Env), registerOnly i = true →
  envOf s i = some e → exec i s = .next t →
  t.dmem = s.dmem ∧ t.hmem = s.hmem ∧ t.poison = s.poison ∧ (∀ b, b ≠ e.b → t.block b = s.block b) ∧
  ∃ x w, t.block e.b = some x ∧ look x.crews e.c = some w ∧ x.share = e.blk.share ∧ x.spill = e.blk.spill ∧
    x.mx = e.blk.mx ∧ x.ctab = e.blk.ctab ∧ x.bank = e.blk.bank ∧ x.teams = e.blk.teams ∧ x.arrive = e.blk.arrive ∧
    (∀ c, c ≠ e.c → look x.crews c = look e.blk.crews c) ∧
    (∀ r l, l < 32 → Reg.v r ∉ dests e.blk.r.lrec i → w.rv r l = e.cw.rv r l) ∧
    (∀ r l, l < 32 → Reg.m r ∉ dests e.blk.r.lrec i → w.rm r l = e.cw.rm r l) ∧
    (∀ r, Reg.s r ∉ dests e.blk.r.lrec i → w.rs r = e.cw.rs r) ∧
    (∀ k, Reg.p k ∉ dests e.blk.r.lrec i → w.rp k = e.cw.rp k) ∧
    w.strm = e.cw.strm ∧ w.live = e.cw.live ∧ w.queue = e.cw.queue ∧ w.vg = e.cw.vg ∧ w.mg = e.cw.mg ∧
    (w.inTrap = e.cw.inTrap → w.trapc = e.cw.trapc ∧ w.trappc = e.cw.trappc ∧ w.trapm = e.cw.trapm ∧
      w.rpcv = e.cw.rpcv)
end

