-- ==== Sys2Proof/Laws/Cells.lean ====
section
/-! SUPPORT. The sparse tables: what a read gives after a write, and that every write keeps the canonical form. -/

namespace Sys2Proof.Machine

variable {α : Type}

/-! ### Tables of values -/

/-- A dropped key reads as an unlisted one, another key as before. -/
theorem getAt_dropAt (d : α) (m : Sparse α) (k j : Nat) :
    getAt d (dropAt m k) j = if j = k then d else getAt d m j := by
  induction m with
  | nil => simp [dropAt, getAt]
  | cons e m ih =>
    obtain ⟨i, x⟩ := e
    by_cases h : i = k <;> by_cases hj : i = j <;> simp_all [dropAt, getAt]
    all_goals grind

/-- The pair put into a table reads back; another key reads as before. -/
theorem getAt_insertAt (d : α) (m : Sparse α) (k j : Nat) (x : α) (h : j ≠ k) :
    getAt d (insertAt m k x) j = getAt d m j := by
  induction m with
  | nil => simp [insertAt, getAt, Ne.symm h]
  | cons e m ih =>
    obtain ⟨i, y⟩ := e
    simp only [insertAt]
    split <;> simp [getAt, Ne.symm h, ih]

/-- The pair put into a table without its key reads back. -/
theorem getAt_insertAt_self (d : α) (m : Sparse α) (k : Nat) (x : α) (h : ∀ e ∈ m, e.1 ≠ k) :
    getAt d (insertAt m k x) k = x := by
  induction m with
  | nil => simp [insertAt, getAt]
  | cons e m ih =>
    obtain ⟨i, y⟩ := e
    have hi : i ≠ k := h (i, y) (by simp)
    simp only [insertAt]
    split
    · simp [getAt]
    · simpa [getAt, hi] using ih fun e he => h e (by simp [he])

/-- No entry of a table without key `k` has that key. -/
theorem dropAt_ne (m : Sparse α) (k : Nat) : ∀ e ∈ dropAt m k, e.1 ≠ k := by
  intro e he
  simpa using (List.mem_filter.mp he).2

/-- The key that was written reads as the value written. -/
@[simp] theorem getAt_setAt_self [DecidableEq α] (d : α) (m : Sparse α) (k : Nat) (x : α) :
    getAt d (setAt d m k x) k = x := by
  unfold setAt
  split
  · rename_i h
    simp [getAt_dropAt, h]
  · exact getAt_insertAt_self d _ k x (dropAt_ne m k)

/-- Every other key reads as before. -/
theorem getAt_setAt_ne [DecidableEq α] (d : α) (m : Sparse α) (k j : Nat) (x : α) (h : j ≠ k) :
    getAt d (setAt d m k x) j = getAt d m j := by
  unfold setAt
  split
  · simp [getAt_dropAt, h]
  · rw [getAt_insertAt _ _ _ _ _ h, getAt_dropAt, if_neg h]

/-- The two cases in one. -/
theorem getAt_setAt [DecidableEq α] (d : α) (m : Sparse α) (k j : Nat) (x : α) :
    getAt d (setAt d m k x) j = if j = k then x else getAt d m j := by
  split
  · rename_i h
    rw [h, getAt_setAt_self]
  · rename_i h
    exact getAt_setAt_ne d m k j x h

/-! ### The canonical form -/

/-- The canonical form says that the keys rise strictly and that no entry is what an unlisted key reads as. -/
theorem tableWf_iff [DecidableEq α] (d : α) (m : Sparse α) :
    tableWf d m = true ↔ m.Pairwise (fun a b => a.1 < b.1) ∧ ∀ e ∈ m, e.2 ≠ d := by
  induction m with
  | nil => simp [tableWf]
  | cons e m ih =>
    obtain ⟨j, x⟩ := e
    cases m with
    | nil => simp [tableWf]
    | cons f m =>
      obtain ⟨k, y⟩ := f
      simp only [tableWf, Bool.and_eq_true, decide_eq_true_eq, ih, List.pairwise_cons, List.mem_cons,
        forall_eq_or_imp]
      constructor
      · rintro ⟨⟨hx, hjk⟩, ⟨hk, hp⟩, hy, hm⟩
        exact ⟨⟨⟨hjk, fun e he => Nat.lt_trans hjk (hk e he)⟩, hk, hp⟩, hx, hy, hm⟩
      · rintro ⟨⟨⟨hjk, _⟩, hk, hp⟩, hx, hy, hm⟩
        exact ⟨⟨hx, hjk⟩, ⟨hk, hp⟩, hy, hm⟩

/-- What an inserted pair adds to a table. -/
theorem mem_insertAt (m : Sparse α) (k : Nat) (x : α) (e : Nat × α) :
    e ∈ insertAt m k x ↔ e = (k, x) ∨ e ∈ m := by
  induction m with
  | nil => simp [insertAt]
  | cons f m ih =>
    obtain ⟨j, y⟩ := f
    simp only [insertAt]
    split
    · simp
    · simp only [List.mem_cons, ih]
      exact or_left_comm

/-- Dropping a key keeps the canonical form. -/
theorem tableWf_dropAt [DecidableEq α] (d : α) (m : Sparse α) (k : Nat) (h : tableWf d m = true) :
    tableWf d (dropAt m k) = true := by
  rw [tableWf_iff] at h ⊢
  exact ⟨h.1.filter _, fun e he => h.2 e (List.mem_filter.mp he).1⟩

/-- Inserting a listed value under a new key keeps the canonical form. -/
theorem tableWf_insertAt [DecidableEq α] (d : α) (m : Sparse α) (k : Nat) (x : α) (h : tableWf d m = true)
    (hk : ∀ e ∈ m, e.1 ≠ k) (hx : x ≠ d) : tableWf d (insertAt m k x) = true := by
  rw [tableWf_iff] at h ⊢
  refine ⟨?_, fun e he => by
    rcases (mem_insertAt m k x e).mp he with rfl | he
    · exact hx
    · exact h.2 e he⟩
  replace h := h.1
  induction m with
  | nil => simp [insertAt]
  | cons f m ih =>
    obtain ⟨j, y⟩ := f
    have hj : j ≠ k := hk (j, y) (by simp)
    rw [List.pairwise_cons] at h
    simp only [insertAt]
    split
    · rename_i hkj
      refine List.pairwise_cons.mpr ⟨fun e he => ?_, List.pairwise_cons.mpr h⟩
      rcases List.mem_cons.mp he with rfl | he
      · exact hkj
      · exact Nat.lt_trans hkj (h.1 e he)
    · rename_i hkj
      refine List.pairwise_cons.mpr ⟨fun e he => ?_, ih (fun e he => hk e (by simp [he])) h.2⟩
      rcases (mem_insertAt m k x e).mp he with rfl | he
      · show j < k
        omega
      · exact h.1 e he

/-- A write keeps the canonical form. -/
@[simp] theorem tableWf_setAt [DecidableEq α] (d : α) (m : Sparse α) (k : Nat) (x : α) (h : tableWf d m = true) :
    tableWf d (setAt d m k x) = true := by
  unfold setAt
  split
  · exact tableWf_dropAt d m k h
  · exact tableWf_insertAt d _ k x (tableWf_dropAt d m k h) (dropAt_ne m k) ‹_›

/-- A memory with one byte written keeps its canonical form. -/
@[simp] theorem wf_setByte (m : Sparse Byte) (a : Nat) (x : Byte) (h : Memory.wf m = true) :
    Memory.wf (setByte m a x) = true := tableWf_setAt 0 m a x h

/-- A memory with a list of bytes written keeps its canonical form. -/
@[simp] theorem wf_writeBytes (m : Sparse Byte) (a : Nat) (bs : List Byte) (h : Memory.wf m = true) :
    Memory.wf (writeBytes m a bs) = true := by
  induction bs generalizing m a with
  | nil => exact h
  | cons b bs ih => exact ih _ _ (wf_setByte m a b h)

/-- A memory with a number written keeps its canonical form. -/
@[simp] theorem wf_writeLE (m : Sparse Byte) (a n x : Nat) (h : Memory.wf m = true) :
    Memory.wf (writeLE m a n x) = true := by
  induction n generalizing m a x with
  | zero => exact h
  | succ n ih => exact ih _ _ _ (wf_setByte m a _ h)

/-- A fold of byte writes keeps the canonical form. -/
theorem wf_foldl {β : Type} (f : Sparse Byte → β → Sparse Byte) (hf : ∀ m x, Memory.wf m = true → Memory.wf (f m x) = true)
    (l : List β) (m : Sparse Byte) (h : Memory.wf m = true) : Memory.wf (l.foldl f m) = true := by
  induction l generalizing m with
  | nil => exact h
  | cons x l ih => exact ih _ (hf m x h)

/-! ### Bytes -/

/-- The byte written reads back, every other byte as before. -/
theorem getByte_setByte (m : Sparse Byte) (a b : Nat) (x : Byte) :
    getByte (setByte m a x) b = if b = a then x else getByte m b := getAt_setAt 0 m a b x

/-- A byte outside the bytes written reads as before. -/
theorem getByte_writeBytes_out (m : Sparse Byte) (a b : Nat) (bs : List Byte) (h : b < a ∨ a + bs.length ≤ b) :
    getByte (writeBytes m a bs) b = getByte m b := by
  induction bs generalizing m a with
  | nil => rfl
  | cons x bs ih =>
    simp only [List.length_cons] at h
    rw [writeBytes, ih _ _ (by omega), getByte_setByte, if_neg (by omega)]

/-- A byte inside the bytes written reads as written. -/
theorem getByte_writeBytes_in (m : Sparse Byte) (a k : Nat) (bs : List Byte) (h : k < bs.length) :
    getByte (writeBytes m a bs) (a + k) = bs.getD k 0 := by
  induction bs generalizing m a k with
  | nil => simp at h
  | cons x bs ih =>
    rw [writeBytes]
    cases k with
    | zero =>
      rw [getByte_writeBytes_out _ _ _ _ (by omega)]
      simp [getByte_setByte]
    | succ k =>
      have := ih (setByte m a x) (a + 1) k (by simpa using h)
      rw [show a + (k + 1) = a + 1 + k by omega, this]
      rfl

/-- The bytes written read back. -/
@[simp] theorem readBytes_writeBytes (m : Sparse Byte) (a : Nat) (bs : List Byte) :
    readBytes (writeBytes m a bs) a bs.length = bs := by
  induction bs generalizing m a with
  | nil => rfl
  | cons x bs ih =>
    rw [List.length_cons, readBytes, writeBytes, getByte_writeBytes_out _ _ _ _ (by omega), ih]
    simp [getByte_setByte]

/-- A number and its bytes. -/
@[simp] theorem bytesToNat_natToBytes (n x : Nat) : bytesToNat (natToBytes n x) = x % 256 ^ n := by
  induction n generalizing x with
  | zero => simp [natToBytes, bytesToNat, Nat.mod_one]
  | succ n ih =>
    simp only [natToBytes, bytesToNat, ih, BitVec.toNat_ofNat]
    rw [show 256 ^ (n + 1) = 256 * 256 ^ n from Nat.pow_succ', Nat.mod_mul (a := 256)]

@[simp] theorem length_natToBytes (n x : Nat) : (natToBytes n x).length = n := by
  induction n generalizing x with
  | zero => rfl
  | succ n ih => simp [natToBytes, ih]

@[simp] theorem length_readBytes (m : Sparse Byte) (a n : Nat) : (readBytes m a n).length = n := by
  induction n generalizing a with
  | zero => rfl
  | succ n ih => simp [readBytes, ih]

/-- The number at an address is the number of its bytes. -/
theorem readLE_eq (m : Sparse Byte) (a n : Nat) : readLE m a n = bytesToNat (readBytes m a n) := by
  induction n generalizing a with
  | zero => rfl
  | succ n ih => simp [readLE, readBytes, bytesToNat, ih]

/-! ### Tables of objects -/

/-- A table of objects holds nothing at a dropped key, and at another key what it held. -/
theorem look_dropAt (t : List (Nat × α)) (k j : Nat) : look (dropAt t k) j = if j = k then none else look t j := by
  induction t with
  | nil => simp [dropAt, look]
  | cons e t ih =>
    obtain ⟨i, x⟩ := e
    by_cases h : i = k <;> by_cases hj : i = j <;> simp_all [dropAt, look]
    all_goals grind

/-- Dropping a key and then looking it up gives nothing. -/
@[simp] theorem look_dropAt_self (t : List (Nat × α)) (k : Nat) : look (dropAt t k) k = none := by
  simp [look_dropAt]

theorem look_insertAt_ne (t : List (Nat × α)) (k j : Nat) (x : α) (h : j ≠ k) : look (insertAt t k x) j = look t j := by
  induction t with
  | nil => simp [insertAt, look, Ne.symm h]
  | cons e t ih =>
    obtain ⟨i, y⟩ := e
    simp only [insertAt]
    split <;> simp [look, Ne.symm h, ih]

theorem look_insertAt_self (t : List (Nat × α)) (k : Nat) (x : α) (h : ∀ e ∈ t, e.1 ≠ k) :
    look (insertAt t k x) k = some x := by
  induction t with
  | nil => simp [insertAt, look]
  | cons e t ih =>
    obtain ⟨i, y⟩ := e
    have hi : i ≠ k := h (i, y) (by simp)
    simp only [insertAt]
    split
    · simp [look]
    · simpa [look, hi] using ih fun e he => h e (by simp [he])

/-- The object put at a key is there. -/
@[simp] theorem look_put_self (t : List (Nat × α)) (k : Nat) (x : α) : look (put t k x) k = some x :=
  look_insertAt_self _ k x (dropAt_ne t k)

/-- Every other key holds what it held. -/
theorem look_put_ne (t : List (Nat × α)) (k j : Nat) (x : α) (h : j ≠ k) : look (put t k x) j = look t j := by
  rw [put, look_insertAt_ne _ _ _ _ h, look_dropAt, if_neg h]

/-- The two cases in one. -/
theorem look_put (t : List (Nat × α)) (k j : Nat) (x : α) : look (put t k x) j = if j = k then some x else look t j := by
  split
  · rename_i h
    rw [h, look_put_self]
  · rename_i h
    exact look_put_ne t k j x h

/-- The keys that an object put at a key leaves, and the one it adds. -/
theorem dropAt_insertAt_self (t : List (Nat × α)) (k : Nat) (x : α) : dropAt (insertAt t k x) k = dropAt t k := by
  induction t with
  | nil => simp [insertAt, dropAt]
  | cons e t ih =>
    obtain ⟨i, y⟩ := e
    simp only [insertAt]
    split
    · simp [dropAt]
    · simp only [dropAt, List.filter_cons] at ih ⊢
      rw [ih]

/-- The object put last at a key is the one that counts. -/
@[simp] theorem put_put (t : List (Nat × α)) (k : Nat) (x y : α) : put (put t k x) k y = put t k y := by
  have h : dropAt (dropAt t k) k = dropAt t k := by simp [dropAt, List.filter_filter]
  rw [put, put, dropAt_insertAt_self, h]
  rfl

end Sys2Proof.Machine
end

