-- ==== Sys2Proof/Laws/Issue.lean ====
section
/-! SUPPORT. The issue of an instruction and its completion, once for every meaning that cites them. -/

namespace Sys2Proof.Machine

/-- An issued instruction goes straight to its own effect. -/
theorem issue_ready {s : State} {i : Instr} {e : Env} (h : Ready s i e) (k : State → Env → Out) :
    issue s i k = k s e := by
  simp [issue, h.env, h.checks, meetErrors, h.clean]

/-- Everything `issue` can do. -/
theorem issue_cases (s : State) (i : Instr) (k : State → Env → Out) :
    (envOf s i = none ∧ issue s i k = .fault .notAtIssue) ∨
    (∃ e code, envOf s i = some e ∧ crewCheck e.blk e.c e.cw i = some code ∧
      issue s i k = .next (s.raiseAt e code 0 e.act)) ∨
    (∃ e, envOf s i = some e ∧ crewCheck e.blk e.c e.cw i = none ∧ issue s i k = meetErrors s e i k) := by
  unfold issue
  cases h : envOf s i with
  | none => exact .inl ⟨rfl, rfl⟩
  | some e =>
    cases hc : crewCheck e.blk e.c e.cw i with
    | some c => exact .inr (.inl ⟨e, c, rfl, hc, by simp [hc]⟩)
    | none => exact .inr (.inr ⟨e, rfl, hc, by simp [hc]⟩)

/-- The environment names the crew that stands at issue, as the state holds it. -/
theorem envOf_eq {s : State} {i : Instr} {e : Env} (h : envOf s i = some e) :
    s.cur = some (e.b, e.c) ∧ s.block e.b = some e.blk ∧ look e.blk.crews e.c = some e.cw ∧ e.cw.wait = .ready ∧
      e.cw.live ≠ 0 ∧ e.blk.phase = .running ∧ e.blk.hold = none ∧ (s.ctx e.blk.slot).state = .live ∧
      e.ipc = e.cw.ipc ∧ e.act = e.cw.active e.cw.ipc ∧ e.part = e.cw.active e.cw.ipc &&& e.cw.guard (hdrOf i) ∧
      e.len = lenOf i ∧ e.h = hdrOf i := by
  unfold envOf at h
  split at h
  · cases h
  split at h
  · cases h
  split at h
  · cases h
  split at h
  · rename_i hc
    simp only [Bool.and_eq_true, decide_eq_true_eq, Option.isNone_iff_eq_none] at hc
    cases h
    simp_all
  · cases h

/-- The enables of FPC do not change when flags merge into it (R137). -/
theorem enables_merge (x : Word) (fl : Flags) : (x ||| fl.setWidth 32).extractLsb' 8 5 = x.extractLsb' 8 5 := by
  ext i hi
  have h5 : fl.getLsbD (8 + i) = false := BitVec.getLsbD_of_ge _ _ (by omega)
  simp [h5]

/-- Writes of registers leave FPC as it was. -/
@[simp] theorem write1_fpc (w : Crew) (x : Wr) : (w.write1 x).fpc = w.fpc := by
  cases x <;> simp [Crew.write1]
  split <;> rfl

/-- Writes of registers leave FPC as it was. -/
@[simp] theorem write_fpc (w : Crew) (ws : List Wr) : (w.write ws).fpc = w.fpc := by
  induction ws generalizing w with
  | nil => rfl
  | cons x ws ih => simpa [Crew.write] using ih (w.write1 x)

/-- The advance of the lanes leaves FPC as it was. -/
@[simp] theorem advance_fpc (s : State) (e : Env) (w : Crew) : (e.advance s w).fpc = w.fpc := rfl
/-- The advance of the lanes leaves MCLF as it was. -/
@[simp] theorem advance_mclf (s : State) (e : Env) (w : Crew) : (e.advance s w).mclf = w.mclf := rfl

/-- A fixed-latency instruction that raises no enabled flag and no cause completes. -/
theorem complete_settled (s : State) (e : Env) (f : Eff) (ht : f.trap = none)
    (hf : orFlags f.flags &&& e.cw.enables = 0) :
    complete s e f = .next (settled s e f.wr (orFlags f.flags) f.clamp) := by
  have hen : Crew.enables { e.advance s (e.cw.write f.wr) with
      fpc := (e.advance s (e.cw.write f.wr)).fpc ||| (orFlags f.flags).setWidth 32,
      mclf := (e.advance s (e.cw.write f.wr)).mclf || f.clamp } = e.cw.enables := by
    simp [Crew.enables, enables_merge]
  simp only [complete, ht]
  rw [hen, if_pos hf]
  rfl

/-- A fixed-latency instruction that raises no flag and no cause completes. -/
theorem complete_noFlags (s : State) (e : Env) (f : Eff) (ht : f.trap = none) (hf : orFlags f.flags = 0)
    (hc : f.clamp = false) : complete s e f = .next (settled s e f.wr 0 false) := by
  rw [complete_settled s e f ht (by rw [hf]; simp), hf, hc]

end Sys2Proof.Machine
end

