-- ==== Sys2Proof/Laws/State.lean ====
section
/-! SUPPORT. What each named update of the state and of a crew leaves as it was, field by field, and what the part it
replaces reads as afterwards. -/

namespace Sys2Proof.Machine

/-! ### `State.setBlock` -/

@[simp] theorem State.setBlock_turns (s : State) (b : Nat) (x : Block) : (s.setBlock b x).turns = s.turns := rfl
@[simp] theorem State.setBlock_cur (s : State) (b : Nat) (x : Block) : (s.setBlock b x).cur = s.cur := rfl
@[simp] theorem State.setBlock_steps (s : State) (b : Nat) (x : Block) : (s.setBlock b x).steps = s.steps := rfl
@[simp] theorem State.setBlock_clock (s : State) (b : Nat) (x : Block) : (s.setBlock b x).clock = s.clock := rfl
@[simp] theorem State.setBlock_fresh (s : State) (b : Nat) (x : Block) : (s.setBlock b x).fresh = s.fresh := rfl
@[simp] theorem State.setBlock_ctxs (s : State) (b : Nat) (x : Block) : (s.setBlock b x).ctxs = s.ctxs := rfl
@[simp] theorem State.setBlock_grids (s : State) (b : Nat) (x : Block) : (s.setBlock b x).grids = s.grids := rfl
@[simp] theorem State.setBlock_die0 (s : State) (b : Nat) (x : Block) : (s.setBlock b x).die0 = s.die0 := rfl
@[simp] theorem State.setBlock_die1 (s : State) (b : Nat) (x : Block) : (s.setBlock b x).die1 = s.die1 := rfl
@[simp] theorem State.setBlock_records (s : State) (b : Nat) (x : Block) : (s.setBlock b x).records = s.records := rfl
@[simp] theorem State.setBlock_copies (s : State) (b : Nat) (x : Block) : (s.setBlock b x).copies = s.copies := rfl
@[simp] theorem State.setBlock_tokens (s : State) (b : Nat) (x : Block) : (s.setBlock b x).tokens = s.tokens := rfl
@[simp] theorem State.setBlock_olds (s : State) (b : Nat) (x : Block) : (s.setBlock b x).olds = s.olds := rfl
@[simp] theorem State.setBlock_fars (s : State) (b : Nat) (x : Block) : (s.setBlock b x).fars = s.fars := rfl
@[simp] theorem State.setBlock_slsqs (s : State) (b : Nat) (x : Block) : (s.setBlock b x).slsqs = s.slsqs := rfl
@[simp] theorem State.setBlock_opts (s : State) (b : Nat) (x : Block) : (s.setBlock b x).opts = s.opts := rfl
@[simp] theorem State.setBlock_colls (s : State) (b : Nat) (x : Block) : (s.setBlock b x).colls = s.colls := rfl
@[simp] theorem State.setBlock_contribs (s : State) (b : Nat) (x : Block) : (s.setBlock b x).contribs = s.contribs := rfl
@[simp] theorem State.setBlock_domains (s : State) (b : Nat) (x : Block) : (s.setBlock b x).domains = s.domains := rfl
@[simp] theorem State.setBlock_sends (s : State) (b : Nat) (x : Block) : (s.setBlock b x).sends = s.sends := rfl
@[simp] theorem State.setBlock_d2d (s : State) (b : Nat) (x : Block) : (s.setBlock b x).d2d = s.d2d := rfl
@[simp] theorem State.setBlock_d2dDown (s : State) (b : Nat) (x : Block) : (s.setBlock b x).d2dDown = s.d2dDown := rfl
@[simp] theorem State.setBlock_hostReqs (s : State) (b : Nat) (x : Block) : (s.setBlock b x).hostReqs = s.hostReqs := rfl
@[simp] theorem State.setBlock_dmem (s : State) (b : Nat) (x : Block) : (s.setBlock b x).dmem = s.dmem := rfl
@[simp] theorem State.setBlock_hmem (s : State) (b : Nat) (x : Block) : (s.setBlock b x).hmem = s.hmem := rfl
@[simp] theorem State.setBlock_poison (s : State) (b : Nat) (x : Block) : (s.setBlock b x).poison = s.poison := rfl
@[simp] theorem State.setBlock_ecc (s : State) (b : Nat) (x : Block) : (s.setBlock b x).ecc = s.ecc := rfl
@[simp] theorem State.setBlock_stale (s : State) (b : Nat) (x : Block) : (s.setBlock b x).stale = s.stale := rfl
@[simp] theorem State.setBlock_age0 (s : State) (b : Nat) (x : Block) : (s.setBlock b x).age0 = s.age0 := rfl
@[simp] theorem State.setBlock_age1 (s : State) (b : Nat) (x : Block) : (s.setBlock b x).age1 = s.age1 := rfl
@[simp] theorem State.setBlock_host (s : State) (b : Nat) (x : Block) : (s.setBlock b x).host = s.host := rfl
@[simp] theorem State.setBlock_fab (s : State) (b : Nat) (x : Block) : (s.setBlock b x).fab = s.fab := rfl
@[simp] theorem State.setBlock_mgmt (s : State) (b : Nat) (x : Block) : (s.setBlock b x).mgmt = s.mgmt := rfl
@[simp] theorem State.setBlock_power (s : State) (b : Nat) (x : Block) : (s.setBlock b x).power = s.power := rfl

/-! ### `State.dropBlock` -/

@[simp] theorem State.dropBlock_turns (s : State) (b : Nat) : (s.dropBlock b).turns = s.turns := rfl
@[simp] theorem State.dropBlock_cur (s : State) (b : Nat) : (s.dropBlock b).cur = s.cur := rfl
@[simp] theorem State.dropBlock_steps (s : State) (b : Nat) : (s.dropBlock b).steps = s.steps := rfl
@[simp] theorem State.dropBlock_clock (s : State) (b : Nat) : (s.dropBlock b).clock = s.clock := rfl
@[simp] theorem State.dropBlock_fresh (s : State) (b : Nat) : (s.dropBlock b).fresh = s.fresh := rfl
@[simp] theorem State.dropBlock_ctxs (s : State) (b : Nat) : (s.dropBlock b).ctxs = s.ctxs := rfl
@[simp] theorem State.dropBlock_grids (s : State) (b : Nat) : (s.dropBlock b).grids = s.grids := rfl
@[simp] theorem State.dropBlock_die0 (s : State) (b : Nat) : (s.dropBlock b).die0 = s.die0 := rfl
@[simp] theorem State.dropBlock_die1 (s : State) (b : Nat) : (s.dropBlock b).die1 = s.die1 := rfl
@[simp] theorem State.dropBlock_records (s : State) (b : Nat) : (s.dropBlock b).records = s.records := rfl
@[simp] theorem State.dropBlock_copies (s : State) (b : Nat) : (s.dropBlock b).copies = s.copies := rfl
@[simp] theorem State.dropBlock_tokens (s : State) (b : Nat) : (s.dropBlock b).tokens = s.tokens := rfl
@[simp] theorem State.dropBlock_olds (s : State) (b : Nat) : (s.dropBlock b).olds = s.olds := rfl
@[simp] theorem State.dropBlock_fars (s : State) (b : Nat) : (s.dropBlock b).fars = s.fars := rfl
@[simp] theorem State.dropBlock_slsqs (s : State) (b : Nat) : (s.dropBlock b).slsqs = s.slsqs := rfl
@[simp] theorem State.dropBlock_opts (s : State) (b : Nat) : (s.dropBlock b).opts = s.opts := rfl
@[simp] theorem State.dropBlock_colls (s : State) (b : Nat) : (s.dropBlock b).colls = s.colls := rfl
@[simp] theorem State.dropBlock_contribs (s : State) (b : Nat) : (s.dropBlock b).contribs = s.contribs := rfl
@[simp] theorem State.dropBlock_domains (s : State) (b : Nat) : (s.dropBlock b).domains = s.domains := rfl
@[simp] theorem State.dropBlock_sends (s : State) (b : Nat) : (s.dropBlock b).sends = s.sends := rfl
@[simp] theorem State.dropBlock_d2d (s : State) (b : Nat) : (s.dropBlock b).d2d = s.d2d := rfl
@[simp] theorem State.dropBlock_d2dDown (s : State) (b : Nat) : (s.dropBlock b).d2dDown = s.d2dDown := rfl
@[simp] theorem State.dropBlock_hostReqs (s : State) (b : Nat) : (s.dropBlock b).hostReqs = s.hostReqs := rfl
@[simp] theorem State.dropBlock_dmem (s : State) (b : Nat) : (s.dropBlock b).dmem = s.dmem := rfl
@[simp] theorem State.dropBlock_hmem (s : State) (b : Nat) : (s.dropBlock b).hmem = s.hmem := rfl
@[simp] theorem State.dropBlock_poison (s : State) (b : Nat) : (s.dropBlock b).poison = s.poison := rfl
@[simp] theorem State.dropBlock_ecc (s : State) (b : Nat) : (s.dropBlock b).ecc = s.ecc := rfl
@[simp] theorem State.dropBlock_stale (s : State) (b : Nat) : (s.dropBlock b).stale = s.stale := rfl
@[simp] theorem State.dropBlock_age0 (s : State) (b : Nat) : (s.dropBlock b).age0 = s.age0 := rfl
@[simp] theorem State.dropBlock_age1 (s : State) (b : Nat) : (s.dropBlock b).age1 = s.age1 := rfl
@[simp] theorem State.dropBlock_host (s : State) (b : Nat) : (s.dropBlock b).host = s.host := rfl
@[simp] theorem State.dropBlock_fab (s : State) (b : Nat) : (s.dropBlock b).fab = s.fab := rfl
@[simp] theorem State.dropBlock_mgmt (s : State) (b : Nat) : (s.dropBlock b).mgmt = s.mgmt := rfl
@[simp] theorem State.dropBlock_power (s : State) (b : Nat) : (s.dropBlock b).power = s.power := rfl

/-! ### `State.setCtx` -/

@[simp] theorem State.setCtx_turns (s : State) (k : Nat) (x : Ctx) : (s.setCtx k x).turns = s.turns := rfl
@[simp] theorem State.setCtx_cur (s : State) (k : Nat) (x : Ctx) : (s.setCtx k x).cur = s.cur := rfl
@[simp] theorem State.setCtx_steps (s : State) (k : Nat) (x : Ctx) : (s.setCtx k x).steps = s.steps := rfl
@[simp] theorem State.setCtx_clock (s : State) (k : Nat) (x : Ctx) : (s.setCtx k x).clock = s.clock := rfl
@[simp] theorem State.setCtx_fresh (s : State) (k : Nat) (x : Ctx) : (s.setCtx k x).fresh = s.fresh := rfl
@[simp] theorem State.setCtx_grids (s : State) (k : Nat) (x : Ctx) : (s.setCtx k x).grids = s.grids := rfl
@[simp] theorem State.setCtx_blocks (s : State) (k : Nat) (x : Ctx) : (s.setCtx k x).blocks = s.blocks := rfl
@[simp] theorem State.setCtx_die0 (s : State) (k : Nat) (x : Ctx) : (s.setCtx k x).die0 = s.die0 := rfl
@[simp] theorem State.setCtx_die1 (s : State) (k : Nat) (x : Ctx) : (s.setCtx k x).die1 = s.die1 := rfl
@[simp] theorem State.setCtx_records (s : State) (k : Nat) (x : Ctx) : (s.setCtx k x).records = s.records := rfl
@[simp] theorem State.setCtx_copies (s : State) (k : Nat) (x : Ctx) : (s.setCtx k x).copies = s.copies := rfl
@[simp] theorem State.setCtx_tokens (s : State) (k : Nat) (x : Ctx) : (s.setCtx k x).tokens = s.tokens := rfl
@[simp] theorem State.setCtx_olds (s : State) (k : Nat) (x : Ctx) : (s.setCtx k x).olds = s.olds := rfl
@[simp] theorem State.setCtx_fars (s : State) (k : Nat) (x : Ctx) : (s.setCtx k x).fars = s.fars := rfl
@[simp] theorem State.setCtx_slsqs (s : State) (k : Nat) (x : Ctx) : (s.setCtx k x).slsqs = s.slsqs := rfl
@[simp] theorem State.setCtx_opts (s : State) (k : Nat) (x : Ctx) : (s.setCtx k x).opts = s.opts := rfl
@[simp] theorem State.setCtx_colls (s : State) (k : Nat) (x : Ctx) : (s.setCtx k x).colls = s.colls := rfl
@[simp] theorem State.setCtx_contribs (s : State) (k : Nat) (x : Ctx) : (s.setCtx k x).contribs = s.contribs := rfl
@[simp] theorem State.setCtx_domains (s : State) (k : Nat) (x : Ctx) : (s.setCtx k x).domains = s.domains := rfl
@[simp] theorem State.setCtx_sends (s : State) (k : Nat) (x : Ctx) : (s.setCtx k x).sends = s.sends := rfl
@[simp] theorem State.setCtx_d2d (s : State) (k : Nat) (x : Ctx) : (s.setCtx k x).d2d = s.d2d := rfl
@[simp] theorem State.setCtx_d2dDown (s : State) (k : Nat) (x : Ctx) : (s.setCtx k x).d2dDown = s.d2dDown := rfl
@[simp] theorem State.setCtx_hostReqs (s : State) (k : Nat) (x : Ctx) : (s.setCtx k x).hostReqs = s.hostReqs := rfl
@[simp] theorem State.setCtx_dmem (s : State) (k : Nat) (x : Ctx) : (s.setCtx k x).dmem = s.dmem := rfl
@[simp] theorem State.setCtx_hmem (s : State) (k : Nat) (x : Ctx) : (s.setCtx k x).hmem = s.hmem := rfl
@[simp] theorem State.setCtx_poison (s : State) (k : Nat) (x : Ctx) : (s.setCtx k x).poison = s.poison := rfl
@[simp] theorem State.setCtx_ecc (s : State) (k : Nat) (x : Ctx) : (s.setCtx k x).ecc = s.ecc := rfl
@[simp] theorem State.setCtx_stale (s : State) (k : Nat) (x : Ctx) : (s.setCtx k x).stale = s.stale := rfl
@[simp] theorem State.setCtx_age0 (s : State) (k : Nat) (x : Ctx) : (s.setCtx k x).age0 = s.age0 := rfl
@[simp] theorem State.setCtx_age1 (s : State) (k : Nat) (x : Ctx) : (s.setCtx k x).age1 = s.age1 := rfl
@[simp] theorem State.setCtx_host (s : State) (k : Nat) (x : Ctx) : (s.setCtx k x).host = s.host := rfl
@[simp] theorem State.setCtx_fab (s : State) (k : Nat) (x : Ctx) : (s.setCtx k x).fab = s.fab := rfl
@[simp] theorem State.setCtx_mgmt (s : State) (k : Nat) (x : Ctx) : (s.setCtx k x).mgmt = s.mgmt := rfl
@[simp] theorem State.setCtx_power (s : State) (k : Nat) (x : Ctx) : (s.setCtx k x).power = s.power := rfl

/-! ### `State.setGrid` -/

@[simp] theorem State.setGrid_turns (s : State) (k : Nat) (x : Grid) : (s.setGrid k x).turns = s.turns := rfl
@[simp] theorem State.setGrid_cur (s : State) (k : Nat) (x : Grid) : (s.setGrid k x).cur = s.cur := rfl
@[simp] theorem State.setGrid_steps (s : State) (k : Nat) (x : Grid) : (s.setGrid k x).steps = s.steps := rfl
@[simp] theorem State.setGrid_clock (s : State) (k : Nat) (x : Grid) : (s.setGrid k x).clock = s.clock := rfl
@[simp] theorem State.setGrid_fresh (s : State) (k : Nat) (x : Grid) : (s.setGrid k x).fresh = s.fresh := rfl
@[simp] theorem State.setGrid_ctxs (s : State) (k : Nat) (x : Grid) : (s.setGrid k x).ctxs = s.ctxs := rfl
@[simp] theorem State.setGrid_blocks (s : State) (k : Nat) (x : Grid) : (s.setGrid k x).blocks = s.blocks := rfl
@[simp] theorem State.setGrid_die0 (s : State) (k : Nat) (x : Grid) : (s.setGrid k x).die0 = s.die0 := rfl
@[simp] theorem State.setGrid_die1 (s : State) (k : Nat) (x : Grid) : (s.setGrid k x).die1 = s.die1 := rfl
@[simp] theorem State.setGrid_records (s : State) (k : Nat) (x : Grid) : (s.setGrid k x).records = s.records := rfl
@[simp] theorem State.setGrid_copies (s : State) (k : Nat) (x : Grid) : (s.setGrid k x).copies = s.copies := rfl
@[simp] theorem State.setGrid_tokens (s : State) (k : Nat) (x : Grid) : (s.setGrid k x).tokens = s.tokens := rfl
@[simp] theorem State.setGrid_olds (s : State) (k : Nat) (x : Grid) : (s.setGrid k x).olds = s.olds := rfl
@[simp] theorem State.setGrid_fars (s : State) (k : Nat) (x : Grid) : (s.setGrid k x).fars = s.fars := rfl
@[simp] theorem State.setGrid_slsqs (s : State) (k : Nat) (x : Grid) : (s.setGrid k x).slsqs = s.slsqs := rfl
@[simp] theorem State.setGrid_opts (s : State) (k : Nat) (x : Grid) : (s.setGrid k x).opts = s.opts := rfl
@[simp] theorem State.setGrid_colls (s : State) (k : Nat) (x : Grid) : (s.setGrid k x).colls = s.colls := rfl
@[simp] theorem State.setGrid_contribs (s : State) (k : Nat) (x : Grid) : (s.setGrid k x).contribs = s.contribs := rfl
@[simp] theorem State.setGrid_domains (s : State) (k : Nat) (x : Grid) : (s.setGrid k x).domains = s.domains := rfl
@[simp] theorem State.setGrid_sends (s : State) (k : Nat) (x : Grid) : (s.setGrid k x).sends = s.sends := rfl
@[simp] theorem State.setGrid_d2d (s : State) (k : Nat) (x : Grid) : (s.setGrid k x).d2d = s.d2d := rfl
@[simp] theorem State.setGrid_d2dDown (s : State) (k : Nat) (x : Grid) : (s.setGrid k x).d2dDown = s.d2dDown := rfl
@[simp] theorem State.setGrid_hostReqs (s : State) (k : Nat) (x : Grid) : (s.setGrid k x).hostReqs = s.hostReqs := rfl
@[simp] theorem State.setGrid_dmem (s : State) (k : Nat) (x : Grid) : (s.setGrid k x).dmem = s.dmem := rfl
@[simp] theorem State.setGrid_hmem (s : State) (k : Nat) (x : Grid) : (s.setGrid k x).hmem = s.hmem := rfl
@[simp] theorem State.setGrid_poison (s : State) (k : Nat) (x : Grid) : (s.setGrid k x).poison = s.poison := rfl
@[simp] theorem State.setGrid_ecc (s : State) (k : Nat) (x : Grid) : (s.setGrid k x).ecc = s.ecc := rfl
@[simp] theorem State.setGrid_stale (s : State) (k : Nat) (x : Grid) : (s.setGrid k x).stale = s.stale := rfl
@[simp] theorem State.setGrid_age0 (s : State) (k : Nat) (x : Grid) : (s.setGrid k x).age0 = s.age0 := rfl
@[simp] theorem State.setGrid_age1 (s : State) (k : Nat) (x : Grid) : (s.setGrid k x).age1 = s.age1 := rfl
@[simp] theorem State.setGrid_host (s : State) (k : Nat) (x : Grid) : (s.setGrid k x).host = s.host := rfl
@[simp] theorem State.setGrid_fab (s : State) (k : Nat) (x : Grid) : (s.setGrid k x).fab = s.fab := rfl
@[simp] theorem State.setGrid_mgmt (s : State) (k : Nat) (x : Grid) : (s.setGrid k x).mgmt = s.mgmt := rfl
@[simp] theorem State.setGrid_power (s : State) (k : Nat) (x : Grid) : (s.setGrid k x).power = s.power := rfl

/-! ### `State.setDie` -/

@[simp] theorem State.setDie_turns (s : State) (d : Nat) (x : Die) : (s.setDie d x).turns = s.turns := by
  unfold State.setDie; split <;> rfl
@[simp] theorem State.setDie_cur (s : State) (d : Nat) (x : Die) : (s.setDie d x).cur = s.cur := by
  unfold State.setDie; split <;> rfl
@[simp] theorem State.setDie_steps (s : State) (d : Nat) (x : Die) : (s.setDie d x).steps = s.steps := by
  unfold State.setDie; split <;> rfl
@[simp] theorem State.setDie_clock (s : State) (d : Nat) (x : Die) : (s.setDie d x).clock = s.clock := by
  unfold State.setDie; split <;> rfl
@[simp] theorem State.setDie_fresh (s : State) (d : Nat) (x : Die) : (s.setDie d x).fresh = s.fresh := by
  unfold State.setDie; split <;> rfl
@[simp] theorem State.setDie_ctxs (s : State) (d : Nat) (x : Die) : (s.setDie d x).ctxs = s.ctxs := by
  unfold State.setDie; split <;> rfl
@[simp] theorem State.setDie_grids (s : State) (d : Nat) (x : Die) : (s.setDie d x).grids = s.grids := by
  unfold State.setDie; split <;> rfl
@[simp] theorem State.setDie_blocks (s : State) (d : Nat) (x : Die) : (s.setDie d x).blocks = s.blocks := by
  unfold State.setDie; split <;> rfl
@[simp] theorem State.setDie_records (s : State) (d : Nat) (x : Die) : (s.setDie d x).records = s.records := by
  unfold State.setDie; split <;> rfl
@[simp] theorem State.setDie_copies (s : State) (d : Nat) (x : Die) : (s.setDie d x).copies = s.copies := by
  unfold State.setDie; split <;> rfl
@[simp] theorem State.setDie_tokens (s : State) (d : Nat) (x : Die) : (s.setDie d x).tokens = s.tokens := by
  unfold State.setDie; split <;> rfl
@[simp] theorem State.setDie_olds (s : State) (d : Nat) (x : Die) : (s.setDie d x).olds = s.olds := by
  unfold State.setDie; split <;> rfl
@[simp] theorem State.setDie_fars (s : State) (d : Nat) (x : Die) : (s.setDie d x).fars = s.fars := by
  unfold State.setDie; split <;> rfl
@[simp] theorem State.setDie_slsqs (s : State) (d : Nat) (x : Die) : (s.setDie d x).slsqs = s.slsqs := by
  unfold State.setDie; split <;> rfl
@[simp] theorem State.setDie_opts (s : State) (d : Nat) (x : Die) : (s.setDie d x).opts = s.opts := by
  unfold State.setDie; split <;> rfl
@[simp] theorem State.setDie_colls (s : State) (d : Nat) (x : Die) : (s.setDie d x).colls = s.colls := by
  unfold State.setDie; split <;> rfl
@[simp] theorem State.setDie_contribs (s : State) (d : Nat) (x : Die) : (s.setDie d x).contribs = s.contribs := by
  unfold State.setDie; split <;> rfl
@[simp] theorem State.setDie_domains (s : State) (d : Nat) (x : Die) : (s.setDie d x).domains = s.domains := by
  unfold State.setDie; split <;> rfl
@[simp] theorem State.setDie_sends (s : State) (d : Nat) (x : Die) : (s.setDie d x).sends = s.sends := by
  unfold State.setDie; split <;> rfl
@[simp] theorem State.setDie_d2d (s : State) (d : Nat) (x : Die) : (s.setDie d x).d2d = s.d2d := by
  unfold State.setDie; split <;> rfl
@[simp] theorem State.setDie_d2dDown (s : State) (d : Nat) (x : Die) : (s.setDie d x).d2dDown = s.d2dDown := by
  unfold State.setDie; split <;> rfl
@[simp] theorem State.setDie_hostReqs (s : State) (d : Nat) (x : Die) : (s.setDie d x).hostReqs = s.hostReqs := by
  unfold State.setDie; split <;> rfl
@[simp] theorem State.setDie_dmem (s : State) (d : Nat) (x : Die) : (s.setDie d x).dmem = s.dmem := by
  unfold State.setDie; split <;> rfl
@[simp] theorem State.setDie_hmem (s : State) (d : Nat) (x : Die) : (s.setDie d x).hmem = s.hmem := by
  unfold State.setDie; split <;> rfl
@[simp] theorem State.setDie_poison (s : State) (d : Nat) (x : Die) : (s.setDie d x).poison = s.poison := by
  unfold State.setDie; split <;> rfl
@[simp] theorem State.setDie_ecc (s : State) (d : Nat) (x : Die) : (s.setDie d x).ecc = s.ecc := by
  unfold State.setDie; split <;> rfl
@[simp] theorem State.setDie_stale (s : State) (d : Nat) (x : Die) : (s.setDie d x).stale = s.stale := by
  unfold State.setDie; split <;> rfl
@[simp] theorem State.setDie_age0 (s : State) (d : Nat) (x : Die) : (s.setDie d x).age0 = s.age0 := by
  unfold State.setDie; split <;> rfl
@[simp] theorem State.setDie_age1 (s : State) (d : Nat) (x : Die) : (s.setDie d x).age1 = s.age1 := by
  unfold State.setDie; split <;> rfl
@[simp] theorem State.setDie_host (s : State) (d : Nat) (x : Die) : (s.setDie d x).host = s.host := by
  unfold State.setDie; split <;> rfl
@[simp] theorem State.setDie_fab (s : State) (d : Nat) (x : Die) : (s.setDie d x).fab = s.fab := by
  unfold State.setDie; split <;> rfl
@[simp] theorem State.setDie_mgmt (s : State) (d : Nat) (x : Die) : (s.setDie d x).mgmt = s.mgmt := by
  unfold State.setDie; split <;> rfl
@[simp] theorem State.setDie_power (s : State) (d : Nat) (x : Die) : (s.setDie d x).power = s.power := by
  unfold State.setDie; split <;> rfl

/-! ### What the replaced parts read as -/

@[simp] theorem State.setBlock_block_self (s : State) (b : Nat) (x : Block) : (s.setBlock b x).block b = some x :=
  look_put_self _ _ _
theorem State.setBlock_block (s : State) (b k : Nat) (x : Block) :
    (s.setBlock b x).block k = if k = b then some x else s.block k := look_put _ _ _ _
@[simp] theorem State.setBlock_setBlock (s : State) (b : Nat) (x y : Block) :
    (s.setBlock b x).setBlock b y = s.setBlock b y := by simp [State.setBlock]
@[simp] theorem State.dropBlock_block_self (s : State) (b : Nat) : (s.dropBlock b).block b = none :=
  look_dropAt_self _ _
@[simp] theorem State.setCtx_ctx_self (s : State) (k : Nat) (x : Ctx) : (s.setCtx k x).ctx k = x := by
  simp [State.ctx, State.setCtx]
theorem State.setCtx_ctx_ne (s : State) (k j : Nat) (x : Ctx) (h : j ≠ k) : (s.setCtx k x).ctx j = s.ctx j := by
  simp [State.ctx, State.setCtx, look_put_ne _ _ _ _ h]
@[simp] theorem State.setGrid_grid_self (s : State) (k : Nat) (x : Grid) : (s.setGrid k x).grid k = some x :=
  look_put_self _ _ _
theorem State.setGrid_grid_ne (s : State) (k j : Nat) (x : Grid) (h : j ≠ k) : (s.setGrid k x).grid j = s.grid j :=
  look_put_ne _ _ _ _ h
@[simp] theorem State.setDie_die_self (s : State) (d : Nat) (x : Die) : (s.setDie d x).die d = x := by
  unfold State.setDie State.die; split <;> rfl
theorem State.setDie_die_ne (s : State) (d k : Nat) (x : Die) (h : (d = 0) ≠ (k = 0)) :
    (s.setDie d x).die k = s.die k := by
  unfold State.setDie State.die
  by_cases hd : d = 0 <;> by_cases hk : k = 0 <;> simp_all

/-- A block is what `State.block` reads, whatever table changes beside it. -/
@[simp] theorem State.setCtx_block (s : State) (k : Nat) (x : Ctx) (b : Nat) : (s.setCtx k x).block b = s.block b := rfl
@[simp] theorem State.setGrid_block (s : State) (k : Nat) (x : Grid) (b : Nat) : (s.setGrid k x).block b = s.block b :=
  rfl
@[simp] theorem State.setDie_block (s : State) (d : Nat) (x : Die) (b : Nat) : (s.setDie d x).block b = s.block b := by
  simp [State.block]
@[simp] theorem State.setBlock_ctx (s : State) (b : Nat) (x : Block) (k : Nat) : (s.setBlock b x).ctx k = s.ctx k := rfl
@[simp] theorem State.setGrid_ctx (s : State) (g : Nat) (x : Grid) (k : Nat) : (s.setGrid g x).ctx k = s.ctx k := rfl
@[simp] theorem State.setDie_ctx (s : State) (d : Nat) (x : Die) (k : Nat) : (s.setDie d x).ctx k = s.ctx k := by
  simp [State.ctx]
@[simp] theorem State.setBlock_grid (s : State) (b : Nat) (x : Block) (k : Nat) : (s.setBlock b x).grid k = s.grid k :=
  rfl
@[simp] theorem State.setCtx_grid (s : State) (c : Nat) (x : Ctx) (k : Nat) : (s.setCtx c x).grid k = s.grid k := rfl
@[simp] theorem State.setDie_grid (s : State) (d : Nat) (x : Die) (k : Nat) : (s.setDie d x).grid k = s.grid k := by
  simp [State.grid]
@[simp] theorem State.setBlock_die (s : State) (b : Nat) (x : Block) (k : Nat) : (s.setBlock b x).die k = s.die k := rfl
@[simp] theorem State.setCtx_die (s : State) (c : Nat) (x : Ctx) (k : Nat) : (s.setCtx c x).die k = s.die k := rfl
@[simp] theorem State.setGrid_die (s : State) (g : Nat) (x : Grid) (k : Nat) : (s.setGrid g x).die k = s.die k := rfl

/-! ### `Block.setCrew` -/

@[simp] theorem Block.setCrew_slot (x : Block) (c : Nat) (w : Crew) : (x.setCrew c w).slot = x.slot := rfl
@[simp] theorem Block.setCrew_grid (x : Block) (c : Nat) (w : Crew) : (x.setCrew c w).grid = x.grid := rfl
@[simp] theorem Block.setCrew_index (x : Block) (c : Nat) (w : Crew) : (x.setCrew c w).index = x.index := rfl
@[simp] theorem Block.setCrew_die (x : Block) (c : Nat) (w : Crew) : (x.setCrew c w).die = x.die := rfl
@[simp] theorem Block.setCrew_cluster (x : Block) (c : Nat) (w : Crew) : (x.setCrew c w).cluster = x.cluster := rfl
@[simp] theorem Block.setCrew_core (x : Block) (c : Nat) (w : Crew) : (x.setCrew c w).core = x.core := rfl
@[simp] theorem Block.setCrew_phase (x : Block) (c : Nat) (w : Crew) : (x.setCrew c w).phase = x.phase := rfl
@[simp] theorem Block.setCrew_hold (x : Block) (c : Nat) (w : Crew) : (x.setCrew c w).hold = x.hold := rfl
@[simp] theorem Block.setCrew_r (x : Block) (c : Nat) (w : Crew) : (x.setCrew c w).r = x.r := rfl
@[simp] theorem Block.setCrew_share (x : Block) (c : Nat) (w : Crew) : (x.setCrew c w).share = x.share := rfl
@[simp] theorem Block.setCrew_spill (x : Block) (c : Nat) (w : Crew) : (x.setCrew c w).spill = x.spill := rfl
@[simp] theorem Block.setCrew_teams (x : Block) (c : Nat) (w : Crew) : (x.setCrew c w).teams = x.teams := rfl
@[simp] theorem Block.setCrew_arrive (x : Block) (c : Nat) (w : Crew) : (x.setCrew c w).arrive = x.arrive := rfl
@[simp] theorem Block.setCrew_ctab (x : Block) (c : Nat) (w : Crew) : (x.setCrew c w).ctab = x.ctab := rfl
@[simp] theorem Block.setCrew_bank (x : Block) (c : Nat) (w : Crew) : (x.setCrew c w).bank = x.bank := rfl
@[simp] theorem Block.setCrew_triggered (x : Block) (c : Nat) (w : Crew) : (x.setCrew c w).triggered = x.triggered := rfl
@[simp] theorem Block.setCrew_asked (x : Block) (c : Nat) (w : Crew) : (x.setCrew c w).asked = x.asked := rfl
@[simp] theorem Block.setCrew_stays (x : Block) (c : Nat) (w : Crew) : (x.setCrew c w).stays = x.stays := rfl
@[simp] theorem Block.setCrew_code (x : Block) (c : Nat) (w : Crew) : (x.setCrew c w).code = x.code := rfl
@[simp] theorem Block.setCrew_mx (x : Block) (c : Nat) (w : Crew) : (x.setCrew c w).mx = x.mx := rfl
@[simp] theorem Block.setCrew_errs (x : Block) (c : Nat) (w : Crew) : (x.setCrew c w).errs = x.errs := rfl
@[simp] theorem Block.setCrew_self (x : Block) (c : Nat) (w : Crew) : look (x.setCrew c w).crews c = some w :=
  look_put_self _ _ _
theorem Block.setCrew_ne (x : Block) (c k : Nat) (w : Crew) (h : k ≠ c) :
    look (x.setCrew c w).crews k = look x.crews k := look_put_ne _ _ _ _ h
@[simp] theorem Block.setCrew_setCrew (x : Block) (c : Nat) (w y : Crew) :
    (x.setCrew c w).setCrew c y = x.setCrew c y := by simp [Block.setCrew]

/-! ### `Crew.setPcs` -/

@[simp] theorem Crew.setPcs_vg (w : Crew) (m : Word) (g : Nat → Word) : (w.setPcs m g).vg = w.vg := rfl
@[simp] theorem Crew.setPcs_mg (w : Crew) (m : Word) (g : Nat → Word) : (w.setPcs m g).mg = w.mg := rfl
@[simp] theorem Crew.setPcs_quad (w : Crew) (m : Word) (g : Nat → Word) : (w.setPcs m g).quad = w.quad := rfl
@[simp] theorem Crew.setPcs_live (w : Crew) (m : Word) (g : Nat → Word) : (w.setPcs m g).live = w.live := rfl
@[simp] theorem Crew.setPcs_v (w : Crew) (m : Word) (g : Nat → Word) : (w.setPcs m g).v = w.v := rfl
@[simp] theorem Crew.setPcs_m (w : Crew) (m : Word) (g : Nat → Word) : (w.setPcs m g).m = w.m := rfl
@[simp] theorem Crew.setPcs_s (w : Crew) (m : Word) (g : Nat → Word) : (w.setPcs m g).s = w.s := rfl
@[simp] theorem Crew.setPcs_p (w : Crew) (m : Word) (g : Nat → Word) : (w.setPcs m g).p = w.p := rfl
@[simp] theorem Crew.setPcs_strm (w : Crew) (m : Word) (g : Nat → Word) : (w.setPcs m g).strm = w.strm := rfl
@[simp] theorem Crew.setPcs_tid (w : Crew) (m : Word) (g : Nat → Word) : (w.setPcs m g).tid = w.tid := rfl
@[simp] theorem Crew.setPcs_fpc (w : Crew) (m : Word) (g : Nat → Word) : (w.setPcs m g).fpc = w.fpc := rfl
@[simp] theorem Crew.setPcs_mclf (w : Crew) (m : Word) (g : Nat → Word) : (w.setPcs m g).mclf = w.mclf := rfl
@[simp] theorem Crew.setPcs_trapc (w : Crew) (m : Word) (g : Nat → Word) : (w.setPcs m g).trapc = w.trapc := rfl
@[simp] theorem Crew.setPcs_trappc (w : Crew) (m : Word) (g : Nat → Word) : (w.setPcs m g).trappc = w.trappc := rfl
@[simp] theorem Crew.setPcs_trapm (w : Crew) (m : Word) (g : Nat → Word) : (w.setPcs m g).trapm = w.trapm := rfl
@[simp] theorem Crew.setPcs_inTrap (w : Crew) (m : Word) (g : Nat → Word) : (w.setPcs m g).inTrap = w.inTrap := rfl
@[simp] theorem Crew.setPcs_rpcv (w : Crew) (m : Word) (g : Nat → Word) : (w.setPcs m g).rpcv = w.rpcv := rfl
@[simp] theorem Crew.setPcs_held (w : Crew) (m : Word) (g : Nat → Word) : (w.setPcs m g).held = w.held := rfl
@[simp] theorem Crew.setPcs_late (w : Crew) (m : Word) (g : Nat → Word) : (w.setPcs m g).late = w.late := rfl
@[simp] theorem Crew.setPcs_hflags (w : Crew) (m : Word) (g : Nat → Word) : (w.setPcs m g).hflags = w.hflags := rfl
@[simp] theorem Crew.setPcs_hclamp (w : Crew) (m : Word) (g : Nat → Word) : (w.setPcs m g).hclamp = w.hclamp := rfl
@[simp] theorem Crew.setPcs_vpend (w : Crew) (m : Word) (g : Nat → Word) : (w.setPcs m g).vpend = w.vpend := rfl
@[simp] theorem Crew.setPcs_spend (w : Crew) (m : Word) (g : Nat → Word) : (w.setPcs m g).spend = w.spend := rfl
@[simp] theorem Crew.setPcs_mpend (w : Crew) (m : Word) (g : Nat → Word) : (w.setPcs m g).mpend = w.mpend := rfl
@[simp] theorem Crew.setPcs_ppend (w : Crew) (m : Word) (g : Nat → Word) : (w.setPcs m g).ppend = w.ppend := rfl
@[simp] theorem Crew.setPcs_fpcp (w : Crew) (m : Word) (g : Nat → Word) : (w.setPcs m g).fpcp = w.fpcp := rfl
@[simp] theorem Crew.setPcs_tokc (w : Crew) (m : Word) (g : Nat → Word) : (w.setPcs m g).tokc = w.tokc := rfl
@[simp] theorem Crew.setPcs_jobs (w : Crew) (m : Word) (g : Nat → Word) : (w.setPcs m g).jobs = w.jobs := rfl
@[simp] theorem Crew.setPcs_hfaults (w : Crew) (m : Word) (g : Nat → Word) : (w.setPcs m g).hfaults = w.hfaults := rfl
@[simp] theorem Crew.setPcs_outs (w : Crew) (m : Word) (g : Nat → Word) : (w.setPcs m g).outs = w.outs := rfl
@[simp] theorem Crew.setPcs_queue (w : Crew) (m : Word) (g : Nat → Word) : (w.setPcs m g).queue = w.queue := rfl
@[simp] theorem Crew.setPcs_wait (w : Crew) (m : Word) (g : Nat → Word) : (w.setPcs m g).wait = w.wait := rfl
@[simp] theorem Crew.setPcs_lastIssue (w : Crew) (m : Word) (g : Nat → Word) : (w.setPcs m g).lastIssue = w.lastIssue := rfl
@[simp] theorem Crew.setPcs_issues (w : Crew) (m : Word) (g : Nat → Word) : (w.setPcs m g).issues = w.issues := rfl

/-! ### Register writes -/

@[simp] theorem Crew.write1_vg (w : Crew) (x : Wr) : (w.write1 x).vg = w.vg := by
  cases x <;> simp only [Crew.write1]; split <;> rfl
@[simp] theorem Crew.write_vg (w : Crew) (ws : List Wr) : (w.write ws).vg = w.vg := by
  induction ws generalizing w with
  | nil => rfl
  | cons x ws ih => exact (ih (w.write1 x)).trans (Crew.write1_vg w x)
@[simp] theorem Crew.write1_mg (w : Crew) (x : Wr) : (w.write1 x).mg = w.mg := by
  cases x <;> simp only [Crew.write1]; split <;> rfl
@[simp] theorem Crew.write_mg (w : Crew) (ws : List Wr) : (w.write ws).mg = w.mg := by
  induction ws generalizing w with
  | nil => rfl
  | cons x ws ih => exact (ih (w.write1 x)).trans (Crew.write1_mg w x)
@[simp] theorem Crew.write1_quad (w : Crew) (x : Wr) : (w.write1 x).quad = w.quad := by
  cases x <;> simp only [Crew.write1]; split <;> rfl
@[simp] theorem Crew.write_quad (w : Crew) (ws : List Wr) : (w.write ws).quad = w.quad := by
  induction ws generalizing w with
  | nil => rfl
  | cons x ws ih => exact (ih (w.write1 x)).trans (Crew.write1_quad w x)
@[simp] theorem Crew.write1_live (w : Crew) (x : Wr) : (w.write1 x).live = w.live := by
  cases x <;> simp only [Crew.write1]; split <;> rfl
@[simp] theorem Crew.write_live (w : Crew) (ws : List Wr) : (w.write ws).live = w.live := by
  induction ws generalizing w with
  | nil => rfl
  | cons x ws ih => exact (ih (w.write1 x)).trans (Crew.write1_live w x)
@[simp] theorem Crew.write1_pcv (w : Crew) (x : Wr) : (w.write1 x).pcv = w.pcv := by
  cases x <;> simp only [Crew.write1]; split <;> rfl
@[simp] theorem Crew.write_pcv (w : Crew) (ws : List Wr) : (w.write ws).pcv = w.pcv := by
  induction ws generalizing w with
  | nil => rfl
  | cons x ws ih => exact (ih (w.write1 x)).trans (Crew.write1_pcv w x)
@[simp] theorem Crew.write1_strm (w : Crew) (x : Wr) : (w.write1 x).strm = w.strm := by
  cases x <;> simp only [Crew.write1]; split <;> rfl
@[simp] theorem Crew.write_strm (w : Crew) (ws : List Wr) : (w.write ws).strm = w.strm := by
  induction ws generalizing w with
  | nil => rfl
  | cons x ws ih => exact (ih (w.write1 x)).trans (Crew.write1_strm w x)
@[simp] theorem Crew.write1_tid (w : Crew) (x : Wr) : (w.write1 x).tid = w.tid := by
  cases x <;> simp only [Crew.write1]; split <;> rfl
@[simp] theorem Crew.write_tid (w : Crew) (ws : List Wr) : (w.write ws).tid = w.tid := by
  induction ws generalizing w with
  | nil => rfl
  | cons x ws ih => exact (ih (w.write1 x)).trans (Crew.write1_tid w x)
@[simp] theorem Crew.write1_fpc (w : Crew) (x : Wr) : (w.write1 x).fpc = w.fpc := by
  cases x <;> simp only [Crew.write1]; split <;> rfl
@[simp] theorem Crew.write_fpc (w : Crew) (ws : List Wr) : (w.write ws).fpc = w.fpc := by
  induction ws generalizing w with
  | nil => rfl
  | cons x ws ih => exact (ih (w.write1 x)).trans (Crew.write1_fpc w x)
@[simp] theorem Crew.write1_mclf (w : Crew) (x : Wr) : (w.write1 x).mclf = w.mclf := by
  cases x <;> simp only [Crew.write1]; split <;> rfl
@[simp] theorem Crew.write_mclf (w : Crew) (ws : List Wr) : (w.write ws).mclf = w.mclf := by
  induction ws generalizing w with
  | nil => rfl
  | cons x ws ih => exact (ih (w.write1 x)).trans (Crew.write1_mclf w x)
@[simp] theorem Crew.write1_trapc (w : Crew) (x : Wr) : (w.write1 x).trapc = w.trapc := by
  cases x <;> simp only [Crew.write1]; split <;> rfl
@[simp] theorem Crew.write_trapc (w : Crew) (ws : List Wr) : (w.write ws).trapc = w.trapc := by
  induction ws generalizing w with
  | nil => rfl
  | cons x ws ih => exact (ih (w.write1 x)).trans (Crew.write1_trapc w x)
@[simp] theorem Crew.write1_trappc (w : Crew) (x : Wr) : (w.write1 x).trappc = w.trappc := by
  cases x <;> simp only [Crew.write1]; split <;> rfl
@[simp] theorem Crew.write_trappc (w : Crew) (ws : List Wr) : (w.write ws).trappc = w.trappc := by
  induction ws generalizing w with
  | nil => rfl
  | cons x ws ih => exact (ih (w.write1 x)).trans (Crew.write1_trappc w x)
@[simp] theorem Crew.write1_trapm (w : Crew) (x : Wr) : (w.write1 x).trapm = w.trapm := by
  cases x <;> simp only [Crew.write1]; split <;> rfl
@[simp] theorem Crew.write_trapm (w : Crew) (ws : List Wr) : (w.write ws).trapm = w.trapm := by
  induction ws generalizing w with
  | nil => rfl
  | cons x ws ih => exact (ih (w.write1 x)).trans (Crew.write1_trapm w x)
@[simp] theorem Crew.write1_inTrap (w : Crew) (x : Wr) : (w.write1 x).inTrap = w.inTrap := by
  cases x <;> simp only [Crew.write1]; split <;> rfl
@[simp] theorem Crew.write_inTrap (w : Crew) (ws : List Wr) : (w.write ws).inTrap = w.inTrap := by
  induction ws generalizing w with
  | nil => rfl
  | cons x ws ih => exact (ih (w.write1 x)).trans (Crew.write1_inTrap w x)
@[simp] theorem Crew.write1_rpcv (w : Crew) (x : Wr) : (w.write1 x).rpcv = w.rpcv := by
  cases x <;> simp only [Crew.write1]; split <;> rfl
@[simp] theorem Crew.write_rpcv (w : Crew) (ws : List Wr) : (w.write ws).rpcv = w.rpcv := by
  induction ws generalizing w with
  | nil => rfl
  | cons x ws ih => exact (ih (w.write1 x)).trans (Crew.write1_rpcv w x)
@[simp] theorem Crew.write1_held (w : Crew) (x : Wr) : (w.write1 x).held = w.held := by
  cases x <;> simp only [Crew.write1]; split <;> rfl
@[simp] theorem Crew.write_held (w : Crew) (ws : List Wr) : (w.write ws).held = w.held := by
  induction ws generalizing w with
  | nil => rfl
  | cons x ws ih => exact (ih (w.write1 x)).trans (Crew.write1_held w x)
@[simp] theorem Crew.write1_late (w : Crew) (x : Wr) : (w.write1 x).late = w.late := by
  cases x <;> simp only [Crew.write1]; split <;> rfl
@[simp] theorem Crew.write_late (w : Crew) (ws : List Wr) : (w.write ws).late = w.late := by
  induction ws generalizing w with
  | nil => rfl
  | cons x ws ih => exact (ih (w.write1 x)).trans (Crew.write1_late w x)
@[simp] theorem Crew.write1_hflags (w : Crew) (x : Wr) : (w.write1 x).hflags = w.hflags := by
  cases x <;> simp only [Crew.write1]; split <;> rfl
@[simp] theorem Crew.write_hflags (w : Crew) (ws : List Wr) : (w.write ws).hflags = w.hflags := by
  induction ws generalizing w with
  | nil => rfl
  | cons x ws ih => exact (ih (w.write1 x)).trans (Crew.write1_hflags w x)
@[simp] theorem Crew.write1_hclamp (w : Crew) (x : Wr) : (w.write1 x).hclamp = w.hclamp := by
  cases x <;> simp only [Crew.write1]; split <;> rfl
@[simp] theorem Crew.write_hclamp (w : Crew) (ws : List Wr) : (w.write ws).hclamp = w.hclamp := by
  induction ws generalizing w with
  | nil => rfl
  | cons x ws ih => exact (ih (w.write1 x)).trans (Crew.write1_hclamp w x)
@[simp] theorem Crew.write1_vpend (w : Crew) (x : Wr) : (w.write1 x).vpend = w.vpend := by
  cases x <;> simp only [Crew.write1]; split <;> rfl
@[simp] theorem Crew.write_vpend (w : Crew) (ws : List Wr) : (w.write ws).vpend = w.vpend := by
  induction ws generalizing w with
  | nil => rfl
  | cons x ws ih => exact (ih (w.write1 x)).trans (Crew.write1_vpend w x)
@[simp] theorem Crew.write1_spend (w : Crew) (x : Wr) : (w.write1 x).spend = w.spend := by
  cases x <;> simp only [Crew.write1]; split <;> rfl
@[simp] theorem Crew.write_spend (w : Crew) (ws : List Wr) : (w.write ws).spend = w.spend := by
  induction ws generalizing w with
  | nil => rfl
  | cons x ws ih => exact (ih (w.write1 x)).trans (Crew.write1_spend w x)
@[simp] theorem Crew.write1_mpend (w : Crew) (x : Wr) : (w.write1 x).mpend = w.mpend := by
  cases x <;> simp only [Crew.write1]; split <;> rfl
@[simp] theorem Crew.write_mpend (w : Crew) (ws : List Wr) : (w.write ws).mpend = w.mpend := by
  induction ws generalizing w with
  | nil => rfl
  | cons x ws ih => exact (ih (w.write1 x)).trans (Crew.write1_mpend w x)
@[simp] theorem Crew.write1_ppend (w : Crew) (x : Wr) : (w.write1 x).ppend = w.ppend := by
  cases x <;> simp only [Crew.write1]; split <;> rfl
@[simp] theorem Crew.write_ppend (w : Crew) (ws : List Wr) : (w.write ws).ppend = w.ppend := by
  induction ws generalizing w with
  | nil => rfl
  | cons x ws ih => exact (ih (w.write1 x)).trans (Crew.write1_ppend w x)
@[simp] theorem Crew.write1_fpcp (w : Crew) (x : Wr) : (w.write1 x).fpcp = w.fpcp := by
  cases x <;> simp only [Crew.write1]; split <;> rfl
@[simp] theorem Crew.write_fpcp (w : Crew) (ws : List Wr) : (w.write ws).fpcp = w.fpcp := by
  induction ws generalizing w with
  | nil => rfl
  | cons x ws ih => exact (ih (w.write1 x)).trans (Crew.write1_fpcp w x)
@[simp] theorem Crew.write1_tokc (w : Crew) (x : Wr) : (w.write1 x).tokc = w.tokc := by
  cases x <;> simp only [Crew.write1]; split <;> rfl
@[simp] theorem Crew.write_tokc (w : Crew) (ws : List Wr) : (w.write ws).tokc = w.tokc := by
  induction ws generalizing w with
  | nil => rfl
  | cons x ws ih => exact (ih (w.write1 x)).trans (Crew.write1_tokc w x)
@[simp] theorem Crew.write1_jobs (w : Crew) (x : Wr) : (w.write1 x).jobs = w.jobs := by
  cases x <;> simp only [Crew.write1]; split <;> rfl
@[simp] theorem Crew.write_jobs (w : Crew) (ws : List Wr) : (w.write ws).jobs = w.jobs := by
  induction ws generalizing w with
  | nil => rfl
  | cons x ws ih => exact (ih (w.write1 x)).trans (Crew.write1_jobs w x)
@[simp] theorem Crew.write1_hfaults (w : Crew) (x : Wr) : (w.write1 x).hfaults = w.hfaults := by
  cases x <;> simp only [Crew.write1]; split <;> rfl
@[simp] theorem Crew.write_hfaults (w : Crew) (ws : List Wr) : (w.write ws).hfaults = w.hfaults := by
  induction ws generalizing w with
  | nil => rfl
  | cons x ws ih => exact (ih (w.write1 x)).trans (Crew.write1_hfaults w x)
@[simp] theorem Crew.write1_outs (w : Crew) (x : Wr) : (w.write1 x).outs = w.outs := by
  cases x <;> simp only [Crew.write1]; split <;> rfl
@[simp] theorem Crew.write_outs (w : Crew) (ws : List Wr) : (w.write ws).outs = w.outs := by
  induction ws generalizing w with
  | nil => rfl
  | cons x ws ih => exact (ih (w.write1 x)).trans (Crew.write1_outs w x)
@[simp] theorem Crew.write1_queue (w : Crew) (x : Wr) : (w.write1 x).queue = w.queue := by
  cases x <;> simp only [Crew.write1]; split <;> rfl
@[simp] theorem Crew.write_queue (w : Crew) (ws : List Wr) : (w.write ws).queue = w.queue := by
  induction ws generalizing w with
  | nil => rfl
  | cons x ws ih => exact (ih (w.write1 x)).trans (Crew.write1_queue w x)
@[simp] theorem Crew.write1_wait (w : Crew) (x : Wr) : (w.write1 x).wait = w.wait := by
  cases x <;> simp only [Crew.write1]; split <;> rfl
@[simp] theorem Crew.write_wait (w : Crew) (ws : List Wr) : (w.write ws).wait = w.wait := by
  induction ws generalizing w with
  | nil => rfl
  | cons x ws ih => exact (ih (w.write1 x)).trans (Crew.write1_wait w x)
@[simp] theorem Crew.write1_lastIssue (w : Crew) (x : Wr) : (w.write1 x).lastIssue = w.lastIssue := by
  cases x <;> simp only [Crew.write1]; split <;> rfl
@[simp] theorem Crew.write_lastIssue (w : Crew) (ws : List Wr) : (w.write ws).lastIssue = w.lastIssue := by
  induction ws generalizing w with
  | nil => rfl
  | cons x ws ih => exact (ih (w.write1 x)).trans (Crew.write1_lastIssue w x)
@[simp] theorem Crew.write1_issues (w : Crew) (x : Wr) : (w.write1 x).issues = w.issues := by
  cases x <;> simp only [Crew.write1]; split <;> rfl
@[simp] theorem Crew.write_issues (w : Crew) (ws : List Wr) : (w.write ws).issues = w.issues := by
  induction ws generalizing w with
  | nil => rfl
  | cons x ws ih => exact (ih (w.write1 x)).trans (Crew.write1_issues w x)

/-! ### Pending bits -/

@[simp] theorem Crew.setPending_vg (w : Crew) (r : Reg) : (w.setPending r).vg = w.vg := by cases r <;> rfl
@[simp] theorem Crew.setPending_mg (w : Crew) (r : Reg) : (w.setPending r).mg = w.mg := by cases r <;> rfl
@[simp] theorem Crew.setPending_quad (w : Crew) (r : Reg) : (w.setPending r).quad = w.quad := by cases r <;> rfl
@[simp] theorem Crew.setPending_live (w : Crew) (r : Reg) : (w.setPending r).live = w.live := by cases r <;> rfl
@[simp] theorem Crew.setPending_pcv (w : Crew) (r : Reg) : (w.setPending r).pcv = w.pcv := by cases r <;> rfl
@[simp] theorem Crew.setPending_v (w : Crew) (r : Reg) : (w.setPending r).v = w.v := by cases r <;> rfl
@[simp] theorem Crew.setPending_m (w : Crew) (r : Reg) : (w.setPending r).m = w.m := by cases r <;> rfl
@[simp] theorem Crew.setPending_s (w : Crew) (r : Reg) : (w.setPending r).s = w.s := by cases r <;> rfl
@[simp] theorem Crew.setPending_p (w : Crew) (r : Reg) : (w.setPending r).p = w.p := by cases r <;> rfl
@[simp] theorem Crew.setPending_strm (w : Crew) (r : Reg) : (w.setPending r).strm = w.strm := by cases r <;> rfl
@[simp] theorem Crew.setPending_tid (w : Crew) (r : Reg) : (w.setPending r).tid = w.tid := by cases r <;> rfl
@[simp] theorem Crew.setPending_fpc (w : Crew) (r : Reg) : (w.setPending r).fpc = w.fpc := by cases r <;> rfl
@[simp] theorem Crew.setPending_mclf (w : Crew) (r : Reg) : (w.setPending r).mclf = w.mclf := by cases r <;> rfl
@[simp] theorem Crew.setPending_trapc (w : Crew) (r : Reg) : (w.setPending r).trapc = w.trapc := by cases r <;> rfl
@[simp] theorem Crew.setPending_trappc (w : Crew) (r : Reg) : (w.setPending r).trappc = w.trappc := by cases r <;> rfl
@[simp] theorem Crew.setPending_trapm (w : Crew) (r : Reg) : (w.setPending r).trapm = w.trapm := by cases r <;> rfl
@[simp] theorem Crew.setPending_inTrap (w : Crew) (r : Reg) : (w.setPending r).inTrap = w.inTrap := by cases r <;> rfl
@[simp] theorem Crew.setPending_rpcv (w : Crew) (r : Reg) : (w.setPending r).rpcv = w.rpcv := by cases r <;> rfl
@[simp] theorem Crew.setPending_held (w : Crew) (r : Reg) : (w.setPending r).held = w.held := by cases r <;> rfl
@[simp] theorem Crew.setPending_late (w : Crew) (r : Reg) : (w.setPending r).late = w.late := by cases r <;> rfl
@[simp] theorem Crew.setPending_hflags (w : Crew) (r : Reg) : (w.setPending r).hflags = w.hflags := by cases r <;> rfl
@[simp] theorem Crew.setPending_hclamp (w : Crew) (r : Reg) : (w.setPending r).hclamp = w.hclamp := by cases r <;> rfl
@[simp] theorem Crew.setPending_fpcp (w : Crew) (r : Reg) : (w.setPending r).fpcp = w.fpcp := by cases r <;> rfl
@[simp] theorem Crew.setPending_tokc (w : Crew) (r : Reg) : (w.setPending r).tokc = w.tokc := by cases r <;> rfl
@[simp] theorem Crew.setPending_jobs (w : Crew) (r : Reg) : (w.setPending r).jobs = w.jobs := by cases r <;> rfl
@[simp] theorem Crew.setPending_hfaults (w : Crew) (r : Reg) : (w.setPending r).hfaults = w.hfaults := by cases r <;> rfl
@[simp] theorem Crew.setPending_outs (w : Crew) (r : Reg) : (w.setPending r).outs = w.outs := by cases r <;> rfl
@[simp] theorem Crew.setPending_queue (w : Crew) (r : Reg) : (w.setPending r).queue = w.queue := by cases r <;> rfl
@[simp] theorem Crew.setPending_wait (w : Crew) (r : Reg) : (w.setPending r).wait = w.wait := by cases r <;> rfl
@[simp] theorem Crew.setPending_lastIssue (w : Crew) (r : Reg) : (w.setPending r).lastIssue = w.lastIssue := by cases r <;> rfl
@[simp] theorem Crew.setPending_issues (w : Crew) (r : Reg) : (w.setPending r).issues = w.issues := by cases r <;> rfl

end Sys2Proof.Machine
end

