-- ==== Sys2Proof/Laws/Ops.lean ====
section
/-! SUPPORT. What each shared operation can do, once for every meaning that cites it: which memories, blocks and registers
it leaves as they were, and the cases of a cause. -/

namespace Sys2Proof.Machine

/-! ### The memories -/

/-- The memories and their marks are the same in both states. -/
def State.sameMem (s t : State) : Prop := t.dmem = s.dmem ∧ t.hmem = s.hmem ∧ t.poison = s.poison ∧ t.ecc = s.ecc

theorem State.sameMem_refl (s : State) : s.sameMem s := ⟨rfl, rfl, rfl, rfl⟩

theorem State.sameMem_trans {s t u : State} (h : s.sameMem t) (k : t.sameMem u) : s.sameMem u :=
  ⟨k.1.trans h.1, k.2.1.trans h.2.1, k.2.2.1.trans h.2.2.1, k.2.2.2.trans h.2.2.2⟩

/-- Where the memories are the same, so is their canonical form. -/
theorem State.memOk_of_sameMem {s t : State} (h : s.sameMem t) : t.memOk = s.memOk := by
  simp [State.memOk, h.1, h.2.1, h.2.2.1, h.2.2.2]

theorem setBlock_sameMem (s : State) (b : Nat) (x : Block) : s.sameMem (s.setBlock b x) := ⟨rfl, rfl, rfl, rfl⟩
theorem dropBlock_sameMem (s : State) (b : Nat) : s.sameMem (s.dropBlock b) := ⟨rfl, rfl, rfl, rfl⟩
theorem setCtx_sameMem (s : State) (k : Nat) (x : Ctx) : s.sameMem (s.setCtx k x) := ⟨rfl, rfl, rfl, rfl⟩
theorem setGrid_sameMem (s : State) (k : Nat) (x : Grid) : s.sameMem (s.setGrid k x) := ⟨rfl, rfl, rfl, rfl⟩
theorem setDie_sameMem (s : State) (d : Nat) (x : Die) : s.sameMem (s.setDie d x) := by simp [State.sameMem]
theorem setCrew_sameMem (s : State) (b c : Nat) (w : Crew) : s.sameMem (s.setCrew b c w) := by
  unfold State.setCrew; split
  · exact s.sameMem_refl
  · exact setBlock_sameMem _ _ _
theorem sendVec_sameMem (s : State) (v : Nat) : s.sameMem (s.sendVec v) := by
  unfold State.sendVec; split <;> exact ⟨rfl, rfl, rfl, rfl⟩

/-- A noted cause changes the event log and the vectors. -/
theorem note_sameMem (s : State) (die code loc asid info : Nat) : s.sameMem (s.note die code loc asid info) := by
  unfold State.note
  extract_lets d same d' s'
  have h : s.sameMem s' := setDie_sameMem _ _ _
  clear_value s' same
  split
  · exact State.sameMem_trans h (sendVec_sameMem _ _)
  · exact h

/-- Correctable errors of a block are noted. -/
theorem noteErrs_sameMem (s : State) (x : Block) (crew : Nat) (es : List StoreErr) : s.sameMem (s.noteErrs x crew es) := by
  unfold State.noteErrs
  generalize es.eraseDups = l
  induction l generalizing s with
  | nil => exact s.sameMem_refl
  | cons e l ih => exact State.sameMem_trans (note_sameMem _ _ _ _ _ _) (ih _)

/-- A context-fatal cause changes the context. -/
theorem fatal_sameMem (s : State) (slot : Nat) (r : FaultRec) : s.sameMem (s.fatal slot r) := by
  unfold State.fatal
  dsimp only
  split
  · exact setCtx_sameMem _ _ _
  · exact setCtx_sameMem _ _ _
  · exact s.sameMem_refl

theorem fatalBlock_sameMem (s : State) (b crew flags : Nat) (t : Trap) : s.sameMem (s.fatalBlock b crew flags t) := by
  unfold State.fatalBlock; split
  · exact s.sameMem_refl
  · exact fatal_sameMem _ _ _

/-- A host-resolved cause changes the block and the context. -/
theorem holdBlock_sameMem (s : State) (b : Nat) (c : Option Nat) (t : Trap) (k : Nat) :
    s.sameMem (s.holdBlock b c t k) := by
  unfold State.holdBlock; split
  · exact s.sameMem_refl
  · exact State.sameMem_trans (setBlock_sameMem _ _ _) (setCtx_sameMem _ _ _)

/-- No cause changes a memory. -/
theorem raise_sameMem (s : State) (b c : Nat) (t : Trap) : s.sameMem (s.raise b c t) := by
  unfold State.raise
  split
  · exact s.sameMem_refl
  split
  · exact s.sameMem_refl
  split
  · exact note_sameMem _ _ _ _ _ _
  · exact fatalBlock_sameMem _ _ _ _ _
  · split
    · exact fatalBlock_sameMem _ _ _ _ _
    · exact holdBlock_sameMem _ _ _ _ _
  · split
    · exact fatalBlock_sameMem _ _ _ _ _
    split <;> exact setBlock_sameMem _ _ _
  · exact s.sameMem_refl

/-- A cause raised at an issue changes no memory. -/
theorem raiseIssue_sameMem (s : State) (b c : Nat) (t : Trap) : s.sameMem (s.raiseIssue b c t) := by
  refine State.sameMem_trans ?_ (raise_sameMem _ _ _ _)
  unfold State.markIssue; split
  · exact s.sameMem_refl
  · exact setCrew_sameMem _ _ _ _

theorem raiseAt_sameMem (s : State) (e : Env) (code info : Nat) (lanes : Word) :
    s.sameMem (s.raiseAt e code info lanes) := raiseIssue_sameMem _ _ _ _

theorem startDrain_sameMem (s : State) (b c : Nat) : s.sameMem (s.startDrain b c) := by
  unfold State.startDrain
  split
  · exact s.sameMem_refl
  split
  · exact s.sameMem_refl
  · exact setBlock_sameMem _ _ _

/-- The end of a park changes no memory. -/
theorem unparkNow_sameMem (s : State) (b c : Nat) : s.sameMem (s.unparkNow b c) := by
  have up {t : State} (h : s.sameMem t) (b c : Nat) (x : Trap) : s.sameMem (t.raise b c x) :=
    State.sameMem_trans h (raise_sameMem _ _ _ _)
  unfold State.unparkNow
  split
  · exact s.sameMem_refl
  split
  · dsimp only
    split
    · exact up (setCrew_sameMem _ _ _ _) _ _ _
    split
    · exact setCrew_sameMem _ _ _ _
    · exact up (setCrew_sameMem _ _ _ _) _ _ _
  · dsimp only
    split
    · refine up ?_ _ _ _
      split
      · exact State.sameMem_trans (setCrew_sameMem _ _ _ _) (startDrain_sameMem _ _ _)
      · exact setCrew_sameMem _ _ _ _
    · split
      · exact State.sameMem_trans (setCrew_sameMem _ _ _ _) (startDrain_sameMem _ _ _)
      · exact setCrew_sameMem _ _ _ _
  · split
    · exact up (setCrew_sameMem _ _ _ _) _ _ _
    · exact setCrew_sameMem _ _ _ _
  · split
    · exact s.sameMem_refl
    · exact setCrew_sameMem _ _ _ _
  · exact s.sameMem_refl

/-- A park changes no memory. -/
theorem park_sameMem (s : State) (b c : Nat) (k : Park) : s.sameMem (s.park b c k) := by
  unfold State.park
  split
  · exact s.sameMem_refl
  dsimp only
  split
  · exact State.sameMem_trans (setCrew_sameMem _ _ _ _) (unparkNow_sameMem _ _ _)
  · exact setCrew_sameMem _ _ _ _

theorem finishIssue_sameMem (s : State) (e : Env) : s.sameMem (finishIssue s e) := by
  unfold finishIssue; split
  · exact park_sameMem _ _ _ _
  · exact s.sameMem_refl

theorem defer_sameMem (s : State) (e : Env) (i : Instr) (f : Eff) (r : Bool) : s.sameMem (defer s e i f r) :=
  setBlock_sameMem _ _ _

/-- A fixed-latency instruction changes no memory, whether it completes or raises a cause. -/
theorem complete_sameMem {s t : State} {e : Env} {f : Eff} (h : complete s e f = .next t) : s.sameMem t := by
  unfold complete at h
  split at h
  · cases h
    exact raiseIssue_sameMem _ _ _ _
  dsimp only at h
  split at h
  · cases h
    exact State.sameMem_trans (setBlock_sameMem _ _ _) (finishIssue_sameMem _ _)
  · cases h
    exact State.sameMem_trans (setBlock_sameMem _ _ _) (raise_sameMem _ _ _ _)

/-- A variable-latency instruction changes no memory at its issue. -/
theorem completeLater_sameMem {s t : State} {e : Env} {i : Instr} {f : Eff} (h : completeLater s e i f = .next t) :
    s.sameMem t := by
  unfold completeLater at h
  split at h
  · cases h
    exact raiseIssue_sameMem _ _ _ _
  · cases h
    exact State.sameMem_trans (defer_sameMem _ _ _ _ _) (finishIssue_sameMem _ _)

/-- An instruction whose own effect changes no memory changes none at its issue. -/
theorem issue_sameMem {s t : State} {i : Instr} {k : State → Env → Out}
    (hk : ∀ s e t, k s e = .next t → s.sameMem t) (h : issue s i k = .next t) : s.sameMem t := by
  rcases issue_cases s i k with ⟨_, h'⟩ | ⟨e, code, _, _, h'⟩ | ⟨e, _, _, h'⟩ <;> rw [h'] at h
  · cases h
  · cases h
    exact raiseAt_sameMem _ _ _ _ _
  · unfold meetErrors at h
    split at h
    · exact hk _ _ _ h
    dsimp only at h
    split at h
    · cases h
      exact raiseAt_sameMem _ _ _ _ _
    split at h
    · exact hk _ _ _ h
    · exact State.sameMem_trans (State.sameMem_trans (setBlock_sameMem _ _ _) (noteErrs_sameMem _ _ _ _)) (hk _ _ _ h)

/-! ### A cause -/

/-- A program-handled cause of a crew in a block with a trap routine, outside the routine, with live lanes and nothing
outstanding, enters the routine at once (R169). -/
theorem raise_enters {s : State} {b c : Nat} {x : Block} {w : Crew} {t : Trap} (hb : s.block b = some x)
    (hw : look x.crews c = some w) (hd : dispOf t.code = .program) (hr : x.r.trapr ≠ 0xFFFFFFFF)
    (hi : w.inTrap = false) (hq : w.wait ≠ .draining) (hl : w.live ≠ 0) (ho : w.outs = []) :
    s.raise b c t = s.setBlock b (x.setCrew c (w.enterTrap x.r.trapr t)) := by
  have hr' : ¬ x.r.trapr = 4294967295#32 := hr
  have hl' : ¬ w.live = 0#32 := hl
  simp [State.raise, Crew.drains, hb, hw, hd, hr', hi, hq, hl', ho]

/-- The same with results outstanding: the crew parks until they have returned. -/
theorem raise_parks {s : State} {b c : Nat} {x : Block} {w : Crew} {t : Trap} (hb : s.block b = some x)
    (hw : look x.crews c = some w) (hd : dispOf t.code = .program) (hr : x.r.trapr ≠ 0xFFFFFFFF)
    (hi : w.inTrap = false) (hq : w.wait ≠ .draining) (hl : w.live ≠ 0) (ho : w.outs ≠ []) :
    s.raise b c t = s.setBlock b (x.setCrew c { w with wait := .parked (.trap t) }) := by
  have hr' : ¬ x.r.trapr = 4294967295#32 := hr
  have hl' : ¬ w.live = 0#32 := hl
  simp [State.raise, Crew.drains, hb, hw, hd, hr', hi, hq, hl', ho]

/-- A context-fatal cause of a crew ends the context of its block (R172). -/
theorem raise_fatal {s : State} {b c : Nat} {x : Block} {w : Crew} {t : Trap} (hb : s.block b = some x)
    (hw : look x.crews c = some w) (hd : dispOf t.code = .fatal) :
    s.raise b c t = s.fatal x.slot (faultRec s x c (s.crewFlags b c) t) := by
  simp [State.raise, State.fatalBlock, hb, hw, hd]

/-- A context-fatal cause of a LIVE context keeps its record as the first one (R173). -/
theorem fatal_live {s : State} {slot : Nat} {r : FaultRec} (h : (s.ctx slot).state = .live) :
    s.fatal slot r = s.setCtx slot { s.ctx slot with state := .ending, first := some r, more := 0 } := by
  simp [State.fatal, h]

/-! ### Issue and completion -/

/-- The instruction that a crew has issued replaces the crew's block in the state. -/
theorem movedOn_block {s : State} {e : Env} {blk : Block} {w : Crew} (h : e.h.s = false) :
    (movedOn s e blk w).block e.b = some (blk.setCrew e.c w) := by
  simp [movedOn, finishIssue, h]

/-- Without the switch marker nothing but the block changes. -/
theorem movedOn_eq {s : State} {e : Env} {blk : Block} {w : Crew} (h : e.h.s = false) :
    movedOn s e blk w = s.setBlock e.b (blk.setCrew e.c w) := by
  simp [movedOn, finishIssue, h]

/-- A crew that does not wait for a park is left by the end of one. -/
theorem unparkNow_ready {s : State} {b c : Nat} {w : Crew} (h : s.crew b c = some w) (hw : w.wait = .ready) :
    s.unparkNow b c = s := by
  simp [State.unparkNow, h, hw]

/-- p0 reads as true in every lane (R14). -/
@[simp] theorem rp_zero (w : Crew) : w.rp 0 = 0xFFFFFFFF := rfl

/-- The register that was written reads as the value written. -/
@[simp] theorem rv_write1 (w : Crew) (r l : Nat) (x : Word) : (w.write1 (.v r l x)).rv r l = x := by
  simp [Crew.write1, Crew.rv]
@[simp] theorem rm_write1 (w : Crew) (r l : Nat) (x : DWord) : (w.write1 (.m r l x)).rm r l = x := by
  simp [Crew.write1, Crew.rm]
@[simp] theorem rs_write1 (w : Crew) (r : Nat) (x : Word) : (w.write1 (.s r x)).rs r = x := by
  simp [Crew.write1, Crew.rs]

end Sys2Proof.Machine
end

