-- ==== Sys2Proof/Laws/Memory.lean ====
section
/-! SUPPORT. Every operation on global memory keeps the canonical form of the memories, whether its access is done, waits
or fails. -/

namespace Sys2Proof.Machine

/-- The canonical form of the memories carries over from `s` to `t`. -/
def State.keeps (s t : State) : Prop := s.memOk = true → t.memOk = true

/-- The state that an access leaves. -/
def Got.state {α : Type} : Got α → State
  | .ok t _ => t
  | .wait t => t
  | .fail t _ => t
/-- The canonical form carries over to the state that an access leaves. -/
def Got.keeps {α : Type} (s : State) (g : Got α) : Prop := s.keeps g.state

theorem State.keeps_refl (s : State) : s.keeps s := id
theorem State.keeps_trans {s t u : State} (h : s.keeps t) (k : t.keeps u) : s.keeps u := fun x => k (h x)
theorem State.keeps_of_sameMem {s t : State} (h : s.sameMem t) : s.keeps t := fun x => by
  rw [State.memOk_of_sameMem h, x]

/-- Two accesses one after another. -/
theorem Got.keeps_bind {α β : Type} {s : State} {g : Got α} {f : State → α → Got β} (hg : g.keeps s)
    (hf : ∀ t x, g = .ok t x → (f t x).keeps t) : (g.bind f).keeps s := by
  cases g with
  | ok t x => exact State.keeps_trans (show s.keeps t from hg) (hf t x rfl)
  | wait t => exact hg
  | fail t x => exact hg

/-- An access from a state that the form has carried over to. -/
theorem Got.keeps_trans {α : Type} {s t : State} {g : Got α} (h : s.keeps t) (hg : g.keeps t) : g.keeps s := by
  exact State.keeps_trans h hg

/-- A fold of steps that keep the form keeps it. -/
theorem foldl_keeps {β : Type} (f : State → β → State) (hf : ∀ (s : State) (x : β), s.keeps (f s x)) (l : List β) (s : State) :
    s.keeps (l.foldl f s) := by
  induction l generalizing s with
  | nil => exact s.keeps_refl
  | cons x l ih => exact State.keeps_trans (hf s x) (ih _)

/-- A fold of steps that leave the memories alone leaves them alone. -/
theorem foldl_sameMem {β : Type} (f : State → β → State) (hf : ∀ (s : State) (x : β), s.sameMem (f s x)) (l : List β)
    (s : State) : s.sameMem (l.foldl f s) := by
  induction l generalizing s with
  | nil => exact s.sameMem_refl
  | cons x l ih => exact State.sameMem_trans (hf s x) (ih _)

/-- What the canonical form of the four tables is. -/
theorem memOk_iff (s : State) : s.memOk = true ↔ Memory.wf s.dmem = true ∧ Memory.wf s.hmem = true ∧
    tableWf false s.poison = true ∧ tableWf false s.ecc = true := by
  simp [State.memOk, and_assoc]

theorem fatalDie_sameMem (s : State) (die slot : Nat) (t : Trap) : s.sameMem (s.fatalDie die slot t) :=
  fatal_sameMem _ _ _
theorem fatalAsid_sameMem (s : State) (die asid : Nat) (t : Trap) : s.sameMem (s.fatalAsid die asid t) := by
  unfold State.fatalAsid
  split
  · exact s.sameMem_refl
  · exact fatalDie_sameMem _ _ _ _
theorem fatalAll_keeps (s : State) (die : Nat) (t : Trap) : s.keeps (s.fatalAll die t) :=
  foldl_keeps _ (fun _ _ => State.keeps_of_sameMem (fatalDie_sameMem _ _ _ _)) _ _

/-! ### The memory controllers -/

theorem touch_sameMem (s : State) (pa : Nat) (fill : Bool) : s.sameMem (s.touch pa fill) := setDie_sameMem _ _ _

theorem noteMem_sameMem (s : State) (die code asid info : Nat) : s.sameMem (s.noteMem die code asid info) :=
  note_sameMem _ _ _ _ _ _

theorem takeNotes_sameMem (s t : State) (die : Nat) : s.sameMem (s.takeNotes t die) :=
  State.sameMem_trans (setDie_sameMem s die _) ⟨rfl, rfl, rfl, rfl⟩
theorem activate_sameMem (s : State) (die : Nat) (pas : List Nat) : s.sameMem (s.activate die pas) :=
  State.sameMem_trans (takeNotes_sameMem _ _ _) (setDie_sameMem _ _ _)

theorem remapCheck_keeps (s : State) (asid pa va : Nat) : (remapCheck s asid pa va).keeps s := by
  unfold remapCheck
  dsimp only
  split
  · exact s.keeps_refl
  · exact State.keeps_of_sameMem (State.sameMem_trans (setDie_sameMem _ _ _) (noteMem_sameMem _ _ _ _ _))
  · exact s.keeps_refl

theorem eccClean_keeps (s : State) (asid w n : Nat) : s.keeps (eccClean s asid w n) := by
  unfold eccClean
  dsimp only
  split
  · exact s.keeps_refl
  · refine State.keeps_trans (fun h => ?_) (State.keeps_of_sameMem
      (foldl_sameMem _ (fun s i => noteMem_sameMem s _ _ _ _) _ _))
    rw [memOk_iff] at h ⊢
    refine ⟨h.1, h.2.1, h.2.2.1, ?_⟩
    have hf (l : List Nat) (m : Sparse Bool) (hm : tableWf false m = true) :
        tableWf false (l.foldl (fun t i => setAt false t (w + i) false) m) = true := by
      induction l generalizing m with
      | nil => exact hm
      | cons x l ih => exact ih _ (tableWf_setAt _ _ _ _ hm)
    exact hf _ _ h.2.2.2

theorem dramRead_keeps (s : State) (asid pa va : Nat) : (dramRead s asid pa va).keeps s := by
  unfold dramRead
  split
  · exact s.keeps_refl
  · exact Got.keeps_bind (remapCheck_keeps _ _ _ _) fun t _ _ =>
      State.keeps_trans (State.keeps_of_sameMem (activate_sameMem t (dieOf pa) [pa])) (eccClean_keeps _ _ _ _)

theorem physRead_keeps (s : State) (asid pa va n : Nat) : (physRead s asid pa va n).keeps s := by
  unfold physRead
  split
  · exact s.keeps_refl
  · refine Got.keeps_bind (remapCheck_keeps _ _ _ _) fun t _ _ => Got.keeps_trans
      (State.keeps_of_sameMem (activate_sameMem t (dieOf pa) [pa])) ?_
    generalize t.activate (dieOf pa) [pa] = u
    dsimp only
    split
    · exact u.keeps_refl
    · exact eccClean_keeps _ _ _ _

/-- A write of bytes into device memory keeps the form. -/
theorem putBytes_keeps (s : State) (pa : Nat) (bs : List (Nat × Byte)) :
    s.keeps { s with dmem := bs.foldl (fun m p => setByte m (pa + p.1) p.2) s.dmem } := fun h => by
  rw [memOk_iff] at h ⊢
  exact ⟨wf_foldl _ (fun m x hm => wf_setByte m _ _ hm) _ _ h.1, h.2⟩

theorem dramWord_keeps (s : State) (asid pa va : Nat) (bs : List (Nat × Byte)) (w : Nat) :
    s.keeps (dramWord s asid pa va bs w) := by
  unfold dramWord
  dsimp only
  split
  · exact s.keeps_refl
  split
  · intro h
    rw [memOk_iff] at h ⊢
    exact ⟨wf_foldl _ (fun m x hm => wf_setByte m _ _ hm) _ _ h.1, h.2.1,
      tableWf_setAt false s.poison _ false h.2.2.1, tableWf_setAt false s.ecc _ false h.2.2.2⟩
  split
  · exact State.keeps_of_sameMem (fatalAsid_sameMem _ _ _ _)
  · exact State.keeps_trans (eccClean_keeps _ _ _ _) (putBytes_keeps _ _ _)

theorem dramWrite_keeps (s : State) (asid pa va : Nat) (bs : List (Nat × Byte)) :
    s.keeps (dramWrite s asid pa va bs) := by
  have h := remapCheck_keeps s asid pa va
  unfold dramWrite
  split <;> rename_i hg <;> rw [hg] at h
  · exact State.keeps_trans h (State.keeps_trans (State.keeps_of_sameMem (activate_sameMem _ (dieOf pa) [pa]))
      (foldl_keeps _ (fun s w => dramWord_keeps s asid pa va bs w) _ _))
  · exact h
  · exact State.keeps_trans h (State.keeps_of_sameMem (fatalAsid_sameMem _ _ _ _))

/-! ### Lines -/

theorem setCache_sameMem (s : State) (die : Nat) (rdc : Bool) (ls : List Line) : s.sameMem (s.setCache die rdc ls) :=
  setDie_sameMem _ _ _
theorem dropLine_sameMem (s : State) (die : Nat) (rdc : Bool) (l : Line) : s.sameMem (s.dropLine die rdc l) :=
  setCache_sameMem _ _ _ _
theorem putLine_sameMem (s : State) (die : Nat) (rdc : Bool) (l : Line) : s.sameMem (s.putLine die rdc l) :=
  setCache_sameMem _ _ _ _

theorem meetLine_keeps (s : State) (die : Nat) (rdc : Bool) (l : Line) : s.keeps (s.meetLine die rdc l).1 := by
  unfold State.meetLine
  dsimp only
  split
  · exact s.keeps_refl
  · exact State.keeps_of_sameMem (State.sameMem_trans (putLine_sameMem _ _ _ _) (noteMem_sameMem _ _ _ _ _))
  · exact State.keeps_of_sameMem (State.sameMem_trans (putLine_sameMem _ _ _ _) (noteMem_sameMem _ _ _ _ _))
  · split
    · exact State.keeps_of_sameMem (State.sameMem_trans (dropLine_sameMem _ _ _ _) (noteMem_sameMem _ _ _ _ _))
    · exact State.keeps_of_sameMem (State.sameMem_trans (dropLine_sameMem _ _ _ _) (fatalAsid_sameMem _ _ _ _))
  · exact State.keeps_trans (State.keeps_of_sameMem (dropLine_sameMem _ _ _ _)) (fatalAll_keeps _ _ _)

theorem lookLine_keeps (s : State) (die : Nat) (rdc : Bool) (asid va : Nat) (side : Bool) :
    s.keeps (s.lookLine die rdc asid va side).1 := by
  unfold State.lookLine
  split
  · exact s.keeps_refl
  · exact meetLine_keeps _ _ _ _

theorem writeBack_keeps (s : State) (l : Line) : s.keeps (s.writeBack l) := by
  unfold State.writeBack
  split
  · exact s.keeps_refl
  split
  · intro h
    rw [memOk_iff] at h ⊢
    exact ⟨h.1, wf_foldl _ (fun m x hm => wf_setByte m _ _ hm) _ _ h.2.1, h.2.2⟩
  · exact State.keeps_trans (State.keeps_of_sameMem (touch_sameMem _ _ _)) (dramWrite_keeps _ _ _ _ _)

theorem sendThrough_sameMem (s : State) (src : Nat) (l : Line) : s.sameMem (s.sendThrough src l) := by
  unfold State.sendThrough
  split
  · exact s.sameMem_refl
  · exact ⟨rfl, rfl, rfl, rfl⟩

theorem evict_keeps (s : State) (die : Nat) (rdc : Bool) (l : Line) : (s.evict die rdc l).keeps s := by
  have h := meetLine_keeps s die rdc l
  unfold State.evict
  split <;> rename_i hl <;> rw [hl] at h
  · exact h
  split
  · exact State.keeps_trans h (State.keeps_of_sameMem
      (State.sameMem_trans (sendThrough_sameMem _ _ _) (dropLine_sameMem _ _ _ _)))
  split
  · exact h
  · exact State.keeps_trans h (State.keeps_trans (writeBack_keeps _ _) (State.keeps_of_sameMem (dropLine_sameMem _ _ _ _)))

theorem makeRoom_keeps (s : State) (die : Nat) (rdc : Bool) (va : Nat) : (s.makeRoom die rdc va).keeps s := by
  unfold State.makeRoom
  extract_lets n mates
  clear_value mates
  split
  · exact s.keeps_refl
  split
  · exact s.keeps_refl
  · exact evict_keeps _ _ _ _

theorem homeLine_keeps (s : State) (asid va : Nat) (side : Bool) (pa cc : Nat) :
    (homeLine s asid va side pa cc).keeps s := by
  have h := lookLine_keeps s (dieOf pa) false asid va side
  unfold homeLine
  dsimp only
  split <;> rename_i hl <;> rw [hl] at h
  · exact h
  · exact Got.keeps_trans h (Got.keeps_bind (dramRead_keeps _ _ _ _) fun t d _ =>
      Got.keeps_trans (State.keeps_of_sameMem (touch_sameMem _ _ _)) (Got.keeps_bind (makeRoom_keeps _ _ _ _) fun _ _ _ =>
        State.keeps_of_sameMem (State.sameMem_trans (setDie_sameMem _ _ _) (putLine_sameMem _ _ _ _))))

theorem snoopCopies_keeps (s : State) (pa : Nat) (bs : List (Nat × Byte)) : s.keeps (s.snoopCopies pa bs) := by
  unfold State.snoopCopies
  dsimp only
  refine State.keeps_trans (foldl_keeps _ (fun s l => ?_) _ _) (State.keeps_of_sameMem ⟨rfl, rfl, rfl, rfl⟩)
  have h := meetLine_keeps s (1 - dieOf pa) true l
  split <;> rename_i hl <;> rw [hl] at h
  · exact h
  split
  · exact State.keeps_trans h (State.keeps_of_sameMem (dropLine_sameMem _ _ _ _))
  · exact State.keeps_trans h (State.keeps_of_sameMem (putLine_sameMem _ _ _ _))

theorem homeWrite_keeps (s : State) (asid va : Nat) (side : Bool) (pa cc : Nat) (bs : List (Nat × Byte)) :
    (homeWrite s asid va side pa cc bs).keeps s := by
  refine Got.keeps_bind (homeLine_keeps _ _ _ _ _ _) fun t l _ => ?_
  extract_lets skip u v
  have hv : t.keeps v := by
    refine State.keeps_trans (t := u) (State.keeps_of_sameMem (putLine_sameMem _ _ _ _)) ?_
    by_cases hc : cc = 2
    · rw [show v = _ from if_pos hc]
      exact snoopCopies_keeps _ _ _
    · rw [show v = u from if_neg hc]
      exact State.keeps_refl _
  clear_value v
  show t.keeps _
  split
  · exact hv
  · exact State.keeps_trans hv (State.keeps_of_sameMem (fatalAsid_sameMem _ _ _ _))

theorem deliver_keeps (s : State) (k : Nat) (m : D2d) : (deliver s k m).keeps s := by
  have h := homeWrite_keeps s m.asid m.va m.side m.pa m.cc m.bytes
  unfold deliver
  split <;> rename_i hg <;> rw [hg] at h
  · exact h
  · exact h
  · exact State.keeps_trans h (State.keeps_of_sameMem
      (State.sameMem_trans ⟨rfl, rfl, rfl, rfl⟩ (fatalAsid_sameMem _ _ _ _)))

theorem syncLine_keeps (s : State) (src asid va : Nat) (side : Bool) : (syncLine s src asid va side).keeps s := by
  have h := lookLine_keeps s src true asid va side
  unfold syncLine
  extract_lets u
  have hu : s.keeps u := by
    rcases hl : s.lookLine src true asid va side with ⟨v, _ | l⟩ <;> rw [hl] at h
    · simpa only [u, hl] using h
    · simpa only [u, hl] using State.keeps_trans h (State.keeps_of_sameMem
        (State.sameMem_trans (sendThrough_sameMem _ _ _) (dropLine_sameMem _ _ _ _)))
  clear_value u
  split <;> exact hu

theorem askDie_sameMem (s : State) (a : Acc) (p : Spot) : s.sameMem (askDie s a p) := ⟨rfl, rfl, rfl, rfl⟩

theorem endAsk_sameMem (s : State) (a : Acc) (p : Spot) : s.sameMem (s.endAsk a p) := by
  unfold State.endAsk
  split <;> exact ⟨rfl, rfl, rfl, rfl⟩

theorem crossed_keeps (s : State) (a : Acc) (p : Spot) : (crossed s a p).keeps s := by
  unfold crossed
  split
  · exact s.keeps_refl
  split
  · exact State.keeps_of_sameMem (askDie_sameMem _ _ _)
  split
  · exact s.keeps_refl
  split
  · exact s.keeps_refl
  · exact State.keeps_of_sameMem (askDie_sameMem _ _ _)

theorem reachHome_keeps (s : State) (a : Acc) (p : Spot) : (reachHome s a p).keeps s := by
  unfold reachHome
  split
  · exact s.keeps_refl
  · exact Got.keeps_bind (syncLine_keeps _ _ _ _ _) fun _ _ _ => crossed_keeps _ _ _

theorem askHost_sameMem (s : State) (a : Acc) (va pa : Nat) (k : HostKind) : s.sameMem (askHost s a va pa k) := by
  unfold askHost
  split
  · exact s.sameMem_refl
  · exact ⟨rfl, rfl, rfl, rfl⟩

theorem forget_sameMem (s : State) (o : Nat) : s.sameMem (s.forget o) := ⟨rfl, rfl, rfl, rfl⟩

theorem readLine_keeps (s : State) (a : Acc) (p : Spot) : (readLine s a p).keeps s := by
  have h := lookLine_keeps s a.die true (s.ctx a.slot).asid (p.va / 128) p.side
  unfold readLine
  dsimp only
  split
  · split <;> rename_i hl <;> rw [hl] at h
    · split
      · exact State.keeps_trans h (State.keeps_of_sameMem (askHost_sameMem _ _ _ _ _))
      · exact h
    · exact State.keeps_trans h (State.keeps_of_sameMem (askHost_sameMem _ _ _ _ _))
  split
  · exact Got.keeps_bind (reachHome_keeps _ _ _) fun _ _ _ => homeLine_keeps _ _ _ _ _ _
  · split <;> rename_i hl <;> rw [hl] at h
    · exact h
    · exact Got.keeps_trans h (Got.keeps_bind (crossed_keeps _ _ _) fun _ _ _ =>
        Got.keeps_bind (homeLine_keeps _ _ _ _ _ _) fun _ _ _ =>
          Got.keeps_bind (makeRoom_keeps _ _ _ _) fun _ _ _ => State.keeps_of_sameMem
            (State.sameMem_trans (endAsk_sameMem _ _ _) (putLine_sameMem _ _ _ _)))

theorem writeLine_keeps (s : State) (a : Acc) (p : Spot) (bs : List Byte) : (writeLine s a p bs).keeps s := by
  unfold writeLine
  dsimp only
  split
  · exact Got.keeps_bind (reachHome_keeps _ _ _) fun _ _ _ => homeWrite_keeps _ _ _ _ _ _ _
  · exact Got.keeps_bind (readLine_keeps _ _ _) fun _ _ _ => State.keeps_of_sameMem (putLine_sameMem _ _ _ _)

/-! ### Translation -/

theorem walkCached_sameMem (s : State) (die asid a : Nat) : s.sameMem (walkCached s die asid a).1 := by
  unfold walkCached
  extract_lets d mine
  split
  · exact s.sameMem_refl
  split
  · exact s.sameMem_refl
  · exact State.sameMem_trans (setDie_sameMem _ _ _) (noteMem_sameMem _ _ _ _ _)

theorem cacheWalk_sameMem (s : State) (die asid a e : Nat) : s.sameMem (s.cacheWalk die asid a e) := by
  unfold State.cacheWalk
  dsimp only
  split
  · exact s.sameMem_refl
  · exact setDie_sameMem _ _ _

theorem walkEntry_keeps (s : State) (asid a va : Nat) : (walkEntry s asid a va).keeps s := by
  have h := walkCached_sameMem s (homeDie va) asid a
  unfold walkEntry
  split <;> rename_i hw <;> rw [hw] at h
  · exact State.keeps_of_sameMem h
  · exact Got.keeps_trans (State.keeps_of_sameMem h) (physRead_keeps _ _ _ _ _)

theorem walkFrom_keeps (asid va : Nat) (fetch : Bool) (l : List Nat) (t : Nat) (s : State) :
    (walkFrom asid va fetch l t s).keeps s := by
  induction l generalizing t s with
  | nil => exact s.keeps_refl
  | cons lvl l ih =>
    rw [walkFrom]
    refine Got.keeps_bind (walkEntry_keeps _ _ _ _) fun u e _ => ?_
    split
    · exact u.keeps_refl
    split
    · dsimp only
      split
      · exact u.keeps_refl
      · exact Got.keeps_trans (State.keeps_of_sameMem (cacheWalk_sameMem _ _ _ _ _)) (ih _ _)
    split <;> exact u.keeps_refl

theorem translate_keeps (s : State) (slot va : Nat) (fetch : Bool) : (translate s slot va fetch).keeps s := by
  unfold translate
  extract_lets asid die d bad u
  rcases Nat.eq_zero_or_pos (va / 2 ^ 57) with hv | hv
  case inr =>
    rw [if_pos (Nat.pos_iff_ne_zero.mp hv)]
    exact s.keeps_refl
  rw [if_neg (not_not_intro hv)]
  have h : s.keeps u := by
    by_cases hb : bad.isEmpty = true
    · rw [show u = s from if_pos hb]
      exact s.keeps_refl
    · rw [show u = _ from if_neg hb]
      exact State.keeps_of_sameMem (State.sameMem_trans (setDie_sameMem _ _ _) (noteMem_sameMem _ _ _ _ _))
  clear_value u
  split
  · exact h
  split
  · exact h
  · refine Got.keeps_trans h ?_
    refine Got.keeps_bind (walkFrom_keeps _ _ _ _ _ _) ?_
    clear_value die
    intro w e _
    exact State.keeps_of_sameMem (setDie_sameMem w die _)

theorem resolve_keeps (s : State) (a : Acc) (va : Nat) : (resolve s a va).keeps s := by
  refine Got.keeps_bind (translate_keeps _ _ _ _) fun t e _ => ?_
  dsimp only
  split
  · exact t.keeps_refl
  split
  · exact t.keeps_refl
  split
  · exact t.keeps_refl
  split <;> exact t.keeps_refl

/-! ### Accesses -/

theorem readyPart_keeps (s : State) (a : Acc) (p : Spot) (q : Piece) : (readyPart s a p q).keeps s := by
  unfold readyPart
  split
  · split
    · exact s.keeps_refl
    · exact State.keeps_of_sameMem (askHost_sameMem _ _ _ _ _)
  · have h := readLine_keeps s a p
    split <;> rename_i hg <;> rw [hg] at h <;> exact h

theorem readyAll_keeps (l : List Piece) (s : State) (a : Acc) : (readyAll l s a).keeps s := by
  induction l generalizing s a with
  | nil => exact s.keeps_refl
  | cons q l ih =>
    exact Got.keeps_bind (resolve_keeps _ _ _) fun _ _ _ => Got.keeps_bind (readyPart_keeps _ _ _ _) fun _ _ _ =>
      Got.keeps_bind (ih _ _) fun t _ _ => t.keeps_refl

theorem readPart_keeps (s : State) (a : Acc) (p : Spot) (q : Piece) : (readPart s a p q).keeps s := by
  unfold readPart
  split
  · exact s.keeps_refl
  · refine Got.keeps_bind (readLine_keeps _ _ _) fun t l _ => ?_
    split <;> exact t.keeps_refl

theorem readParts_keeps (a : Acc) (l : List (Spot × Piece)) (s : State) : (readParts a l s).keeps s := by
  induction l generalizing s with
  | nil => exact s.keeps_refl
  | cons q l ih =>
    exact Got.keeps_bind (readPart_keeps _ _ _ _) fun _ _ _ => Got.keeps_bind (ih _) fun t _ _ => t.keeps_refl

theorem writeParts_keeps (a : Acc) (l : List (Spot × Piece)) (s : State) : (writeParts a l s).keeps s := by
  induction l generalizing s with
  | nil => exact s.keeps_refl
  | cons q l ih =>
    refine Got.keeps_bind ?_ fun _ _ _ => ih _
    split
    · exact s.keeps_refl
    · exact writeLine_keeps _ _ _ _

/-- A read of global memory keeps the form. -/
theorem gread_keeps (s : State) (a : Acc) (va n : Nat) : (s.gread a va n).keeps s := by
  refine Got.keeps_bind (readyAll_keeps _ _ _) fun t x _ => ?_
  dsimp only
  split
  · exact Got.keeps_bind (readParts_keeps _ _ _) fun u _ _ => u.keeps_refl
  · exact t.keeps_refl

/-- A write of global memory keeps the form. -/
theorem gwrite_keeps (s : State) (a : Acc) (va : Nat) (bs : List Byte) : (s.gwrite a va bs).keeps s := by
  refine Got.keeps_bind (readyAll_keeps _ _ _) fun t x _ => ?_
  dsimp only
  split
  · exact Got.keeps_bind (writeParts_keeps _ _ _) fun u _ _ => u.keeps_refl
  · exact t.keeps_refl

theorem greadAll_keeps (s : State) (a : Acc) (rs : List (Nat × Nat)) : (s.greadAll a rs).keeps s := by
  refine Got.keeps_bind (readyAll_keeps _ _ _) fun t x _ => ?_
  dsimp only
  split
  · exact Got.keeps_bind (readParts_keeps _ _ _) fun u _ _ => u.keeps_refl
  · exact t.keeps_refl

theorem gwriteAll_keeps (s : State) (a : Acc) (ws : List (Nat × List Byte)) : (s.gwriteAll a ws).keeps s := by
  refine Got.keeps_bind (readyAll_keeps _ _ _) fun t x _ => ?_
  dsimp only
  split
  · exact Got.keeps_bind (writeParts_keeps _ _ _) fun u _ _ => u.keeps_refl
  · exact t.keeps_refl

/-- A read-modify-write of global memory keeps the form. -/
theorem gatomic_keeps (s : State) (a : Acc) (va n op b c : Nat) (f : Nat → Nat) :
    (s.gatomic a va n op b c f).keeps s := by
  refine Got.keeps_bind (resolve_keeps _ _ _) fun t x _ => ?_
  dsimp only
  split
  · split
    · split <;> exact t.keeps_refl
    · exact State.keeps_of_sameMem (askHost_sameMem _ _ _ _ _)
  · refine Got.keeps_bind (readLine_keeps _ _ _) fun u l _ => ?_
    split
    · exact u.keeps_refl
    · refine Got.keeps_bind ?_ fun v _ _ => v.keeps_refl
      split
      · exact Got.keeps_trans (State.keeps_of_sameMem (setDie_sameMem _ _ _)) (writeLine_keeps _ _ _ _)
      · exact writeLine_keeps _ _ _ _

/-- What a release sets in motion keeps the form. -/
theorem writeThrough_keeps (s : State) (die asid : Nat) : s.keeps (s.writeThrough die asid) := by
  refine foldl_keeps _ (fun s l => ?_) _ _
  have h := meetLine_keeps s die true l
  split <;> rename_i hl <;> rw [hl] at h
  · exact h
  · exact State.keeps_trans h (State.keeps_of_sameMem
      (State.sameMem_trans (sendThrough_sameMem _ _ _) (putLine_sameMem _ _ _ _)))

/-- So does what an acquire sets in motion. -/
theorem selfInvalidate_keeps (s : State) (die asid : Nat) : s.keeps (s.selfInvalidate die asid) :=
  State.keeps_trans (writeThrough_keeps _ _ _) (State.keeps_of_sameMem (setCache_sameMem _ _ _ _))

end Sys2Proof.Machine
end

