-- ==== Sys2Proof/Laws/Operands.lean ====
section
/-! SUPPORT. What the operand forms write and raise, once for every meaning that cites them. -/

namespace Sys2Proof.Machine

/-- The OR of flags over a list, started anywhere. -/
theorem orFlags_from (fs : List (Nat × Flags)) (z : Flags) : fs.foldl (fun a p => a ||| p.2) z = z ||| orFlags fs := by
  induction fs generalizing z with
  | nil => simp [orFlags]
  | cons p fs ih =>
    have h : orFlags (p :: fs) = p.2 ||| orFlags fs := by
      have h := ih (0 ||| p.2)
      rw [show (0 : Flags) ||| p.2 = p.2 from BitVec.zero_or] at h
      unfold orFlags
      rw [List.foldl_cons, show (0 : Flags) ||| p.2 = p.2 from BitVec.zero_or]
      exact h
    rw [List.foldl_cons, ih, h, BitVec.or_assoc]

@[simp] theorem orFlags_nil : orFlags [] = 0 := rfl
@[simp] theorem orFlags_cons (p : Nat × Flags) (fs : List (Nat × Flags)) : orFlags (p :: fs) = p.2 ||| orFlags fs := by
  unfold orFlags
  rw [List.foldl_cons, show (0 : Flags) ||| p.2 = p.2 from BitVec.zero_or]
  exact orFlags_from fs p.2

/-- Entries of one flag value OR to that value. -/
theorem orFlags_const (ls : List Nat) (l : Nat) (x : Flags) : orFlags ((l :: ls).map fun k => (k, x)) = x := by
  induction ls with
  | nil => simp
  | cons k ks ih =>
    simp only [List.map_cons, orFlags_cons] at ih ⊢
    simp [ih]

/-- The OR of the flags that lanes raise. -/
theorem orFlags_map (ls : List Nat) (f : Nat → Flags) :
    orFlags (ls.map fun l => (l, f l)) = ls.foldl (fun a l => a ||| f l) 0 := by
  simp [orFlags, List.foldl_map]

/-- A per-lane form writes lane by lane. -/
@[simp] theorem perLane_wr (m : Word) (f : Nat → List Wr × Flags) :
    (perLane m f).wr = written false m fun l => (f l).1 := by
  simp [perLane, written, formLanes, List.flatMap_map]

/-- A per-lane form raises the OR of its lanes' flags. -/
@[simp] theorem perLane_flags (m : Word) (f : Nat → List Wr × Flags) :
    orFlags (perLane m f).flags = raisedBy false m fun l => (f l).2 := by
  simp only [perLane, List.map_map]
  exact orFlags_map (lanesOf m) fun l => (f l).2

/-- A form writes once for the uniform variant and lane by lane for the other. -/
@[simp] theorem onLanes_wr (uni : Bool) (m : Word) (f : Nat → List Wr × Flags) :
    (onLanes uni m f).wr = written uni m fun l => (f l).1 := by
  cases uni with
  | false => simp [onLanes]
  | true =>
    cases h : lanesOf m <;> simp [onLanes, onceFor, written, formLanes, h]

/-- The flags of a form. -/
@[simp] theorem onLanes_flags (uni : Bool) (m : Word) (f : Nat → List Wr × Flags) :
    orFlags (onLanes uni m f).flags = raisedBy uni m fun l => (f l).2 := by
  cases uni with
  | false => simp [onLanes]
  | true =>
    cases h : lanesOf m with
    | nil => simp [onLanes, onceFor, raisedBy, formLanes, h]
    | cons l ls => simp [onLanes, onceFor, raisedBy, formLanes, h, orFlags_const, -List.map_cons]

/-- A form that raises no flag in any lane raises none. -/
@[simp] theorem raisedBy_zero (uni : Bool) (m : Word) : raisedBy uni m (fun _ => 0#5) = 0#5 := by
  simp only [raisedBy]
  induction formLanes uni m with
  | nil => rfl
  | cons l ls ih => simpa using ih

@[simp] theorem onLanes_trap (uni : Bool) (m : Word) (f : Nat → List Wr × Flags) : (onLanes uni m f).trap = none := by
  cases uni
  · rfl
  · cases h : lanesOf m <;> simp [onLanes, onceFor, h]
@[simp] theorem onLanes_clamp (uni : Bool) (m : Word) (f : Nat → List Wr × Flags) :
    (onLanes uni m f).clamp = false := by
  cases uni
  · rfl
  · cases h : lanesOf m <;> simp [onLanes, onceFor, h]
@[simp] theorem onLanes_late (uni : Bool) (m : Word) (f : Nat → List Wr × Flags) : (onLanes uni m f).late = none := by
  cases uni
  · rfl
  · cases h : lanesOf m <;> simp [onLanes, onceFor, h]
@[simp] theorem perLane_trap (m : Word) (f : Nat → List Wr × Flags) : (perLane m f).trap = none := rfl
@[simp] theorem perLane_clamp (m : Word) (f : Nat → List Wr × Flags) : (perLane m f).clamp = false := rfl
@[simp] theorem perLane_late (m : Word) (f : Nat → List Wr × Flags) : (perLane m f).late = none := rfl

/-- An instruction whose effect is a form that raises no flag completes with the form's writes. -/
theorem runs_onLanes {i : Instr} {uni : Env → Bool} {f : Env → Nat → List Wr × Flags}
    (hx : ∀ s, exec i s = issue s i fun s e => complete s e (onLanes (uni e) e.part (f e)))
    (hf : ∀ e l, (f e l).2 = 0) : Runs i fun e => written (uni e) e.part fun l => (f e l).1 := by
  intro s e h
  rw [hx, issue_ready h, complete_noFlags _ _ _ (by simp) (by simp [hf]) (by simp)]
  simp

/-- The lanes of a mask that a property selects, as a list that is filtered. -/
theorem maskOf_where (m : Word) (fl : Nat → Flags) (en : Flags) :
    maskOf ((((lanesOf m).map fun l => (l, fl l)).filter fun p => p.2 &&& en ≠ 0).map (·.1)) =
      maskWhere m fun l => fl l &&& en ≠ 0 := by
  simp [maskWhere, List.filter_map, Function.comp_def]

/-- A fixed-latency instruction whose flags stand lane by lane for those of P(c) ends merged. -/
theorem complete_merged (s : State) (e : Env) (f : Eff) (fl : Nat → Flags) (ht : f.trap = none)
    (hf : f.flags = (lanesOf e.part).map fun l => (l, fl l)) : complete s e f = .next (merged s e f.wr fl f.clamp) := by
  have hall : orFlags f.flags = raisedBy false e.part fl := by rw [hf, orFlags_map]; simp [raisedBy, formLanes]
  by_cases h : raisedBy false e.part fl &&& e.cw.enables = 0
  · rw [complete_settled s e f ht (by rw [hall]; exact h), hall]
    simp [merged, h]
  · have hen : Crew.enables { e.advance s (e.cw.write f.wr) with
        fpc := (e.advance s (e.cw.write f.wr)).fpc ||| (orFlags f.flags).setWidth 32,
        mclf := (e.advance s (e.cw.write f.wr)).mclf || f.clamp } = e.cw.enables := by
      simp [Crew.enables, enables_merge]
    simp only [complete, ht]
    rw [hen, hall, if_neg h, hf, maskOf_where]
    simp only [merged, if_neg h]
    rfl

/-- The flags of a form, lane by lane. -/
theorem onLanes_each (uni : Bool) (m : Word) (f : Nat → List Wr × Flags) :
    (onLanes uni m f).flags = (lanesOf m).map fun l => (l, if uni then raisedBy true m (fun k => (f k).2) else (f l).2) := by
  cases uni with
  | false => simp [onLanes, perLane]
  | true => cases h : lanesOf m <;> simp [onLanes, onceFor, raisedBy, formLanes, h]

/-- An instruction whose effect is a form completes with the form's writes and flags. -/
theorem runsFl_onLanes {i : Instr} {uni : Env → Bool} {f : Env → Nat → List Wr × Flags}
    (hx : ∀ s, exec i s = issue s i fun s e => complete s e (onLanes (uni e) e.part (f e))) :
    RunsFl i (fun e => written (uni e) e.part fun l => (f e l).1) fun e => laneFlags (uni e) e fun l => (f e l).2 := by
  intro s e h
  rw [hx, issue_ready h, complete_merged s e _ (laneFlags (uni e) e fun l => (f e l).2) (by simp) (onLanes_each _ _ _)]
  simp

end Sys2Proof.Machine
end

