-- ==== Sys2Proof/Laws/PerInstr.lean ====
section
/-! SUPPORT. A statement about every instruction as syntax, instruction by instruction: how many bytes its words take. -/

namespace Sys2Proof.Laws

open Sys2Proof Sys2Proof.Machine

/-- The bytes of words are as many as their length says. -/
theorem length_bytes (w : Words) : w.bytes.length = w.len := by
  have h (n x : Nat) : (natToBytes n x).length = n := by
    induction n generalizing x with
    | zero => rfl
    | succ n ih => simp [natToBytes, ih]
  cases w <;> simp [Words.bytes, Words.len, h]

/-- R65: the encoding of an instruction takes the bytes by which its PC advances: 2, 4, 8 or 12, and none for an event. -/
def Extent.Statement (i : Instr) : Prop := (encode i).length = lenOf i ∧ lenOf i ∈ [0, 2, 4, 8, 12]

/-- The statement from the words of the instruction. -/
theorem extent_of (i : Instr) : Extent.Statement i := by
  unfold Extent.Statement encode lenOf
  cases words i with
  | none => simp
  | some w => exact ⟨length_bytes w, by cases w <;> simp [Words.len]⟩

theorem Extent.mov16 (d b : Nat) : Extent.Statement (.mov16 d b) := extent_of _
theorem Extent.iadd16 (d b : Nat) : Extent.Statement (.iadd16 d b) := extent_of _
theorem Extent.isub16 (d b : Nat) : Extent.Statement (.isub16 d b) := extent_of _
theorem Extent.iaddi16 (d b : Nat) : Extent.Statement (.iaddi16 d b) := extent_of _
theorem Extent.and16 (d b : Nat) : Extent.Statement (.and16 d b) := extent_of _
theorem Extent.or16 (d b : Nat) : Extent.Statement (.or16 d b) := extent_of _
theorem Extent.xor16 (d b : Nat) : Extent.Statement (.xor16 d b) := extent_of _
theorem Extent.shli16 (d b : Nat) : Extent.Statement (.shli16 d b) := extent_of _
theorem Extent.shri16 (d b : Nat) : Extent.Statement (.shri16 d b) := extent_of _
theorem Extent.sari16 (d b : Nat) : Extent.Statement (.sari16 d b) := extent_of _
theorem Extent.fadd16 (d b : Nat) : Extent.Statement (.fadd16 d b) := extent_of _
theorem Extent.fsub16 (d b : Nat) : Extent.Statement (.fsub16 d b) := extent_of _
theorem Extent.fmul16 (d b : Nat) : Extent.Statement (.fmul16 d b) := extent_of _
theorem Extent.fmax16 (d b : Nat) : Extent.Statement (.fmax16 d b) := extent_of _
theorem Extent.fmin16 (d b : Nat) : Extent.Statement (.fmin16 d b) := extent_of _
theorem Extent.movi16 (d b : Nat) : Extent.Statement (.movi16 d b) := extent_of _
theorem Extent.iaddR2 (x : R2) : Extent.Statement (.iaddR2 x) := extent_of _
theorem Extent.isubR2 (x : R2) : Extent.Statement (.isubR2 x) := extent_of _
theorem Extent.andR2 (x : R2) : Extent.Statement (.andR2 x) := extent_of _
theorem Extent.orR2 (x : R2) : Extent.Statement (.orR2 x) := extent_of _
theorem Extent.xorR2 (x : R2) : Extent.Statement (.xorR2 x) := extent_of _
theorem Extent.andnR2 (x : R2) : Extent.Statement (.andnR2 x) := extent_of _
theorem Extent.shlR2 (x : R2) : Extent.Statement (.shlR2 x) := extent_of _
theorem Extent.shrR2 (x : R2) : Extent.Statement (.shrR2 x) := extent_of _
theorem Extent.sarR2 (x : R2) : Extent.Statement (.sarR2 x) := extent_of _
theorem Extent.rotlR2 (x : R2) : Extent.Statement (.rotlR2 x) := extent_of _
theorem Extent.iaddI8 (x : I8) : Extent.Statement (.iaddI8 x) := extent_of _
theorem Extent.shlI6 (x : I6) : Extent.Statement (.shlI6 x) := extent_of _
theorem Extent.shrI6 (x : I6) : Extent.Statement (.shrI6 x) := extent_of _
theorem Extent.sarI6 (x : I6) : Extent.Statement (.sarI6 x) := extent_of _
theorem Extent.rotlI6 (x : I6) : Extent.Statement (.rotlI6 x) := extent_of _
theorem Extent.movi (x : MoviOps) : Extent.Statement (.movi x) := extent_of _
theorem Extent.pand (x : R4) : Extent.Statement (.pand x) := extent_of _
theorem Extent.por (x : R4) : Extent.Statement (.por x) := extent_of _
theorem Extent.pxor (x : R4) : Extent.Statement (.pxor x) := extent_of _
theorem Extent.pnot (x : R4) : Extent.Statement (.pnot x) := extent_of _
theorem Extent.bra (x : BOps) : Extent.Statement (.bra x) := extent_of _
theorem Extent.call (x : BOps) : Extent.Statement (.call x) := extent_of _
theorem Extent.brx (x : R4) : Extent.Statement (.brx x) := extent_of _
theorem Extent.ret (x : R4) : Extent.Statement (.ret x) := extent_of _
theorem Extent.exit (x : R4) : Extent.Statement (.exit x) := extent_of _
theorem Extent.trigger (x : R4) : Extent.Statement (.trigger x) := extent_of _
theorem Extent.regsGrow (x : RegsOps) : Extent.Statement (.regsGrow x) := extent_of _
theorem Extent.regsShrink (x : RegsOps) : Extent.Statement (.regsShrink x) := extent_of _
theorem Extent.csrr (x : NOps) : Extent.Statement (.csrr x) := extent_of _
theorem Extent.csrw (x : NOps) : Extent.Statement (.csrw x) := extent_of _
theorem Extent.trap (x : NOps) : Extent.Statement (.trap x) := extent_of _
theorem Extent.nop (x : NOps) : Extent.Statement (.nop x) := extent_of _
theorem Extent.tret (x : NOps) : Extent.Statement (.tret x) := extent_of _
theorem Extent.bkpt (x : NOps) : Extent.Statement (.bkpt x) := extent_of _
theorem Extent.iaddX (x : XOps) : Extent.Statement (.iaddX x) := extent_of _
theorem Extent.isubX (x : XOps) : Extent.Statement (.isubX x) := extent_of _
theorem Extent.shlX (x : XOps) : Extent.Statement (.shlX x) := extent_of _
theorem Extent.shrX (x : XOps) : Extent.Statement (.shrX x) := extent_of _
theorem Extent.sarX (x : XOps) : Extent.Statement (.sarX x) := extent_of _
theorem Extent.rotlX (x : XOps) : Extent.Statement (.rotlX x) := extent_of _
theorem Extent.andX (x : XOps) : Extent.Statement (.andX x) := extent_of _
theorem Extent.orX (x : XOps) : Extent.Statement (.orX x) := extent_of _
theorem Extent.xorX (x : XOps) : Extent.Statement (.xorX x) := extent_of _
theorem Extent.andnX (x : XOps) : Extent.Statement (.andnX x) := extent_of _
theorem Extent.imul (x : XOps) : Extent.Statement (.imul x) := extent_of _
theorem Extent.imulh (x : XOps) : Extent.Statement (.imulh x) := extent_of _
theorem Extent.imad (x : XOps) : Extent.Statement (.imad x) := extent_of _
theorem Extent.lea (x : XOps) : Extent.Statement (.lea x) := extent_of _
theorem Extent.idiv (x : XOps) : Extent.Statement (.idiv x) := extent_of _
theorem Extent.irem (x : XOps) : Extent.Statement (.irem x) := extent_of _
theorem Extent.imin (x : XOps) : Extent.Statement (.imin x) := extent_of _
theorem Extent.imax (x : XOps) : Extent.Statement (.imax x) := extent_of _
theorem Extent.iabs (x : XOps) : Extent.Statement (.iabs x) := extent_of _
theorem Extent.notX (x : XOps) : Extent.Statement (.notX x) := extent_of _
theorem Extent.popc (x : XOps) : Extent.Statement (.popc x) := extent_of _
theorem Extent.clz (x : XOps) : Extent.Statement (.clz x) := extent_of _
theorem Extent.brev (x : XOps) : Extent.Statement (.brev x) := extent_of _
theorem Extent.bfx (x : XOps) : Extent.Statement (.bfx x) := extent_of _
theorem Extent.bfi (x : XOps) : Extent.Statement (.bfi x) := extent_of _
theorem Extent.icmp (x : XOps) : Extent.Statement (.icmp x) := extent_of _
theorem Extent.sel (x : XOps) : Extent.Statement (.sel x) := extent_of _
theorem Extent.mov (x : XOps) : Extent.Statement (.mov x) := extent_of _
theorem Extent.p2v (x : XOps) : Extent.Statement (.p2v x) := extent_of _
theorem Extent.v2p (x : XOps) : Extent.Statement (.v2p x) := extent_of _
theorem Extent.movl (x : MovlOps) : Extent.Statement (.movl x) := extent_of _
theorem Extent.fadd (x : XOps) : Extent.Statement (.fadd x) := extent_of _
theorem Extent.fsub (x : XOps) : Extent.Statement (.fsub x) := extent_of _
theorem Extent.fmul (x : XOps) : Extent.Statement (.fmul x) := extent_of _
theorem Extent.ffma (x : XOps) : Extent.Statement (.ffma x) := extent_of _
theorem Extent.fmin (x : XOps) : Extent.Statement (.fmin x) := extent_of _
theorem Extent.fmax (x : XOps) : Extent.Statement (.fmax x) := extent_of _
theorem Extent.fcmp (x : XOps) : Extent.Statement (.fcmp x) := extent_of _
theorem Extent.fclass (x : XOps) : Extent.Statement (.fclass x) := extent_of _
theorem Extent.fdiv (x : XOps) : Extent.Statement (.fdiv x) := extent_of _
theorem Extent.fsqrt (x : XOps) : Extent.Statement (.fsqrt x) := extent_of _
theorem Extent.frcp (x : XOps) : Extent.Statement (.frcp x) := extent_of _
theorem Extent.frsq (x : XOps) : Extent.Statement (.frsq x) := extent_of _
theorem Extent.frnd (x : XOps) : Extent.Statement (.frnd x) := extent_of _
theorem Extent.f2f (x : XOps) : Extent.Statement (.f2f x) := extent_of _
theorem Extent.f2i (x : XOps) : Extent.Statement (.f2i x) := extent_of _
theorem Extent.i2f (x : XOps) : Extent.Statement (.i2f x) := extent_of _
theorem Extent.fexp2 (x : XOps) : Extent.Statement (.fexp2 x) := extent_of _
theorem Extent.flog2 (x : XOps) : Extent.Statement (.flog2 x) := extent_of _
theorem Extent.fexp (x : XOps) : Extent.Statement (.fexp x) := extent_of _
theorem Extent.flog (x : XOps) : Extent.Statement (.flog x) := extent_of _
theorem Extent.fsin (x : XOps) : Extent.Statement (.fsin x) := extent_of _
theorem Extent.fcos (x : XOps) : Extent.Statement (.fcos x) := extent_of _
theorem Extent.ftanh (x : XOps) : Extent.Statement (.ftanh x) := extent_of _
theorem Extent.fsigm (x : XOps) : Extent.Statement (.fsigm x) := extent_of _
theorem Extent.ferf (x : XOps) : Extent.Statement (.ferf x) := extent_of _
theorem Extent.qscl (x : XOps) : Extent.Statement (.qscl x) := extent_of _
theorem Extent.qpk (x : XOps) : Extent.Statement (.qpk x) := extent_of _
theorem Extent.qupk (x : XOps) : Extent.Statement (.qupk x) := extent_of _
theorem Extent.ctabW (x : XOps) : Extent.Statement (.ctabW x) := extent_of _
theorem Extent.ctabSwap (x : XOps) : Extent.Statement (.ctabSwap x) := extent_of _
theorem Extent.lut4 (x : XOps) : Extent.Statement (.lut4 x) := extent_of _
theorem Extent.madd (x : XOps) : Extent.Statement (.madd x) := extent_of _
theorem Extent.msub (x : XOps) : Extent.Statement (.msub x) := extent_of _
theorem Extent.mmul (x : XOps) : Extent.Statement (.mmul x) := extent_of _
theorem Extent.mfma (x : XOps) : Extent.Statement (.mfma x) := extent_of _
theorem Extent.mscale (x : XOps) : Extent.Statement (.mscale x) := extent_of _
theorem Extent.mclamp (x : XOps) : Extent.Statement (.mclamp x) := extent_of _
theorem Extent.mmov (x : XOps) : Extent.Statement (.mmov x) := extent_of _
theorem Extent.mrelu (x : XOps) : Extent.Statement (.mrelu x) := extent_of _
theorem Extent.msigm (x : XOps) : Extent.Statement (.msigm x) := extent_of _
theorem Extent.mtanh (x : XOps) : Extent.Statement (.mtanh x) := extent_of _
theorem Extent.mexp (x : XOps) : Extent.Statement (.mexp x) := extent_of _
theorem Extent.mset (x : XOps) : Extent.Statement (.mset x) := extent_of _
theorem Extent.mcoll (x : XOps) : Extent.Statement (.mcoll x) := extent_of _
theorem Extent.mld (x : XOps) : Extent.Statement (.mld x) := extent_of _
theorem Extent.mst (x : XOps) : Extent.Statement (.mst x) := extent_of _
theorem Extent.rseed (x : XOps) : Extent.Statement (.rseed x) := extent_of _
theorem Extent.rnext (x : XOps) : Extent.Statement (.rnext x) := extent_of _
theorem Extent.rctr (x : XOps) : Extent.Statement (.rctr x) := extent_of _
theorem Extent.runi (x : XOps) : Extent.Statement (.runi x) := extent_of _
theorem Extent.rmask (x : XOps) : Extent.Statement (.rmask x) := extent_of _
theorem Extent.ld (x : XOps) : Extent.Statement (.ld x) := extent_of _
theorem Extent.st (x : XOps) : Extent.Statement (.st x) := extent_of _
theorem Extent.lds (x : XOps) : Extent.Statement (.lds x) := extent_of _
theorem Extent.atom (x : XOps) : Extent.Statement (.atom x) := extent_of _
theorem Extent.tbinit (x : XOps) : Extent.Statement (.tbinit x) := extent_of _
theorem Extent.tbarr (x : XOps) : Extent.Statement (.tbarr x) := extent_of _
theorem Extent.tbwait (x : XOps) : Extent.Statement (.tbwait x) := extent_of _
theorem Extent.srput (x : XOps) : Extent.Statement (.srput x) := extent_of _
theorem Extent.srputCommit (x : XOps) : Extent.Statement (.srputCommit x) := extent_of _
theorem Extent.srget (x : XOps) : Extent.Statement (.srget x) := extent_of _
theorem Extent.srrel (x : XOps) : Extent.Statement (.srrel x) := extent_of _
theorem Extent.join (x : XOps) : Extent.Statement (.join x) := extent_of _
theorem Extent.leave (x : XOps) : Extent.Statement (.leave x) := extent_of _
theorem Extent.bar (x : XOps) : Extent.Statement (.bar x) := extent_of _
theorem Extent.barBlk (x : XOps) : Extent.Statement (.barBlk x) := extent_of _
theorem Extent.fence (x : XOps) : Extent.Statement (.fence x) := extent_of _
theorem Extent.rcfence (x : XOps) : Extent.Statement (.rcfence x) := extent_of _
theorem Extent.layout (x : XOps) : Extent.Statement (.layout x) := extent_of _
theorem Extent.vote (x : XOps) : Extent.Statement (.vote x) := extent_of _
theorem Extent.shfl (x : XOps) : Extent.Statement (.shfl x) := extent_of _
theorem Extent.cred (x : XOps) : Extent.Statement (.cred x) := extent_of _
theorem Extent.cscan (x : XOps) : Extent.Statement (.cscan x) := extent_of _
theorem Extent.mxw (x : MxOps) : Extent.Statement (.mxw x) := extent_of _
theorem Extent.mxa (x : MxOps) : Extent.Statement (.mxa x) := extent_of _
theorem Extent.mxg (x : MxOps) : Extent.Statement (.mxg x) := extent_of _
theorem Extent.mxm (x : MxOps) : Extent.Statement (.mxm x) := extent_of _
theorem Extent.mxtl (x : TileOps) : Extent.Statement (.mxtl x) := extent_of _
theorem Extent.mxts (x : TileOps) : Extent.Statement (.mxts x) := extent_of _
theorem Extent.accz (x : AccOps) : Extent.Statement (.accz x) := extent_of _
theorem Extent.accld (x : AccOps) : Extent.Statement (.accld x) := extent_of _
theorem Extent.accst (x : AccOps) : Extent.Statement (.accst x) := extent_of _
theorem Extent.accdr (x : DrainOps) : Extent.Statement (.accdr x) := extent_of _
theorem Extent.mxprog (x : ProgOps) : Extent.Statement (.mxprog x) := extent_of _
theorem Extent.cpg (x : StreamOps) : Extent.Statement (.cpg x) := extent_of _
theorem Extent.cps (x : StreamOps) : Extent.Statement (.cps x) := extent_of _
theorem Extent.cphIn (x : StreamOps) : Extent.Statement (.cphIn x) := extent_of _
theorem Extent.cphOut (x : StreamOps) : Extent.Statement (.cphOut x) := extent_of _
theorem Extent.ctok (x : StreamOps) : Extent.Statement (.ctok x) := extent_of _
theorem Extent.cwait (x : StreamOps) : Extent.Statement (.cwait x) := extent_of _
theorem Extent.pref (x : StreamOps) : Extent.Statement (.pref x) := extent_of _
theorem Extent.fatom (x : FarOps) : Extent.Statement (.fatom x) := extent_of _
theorem Extent.fwait (x : FarOps) : Extent.Statement (.fwait x) := extent_of _
theorem Extent.l2lck (x : FarOps) : Extent.Statement (.l2lck x) := extent_of _
theorem Extent.l2ulk (x : FarOps) : Extent.Statement (.l2ulk x) := extent_of _
theorem Extent.publ (x : FarOps) : Extent.Statement (.publ x) := extent_of _
theorem Extent.compact (x : CluOps) : Extent.Statement (.compact x) := extent_of _
theorem Extent.envrst (x : CluOps) : Extent.Statement (.envrst x) := extent_of _
theorem Extent.bpsort (x : CluOps) : Extent.Statement (.bpsort x) := extent_of _
theorem Extent.bvht (x : CluOps) : Extent.Statement (.bvht x) := extent_of _
theorem Extent.qpush (x : CluOps) : Extent.Statement (.qpush x) := extent_of _
theorem Extent.qpushRound (x : CluOps) : Extent.Statement (.qpushRound x) := extent_of _
theorem Extent.qpop (x : CluOps) : Extent.Statement (.qpop x) := extent_of _
theorem Extent.sfact (x : SolOps) : Extent.Statement (.sfact x) := extent_of _
theorem Extent.ssolve (x : SolOps) : Extent.Statement (.ssolve x) := extent_of _
theorem Extent.sadj (x : SolOps) : Extent.Statement (.sadj x) := extent_of _
theorem Extent.slsq (x : SolOps) : Extent.Statement (.slsq x) := extent_of _
theorem Extent.sstat (x : SolOps) : Extent.Statement (.sstat x) := extent_of _
theorem Extent.optsub (x : OptOps) : Extent.Statement (.optsub x) := extent_of _
theorem Extent.optwait (x : OptOps) : Extent.Statement (.optwait x) := extent_of _
theorem Extent.coll (x : FabOps) : Extent.Statement (.coll x) := extent_of _
theorem Extent.csend (x : FabOps) : Extent.Statement (.csend x) := extent_of _
theorem Extent.csendRwd (x : FabOps) : Extent.Statement (.csendRwd x) := extent_of _
theorem Extent.crecv (x : FabOps) : Extent.Statement (.crecv x) := extent_of _
theorem Extent.rjopen (x : FabOps) : Extent.Statement (.rjopen x) := extent_of _
theorem Extent.rjtick (x : FabOps) : Extent.Statement (.rjtick x) := extent_of _
theorem Extent.rjpop (x : FabOps) : Extent.Statement (.rjpop x) := extent_of _
theorem Extent.rjstat (x : FabOps) : Extent.Statement (.rjstat x) := extent_of _
theorem Extent.rjstatCfg (x : FabOps) : Extent.Statement (.rjstatCfg x) := extent_of _
theorem Extent.resultReturn (b c k : Nat) : Extent.Statement (.resultReturn b c k) := extent_of _
theorem Extent.unpark (b c : Nat) : Extent.Statement (.unpark b c) := extent_of _
theorem Extent.regsGrant (b c : Nat) : Extent.Statement (.regsGrant b c) := extent_of _
theorem Extent.trapEntry (b c : Nat) : Extent.Statement (.trapEntry b c) := extent_of _
theorem Extent.crewDrainComplete (b c : Nat) : Extent.Statement (.crewDrainComplete b c) := extent_of _
theorem Extent.storeQueueWrite (b c : Nat) : Extent.Statement (.storeQueueWrite b c) := extent_of _
theorem Extent.atomPerform (b c : Nat) : Extent.Statement (.atomPerform b c) := extent_of _
theorem Extent.tbinitPerform (b c : Nat) : Extent.Statement (.tbinitPerform b c) := extent_of _
theorem Extent.tbarrPerform (b c : Nat) : Extent.Statement (.tbarrPerform b c) := extent_of _
theorem Extent.tbwaitComplete (b c : Nat) : Extent.Statement (.tbwaitComplete b c) := extent_of _
theorem Extent.srputWake (b c : Nat) : Extent.Statement (.srputWake b c) := extent_of _
theorem Extent.srgetWake (b c : Nat) : Extent.Statement (.srgetWake b c) := extent_of _
theorem Extent.barrierRelease (b k : Nat) : Extent.Statement (.barrierRelease b k) := extent_of _
theorem Extent.envrstPerform (b c : Nat) : Extent.Statement (.envrstPerform b c) := extent_of _
theorem Extent.fenceComplete (b c : Nat) : Extent.Statement (.fenceComplete b c) := extent_of _
theorem Extent.mxwTurn (b : Nat) : Extent.Statement (.mxwTurn b) := extent_of _
theorem Extent.streamCommandTurn (b : Nat) : Extent.Statement (.streamCommandTurn b) := extent_of _
theorem Extent.streamStep (b : Nat) : Extent.Statement (.streamStep b) := extent_of _
theorem Extent.mxtlTurn (b : Nat) : Extent.Statement (.mxtlTurn b) := extent_of _
theorem Extent.mxtsTurn (b : Nat) : Extent.Statement (.mxtsTurn b) := extent_of _
theorem Extent.acczTurn (b : Nat) : Extent.Statement (.acczTurn b) := extent_of _
theorem Extent.accldTurn (b : Nat) : Extent.Statement (.accldTurn b) := extent_of _
theorem Extent.accstTurn (b : Nat) : Extent.Statement (.accstTurn b) := extent_of _
theorem Extent.accdrTurn (b : Nat) : Extent.Statement (.accdrTurn b) := extent_of _
theorem Extent.mxprogTurn (b : Nat) : Extent.Statement (.mxprogTurn b) := extent_of _
theorem Extent.latchedCommandTurn (b : Nat) : Extent.Statement (.latchedCommandTurn b) := extent_of _
theorem Extent.streamerChunk (b k : Nat) : Extent.Statement (.streamerChunk b k) := extent_of _
theorem Extent.streamerCopyComplete (b k : Nat) : Extent.Statement (.streamerCopyComplete b k) := extent_of _
theorem Extent.cwaitComplete (b c : Nat) : Extent.Statement (.cwaitComplete b c) := extent_of _
theorem Extent.farAtomicPerform (b c k : Nat) : Extent.Statement (.farAtomicPerform b c k) := extent_of _
theorem Extent.chainedAtomicRelease (b c k : Nat) : Extent.Statement (.chainedAtomicRelease b c k) := extent_of _
theorem Extent.fwaitSatisfied (b c : Nat) : Extent.Statement (.fwaitSatisfied b c) := extent_of _
theorem Extent.l2lckComplete (b c : Nat) : Extent.Statement (.l2lckComplete b c) := extent_of _
theorem Extent.publFlip (b c : Nat) : Extent.Statement (.publFlip b c) := extent_of _
theorem Extent.lineFill (die k : Nat) : Extent.Statement (.lineFill die k) := extent_of _
theorem Extent.translationWalk (die k : Nat) : Extent.Statement (.translationWalk die k) := extent_of _
theorem Extent.rdcEviction (die line : Nat) : Extent.Statement (.rdcEviction die line) := extent_of _
theorem Extent.writeThroughAck (k : Nat) : Extent.Statement (.writeThroughAck k) := extent_of _
theorem Extent.dieToDieTransfer (k : Nat) : Extent.Statement (.dieToDieTransfer k) := extent_of _
theorem Extent.dieToDieTransferFailed (k : Nat) : Extent.Statement (.dieToDieTransferFailed k) := extent_of _
theorem Extent.swap (die k : Nat) : Extent.Statement (.swap die k) := extent_of _
theorem Extent.epochHalving (die : Nat) : Extent.Statement (.epochHalving die) := extent_of _
theorem Extent.sweeperStep (die : Nat) : Extent.Statement (.sweeperStep die) := extent_of _
theorem Extent.activationCounterSaturated (die stack row : Nat) : Extent.Statement (.activationCounterSaturated die stack row) := extent_of _
theorem Extent.retrainingStart (die stack : Nat) : Extent.Statement (.retrainingStart die stack) := extent_of _
theorem Extent.retrainingComplete (die stack : Nat) : Extent.Statement (.retrainingComplete die stack) := extent_of _
theorem Extent.hostSnoop (line : Nat) (take : Bool) (bytes : List (Nat × Byte)) : Extent.Statement (.hostSnoop line take bytes) := extent_of _
theorem Extent.hostCompletion (k status : Nat) (bytes : List Byte) : Extent.Statement (.hostCompletion k status bytes) := extent_of _
theorem Extent.hostCompletionTimeout (k : Nat) : Extent.Statement (.hostCompletionTimeout k) := extent_of _
theorem Extent.launch (sq : Nat) (x : Cmd) : Extent.Statement (.launch sq x) := extent_of _
theorem Extent.headLaunchCheck (sq : Nat) : Extent.Statement (.headLaunchCheck sq) := extent_of _
theorem Extent.ctxCreate (x : Cmd) : Extent.Statement (.ctxCreate x) := extent_of _
theorem Extent.ctxEnd (x : Cmd) : Extent.Statement (.ctxEnd x) := extent_of _
theorem Extent.ctxReclaim (x : Cmd) : Extent.Statement (.ctxReclaim x) := extent_of _
theorem Extent.sqCreate (x : Cmd) : Extent.Statement (.sqCreate x) := extent_of _
theorem Extent.oqBind (x : Cmd) : Extent.Statement (.oqBind x) := extent_of _
theorem Extent.oqUnbind (x : Cmd) : Extent.Statement (.oqUnbind x) := extent_of _
theorem Extent.resolveResume (x : Cmd) : Extent.Statement (.resolveResume x) := extent_of _
theorem Extent.resolveRetry (x : Cmd) : Extent.Statement (.resolveRetry x) := extent_of _
theorem Extent.resolveKill (x : Cmd) : Extent.Statement (.resolveKill x) := extent_of _
theorem Extent.setAge (x : Cmd) : Extent.Statement (.setAge x) := extent_of _
theorem Extent.ptRoot (x : Cmd) : Extent.Statement (.ptRoot x) := extent_of _
theorem Extent.inval (x : Cmd) : Extent.Statement (.inval x) := extent_of _
theorem Extent.invalFlush (x : Cmd) : Extent.Statement (.invalFlush x) := extent_of _
theorem Extent.asidFlush (x : Cmd) : Extent.Statement (.asidFlush x) := extent_of _
theorem Extent.l2Quota (x : Cmd) : Extent.Statement (.l2Quota x) := extent_of _
theorem Extent.tierCtl (x : Cmd) : Extent.Statement (.tierCtl x) := extent_of _
theorem Extent.tierPin (x : Cmd) : Extent.Statement (.tierPin x) := extent_of _
theorem Extent.tierUnpin (x : Cmd) : Extent.Statement (.tierUnpin x) := extent_of _
theorem Extent.sweep (x : Cmd) : Extent.Statement (.sweep x) := extent_of _
theorem Extent.sweepStop (x : Cmd) : Extent.Statement (.sweepStop x) := extent_of _
theorem Extent.hbmRate (x : Cmd) : Extent.Statement (.hbmRate x) := extent_of _
theorem Extent.cqdb (w : Nat) : Extent.Statement (.cqdb w) := extent_of _
theorem Extent.sqdb (sq w : Nat) : Extent.Statement (.sqdb sq w) := extent_of _
theorem Extent.pcapWrite (w : Nat) : Extent.Statement (.pcapWrite w) := extent_of _
theorem Extent.evtailRead (die : Nat) : Extent.Statement (.evtailRead die) := extent_of _
theorem Extent.unsupportedRequest (off size : Nat) (write : Bool) : Extent.Statement (.unsupportedRequest off size write) := extent_of _
theorem Extent.dispatchDecision (die : Nat) : Extent.Statement (.dispatchDecision die) := extent_of _
theorem Extent.ageingInterval (grid : Nat) : Extent.Statement (.ageingInterval grid) := extent_of _
theorem Extent.stagingComplete (b : Nat) : Extent.Statement (.stagingComplete b) := extent_of _
theorem Extent.drainComplete (b : Nat) : Extent.Statement (.drainComplete b) := extent_of _
theorem Extent.launchCompletion (grid : Nat) : Extent.Statement (.launchCompletion grid) := extent_of _
theorem Extent.blockAbort (b : Nat) : Extent.Statement (.blockAbort b) := extent_of _
theorem Extent.blockSave (b : Nat) : Extent.Statement (.blockSave b) := extent_of _
theorem Extent.saveDeadlineExceeded (b : Nat) : Extent.Statement (.saveDeadlineExceeded b) := extent_of _
theorem Extent.contextStopComplete (slot : Nat) : Extent.Statement (.contextStopComplete slot) := extent_of _
theorem Extent.holdRecordWrite (slot : Nat) : Extent.Statement (.holdRecordWrite slot) := extent_of _
theorem Extent.compactComplete (b : Nat) : Extent.Statement (.compactComplete b) := extent_of _
theorem Extent.bpsortJob (b c : Nat) : Extent.Statement (.bpsortJob b c) := extent_of _
theorem Extent.bvhtJob (b c : Nat) : Extent.Statement (.bvhtJob b c) := extent_of _
theorem Extent.qpushPlace (b c : Nat) : Extent.Statement (.qpushPlace b c) := extent_of _
theorem Extent.qpopTake (b c : Nat) : Extent.Statement (.qpopTake b c) := extent_of _
theorem Extent.sfactComplete (b c : Nat) : Extent.Statement (.sfactComplete b c) := extent_of _
theorem Extent.ssolveComplete (b c : Nat) : Extent.Statement (.ssolveComplete b c) := extent_of _
theorem Extent.sadjComplete (b c : Nat) : Extent.Statement (.sadjComplete b c) := extent_of _
theorem Extent.slsqCheckpoint (k : Nat) : Extent.Statement (.slsqCheckpoint k) := extent_of _
theorem Extent.slsqComplete (k : Nat) : Extent.Statement (.slsqComplete k) := extent_of _
theorem Extent.sstatComplete (b c : Nat) : Extent.Statement (.sstatComplete b c) := extent_of _
theorem Extent.optsubAccept (b c : Nat) : Extent.Statement (.optsubAccept b c) := extent_of _
theorem Extent.optimiserCheckpoint (k : Nat) : Extent.Statement (.optimiserCheckpoint k) := extent_of _
theorem Extent.optimiserJobComplete (k : Nat) : Extent.Statement (.optimiserJobComplete k) := extent_of _
theorem Extent.optwaitComplete (b c : Nat) : Extent.Statement (.optwaitComplete b c) := extent_of _
theorem Extent.collChunk (k : Nat) : Extent.Statement (.collChunk k) := extent_of _
theorem Extent.collComplete (k : Nat) : Extent.Statement (.collComplete k) := extent_of _
theorem Extent.sendMatch (k j : Nat) : Extent.Statement (.sendMatch k j) := extent_of _
theorem Extent.rewardRecord (die : Nat) : Extent.Statement (.rewardRecord die) := extent_of _
theorem Extent.rjopenEvent (b c : Nat) : Extent.Statement (.rjopenEvent b c) := extent_of _
theorem Extent.rjtickEvent (b c : Nat) : Extent.Statement (.rjtickEvent b c) := extent_of _
theorem Extent.rjstatCfgEvent (b c : Nat) : Extent.Statement (.rjstatCfgEvent b c) := extent_of _
theorem Extent.rjstatEvent (b c : Nat) : Extent.Statement (.rjstatEvent b c) := extent_of _
theorem Extent.joinTimeout (die slot : Nat) : Extent.Statement (.joinTimeout die slot) := extent_of _
theorem Extent.rjpopComplete (b c : Nat) : Extent.Statement (.rjpopComplete b c) := extent_of _
theorem Extent.flitReceive (port : Nat) (f : Flit) : Extent.Statement (.flitReceive port f) := extent_of _
theorem Extent.flitResend (k : Nat) : Extent.Statement (.flitResend k) := extent_of _
theorem Extent.portDown (port : Nat) : Extent.Statement (.portDown port) := extent_of _
theorem Extent.destinationUnreachable (k : Nat) : Extent.Statement (.destinationUnreachable k) := extent_of _
theorem Extent.powerCapClockChange (down : Bool) : Extent.Statement (.powerCapClockChange down) := extent_of _
theorem Extent.d0Idle : Extent.Statement .d0Idle := extent_of _
theorem Extent.d3hot : Extent.Statement .d3hot := extent_of _
theorem Extent.d3cold : Extent.Statement .d3cold := extent_of _
theorem Extent.coldReset : Extent.Statement .coldReset := extent_of _
theorem Extent.functionLevelReset : Extent.Statement .functionLevelReset := extent_of _
theorem Extent.firmwareUpdate (req : List Byte) : Extent.Statement (.firmwareUpdate req) := extent_of _
theorem Extent.getVersion (req : List Byte) : Extent.Statement (.getVersion req) := extent_of _
theorem Extent.getCapabilities (req : List Byte) : Extent.Statement (.getCapabilities req) := extent_of _
theorem Extent.negotiateAlgorithms (req : List Byte) : Extent.Statement (.negotiateAlgorithms req) := extent_of _
theorem Extent.getDigests (req : List Byte) : Extent.Statement (.getDigests req) := extent_of _
theorem Extent.getCertificate (req : List Byte) : Extent.Statement (.getCertificate req) := extent_of _
theorem Extent.challenge (req : List Byte) : Extent.Statement (.challenge req) := extent_of _
theorem Extent.getMeasurements (req : List Byte) : Extent.Statement (.getMeasurements req) := extent_of _
theorem Extent.illegalEncoding (b c : Nat) : Extent.Statement (.illegalEncoding b c) := extent_of _
theorem Extent.fetchOutsideImage (b c : Nat) : Extent.Statement (.fetchOutsideImage b c) := extent_of _
theorem Extent.cxlMemRequest (addr : Nat) (write : Bool) (bytes : List Byte) : Extent.Statement (.cxlMemRequest addr write bytes) := extent_of _
theorem Extent.returnToD0 : Extent.Statement .returnToD0 := extent_of _
theorem Extent.dieToDieRetrainingComplete : Extent.Statement .dieToDieRetrainingComplete := extent_of _
theorem Extent.msiXUnmask (vec : Nat) : Extent.Statement (.msiXUnmask vec) := extent_of _

end Sys2Proof.Laws
end

