-- ==== Sys2Proof/Laws/Waits.lean ====
section
/-! SUPPORT. The end of a waiting instruction, the end of a unit's job, and the accesses of a share: what each leaves as it
was, and its result where nothing stands in the way. -/

namespace Sys2Proof.Machine

/-! ### The memories -/

theorem resume_sameMem (s : State) (b c : Nat) (i : Instr) (pc act : Word) (ws : List Wr) :
    s.sameMem (s.resume b c i pc act ws) := by
  unfold State.resume
  split
  · exact s.sameMem_refl
  dsimp only
  split
  · exact State.sameMem_trans (setCrew_sameMem _ _ _ _) (park_sameMem _ _ _ _)
  · exact setCrew_sameMem _ _ _ _

theorem failWait_sameMem (s : State) (b c : Nat) (i : Instr) (pc act : Word) (code info : Nat) :
    s.sameMem (s.failWait b c i pc act code info) := by
  unfold State.failWait
  split
  · exact s.sameMem_refl
  · exact State.sameMem_trans (setCrew_sameMem _ _ _ _) (raise_sameMem _ _ _ _)

theorem endJob_sameMem (s : State) (b c : Nat) (j : Job) (f : Pend → Pend) : s.sameMem (s.endJob b c j f) := by
  unfold State.endJob
  split
  · exact s.sameMem_refl
  · exact setCrew_sameMem _ _ _ _

theorem storeShare_sameMem (s : State) (b crew a : Nat) (bs : List Byte) : s.sameMem (s.storeShare b crew a bs) := by
  unfold State.storeShare
  split
  · exact s.sameMem_refl
  dsimp only
  split
  · exact setBlock_sameMem _ _ _
  split
  · exact fatalBlock_sameMem _ _ _ _ _
  split
  · exact setBlock_sameMem _ _ _
  · exact State.sameMem_trans (setBlock_sameMem _ _ _) (noteErrs_sameMem _ _ _ _)

theorem meetRead_sameMem (s : State) (b crew : Nat) (at_ : Place) (rs : List (Nat × Nat)) :
    s.sameMem (s.meetRead b crew at_ rs).1 := by
  unfold State.meetRead
  split
  · exact s.sameMem_refl
  split
  · exact s.sameMem_refl
  dsimp only
  split
  · exact fatalBlock_sameMem _ _ _ _ _
  split
  · exact s.sameMem_refl
  · exact State.sameMem_trans (setBlock_sameMem _ _ _) (noteErrs_sameMem _ _ _ _)

theorem meetStore_sameMem (s : State) (b crew : Nat) (mine : List StoreErr) : s.sameMem (s.meetStore b crew mine).1 := by
  unfold State.meetStore
  split
  · exact s.sameMem_refl
  split
  · exact fatalBlock_sameMem _ _ _ _ _
  split
  · exact s.sameMem_refl
  · exact State.sameMem_trans (setBlock_sameMem _ _ _) (noteErrs_sameMem _ _ _ _)

/-- The order of a block's jobs is no part of the memories. -/
theorem mapSeen_sameMem (s : State) (b : Nat) (f : BitVec 64 → List (Nat × Nat) → BitVec 64 × List (Nat × Nat)) :
    s.sameMem (s.mapSeen b f) := ⟨rfl, rfl, rfl, rfl⟩
/-- What a crew orders before its later accesses is no part of the memories. -/
theorem noOlds_sameMem (s : State) (b c : Nat) : s.sameMem (s.noOlds b c) := ⟨rfl, rfl, rfl, rfl⟩

/-! ### Where nothing stands in the way -/

/-- A read that meets no error. -/
theorem meetStore_none (s : State) (b crew : Nat) : s.meetStore b crew [] = (s, false) := by
  unfold State.meetStore
  split <;> rfl

/-- A write into the share of a block free of errors. -/
theorem storeShare_clean {s : State} {b crew a : Nat} {bs : List Byte} {x : Block} (h : s.block b = some x)
    (he : x.errs = []) : s.storeShare b crew a bs = s.setBlock b { x with share := writeBytes x.share a bs } := by
  simp [State.storeShare, h, he]

/-- A read of a block free of errors meets none. -/
theorem meetRead_clean {s : State} {b crew : Nat} {at_ : Place} {rs : List (Nat × Nat)} {x : Block}
    (h : s.block b = some x) (he : x.errs = []) : s.meetRead b crew at_ rs = (s, false) := by
  simp [State.meetRead, h, he]

/-- The end of a waiting instruction without the switch marker: its writes, the advance of its lanes, and the crew is
ready. -/
theorem resume_plain {s : State} {b c : Nat} {i : Instr} {pc act : Word} {ws : List Wr} {x : Block} {w : Crew}
    (hb : s.block b = some x) (hw : look x.crews c = some w) (hs : (hdrOf i).s = false) :
    s.resume b c i pc act ws = s.setBlock b (x.setCrew c
      { (w.write ws).setPcs act (fun _ => pc + BitVec.ofNat 32 (lenOf i)) with
        wait := .ready, issues := w.issues + 1 }) := by
  simp [State.resume, State.crew, State.setCrew, hb, hw, hs]

/-- The end of a unit's job: the job goes and its result is filled. -/
theorem endJob_plain {s : State} {b c : Nat} {j : Job} {f : Pend → Pend} {x : Block} {w : Crew}
    (hb : s.block b = some x) (hw : look x.crews c = some w) :
    s.endJob b c j f = s.setBlock b (x.setCrew c
      ({ w with jobs := w.jobs.filter (· ≠ j) }.fill j.order fun p => { f p with ready := true })) := by
  simp [State.endJob, State.crew, State.setCrew, hb, hw]

end Sys2Proof.Machine
end

