-- ==== Sys2Proof/Tests/Slice0.lean ====
section
/-! SUPPORT. The model's own tests: words of the spec's encodings, an ill-formed term for each check of WellFormed, worked
examples of the spec, and a witness for the hypotheses of every statement. -/

namespace Sys2Proof.Tests

open Sys2Proof Sys2Proof.Machine

set_option Elab.async false

/-! ### Decoding -/

/-- The bytes of 32-bit words as they lie in memory (R65). -/
def words (l : List Nat) : List Byte := l.flatMap (natToBytes 4)
/-- An unguarded header. -/
def h0 : Hdr := ⟨false, 0, false⟩
/-- A shape-X instruction with every field at its neutral value. -/
def x0 : XOps :=
  { h := h0, d := 0, a := 0, b := 0, c := 0, imm := 0, cov := 0, v := 0, t := .s32, q := false, k := false, y := false,
    u := false, o := false, rnd := 0 }
/-- A matrix command with every field at its neutral value. -/
def mx0 : MxOps :=
  { h := h0, a := 0, b := 0, fmt := .e2m1, loc := false, tile := 0, slot := 0, kq := 0, nlen1 := 0, zw := 0, acc := 0,
    mlen1 := 0, zero := false, za := 0, rel := false }
/-- A streamer command with every field at its neutral value. -/
def st0 : StreamOps :=
  { h := h0, a := 0, b := 0, c := 0, d := 0, m := 0, sync := 0, scope := 0, t := false, rb := false, last := false,
    mx := false }
/-- A far-memory instruction with every field at its neutral value. -/
def fa0 : FarOps :=
  { h := h0, a := 0, b := 0, c := 0, d := 0, scope := 0, op := 0, t := .s32, ret := false, y := false, cond := 0 }
/-- A fabric instruction with every field at its neutral value. -/
def fb0 : FabOps :=
  { h := h0, a := 0, b := 0, c := 0, d := 0, kind := 0, dt := 0, res := false, sh := false, nb := false }
/-- A cluster instruction with every field at its neutral value. -/
def cl0 : CluOps := { h := h0, a := 0, b := 0, c := 0, d := 0, opt := 0 }
/-- A solver instruction with every field at its neutral value. -/
def so0 : SolOps :=
  { h := h0, a := 0, b := 0, c := 0, d := 0, n1 := 0, meth := 0, f64 := false, ts := false, tov := false, nrhs1 := 0,
    rp := false }

/-- R72, R75: IADD v3, v4, s5 and SHR v6, v7, 3 of the short forms. -/
theorem test_decode_short : decode (words [0x85103001]) = .ok (.iaddR2 ⟨h0, true, 3, 4, 5⟩) 4 ∧
    decode (words [0x431C600D]) = .ok (.shrI6 ⟨h0, 6, 7, 3⟩) 4 := by decide +kernel
/-- ICMP.LT p2, v1, v2. -/
theorem test_decode_icmp : decode (words [0x02042019, 0x00008001]) =
    .ok (.icmp { x0 with d := 2, a := 1, b := 2, v := 2 }) 8 := by decide +kernel
/-- CRED.ADD s4, v9. -/
theorem test_decode_cred : decode (words [0x8024405F, 1]) = .ok (.cred { x0 with d := 4, a := 9 }) 8 := by decide +kernel
/-- VOTE.BALLOT s7, p2. -/
theorem test_decode_vote : decode (words [0x0008705F, 0x8041]) =
    .ok (.vote { x0 with d := 7, a := 2, v := 2, y := true }) 8 := by decide +kernel
/-- CALL, BRX v12 and RET. -/
theorem test_decode_branches : decode (words [0x00080057]) = .ok (.call ⟨h0, 128⟩) 4 ∧
    decode (words [0x00300059]) = .ok (.brx ⟨h0, 0, 12, 0⟩) 4 ∧ decode (words [0x40000059]) = .ok (.ret ⟨h0, 0, 0, 0⟩) 4 := by
  decide +kernel
/-- CSRR s2, BID, TRAP 7, NOP, TRET and BKPT. -/
theorem test_decode_system : decode (words [0x0008205D]) = .ok (.csrr ⟨h0, 2, 2⟩) 4 ∧
    decode (words [0x801C005D]) = .ok (.trap ⟨h0, 7, 0⟩) 4 ∧ decode (words [0xC000005D]) = .ok (.nop ⟨h0, 0, 0⟩) 4 ∧
    decode (words [0xC004005D]) = .ok (.tret ⟨h0, 1, 0⟩) 4 ∧ decode (words [0xC008005D]) = .ok (.bkpt ⟨h0, 2, 0⟩) 4 := by
  decide +kernel
/-- FADD.F32 v1, v2, v3. -/
theorem test_decode_fadd : decode (words [0x03081021, 0x2201]) =
    .ok (.fadd { x0 with d := 1, a := 2, b := 3, t := .f32 }) 8 := by decide +kernel
/-- QPK.E4M3 v6, v4, v5. -/
theorem test_decode_qpk : decode (words [0x4510602F, 0x2801]) =
    .ok (.qpk { x0 with d := 6, a := 4, b := 5, t := .e4m3 }) 8 := by decide +kernel
/-- MMUL.CORR m3, m1, m2. -/
theorem test_decode_mmul : decode (words [0x82043039, 0x00082201]) =
    .ok (.mmul { x0 with d := 3, a := 1, b := 2, t := .f32, cov := 1 }) 8 := by decide +kernel
/-- RNEXT v12. -/
theorem test_decode_rnext : decode (words [0x4000C045, 1]) = .ok (.rnext { x0 with d := 12 }) 8 := by decide +kernel
/-- ST.B32 [v2 + 8], v8. -/
theorem test_decode_st : decode (words [0x40088049, 0x00401481]) =
    .ok (.st { x0 with d := 8, a := 2, imm := 8, t := .b32, k := true }) 8 := by decide +kernel
/-- ATOM.ADD v5, [v3], v4 with the switch marker. -/
theorem test_decode_atom : decode (words [0xC40C50C9, 1]) =
    .ok (.atom { x0 with h := ⟨false, 0, true⟩, d := 5, a := 3, b := 4 }) 8 := by decide +kernel
/-- TBARR.INB, SRGET and BAR. -/
theorem test_decode_sync :
    decode (words [0x4920104B, 0x101]) = .ok (.tbarr { x0 with d := 1, a := 8, b := 9, q := true }) 8 ∧
    decode (words [0x4030604D, 1]) = .ok (.srget { x0 with d := 6, a := 12 }) 8 ∧
    decode (words [0x8000004F, 0x8001]) = .ok (.bar { x0 with v := 2 }) 8 := by decide +kernel
/-- FENCE.REL.DIE. -/
theorem test_decode_fence : decode (words [0x1051, 0x14001]) = .ok (.fence { x0 with d := 1, v := 5 }) 8 := by
  decide +kernel
/-- MXW.S8.W0 t1 and MXA.Z8. -/
theorem test_decode_stream :
    decode (words [0x61, 0x7988D]) = .ok (.mxw { mx0 with fmt := .s8, tile := 1, kq := 3, nlen1 := 15 }) 8 ∧
    decode (words [0x101061, 0x1001E04F]) =
      .ok (.mxa { mx0 with a := 4, fmt := .z8, loc := true, mlen1 := 15, za := 128 }) 8 := by decide +kernel
/-- MXPROG s2. -/
theorem test_decode_mxprog : decode (words [0x69, 9]) = .ok (.mxprog ⟨h0, 2, false⟩) 8 := by decide +kernel
/-- CPG.T.TB. -/
theorem test_decode_cpg : decode (words [0x0810006D, 0x00C56001, 1]) =
    .ok (.cpg { st0 with a := 4, b := 8, c := 12, sync := 1, scope := 5, t := true }) 12 := by decide +kernel
/-- FATOM.ADD.S32.DIE.R. -/
theorem test_decode_fatom : decode (words [0x040800EF, 0x18050021, 1]) =
    .ok (.fatom { fa0 with h := ⟨false, 0, true⟩, a := 2, b := 4, d := 6, scope := 5, ret := true }) 12 := by
  decide +kernel
/-- COMPACT v5. -/
theorem test_decode_compact : decode (words [0x140071, 1, 1]) = .ok (.compact { cl0 with a := 5 }) 12 := by
  decide +kernel
/-- SFACT and OPTSUB [s8]. -/
theorem test_decode_solver :
    decode (words [0x092000F3, 0x10020001, 1]) =
      .ok (.sfact { so0 with h := ⟨false, 0, true⟩, a := 8, b := 9, d := 4, n1 := 2 }) 12 ∧
    decode (words [0x200075, 1]) = .ok (.optsub ⟨h0, 8, 0⟩) 8 := by decide +kernel
/-- COLL.AR.E4M3.RES and RJOPEN s2, s20. -/
theorem test_decode_fabric :
    decode (words [0x081000F7, 0x38014001, 1]) =
      .ok (.coll { fb0 with h := ⟨false, 0, true⟩, a := 4, b := 8, d := 14, dt := 2, res := true }) 12 ∧
    decode (words [0x005030F7, 0x08000001, 1]) = .ok (.rjopen { fb0 with h := ⟨false, 0, true⟩, a := 20, d := 2 }) 12 := by
  decide +kernel
/-- R65: an extension word whose bit 0 is 0 is illegal, and so is type code 0x17, which R71 leaves out. -/
theorem test_decode_illegal : decode (words [0x03081021, 0x2200]) = .illegal 8 ∧ decode (words [0x11, 0x4001]) = .illegal 8 ∧
    decode (words [0x03081021, 0x2E01]) = .illegal 8 := by decide +kernel
/-- R75: a field that the form does not use is reserved; it must be 0. -/
theorem test_decode_reserved : decode (words [0x140071, 1, 3]) = .reserved 12 := by decide +kernel

/-! ### Well-formedness: an ill-formed term for each check -/

/-- A register number that does not fit its field (`fits`). -/
theorem test_wf_field : (Instr.iaddR2 ⟨h0, false, 64, 0, 0⟩).wf = false ∧ (Instr.iaddR2 ⟨h0, false, 63, 0, 0⟩).wf = true := by
  decide +kernel
/-- A guard that does not fit (`Hdr.fits`), an immediate and a branch offset that do not. -/
theorem test_wf_numbers : (Instr.nop ⟨⟨false, 8, false⟩, 0, 0⟩).wf = false ∧ (Instr.movi ⟨h0, 0, false, 256⟩).wf = false ∧
    (Instr.bra ⟨h0, 1048576⟩).wf = false ∧ (Instr.movl ⟨h0, 0, false, 4294967296⟩).wf = false := by decide +kernel
/-- The guard of p0 with sense 1 is illegal (`legal`, R66). -/
theorem test_wf_guard : (Instr.nop ⟨⟨true, 0, false⟩, 0, 0⟩).wf = false := by decide +kernel
/-- A type that the instruction does not take is illegal, and so is an odd register where a pair stands (R16, R70). -/
theorem test_wf_types : (Instr.fadd { x0 with t := .s32 }).wf = false ∧
    (Instr.fadd { x0 with t := .f64, d := 1 }).wf = false ∧ (Instr.fadd { x0 with t := .f64, d := 2 }).wf = true := by
  decide +kernel
/-- A field that a form does not use holds 0 (`clear`, R75), and the immediate excludes operand c (R69). -/
theorem test_wf_reserved : (Instr.fadd { x0 with t := .f32, cov := 1 }).wf = false ∧
    (Instr.iaddX { x0 with k := true, imm := 5, c := 1 }).wf = false ∧ (Instr.iaddX { x0 with imm := 5 }).wf = false := by
  decide +kernel
/-- The matrix, streamer, far, cluster, solver, optimiser and fabric shapes check their own fields. -/
theorem test_wf_shapes : (Instr.mxa { mx0 with fmt := .z8, kq := 1 }).wf = false ∧
    (Instr.mxw { mx0 with acc := 1 }).wf = false ∧ (Instr.mxtl ⟨h0, 0, 8, 0, false, false⟩).wf = false ∧
    (Instr.accz ⟨h0, 1, 0, 0, 0, 0, false⟩).wf = false ∧ (Instr.mxprog ⟨h0, 64, false⟩).wf = false ∧
    (Instr.cpg { st0 with sync := 4 }).wf = false ∧ (Instr.fatom { fa0 with op := 32 }).wf = false ∧
    (Instr.compact { cl0 with opt := 4 }).wf = false ∧ (Instr.sfact { so0 with n1 := 16 }).wf = false ∧
    (Instr.optsub ⟨h0, 64, 0⟩).wf = false ∧ (Instr.coll { fb0 with dt := 4 }).wf = false ∧
    (Instr.regsGrow ⟨false, 64, 0⟩).wf = false ∧ (Instr.csrr ⟨h0, 4096, 0⟩).wf = false ∧
    (Instr.shlI6 ⟨h0, 0, 0, 32⟩).wf = false ∧ (Instr.iaddI8 ⟨h0, 0, 0, 256⟩).wf = false ∧
    (Instr.exit ⟨h0, 64, 0, 0⟩).wf = false := by
  decide +kernel
/-- Commands of the array, and the numbers of NOP, TRET and BKPT, which their forms fix. -/
theorem test_wf_fixed : (Instr.mxg { mx0 with nlen1 := 1 }).wf = false ∧ (Instr.mxm { mx0 with tile := 1 }).wf = false ∧
    (Instr.mxts ⟨h0, 0, 0, 128, false, false⟩).wf = false ∧ (Instr.accld ⟨h0, 0, 0, 0, 0, 0, true⟩).wf = false ∧
    (Instr.accst ⟨h0, 0, 0, 1, 0, 0, false⟩).wf = false ∧ (Instr.nop ⟨h0, 1, 0⟩).wf = false ∧ (Instr.tret ⟨h0, 0, 0⟩).wf = false ∧
    (Instr.bkpt ⟨h0, 0, 0⟩).wf = false ∧ (Instr.fwait { fa0 with cond := 8 }).wf = false ∧
    (Instr.mov16 64 0).wf = false ∧ (Instr.iaddi16 0 32).wf = false := by
  decide +kernel

/-! ### Worked examples of the spec -/

/-- An exact value n × 2^e. -/
def two (n : Nat) (e : Int) : Val := dyadic false n e
/-- R49: roundings at the edges of FP32, BF16, E4M3, E5M2 and E2M1 (the flags of 465 under RZ: log 17). -/
theorem test_roundings :
    roundTo .f32 (two 1 (-150)) .rn false = (0, flagUF ||| flagNX) ∧
    roundTo .f32 (two 1 (-150)) .ru false = (1, flagUF ||| flagNX) ∧
    roundTo .bf16 (two 257 (-8)) .rn false = (0x3F80, flagNX) ∧ roundTo .bf16 (two 257 (-8)) .ra false = (0x3F81, flagNX) ∧
    roundTo .bf16 (two 259 (-8)) .rn false = (0x3F82, flagNX) ∧
    roundTo .e4m3 (two 464 0) .rn true = (0x7E, flagNX) ∧ roundTo .e4m3 (two 465 0) .rn true = (0x7E, flagOF ||| flagNX) ∧
    roundTo .e4m3 (two 465 0) .rn false = (0x7F, flagOF ||| flagNX) ∧
    (roundTo .e4m3 (two 465 0) .rz false).1 = 0x7E ∧
    roundTo .e5m2 (two 61440 0) .rn false = (0x7C, flagOF ||| flagNX) ∧
    roundTo .e5m2 (two 61440 0) .rn true = (0x7B, flagOF ||| flagNX) ∧
    roundTo .e2m1 (two 5 (-1)) .rn true = (0x4, flagNX) ∧ roundTo .e2m1 (two 5 (-1)) .ra true = (0x5, flagNX) ∧
    roundTo .e2m1 (two 7 0) .rn true = (0x7, flagOF ||| flagNX) := by decide +kernel
/-- R122: FFMA rounds once, FMUL and FADD twice. -/
theorem test_ffma : fFma .f32 .rn 0x3F800001 0x3F7FFFFE 0xBF800000 = (0xA8800000, 0) ∧
    fMul .f32 .rn 0x3F800001 0x3F7FFFFE = (0x3F800000, flagNX) ∧ fAdd .f32 .rn 0x3F800000 0xBF800000 = (0, 0) := by
  decide +kernel
/-- R127: I2F.F16.S32 of 70,000, and 65,504 under `.SAT`. -/
theorem test_i2f : roundTo .f16 (intVal 70000) .rn false = (0x7C00, flagOF ||| flagNX) ∧
    (roundTo .f16 (intVal 70000) .rn true).1 = 0x7BFF := by decide +kernel
/-- R93: BFX.S32 of 0xF80 at 7 with length 5. -/
theorem test_bfx : bfxN true 32 0x00000F80 7 5 = 0xFFFFFFFF := by decide +kernel
/-- A moment from its mean and its variance. -/
def moment (mu var : Nat) : Mom := { mu := (mu, 0), var := (var, 0) }
/-- R145: MADD, MADD.CORR, MSUB.CORR, MMUL, MMUL.CORR and MMUL.ANTI of m1 = (2, 1) and m2 = (3, 4). -/
theorem test_moments :
    let m1 := moment 0x40000000 0x3F800000
    let m2 := moment 0x40400000 0x40800000
    let c2 : Flt := (0x40000000, 0)
    (momAdd false m1 m2 (0, 0)).bits = 0x40A0000040A00000 ∧ (momAdd false m1 m2 c2).bits = 0x4110000040A00000 ∧
    (momAdd true m1 m2 c2).bits = 0x3F800000BF800000 ∧ (momMul true m1 m2 (0, 0)).bits = 0x41E8000040C00000 ∧
    (momMul false m1 m2 c2).bits = 0x4264000041000000 ∧ (momMul false m1 m2 (0xC0000000, 0)).bits = 0x4110000040800000 := by
  decide +kernel
/-- R145: with IND an infinite product of the means adds nothing to the variance: t4 and t5 are +0. -/
theorem test_mmul_independent :
    (momMul true (moment 0x7F800000 0x3F800000) (moment 0x3F800000 0x3F800000) (0, 0)).bits = 0x7F8000007F800000 := by
  decide +kernel
/-- R146: MSCALE of (2, 1) by −2.0. -/
theorem test_mscale : (momScale (moment 0x40000000 0x3F800000) 0xC0000000).bits = 0x40800000C0800000 := by decide +kernel
/-- R161: RCTR of the counter (1, 0, 0, 0) under the key (5, 2). -/
theorem test_sumac : sumac ⟨1, 0, 0, 0⟩ 5 2 = ⟨0x47E0D210, 0xE5E4973B, 0xA0AA7BCD, 0xD00D94BE⟩ := by decide +kernel
/-- R162: the uniform numbers of three words. -/
theorem test_runi : [0xFFFFFFFF, 0x1FF, 0xFF].map (fun a => (roundTo .f32 (dyadic false (a / 256) (-24)) .rn false).1) =
    [0x3F7FFFFF, 0x33800000, 0] := by decide +kernel
/-- R418: the swap of frame 2 into the fast slot from the identity placement. -/
theorem test_swap : swapped 0 2 = 14 ∧ permOf 14 = [2, 1, 0, 3] := by decide +kernel
/-- R453: three ranks with 2^24, 1.0 and 1.0 sum to 2^24. -/
theorem test_tree : tree (fun k => [0x4B800000, 0x3F800000, 0x3F800000].getD k 0) 14 0 3 = 0x4B800000 := by decide +kernel
/-- R454: the owners of two granules that follow each other, among six shards. -/
theorem test_shardOwner : shardOwner 0x4000100000 6 = 2 ∧ shardOwner 0x4000110000 6 = 3 := by decide +kernel
/-- The header of a segment with γ and λ of one half, VBOOT 4 and no done step. -/
def header : List Byte := natToBytes 16 0 ++ words [0x3F000000, 0x3F000000, 0x40800000] ++ List.replicate 164 0
/-- R464: the advantages and returns of three steps. -/
theorem test_scan : scan header (words [0x3F800000, 0x40000000, 0x3F000000]) (words [0x3F800000, 0, 0x40000000]) 3 0 =
    [(0x3F480000, 0x3FE40000), (0xBF600000, 0x3F900000), (0x40600000, 0x40800000)] := by decide +kernel

/-! ### Witnesses: the instructions of a crew -/

/-- One crew, with every role, of one resident block stands at issue. -/
def base : State := { State.reset.place [] with cur := some (2, 0), turns := [] }
/-- Its block. -/
def block0 : Block := (base.block 2).getD {}
/-- Its crew. -/
def crew0 : Crew := (look block0.crews 0).getD {}
/-- The same with the crew changed. -/
def withCrew (f : Crew → Crew) : State := base.setBlock 2 (block0.setCrew 0 (f crew0))
/-- The same with the block changed. -/
def withBlock (f : Block → Block) : State := base.setBlock 2 (f block0)
/-- The same with uniform registers that hold the values given. -/
def withS (l : List (Nat × Word)) : State := withCrew fun w => { w with s := l }
/-- The instruction stands at issue and its environment passes a test. -/
def meets (s : State) (i : Instr) (p : Env → Bool) : Bool :=
  match envOf s i with
  | none => false
  | some e => (crewCheck e.blk e.c e.cw i).isNone && e.blk.errs.isEmpty && p e

/-- What `meets` finds is an instruction at issue. -/
theorem ready_of_meets {s : State} {i : Instr} {p : Env → Bool} (h : meets s i p = true) :
    ∃ e, Ready s i e ∧ p e = true := by
  unfold meets at h
  cases he : envOf s i with
  | none => simp [he] at h
  | some e =>
    simp only [he, Bool.and_eq_true, Option.isNone_iff_eq_none, List.isEmpty_iff] at h
    exact ⟨e, ⟨he, h.1.1, h.1.2⟩, h.2⟩

/-- Every instruction of a list stands at issue in one state. -/
theorem ready_of_all {s : State} {is : List Instr} {p : Env → Bool} (h : is.all (fun i => meets s i p) = true) :
    ∀ i ∈ is, ∃ e, Ready s i e ∧ p e = true := fun i hi => ready_of_meets (List.all_eq_true.1 h i hi)

/-- No flag is enabled, and some lane participates. -/
def quiet (e : Env) : Bool := e.cw.enables = 0 && e.part ≠ 0 && e.cw.queue.isEmpty && e.blk.r.res && e.blk.errs.isEmpty
/-- An FP32 form. -/
def xf : XOps := { x0 with t := .f32 }

theorem witness_IntegerSumsAndProducts : ∀ i ∈ [Instr.iaddR2 ⟨h0, false, 1, 2, 3⟩, .isubR2 ⟨h0, true, 1, 2, 3⟩,
    .iaddI8 ⟨h0, 1, 2, 255⟩, .iadd16 63 0, .isub16 1 31, .iaddi16 1 31, .iaddX x0, .isubX { x0 with q := true }, .iabs x0,
    .imul x0, .imulh x0, .imin x0, .imax x0, .imad { x0 with t := .s64 }, .lea { x0 with v := 4 }],
    ∃ e, Ready base i e ∧ quiet e = true := ready_of_all (by decide +kernel)
theorem witness_DivisionResults : ∀ i ∈ [Instr.idiv x0, .irem { x0 with q := true }],
    ∃ e, Ready base i e ∧ quiet e = true := ready_of_all (by decide +kernel)
theorem witness_LogicResults : ∀ i ∈ [Instr.andR2 ⟨h0, false, 1, 2, 3⟩, .orR2 ⟨h0, true, 1, 2, 3⟩, .xorR2 ⟨h0, true, 1, 2, 3⟩,
    .andnR2 ⟨h0, true, 1, 2, 3⟩, .and16 63 0, .or16 1 31, .xor16 1 31, .andX x0, .orX x0, .xorX x0, .andnX x0, .notX x0,
    .popc x0, .clz x0, .brev x0, .bfx { x0 with y := true }, .bfi x0],
    ∃ e, Ready base i e ∧ quiet e = true := ready_of_all (by decide +kernel)
theorem witness_ShiftResults : ∀ i ∈ [Instr.shlR2 ⟨h0, false, 1, 2, 3⟩, .shrR2 ⟨h0, true, 1, 2, 3⟩, .sarR2 ⟨h0, true, 1, 2, 3⟩,
    .rotlR2 ⟨h0, true, 1, 2, 3⟩, .shlI6 ⟨h0, 1, 2, 31⟩, .shrI6 ⟨h0, 1, 2, 0⟩, .sarI6 ⟨h0, 1, 2, 31⟩, .rotlI6 ⟨h0, 1, 2, 31⟩,
    .shli16 1 31, .shri16 1 31, .sari16 1 31, .shlX x0, .shrX x0, .sarX x0, .rotlX x0],
    ∃ e, Ready base i e ∧ quiet e = true := ready_of_all (by decide +kernel)
theorem witness_MoveAndLaneResults : ∀ i ∈ [Instr.mov16 1 2, .movi16 1 31, .movi ⟨h0, 1, false, 255⟩,
    .movl ⟨h0, 1, true, 4294967295⟩, .sel x0, .mov { x0 with o := true }, .pand ⟨h0, 1, 2, 3⟩, .por ⟨h0, 0, 2, 3⟩,
    .pxor ⟨h0, 1, 2, 3⟩, .pnot ⟨h0, 7, 2, 0⟩, .icmp { x0 with d := 1 }, .p2v x0, .v2p x0, .vote { x0 with d := 1 },
    .vote { x0 with d := 1, v := 1 }, .vote { x0 with v := 2 }, .shfl { x0 with v := 3 }, .cred x0, .cscan { x0 with q := true }],
    ∃ e, Ready base i e ∧ quiet e = true := ready_of_all (by decide +kernel)
theorem witness_FloatFixedResults : ∀ i ∈ [Instr.fadd xf, .fsub xf, .fmul xf, .fmin xf, .fmax xf, .frnd xf, .ffma xf,
    .fadd16 1 2, .fsub16 1 2, .fmul16 1 2, .fmin16 1 2, .fmax16 1 2, .fcmp { xf with d := 1 }, .fclass xf, .f2f { xf with v := 16 },
    .f2i { x0 with o := true, v := 17 }, .i2f xf],
    ∃ e, Ready base i e ∧ quiet e = true := ready_of_all (by decide +kernel)
theorem witness_FloatLaterResults : ∀ i ∈ [Instr.fdiv xf, .fsqrt xf, .frcp xf, .frsq xf, .fexp2 xf, .flog2 xf, .fexp xf, .flog xf,
    .fsin xf, .fcos xf, .ftanh xf, .fsigm xf, .ferf { xf with y := true }],
    ∃ e, Ready base i e ∧ quiet e = true := ready_of_all (by decide +kernel)
/-- Both kinds of QUPK and of LUT4 among them. -/
theorem witness_QuantisationResults : ∀ i ∈ [Instr.qscl { x0 with t := .e4m3 }, .qpk { x0 with t := .e2m1 }, .qupk { x0 with t := .s8 },
    .qupk { x0 with t := .e5m2 }, .lut4 xf, .lut4 { x0 with t := .bf16x2 }, .ctabW x0, .ctabSwap x0],
    ∃ e, Ready base i e ∧ quiet e = true := ready_of_all (by decide +kernel)
/-- A moment of zeros has no negative variance in any lane. -/
theorem witness_MomentFixedResults : ∀ i ∈ [Instr.madd xf, .msub xf, .mmul xf, .mscale xf, .mfma xf, .mmov xf, .mclamp xf, .mset xf],
    ∃ e, Ready base i e ∧ (quiet e && (lanesOf e.part).all fun l => !negVar (varOf e 0 l) && !negVar (e.cw.opB xf .z32 l)
      && !(checked false (momAdd false (momAt e 0 l) (momAt e 0 l) (covAt e xf l))).failed
      && !(checked false (momMul true (momAt e 0 l) (momAt e 0 l) (covAt e xf l))).failed
      && !(checked false (momScale (momAt e 0 l) 0)).failed) = true := ready_of_all (by decide +kernel)
theorem witness_MomentLateResults : ∀ i ∈ [Instr.mrelu xf, .msigm xf, .mtanh xf, .mexp xf, .mcoll xf],
    ∃ e, Ready base i e ∧ (quiet e && (lanesOf e.part).all fun l => !negVar (varOf e 0 l)) = true :=
  ready_of_all (by decide +kernel)
/-- Lane 31 of m0 holds a negative variance. -/
theorem witness_NegativeVarianceTraps : ∀ i ∈ [Instr.madd xf, .msub xf, .mmul xf, .mscale xf, .mrelu xf, .msigm xf, .mtanh xf,
    .mexp xf, .mcoll xf], ∃ e, Ready (withCrew fun w => { w with m := [(31, 0xBF80000000000000)] }) i e ∧
      (decide (31 ∈ lanesOf e.part) && negVar (varOf e 0 31)) = true := ready_of_all (by decide +kernel)
theorem witness_RandomResults : ∀ i ∈ [Instr.rseed x0, .rnext x0, .rnext { x0 with v := 1 }, .rctr x0, .runi x0, .rmask { x0 with k := true, imm := 256 }],
    ∃ e, Ready base i e ∧ quiet e = true := ready_of_all (by decide +kernel)

/-! ### Witnesses: control flow and traps -/

/-- A guard of p1, which is false in every lane. -/
def hOff : Hdr := ⟨false, 1, false⟩
/-- The state after a CALL of every lane, its crew at issue again. -/
def called : State :=
  match exec (.call ⟨h0, 8⟩) base with
  | .next t => { t with cur := some (2, 0) }
  | _ => base
/-- A handler for traps at 0x800. -/
def routed (f : Crew → Crew) : State := withBlock fun x => { x.setCrew 0 (f crew0) with r := { x.r with trapr := 0x800 } }

/-- A CALL with room and one without, a RET above the bottom and one at it. -/
theorem witness_BranchesAndCalls : (∃ e, Ready base (.bra ⟨h0, 1048575⟩) e ∧ quiet e = true) ∧
    (∃ e, Ready base (.brx ⟨h0, 0, 2, 0⟩) e ∧ quiet e = true) ∧
    (∃ e, Ready base (.call ⟨h0, 8⟩) e ∧ decide (overrun e = 0) = true) ∧
    (∃ e, Ready (withBlock fun x => { x with r := { x.r with spill := 4 } }) (.call ⟨h0, 8⟩) e ∧
      decide (overrun e ≠ 0) = true) ∧
    (∃ e, Ready called (.ret ⟨h0, 0, 0, 0⟩) e ∧ decide (atBottom e = 0) = true) ∧
    ∃ e, Ready base (.ret ⟨h0, 0, 0, 0⟩) e ∧ decide (atBottom e ≠ 0) = true := by
  refine ⟨?_, ?_, ?_, ?_, ?_, ?_⟩ <;> exact ready_of_meets (by decide +kernel)
theorem witness_ExitTriggerNopResults : (∀ i ∈ [Instr.exit ⟨h0, 0, 0, 0⟩, .trigger ⟨h0, 0, 0, 0⟩, .nop ⟨h0, 0, 0⟩],
    ∃ e, Ready base i e ∧ quiet e = true) ∧ ∃ x g, base.block 2 = some x ∧ base.grid x.grid = some g :=
  ⟨ready_of_all (by decide +kernel), block0, placedGrid, by decide +kernel, by decide +kernel⟩
/-- A lane CSR, a crew CSR, the cycle count, the three writable ones, and a guard that holds nowhere. -/
theorem witness_CsrResults : (∀ i ∈ [Instr.csrr ⟨h0, 0x000, 1⟩, .csrr ⟨h0, 0x002, 1⟩, .csrr ⟨h0, 0x020, 2⟩, .csrw ⟨h0, 0x010, 1⟩,
    .csrw ⟨h0, 0x011, 1⟩, .csrw ⟨h0, 0x013, 1⟩], ∃ e, Ready base i e ∧ quiet e = true) ∧
    ∃ e, Ready base (.csrw ⟨hOff, 0x011, 1⟩) e ∧ decide (e.part = 0) = true :=
  ⟨ready_of_all (by decide +kernel), ready_of_meets (by decide +kernel)⟩
/-- TRET outside the routine and in it, with a held cause and a result outstanding. -/
theorem witness_TrapInstructions : (∀ i ∈ [Instr.trap ⟨h0, 4095, 0⟩, .bkpt ⟨h0, 2, 0⟩, .tret ⟨h0, 1, 0⟩],
    ∃ e, Ready base i e ∧ (quiet e && !e.cw.inTrap) = true) ∧
    (∃ e, Ready (routed fun w => { w with inTrap := true }) (.tret ⟨h0, 1, 0⟩) e ∧
      (quiet e && e.cw.inTrap && e.cw.held.isNone) = true) ∧
    (∃ e, Ready (routed fun w => { w with inTrap := true, held := some ⟨3, { code := 0x12 }⟩ }) (.tret ⟨h0, 1, 0⟩) e ∧
      (quiet e && e.cw.inTrap && e.cw.held.isSome && e.cw.outs.isEmpty) = true) ∧
    ∃ e, Ready (routed fun w => { w with inTrap := true, held := some ⟨3, { code := 0x12 }⟩, outs := [{ order := 0 }] })
      (.tret ⟨h0, 1, 0⟩) e ∧ (quiet e && e.cw.inTrap && e.cw.held.isSome && !e.cw.outs.isEmpty) = true := by
  refine ⟨ready_of_all ?_, ready_of_meets ?_, ready_of_meets ?_, ready_of_meets ?_⟩ <;> decide +kernel
/-- Above the maximum, at the present count, between them, and back. -/
theorem witness_RegisterGranules : (∀ i ∈ [Instr.regsGrow ⟨false, 0, 9⟩, .regsGrow ⟨false, 0, 8⟩, .regsShrink ⟨false, 0, 1⟩,
    .regsShrink ⟨false, 1, 0⟩], ∃ e, Ready base i e ∧ quiet e = true) ∧
    (∃ e, Ready (withCrew fun w => { w with vg := 7 }) (.regsGrow ⟨false, 0, 8⟩) e ∧ quiet e = true) ∧
    ∃ e, Ready (withCrew fun w => { w with vpend := 1#64 <<< 63 }) (.regsShrink ⟨false, 0, 7⟩) e ∧
      e.cw.pendingFrom 0 7 = true := by
  refine ⟨ready_of_all (by decide +kernel), ?_, ?_⟩ <;> exact ready_of_meets (by decide +kernel)
theorem witness_TrapEntrySaves : ∃ x w, (routed id).block 2 = some x ∧ look x.crews 0 = some w ∧ dispOf 0x0E = .program ∧
    x.r.trapr ≠ 0xFFFFFFFF ∧ w.inTrap = false ∧ w.wait ≠ .draining ∧ w.live ≠ 0 ∧ w.outs = [] ∧ w.late = none ∧
    w.held = none := ⟨{ block0 with r := { block0.r with trapr := 0x800 } }, crew0, by decide +kernel⟩
/-- No routine, a cause in the routine, a cause of a draining crew. -/
theorem witness_UnhandledCauseIsFatal :
    (∃ x w, base.block 2 = some x ∧ look x.crews 0 = some w ∧ dispOf 0x13 = .program ∧ (base.ctx x.slot).state = .live ∧
      x.r.trapr = 0xFFFFFFFF) ∧
    (∃ x w, (routed fun w => { w with inTrap := true }).block 2 = some x ∧ look x.crews 0 = some w ∧ w.inTrap = true) ∧
    ∃ x w, (routed fun w => { w with wait := .draining }).block 2 = some x ∧ look x.crews 0 = some w ∧
      w.wait = .draining :=
  ⟨⟨block0, crew0, by decide +kernel⟩,
   ⟨{ block0.setCrew 0 { crew0 with inTrap := true } with r := { block0.r with trapr := 0x800 } },
    { crew0 with inTrap := true }, by decide +kernel⟩,
   ⟨{ block0.setCrew 0 { crew0 with wait := .draining } with r := { block0.r with trapr := 0x800 } },
    { crew0 with wait := .draining }, by decide +kernel⟩⟩
/-- 1.0 plus the least normal number is inexact in lane 0, and NX is enabled. -/
theorem witness_EnabledFlagTraps : ∃ e, Ready (withCrew fun w => { w with fpc := 0x1F00, v := [(64, 0x3F800000), (96, 0x00800000)] })
    (.fadd { xf with d := 1, a := 2, b := 3 }) e ∧
    decide (raisedBy false e.part (fun l => (float2 .f32 (fun f => fAdd f .rn) (e.cw.rv 2 l).toNat (e.cw.rv 3 l).toNat).2)
      &&& e.cw.enables ≠ 0) = true := ready_of_meets (by decide +kernel)
/-- A register beyond the granules, a pending register, a pending guard and a pending FPC, and a crew without the role. -/
theorem witness_IssueChecksInOrder :
    (∃ e, envOf (withCrew fun w => { w with vg := 1 }) (.iaddX { x0 with d := 8 }) = some e ∧ e.cw.owns (.v 8) = false) ∧
    (∃ e, envOf (withCrew fun w => { w with vpend := 1 }) (.iaddX x0) = some e ∧ e.cw.owns (.v 0) = true ∧
      e.cw.pending (.v 0) = true) ∧
    (∃ e, envOf (withCrew fun w => w.setPending (.p 1)) (.nop ⟨⟨false, 1, false⟩, 0, 0⟩) = some e ∧
      e.cw.pending (.p 1) = true) ∧
    (∃ e, envOf (withCrew fun w => { w with fpcp := true }) (.csrr ⟨h0, 0x011, 1⟩) = some e ∧ touchesFpc (.csrr ⟨h0, 0x011, 1⟩) = true ∧
      e.cw.fpcp = true) ∧
    (∃ e, envOf (withBlock fun x => { x with teams := [] }) (.mxa mx0) = some e ∧ roleHeld e.blk e.c (.mxa mx0) = false) ∧
    ∀ i ∈ [Instr.iaddX x0, .nop ⟨h0, 0, 0⟩, .csrr ⟨h0, 0x011, 1⟩, .mxa mx0], (Sys2Proof.words i).isSome = true := by
  refine ⟨⟨_, rfl, ?_⟩, ⟨_, rfl, ?_⟩, ⟨_, rfl, ?_⟩, ⟨_, rfl, ?_⟩, ⟨_, rfl, ?_⟩, ?_⟩ <;> decide +kernel
/-- A line of the image that begins with the bytes. -/
def line0 (bs : List Byte) : List Byte := bs ++ List.replicate 128 0
/-- The block whose image begins with the bytes. -/
def codedBlock (bs : List Byte) (clen : Nat) : Block :=
  { block0 with code := [(0, line0 bs)], r := { block0.r with clen := clen } }
/-- The state with that block. -/
def coded (bs : List Byte) (clen : Nat) : State := withBlock fun _ => codedBlock bs clen
/-- A guard of p0 with sense 1, a reserved bit of COMPACT, and an empty image. -/
theorem witness_FetchTraps :
    (readyCrew (coded (words [0x80000859]) 4) 2 0 = some (codedBlock (words [0x80000859]) 4, crew0) ∧
      imageHolds (codedBlock (words [0x80000859]) 4) crew0.ipc (words [0x80000859]) ∧
      decode (words [0x80000859]) = .illegal 4) ∧
    (readyCrew (coded (words [0x140071, 1, 3]) 12) 2 0 = some (codedBlock (words [0x140071, 1, 3]) 12, crew0) ∧
      imageHolds (codedBlock (words [0x140071, 1, 3]) 12) crew0.ipc (words [0x140071, 1, 3]) ∧
      decode (words [0x140071, 1, 3]) = .reserved 12) ∧
    readyCrew (coded [] 1) 2 0 = some (codedBlock [] 1, crew0) ∧ (codedBlock [] 1).r.clen < crew0.ipc.toNat + 2 := by
  refine ⟨⟨by decide +kernel, ⟨by decide +kernel, by decide +kernel, by decide +kernel, fun k hk =>
      ⟨line0 (words [0x80000859]), by decide +kernel, ?_⟩⟩, by decide +kernel⟩,
    ⟨by decide +kernel, ⟨by decide +kernel, by decide +kernel, by decide +kernel, fun k hk =>
      ⟨line0 (words [0x140071, 1, 3]), by decide +kernel, ?_⟩⟩, by decide +kernel⟩, by decide +kernel⟩
  · revert k; decide +kernel
  · revert k; decide +kernel
theorem witness_RegisterWrites : (∀ x, Wr.v 3 30 x ∉ [Wr.v 3 31 5]) ∧
    (∀ r l x, Wr.v r l x ∈ [Wr.v 3 31 5] → l < 32) ∧ (crew0.write [.v 3 31 5]).rv 3 31 = 5 := by
  refine ⟨by simp, fun r l x h => ?_, by decide +kernel⟩
  simp only [List.mem_singleton, Wr.v.injEq] at h
  omega

/-! ### Witnesses: local memory, barriers and rings -/

/-- Every lane of the form accesses the share inside its bounds and aligned. -/
def fitsB (e : Env) (n : Nat) (f : Nat → Int) : Bool :=
  (lanesOf e.part).all fun l => decide (0 ≤ f l) && decide (f l + n ≤ e.blk.r.lmem) && decide (f l % n = 0)
/-- The state with lane 31 of v2 set. -/
def lane31 (a : Word) : State := withCrew fun w => { w with v := [(95, a)] }
/-- The last word of the share, a word beyond it, and one off its alignment. -/
theorem witness_LocalAccesses : (∀ i ∈ [Instr.ld { x0 with t := .b32, a := 2 }, .st { x0 with t := .b32, a := 2 }],
    ∃ e, Ready (lane31 65532) i e ∧ (quiet e && fitsB e 4 (memAddr e { x0 with a := 2 })) = true) ∧
    (∀ i ∈ [Instr.mld { x0 with t := .b32, a := 2 }, .mst { x0 with t := .b32, a := 2 }],
      ∃ e, Ready (lane31 65528) i e ∧ (quiet e && fitsB e 8 (memAddr e { x0 with a := 2 })) = true) ∧
    (∃ e, Ready (lane31 65528) (.lds { x0 with t := .b32, a := 2, d := 4, v := 1 }) e ∧
      (quiet e && fitsB e 8 (memAddr e { x0 with a := 2 })) = true) ∧
    (∃ e, Ready (lane31 65536) (.ld { x0 with t := .b32, a := 2 }) e ∧
      decide (maskWhere e.part (fun l => memAddr e { x0 with a := 2 } l < 0 ∨ 65536 < memAddr e { x0 with a := 2 } l + 4) ≠ 0)
        = true) ∧
    ∃ e, Ready (lane31 65530) (.st { x0 with t := .b32, a := 2 }) e ∧
      decide (maskWhere e.part (fun l => memAddr e { x0 with a := 2 } l < 0 ∨ 65536 < memAddr e { x0 with a := 2 } l + 4) = 0
        ∧ maskWhere e.part (fun l => memAddr e { x0 with a := 2 } l % 4 ≠ 0) ≠ 0) = true := by
  refine ⟨ready_of_all ?_, ready_of_all ?_, ready_of_meets ?_, ready_of_meets ?_, ready_of_meets ?_⟩ <;> decide +kernel
/-- The crew with one entry in its store queue. -/
def queued (h : QEntry) : Crew := { crew0 with queue := [h] }
/-- A load behind an atomic, which the queue performs first, and behind a TBINIT whose quota is a cause. -/
theorem witness_LoadsBehindAtomics :
    (∀ p ∈ [(Instr.ld { x0 with t := .b32, a := 2 }, 4), (.lds { x0 with t := .b32, a := 2, d := 4, v := 1 }, 8),
        (.mld { x0 with t := .b32, a := 2 }, 8)],
      ∀ h ∈ [QEntry.atom 0 0 .s32 0 false 1 [⟨31, 65532, 1, 0⟩], .tbinit 5 16 0 0 1],
        meets (withCrew fun _ => queued h) p.1 (fun e => fitsB e p.2 (memAddr e { x0 with a := 2 }) && !e.cw.queue.all isStore) = true) ∧
    (let s := withCrew fun _ => queued (.atom 0 0 .s32 0 false 1 [⟨31, 65532, 1, 0⟩])
     let i := Instr.ld { x0 with t := .b32, a := 2 }
     ((envOf (s.drainQueue 2 0) i).map fun e => (e.ipc, e.cw.inTrap, e.blk.errs)) = (envOf s i).map fun e => (e.ipc, e.cw.inTrap, [])) ∧
    let s := (withCrew fun _ => queued (.tbinit 5 16 0 0 1)).setBlock 2
      { block0.setCrew 0 (queued (.tbinit 5 16 0 0 1)) with r := { block0.r with trapr := 0x800 } }
    let i := Instr.ld { x0 with t := .b32, a := 2 }
    ((envOf (s.drainQueue 2 0) i).map (·.cw.inTrap)) = some true ∧ ((envOf s i).map (·.cw.inTrap)) = some false := by
  refine ⟨?_, ?_, ?_⟩ <;> decide +kernel
/-- An atomic and the objects of barriers and rings: one outside the share, one off its alignment. -/
theorem witness_AddressChecks :
    (∀ a ∈ [65536, 65530], ∃ e, Ready (lane31 (BitVec.ofNat 32 a)) (.atom { x0 with a := 2 }) e ∧
      decide (maskWhere e.part (fun l => atomAddr e { x0 with a := 2 } l < 0 ∨ 65536 < atomAddr e { x0 with a := 2 } l + 4) = 0 ↔
        a = 65530) = true) ∧
    ∀ i ∈ [Instr.tbinit { x0 with a := 1 }, .tbarr { x0 with a := 1 }, .tbwait { x0 with a := 1 }, .srput { x0 with a := 1 },
        .srputCommit { x0 with a := 1 }, .srget { x0 with a := 1 }, .srrel { x0 with a := 1 }],
      (∃ e, Ready (withS [(1, 65528)]) i e ∧ decide (e.blk.r.lmem < (e.cw.rs 1).toNat + 16) = true) ∧
      ∃ e, Ready (withS [(1, 8)]) i e ∧ decide (e.part ≠ 0 ∧ (e.cw.rs 1).toNat % 16 ≠ 0 ∧ (e.cw.rs 1).toNat + 32 ≤ e.blk.r.lmem) = true := by
  refine ⟨fun a h => ready_of_meets ?_, fun i hi => ⟨ready_of_all ?_ i hi, ready_of_all ?_ i hi⟩⟩ <;> (try revert a h) <;> decide +kernel
/-- A compare and swap, an ATOM.FADD in a deterministic grid, and one without a lane. -/
theorem witness_AtomResults :
    (∃ e, Ready (lane31 65532) (.atom { x0 with a := 2, v := 7 }) e ∧ (quiet e && fitsB e 4 (atomAddr e { x0 with a := 2 })) = true) ∧
    (∃ e, Ready (withBlock fun x => { x with r := { x.r with det := true } }) (.atom { xf with v := 8 }) e ∧
      (quiet e && e.blk.r.det) = true) ∧
    ∀ i ∈ [Instr.atom { x0 with h := ⟨false, 1, false⟩ }, .atom { x0 with h := ⟨false, 1, false⟩, y := true }],
      ∃ e, Ready base i e ∧ decide (e.part = 0) = true := by
  refine ⟨ready_of_meets ?_, ready_of_meets ?_, ready_of_all ?_⟩ <;> decide +kernel
/-- A barrier of quota 2 with one arrival owed. -/
def bar1 : TBar := ⟨15, 1, 0, 0, 2, 0⟩
/-- A share that holds it at 16. -/
def shareBar : Sparse Byte := writeLE [] 16 16 bar1.bits
/-- A store, atomics of one and two lanes at one location, the initialisations at both ends of N and past them, a commit and a release, a barrier
arrival and environment resets of one and two slots. -/
theorem witness_QueueHeadEffects : (∀ h ∈ [QEntry.store 65535 [1], .atom 0 0 .s32 0 false 1 [⟨31, 65532, 1, 0⟩],
      .atom 0 0 .s32 0 false 1 [⟨3, 64, 1, 0⟩, ⟨31, 64, 5, 0⟩], .envrst ⟨0, 0, 64, 0, 8, 0⟩ [(64, 7), (128, 9)], .tbinit 5 16 1 0 1,
      .tbinit 5 16 1048575 0 1, .tbinit 5 16 0 0 1, .tbinit 5 16 1048576 0 1, .ring 5 (.srputCommit x0) 32 0 0 1,
      .ring 5 (.srrel x0) 32 0 0 1, .envrst ⟨0, 0, 64, 0, 8, 0⟩ [(64, 7)]],
      HeadIs (withCrew fun _ => queued h) 2 0 (block0.setCrew 0 (queued h)) (queued h) h) ∧
    let w := { queued (.tbarr 16 1 0 0 1) with wait := .waiting (.tbarr x0) 0 1 1 }
    let x := { block0.setCrew 0 w with share := shareBar }
    HeadIs (withBlock fun _ => x) 2 0 x w (.tbarr 16 1 0 0 1) ∧ (hdrOf (.tbarr x0)).s = false ∧
      tbarrCheck (x.tbar 16) 0 = none := by
  refine ⟨fun h hh => ⟨?_, ?_, ?_, ?_⟩, ⟨?_, ?_, ?_, ?_⟩, ?_, ?_⟩ <;> (try revert h hh) <;> decide +kernel
/-- A ring of two slots with one put outstanding. -/
def ring1 : Ring :=
  { sbase := 64, ssize := 16, nslot := 2, count := 1, nget := 1, head := 1, tail := 0, gph := 0, phb := 1, opn := 0, rsv := 0 }
/-- The turnover and an arrival that leaves one owed; a full ring, one with room, an open slot, a slot beyond the ring, an empty ring, a
committed slot, a release with and without a slot taken, a get of the last slot, and descriptors that are malformed. -/
theorem witness_SyncObjectRules : tbarrCheck bar1 0 = none ∧ (bar1.owed = 1 ∧ bar1.inbound + 0 = 0) ∧
    tbarrCheck { bar1 with owed := 2 } 5 = none ∧
    (∀ r ∈ [ring1, { ring1 with count := 2 }, { ring1 with nget := 0 }, { ring1 with opn := 2 }], r.head < r.nslot ∧ r.tail < r.nslot) ∧
    ({ ring1 with count := 2 }.count = ring1.nslot) ∧ ring1.count < ring1.nslot ∧ bitsOf (2 * 2 ^ 24) 24 5 ≥ ring1.nslot ∧
    bitsOf (2 ^ 24) 24 5 < ring1.nslot ∧ bitOf { ring1 with opn := 2 }.opn (bitsOf (2 ^ 24) 24 5) = true ∧
    bitsOf ring1.phb ring1.tail 1 ≠ ring1.gph ∧ ring1.nget ≠ 0 ∧ ring1.count = ring1.nget ∧
    { ring1 with nget := 0 }.count ≠ { ring1 with nget := 0 }.nget ∧ { ring1 with tail := 1 }.tail + 1 = ring1.nslot ∧
    ring1.malformed 65536 = false ∧ { ring1 with rsv := 1 }.malformed 65536 = true ∧
    (ringOf (readLE block0.share 0 32)).malformed block0.r.lmem = true := by decide +kernel
/-- The block with the barrier and the ring in its share. -/
def objects : Block := { block0 with share := writeLE shareBar 32 32 ring1.bits }
/-- The same with the registers that name them. -/
def atObjects : State := withBlock fun _ => objects.setCrew 0 { crew0 with s := [(1, 16), (2, 32), (3, 15), (4, 14)] }
/-- The ticket of GEN and another; both barriers of a wait. -/
theorem witness_BarrierAndTeamInstructions :
    (∀ i ∈ [Instr.tbinit { x0 with a := 1, b := 3 }, .tbarr { x0 with a := 1 }, .tbwait { x0 with a := 1, b := 3 },
      .tbwait { x0 with a := 1, b := 4 }], ∃ e, Ready atObjects i e ∧ (quiet e && fitsB e 16 (fun _ => (e.cw.rs 1).toNat) &&
        !(tbarOf (crewRead e.blk e.cw 16 16)).malformed && (tbarOf (crewRead e.blk e.cw 16 16)).gen = 15 &&
        (tbarOf (crewRead e.blk e.cw 16 16)).fault = 0) = true) ∧
    (∀ i ∈ [Instr.join { x0 with v := 3 }, .leave { x0 with v := 2 }, .leave { x0 with v := 3 }, .bar x0, .barBlk x0],
      ∃ e, Ready base i e ∧ quiet e = true) ∧
    ∃ e, Ready (withBlock fun x => { x with teams := [⟨true, .any, 2⟩] }) (.leave x0) e ∧
      (quiet e && !(e.blk.team 0).members.getLsbD e.c) = true := by
  refine ⟨ready_of_all ?_, ready_of_all ?_, ready_of_meets ?_⟩ <;> decide +kernel
/-- Operations of a ring at the head of the store queue and behind a store, one of a malformed ring, a put that is served and a
release that fails. -/
theorem witness_RingInstructions : (∀ i ∈ [Instr.srput { x0 with a := 2, d := 5 }, .srputCommit { x0 with a := 2, b := 4 },
    .srget { x0 with a := 2, d := 5 }, .srrel { x0 with a := 2 }], ∃ e, Ready atObjects i e ∧
      (quiet e && fitsB e 32 (fun _ => (e.cw.rs 2).toNat)) = true) ∧
    (∀ i ∈ [Instr.srput { x0 with a := 2, d := 5 }, .srget { x0 with a := 2, d := 5 }], ∃ e,
      Ready (withBlock fun _ => objects.setCrew 0 { crew0 with s := [(2, 32)], queue := [.store 0 [1]] }) i e ∧
      (decide (e.part ≠ 0) && e.cw.queue.all isStore && !(ringOf (crewRead e.blk e.cw 32 32)).malformed e.blk.r.lmem) = true) ∧
    (∀ i ∈ [Instr.srput x0, .srputCommit x0, .srget x0, .srrel x0], ∃ e, Ready base i e ∧
      (quiet e && (ringOf (crewRead e.blk e.cw 0 32)).malformed e.blk.r.lmem) = true) ∧
    (∃ r v, ringAct objects 32 ringPut = .done r v) ∧ ringAct objects 32 ringRel = .fail 3 := by
  refine ⟨ready_of_all ?_, ready_of_all ?_, ready_of_all ?_, ⟨_, _, rfl⟩, ?_⟩ <;> decide +kernel
/-- The crew waits with an instruction. -/
def waiter (i : Instr) (s : List (Nat × Word)) : Crew := { crew0 with wait := .waiting i 0 1 1, s := s }
/-- A wait at the barrier with another ticket, a put and a get; a crew that waits at BAR.BLK with its arrival set. -/
theorem witness_WaitsAndBarriersEnd :
    (∀ i ∈ [Instr.tbwait { x0 with a := 1, b := 4 }, .srput { x0 with a := 2 }, .srget { x0 with a := 2 }],
      let w := waiter i [(1, 16), (2, 32), (4, 14)]
      WaitsWith (withBlock fun _ => objects.setCrew 0 w) 2 0 (objects.setCrew 0 w) w i 0 1 1) ∧
    (tbarOf (crewRead objects crew0 16 16)).malformed = false ∧ (tbarOf (crewRead objects crew0 16 16)).gen ≠ 14 ∧
    (∃ r v, ringAct objects 32 ringPut = .done r v) ∧ (∃ r v, ringAct objects 32 ringGet = .done r v) ∧
    let x := { block0.setCrew 0 (waiter (.barBlk x0) []) with arrive := [(8, 1)] }
    x.arrived 8 ≠ 0 ∧ x.needed 8 &&& ~~~(x.arrived 8) = 0 ∧ (x.arrived 8).getLsbD 0 = true ∧
      look x.crews 0 = some (waiter (.barBlk x0) []) ∧ x0.h.s = false := by
  refine ⟨fun i hi => ⟨?_, ?_, ?_, ?_, ?_⟩, ?_, ?_, ⟨_, _, rfl⟩, ⟨_, _, rfl⟩, ?_⟩ <;> (try revert i hi) <;> decide +kernel

/-! ### Witnesses: layouts, the streamer and far memory -/

/-- An access that succeeds. -/
def okB {α : Type} (g : Got α) : Bool := match g with
  | .ok _ _ => true
  | _ => false
/-- Its state and its value. -/
theorem ok_of_okB {α : Type} {g : Got α} (h : okB g = true) : ∃ s x, g = .ok s x := by
  cases g with
  | ok s x => exact ⟨s, x, rfl⟩
  | wait s => simp [okB] at h
  | fail s t => simp [okB] at h
/-- A page at address 0 that its die has translated. -/
def page0 : TlbEntry :=
  { asid := 0, va := 0, size := 65536, pa := 0, cc := 2, sh := false, pti := 0, pr := true, pw := true, px := true, err := 0 }
/-- The block given on its core, with the page. -/
def mapped (x : Block) : State := (base.setBlock 2 x).setDie 0 { base.die0 with tlb := [page0] }
/-- A layout of rows of bytes in s4, whose first word says that elements are a byte wide, and one that is not valid. -/
def lay1 : List (Nat × Word) := [(4, 0), (5, 0), (6, 0), (7, 0)]
/-- Layouts that are valid and not, and a fence with nothing outstanding and with a copy under way. -/
theorem witness_LayoutsAndFences :
    (∀ i ∈ [Instr.layout { x0 with a := 0, b := 4 }, .rcfence x0], ∃ e, Ready base i e ∧ (quiet e &&
      (wordLayout 0).isSome && okB (base.layoutOf e.blk (e.cw.group 4) (crewOwner e.b e.c))) = true) ∧
    (∃ e, Ready (withS [(6, 0xFFFFFFFF)]) (.layout { x0 with a := 0, b := 4 }) e ∧
      (match (withS [(6, 0xFFFFFFFF)]).layoutOf e.blk (e.cw.group 4) (crewOwner e.b e.c) with
        | .ok _ none => true
        | _ => false) = true) ∧
    (∀ i ∈ [Instr.fence { x0 with d := 0, v := 0 }, .fence { x0 with d := 2, v := 5 }], ∃ e, Ready base i e ∧ (quiet e &&
      !base.writesOut e.b e.c && !base.readsOut e.b e.c && e.cw.hfaults.isEmpty) = true) ∧ 15 < 16 ∧
    swizzle 15 0 = swizzle 15 0 := by
  refine ⟨ready_of_all ?_, ready_of_meets ?_, ready_of_all ?_, ?_⟩ <;> decide +kernel
/-- Two faults that a crew holds, the one of the command issued first behind the other. -/
def held0 : List Late := [⟨5, { code := 0xA4 }⟩, ⟨3, { code := 0xA2 }⟩]
/-- Fences at both ends of each range of scopes, of a crew without and with held faults, with nothing outstanding. -/
theorem witness_FenceCompletes : ∀ hs ∈ [[], held0], ∀ d ∈ [0, 1, 2], ∀ v ∈ [0, 5, 6, 8, 9, 11],
    let s := withCrew fun w => { w with hfaults := hs }
    ∃ e, Ready s (.fence { x0 with d := d, v := v }) e ∧ (quiet e && !s.readsOut e.b e.c && !s.writesOut e.b e.c && !s.sendsOut e.b e.c
      && decide (releaseDone s e.blk e.b e.c v) && decide (e.cw.hfaults = hs)) = true := fun hs hh d hd v hv => by
  refine ready_of_meets ?_
  revert hs hh d hd v hv
  decide +kernel
/-- A copy of 64 bytes of page 0 into the share. -/
def copy0 : Copy :=
  { blk := 2, crew := 0, order := 0, kind := .cpg, lay := {}, va := 128, ext := (64, 1, 1, 1), s1 := 32, s2 := 32, s3 := 32,
    trans := false, reblock := false, last := false, scope := 0, sync := 0, obj := 0, slotw := 0, follow := none, token := none,
    chunks := 0, sides := [], err := none }
/-- A copy of the crew is under way. -/
def copying (k : Copy) : State := { mapped block0 with copies := [(7, k)], fresh := 8 }
theorem witness_FenceWaits : ∃ e, Ready (copying copy0) (.fence { x0 with d := 2, v := 5 }) e ∧
    (quiet e && (copying copy0).writesOut e.b e.c) = true := ready_of_meets (by decide +kernel)
/-- The G group (extents 64 × 1 × 1 × 1) in s8 and the layout word in s4. -/
def copyRegs : List (Nat × Word) := [(8, 128), (9, 0), (10, 65600), (11, 65537)]
/-- A full streamer, a layout that is not valid, and a next token that is still live; a prefetch of a full streamer. -/
theorem witness_CopyCommandsTurnedAway :
    (∀ i ∈ [Instr.cpg { st0 with a := 8, b := 4 }, .cps { st0 with a := 8, b := 4, d := 1 }, .cphIn { st0 with a := 8, b := 4 },
        .cphOut { st0 with a := 8, b := 4, d := 1 }],
      (∃ e, Ready { withS copyRegs with copies := (List.range 64).map fun k => (k, copy0) } i e ∧ (quiet e &&
        decide (64 ≤ coreLoad { withS copyRegs with copies := (List.range 64).map fun k => (k, copy0) } e.blk)) = true) ∧
      ∃ e, Ready (withS [(6, 0xFFFFFFFF)]) i e ∧ (quiet e && decide (coreLoad base e.blk < 64) &&
        (match (withS [(6, 0xFFFFFFFF)]).layoutOf e.blk (e.cw.group 4) (crewOwner e.b e.c) with
          | .ok _ none => true
          | _ => false)) = true) ∧
    (∀ i ∈ [Instr.cps { st0 with a := 8, b := 4, d := 1 }, .cphOut { st0 with a := 8, b := 4, d := 1 }],
      ∃ e, Ready { withS copyRegs with tokens := [⟨2, 0, 0, true, none⟩] } i e ∧ (quiet e &&
        (State.liveToken { withS copyRegs with tokens := [⟨2, 0, 0, true, none⟩] } e.b e.c (nextToken e)).isSome &&
        okB (State.layoutOf { withS copyRegs with tokens := [⟨2, 0, 0, true, none⟩] } e.blk (e.cw.group 4) (crewOwner e.b e.c)) &&
        decide (copyReason e.blk (copyOf e { st0 with a := 8, b := 4 } .cps {}) false = none)) = true) ∧
    ∃ e, Ready { withS [(3, 1)] with copies := (List.range 64).map fun k => (k, copy0) } (.pref { st0 with a := 4, b := 3 }) e ∧ (quiet e &&
      decide (64 ≤ coreLoad { withS [(3, 1)] with copies := (List.range 64).map fun k => (k, copy0) } e.blk)) = true := by
  refine ⟨fun i hi => ⟨ready_of_all ?_ i hi, ready_of_all ?_ i hi⟩, ready_of_all ?_, ready_of_meets ?_⟩ <;> decide +kernel
/-- The operands of a copy that passes its checks, and of one without elements; ranges of a prefetch at and past their limits, and a
prefetch of a task block. -/
theorem witness_StreamerCommands : (∀ i ∈ [Instr.cpg { st0 with a := 8, b := 4 }, .cps { st0 with a := 8, b := 4, d := 1 },
    .cphIn { st0 with a := 8, b := 4 }, .cphOut { st0 with a := 8, b := 4, d := 1 }], ∃ e, Ready (withS copyRegs) i e ∧ (quiet e &&
      decide (coreLoad (withS copyRegs) e.blk < 64) && ((withS copyRegs).liveToken e.b e.c (nextToken e)).isNone &&
      okB ((withS copyRegs).layoutOf e.blk (e.cw.group 4) (crewOwner e.b e.c)) &&
      decide (copyReason e.blk (copyOf e { st0 with a := 8, b := 4 } .cpg {}) false = none)) = true) ∧
    (∃ e, Ready base (.cpg { st0 with a := 8, b := 4 }) e ∧
      decide (copyReason e.blk (copyOf e { st0 with a := 8, b := 4 } .cpg {}) false = some 2) = true) ∧
    (∀ i ∈ [Instr.ctok { st0 with a := 1, d := 2 }, .cwait { st0 with a := 1 }],
      (∃ e, Ready { withS [(1, 5)] with tokens := [⟨2, 0, 5, true, none⟩] } i e ∧
        decide (State.liveToken { withS [(1, 5)] with tokens := [⟨2, 0, 5, true, none⟩] } e.b e.c (e.cw.rs 1).toNat =
          some ⟨2, 0, 5, true, none⟩) = true) ∧
      ∃ e, Ready base i e ∧ (base.liveToken e.b e.c (e.cw.rs 1).toNat).isNone = true) ∧
    (∀ n ∈ [1, 1073741824], ∃ e, Ready (withS [(3, BitVec.ofNat 32 n)]) (.pref { st0 with a := 4, b := 3 }) e ∧
      (quiet e && (e.cw.rs 3).toNat = n && decide (coreLoad base e.blk < 64)) = true) ∧
    (∀ n ∈ [0, 1073741825], ∃ e, Ready (withS [(3, BitVec.ofNat 32 n)]) (.pref { st0 with a := 4, b := 3 }) e ∧
      (quiet e && (e.cw.rs 3).toNat = n) = true) ∧
    ∃ e, Ready (withBlock fun x => { x with r := { x.r with res := false } }) (.pref { st0 with a := 4, b := 3 }) e ∧
      (!e.blk.r.res && e.part ≠ 0) = true := by
  refine ⟨ready_of_all ?_, ready_of_meets ?_, fun i hi => ⟨ready_of_all ?_ i hi, ready_of_all ?_ i hi⟩,
    fun n hn => ready_of_meets ?_, fun n hn => ready_of_meets ?_, ready_of_meets ?_⟩ <;>
    (try revert n hn) <;> decide +kernel
/-- Line 0, locked by an earlier command. -/
def line1 : Line :=
  { asid := 0, va := 0, side := false, pa := 0, bytes := [], dirty := 0, poison := 0, cc := 2, locked := true, err := 0 }
/-- A block of a deterministic grid with a chained region of one row of four bytes at the start of page 0, its shape record
behind it. -/
def chainedBlock : Block := { block0 with r := { block0.r with
  det := true, regions := [{ base := 0, stride := 0, shape := 256, loff := 0, dir := 1, ew := 0, conv := 0, chain := true }] } }
/-- That block with its shape record in the L2 of its home. -/
def chainedState : State := (mapped chainedBlock).setDie 0 { (mapped chainedBlock).die0 with
  l2 := [2, 3].map fun k => { line1 with va := k, pa := 128 * k, locked := false } }
/-- The operands of each far instruction, in a resident block and in a task block, in a deterministic grid, and operands that
fail their checks. -/
theorem witness_FarInstructions :
    (∀ i ∈ [Instr.fatom { fa0 with ret := true }, .fatom { fa0 with y := true }, .fwait fa0, .l2lck { fa0 with a := 2, b := 4 },
      .l2ulk { fa0 with a := 2, b := 4 }, .publ { fa0 with a := 0, b := 5 }],
      ∃ e, Ready ((mapped (block0.setCrew 0 { crew0 with s := [(4, 128), (5, 1)] }))) i e ∧ (quiet e && !e.blk.r.det &&
        decide (farBad e fa0 = 0) && decide (farBad e { fa0 with y := true } = 0) &&
        decide (lockReason (e.cw.rs2 2) (e.cw.rs 4).toNat = none) && decide (publReason e.blk e.cw 0 (e.cw.rs 5).toNat = none) &&
        okB (resolveLines { Machine.accOf e.blk (crewOwner e.b e.c) with use := .forbid } (linesFrom (e.cw.rs2 2) (e.cw.rs 4).toNat)
          (mapped (block0.setCrew 0 { crew0 with s := [(4, 128), (5, 1)] })))) = true) ∧
    (∀ i ∈ [Instr.fatom fa0, .fwait fa0, .l2lck fa0, .l2ulk fa0, .publ fa0],
      ∃ e, Ready (withBlock fun x => { x with r := { x.r with res := false } }) i e ∧ (!e.blk.r.res && e.part ≠ 0) = true) ∧
    (∀ i ∈ [Instr.fatom { fa0 with op := 8 }, .fatom { fa0 with op := 6 }], ∃ e, Ready chainedState i e ∧
      (quiet e && e.blk.r.det && decide (farBad e fa0 = 0) &&
        okB (farAll e { fa0 with op := 6 } (farLanes e fa0) chainedState)) = true) ∧
    (∃ e, Ready (lane31 2) (.fatom { fa0 with a := 2 }) e ∧ decide (farBad e { fa0 with a := 2 } ≠ 0) = true) ∧
    lockReason 1 128 = some 1 ∧ lockReason 0 0 = some 2 ∧ publReason block0 crew0 4 1 = some 1 ∧
    okB (unlockable { Machine.accOf block0 (crewOwner 2 0) with use := .forbid } (linesFrom 0 128) (mapped block0)) = true := by
  refine ⟨ready_of_all ?_, ready_of_all ?_, ready_of_all ?_, ready_of_meets ?_, ?_⟩ <;> decide +kernel
/-- A crew that waits in the block of page 0. -/
def waiting0 (i : Instr) (s : List (Nat × Word)) : State := mapped (block0.setCrew 0 (waiter i s))
/-- A far addition of one lane. -/
def far0 : Far :=
  { blk := 2, crew := 0, order := 0, op := 0, t := .s32, scope := 6, ret := true, uni := false, d := 1, lane := 31, va := 65532,
    b := 1, c := 0, regions := [], hold := false }
/-- A far addition is on its way. -/
def flying (f : Far) : State := { mapped block0 with fars := [(9, f)], fresh := 10 }
/-- A crew that locks line 0, with the lines given in the L2 of its home, in a context with the quota given. -/
def locking (l2 : List Line) (quota : Nat) : State :=
  ((base.setBlock 2 (block0.setCrew 0 { crew0 with jobs := [{ i := .l2lck { fa0 with b := 4 }, pc := 0, act := 1, part := 1, order := 0 }], s := [(4, 128)] })).setCtx 0
    { base.ctx 0 with quota := quota }).setDie 0 { base.die0 with tlb := [page0], l2 := l2 }
/-- The status of its lock, and whether the lines can be reached and locked. -/
def lockFound (s : State) : Option (Nat × Bool) :=
  let a : Acc := { Machine.accOf block0 (crewOwner 2 0) with rd := true, use := .forbid }
  match resolveLines a (linesFrom 0 128) s with
  | .ok s1 ps => some (lockStatus s1 0 ps, match crossAll a ps s1 with
    | .ok s2 _ => okB (lockLines 0 ps s2)
    | _ => false)
  | _ => none
/-- An access that fails. -/
def failB {α : Type} (g : Got α) : Bool := match g with
  | .fail _ _ => true
  | _ => false
/-- A copy of two bytes into the share, with SYNC 1 and with SYNC 2. -/
def copyB (sync : Nat) : Copy := { copy0 with lay := { ew := 1 }, ext := (2, 1, 1, 1), sync := sync, obj := 32 }
/-- The ring of `objects` with slot 0 open. -/
def openRing : Block := { block0 with share := writeLE [] 32 32 { ring1 with opn := 1 }.bits }
/-- What two accesses one after the other come to. -/
def bothOk {α β : Type} (g : Got α) (f : State → α → Bool) (h : State → α → Got β) : Bool := match g with
  | .ok s x => f s x && okB (h s x)
  | _ => false
/-- A chunk whose lines are ready and read, a commit that is done and one that is not, a copy under way and a fault that stops it. -/
theorem witness_StreamerLaws :
    (copying (copyB 1)).block 2 = some block0 ∧ block0.errs = [] ∧ (copyB 1).lay.ew ≠ 0 ∧ (copyB 1).chunkElems 0 ≠ [] ∧
    (copyB 1).inbound = true ∧ bothOk (readyAll ((copyB 1).pieces 0 fun _ => []) (copying (copyB 1)) ((copyB 1).acc block0 7))
      (fun _ r => r.2.2) (fun s r => (readParts r.2.1 r.1 s).bind fun s bs => if s.olds.isEmpty then .ok s bs else .wait s) = true ∧
    (match ringAct openRing 32 (fun r => ringCommit r 0) with
      | .done _ _ => true
      | _ => false) = true ∧ ringAct objects 32 (fun r => ringCommit r 0) = .fail 2 ∧ (copyB 2).follow = none ∧
    failB (moveChunk { base with copies := [(7, copy0)] } block0 7 copy0) = true ∧
    ({ copy0 with err := some { code := 0xA2 } } : Copy).sync ≠ 2 := by
  refine ⟨?_, ?_, ?_, ?_, ?_, ?_, ?_, ?_, ?_, ?_, ?_⟩ <;> decide +kernel
/-- A chunk that moves and a copy whose chunks have moved; a token that is complete; an operation that is performed and one that waits
for its chain; a flag that holds. -/
theorem witness_StreamerAndFarEvents :
    (nextCopy (copying copy0) block0 = some 7 ∧ copy0.taken = false ∧ { copy0 with taken := true }.taken = true ∧
      okB (moveChunk (copying { copy0 with taken := true }) block0 7 { copy0 with taken := true }) = true) ∧
    (copy0.total ≤ { copy0 with chunks := 1 }.chunks ∧
      okB (endCopy (copying { copy0 with chunks := 1 }) 7 { copy0 with chunks := 1 }) = true) ∧
    (∃ w, look (block0.setCrew 0 (waiter (.cwait { st0 with a := 1 }) [(1, 5)])).crews 0 = some w ∧
      w.wait = .waiting (.cwait { st0 with a := 1 }) 0 1 1 ∧ (w.rs 1).toNat = 5) ∧
    (farBehind (flying far0) 9 far0 = false ∧ okB ((flying far0).gatomic (farAcc block0 9 far0) far0.va 4 0 1 0 fun o => (farOp far0 o).1)
      = true) ∧
    chainOpen (flying { far0 with hold := true, regions := [0] }) block0 [0] = true ∧
    (okB ((waiting0 (.fwait fa0) []).gread { Machine.accOf block0 (crewOwner 2 0) with rd := true, pkg := true, scope := some 0, use := .forbid }
        0 4) = true ∧ farCond .s32 0 0 0 = true ∧
      failB (base.gread { Machine.accOf block0 (crewOwner 2 0) with rd := true, pkg := true, scope := some 0, use := .forbid } 0 4) = true) ∧
    (lockFound (locking [line1] 1) = some (0, true) ∧ (lockFound (locking [] 0)).any (fun r => r.1 ≠ 0) = true ∧
      (((locking [] 0).crew 2 0).bind fun w => w.jobOf (· matches .l2lck _)).isSome = true) ∧
    (let w := { waiter (.publ fa0) [] with publ := [0], hfaults := held0 }
     let x := block0.setCrew 0 w
     let s1 := ((mapped x).released x 2 0 0).1
     ((mapped x).released x 2 0 0).2 = true ∧ s1.block 2 = some x ∧ okB (publPages s1 0 w.publ) = true) ∧
    (waiting0 (.fence x0) []).readsOut 2 0 = false ∧
    (∀ v ∈ [0, 5, 6, 8, 9, 11], releaseDone (waiting0 (.fence { x0 with d := 2, v := v }) []) block0 2 0 v) := by
  refine ⟨by decide +kernel, by decide +kernel, ⟨waiter (.cwait { st0 with a := 1 }) [(1, 5)], ?_, ?_, ?_⟩, ?_⟩ <;> decide +kernel

/-! ### Witnesses: the matrix array -/

/-- The formats whose codes need no layout, an accumulator command, a drain and the status command. -/
def acc0 : AccOps := { h := h0, a := 0, acc := 0, mode := 2, rlen1 := 127, clen1 := 127, rel := false }
/-- A drain to vector registers. -/
def drain0 : DrainOps :=
  { h := h0, a := 0, b := 0, t := .s32, o := true, rnd := 0, acc := 0, dst := 2, tile := 0, pcs := false, rel := false,
    rlen1 := 31, dreg := 8, row0 := 0, col0 := 0, clen1 := 0 }
/-- A command in the queue of the block, with its operands. -/
def cmd0 (i : Instr) : MCmd := { i := i, crew := 0 }
/-- The array with that command at its head, an integer accumulator and a latched slot of signed bytes. -/
def array0 (i : Instr) : Matrix :=
  { queue := [cmd0 i], amode := [(0, 2)], w0 := { valid := true, fmt := .s8, klen := 32, nlen := 16 } }
/-- The block with that array. -/
def matrixBlock (i : Instr) : Block := { block0 with mx := array0 i }
/-- A stream of signed bytes from a tile. -/
def mxInt : MxOps := { mx0 with fmt := .s8, loc := true, tile := 1, mlen1 := 15 }
/-- A command that passes its checks, with and without a layout, and one whose slot is not valid. -/
theorem witness_MatrixCommands :
    (∀ i ∈ [Instr.accz acc0, .mxprog ⟨h0, 2, true⟩, .mxw { mx0 with fmt := .s8, loc := true }, .accst { acc0 with mode := 0, rlen1 := 0, clen1 := 0 }],
      isMatrixCommand i = true ∧ ∃ e, Ready (mapped (matrixBlock (.mxprog ⟨h0, 2, true⟩))) i e ∧ (quiet e &&
        decide (e.blk.mx.queue.length < 64) && okB ((mapped e.blk).layoutOf e.blk (e.cw.group (mxA i)) (crewOwner e.b e.c))) = true) ∧
    (∃ e, Ready base (.accz acc0) e ∧ decide (matrixCheck e.blk (.accz acc0) (some {}) 0 [] = none) = true) ∧
    (∃ e, Ready base (.mxa mxInt) e ∧ decide (matrixCheck e.blk (.mxa mxInt) (some {}) 0 [] = some 0x41) = true) := by
  refine ⟨fun i hi => ⟨?_, ready_of_all ?_ i hi⟩, ready_of_meets ?_, ready_of_meets ?_⟩ <;> (try revert i hi) <;> decide +kernel
/-- Each command of the queue at its head. -/
theorem witness_MatrixTurns : ∀ i ∈ [Instr.mxw { mx0 with fmt := .s8, loc := true }, .mxa mxInt, .mxtl ⟨h0, 0, 1, 0, false, false⟩,
    .mxts ⟨h0, 0, 1, 127, true, true⟩, .accz { acc0 with mode := 4 }, .accz acc0, .accld acc0, .accst { acc0 with mode := 0, rel := true },
    .accdr drain0, .accdr { drain0 with dst := 0 }, .mxprog ⟨h0, 2, true⟩],
    Turning (mapped (matrixBlock i)) 2 (matrixBlock i) (cmd0 i) := by
  intro i hi
  refine ⟨?_, ?_, ?_, ?_, ?_, ?_⟩ <;> revert i hi <;> decide +kernel
/-- The block with cause 0x41 latched. -/
def latched (i : Instr) : Block := { block0 with mx := { array0 i with msw := 0x4100 } }
/-- A follow-on command that failed, a stream behind a latched cause, and the MXPROG that returns it. -/
theorem witness_LatchedCause :
    (let x := { block0 with mx := { array0 (.mxa mxInt) with queue := [{ cmd0 (.mxa mxInt) with fail := 0x40 }] } }
     (mapped x).block 2 = some x ∧ mxMayRun (mapped x) x = true ∧ x.mx.queue = [{ cmd0 (.mxa mxInt) with fail := 0x40 }]) ∧
    (∀ i ∈ [Instr.mxa mxInt, .mxprog ⟨h0, 2, false⟩], (mapped (latched i)).block 2 = some (latched i) ∧
      mxMayRun (mapped (latched i)) (latched i) = true ∧ (latched i).mx.queue = [cmd0 i] ∧ (latched i).mx.lcause = 0x41) := by
  refine ⟨?_, ?_⟩ <;> decide +kernel
/-- A stream of signed bytes into accumulator 0 in each mode; entry (0, 0) at the end of the range, and a product that leaves it; a
stream of each class; sums of a NaN, of infinities and of numbers; a negative variance. -/
theorem witness_IntegerStep :
    (∀ mode ∈ [1, 2, 3],
      let y := { mxInt with loc := false }
      let x := { block0 with mx := { array0 (.mxa y) with
        amode := [(0, mode)], accs := [(0, 0x7FFFFFFF)], tiles := [(16384, 1)], w0 := { (array0 (.mxa y)).w0 with wt := [(0, 1)] } } }
      mclass y.fmt = .integer ∧ InArray x y ∧ x.mx.mode y.acc = mode ∧ 0 < mlenOf y ∧
        0 < (x.mx.slot y.slot).nlen ∧ signedOf 32 (x.mx.entry 0 0 0).toNat = 2147483647 ∧
        streamElem x (cmd0 (.mxa y)) 0 0 = 1 ∧ (x.mx.slot 0).raw 0 0 = 1) ∧
    (∀ f ∈ [(MFmt.e4m3, MClass.narrow), (.f16, .half), (.f32, .single), (.f64, .double)],
      mclass f.1 = f.2 ∧ InArray (matrixBlock (.mxa { mxInt with fmt := f.1 })) { mxInt with fmt := f.1 }) ∧
    (let y := { mxInt with fmt := MFmt.f32 }
     let x := { block0 with mx := { array0 (.mxa y) with w0 := { valid := true, fmt := .mw, klen := 32, nlen := 16, wt := [(7, 0x80), (4, 1)] } } }
     InArray x y ∧ y.acc < 3 ∧ (x.mx.slot y.slot).fmt = .mw ∧
       ltVal (valueOf .f32 ((x.mx.slot y.slot).pair 0 0).2) (.num false 0 1) = true) ∧
    (∃ ps : List Val, Val.nan ∈ ps) ∧ (∃ ps : List Val, Val.inf true ∈ ps ∧ Val.inf false ∈ ps) ∧
    (Val.nan ∉ [Val.inf true] ∧ Val.inf true ∈ [Val.inf true] ∧ Val.inf (!true) ∉ [Val.inf true]) ∧
    ∀ p ∈ [(true, 1, 2), (false, 0, 3)], p.2.2 ≠ 0 := by
  refine ⟨?_, ?_, ?_, ⟨[.nan], by decide⟩, ⟨[.inf true, .inf false], by decide⟩, by decide, by decide⟩
  · intro mode hm
    refine ⟨rfl, ⟨by decide, by decide, ?_⟩, ?_⟩ <;> revert mode hm <;> decide +kernel
  · intro f hf
    refine ⟨?_, ⟨?_, ?_, ?_⟩⟩ <;> revert f hf <;> decide +kernel
  · exact ⟨⟨by decide, by decide, by decide +kernel⟩, by decide +kernel⟩

/-! ### Witnesses: cluster units, solver, optimiser, fabric -/

/-- A queue with one entry of 64 bytes. -/
def queue0 : OQueue :=
  { slot := 0, es := 64, cap := 32, psq := 0, pseq := 0, pgrid := some 1, entries := [⟨0, 0, 0, 0, 0, List.replicate 64 0, 0⟩],
    rounds := [], pushes := [] }
/-- The block given on its core, with the page and the queue. -/
def serving (x : Block) : State := (base.setBlock 2 x).setDie 0 { base.die0 with tlb := [page0], queues := [(0, queue0)] }
/-- An environment descriptor of slots of 64 bytes at 1,024 with the template at 0. -/
def envBlock : Block := block0.setCrew 0 { crew0 with s := [(1, 64)] }
/-- COMPACT with and without a result outstanding, the other units, an identifier without a queue, and P(c) empty. -/
theorem witness_ClusterInstructions :
    (∃ e, Ready base (.compact cl0) e ∧ (e.cw.outs.isEmpty && e.cw.late.isNone) = true) ∧
    (∃ e, Ready (withCrew fun w => { w with outs := [{ order := 0 }] }) (.compact cl0) e ∧ (!e.cw.outs.isEmpty) = true) ∧
    (∀ i ∈ [Instr.bpsort { cl0 with d := 2 }, .bvht { cl0 with b := 2, c := 4 }, .qpush cl0, .qpop cl0, .qpop { cl0 with opt := 1 }, .qpushRound cl0],
      ∃ e, Ready (serving block0) i e ∧ (quiet e && decide (queueReason (serving block0) e.blk 0 true false = none) &&
        decide (queueReason (serving block0) e.blk 0 false true = none) && (State.oqueue (serving block0) 0).isSome &&
        (lanesOf e.part).all fun l => decide (queueAddr e 0 l + 64 ≤ e.blk.r.lmem) && decide (queueAddr e 0 l % 64 = 0)) = true) ∧
    (∃ e, Ready base (.qpush cl0) e ∧ decide (queueReason base e.blk 0 true false = some 2) = true) ∧
    (∀ i ∈ [Instr.bpsort { cl0 with h := hOff, d := 2 }, .bvht { cl0 with h := hOff, b := 2, c := 4 }, .qpush { cl0 with h := hOff },
      .qpop { cl0 with h := hOff }, .qpushRound { cl0 with h := hOff }], ∃ e, Ready base i e ∧ decide (e.part = 0) = true) := by
  refine ⟨ready_of_meets ?_, ready_of_meets ?_, ready_of_all ?_, ready_of_meets ?_, ready_of_all ?_⟩ <;> decide +kernel
/-- The bits of an environment descriptor. -/
def envBits : List Byte :=
  natToBytes 4 0 ++ natToBytes 4 1024 ++ natToBytes 4 64 ++ natToBytes 4 8
/-- A descriptor at 64 whose slots and template lie in the share. -/
def envState : State := withBlock fun _ => { envBlock with share := writeBytes [] 64 envBits }
theorem witness_EnvrstIssues : ∃ e, Ready envState (.envrst { cl0 with b := 2, c := 1 }) e ∧ (quiet e &&
    fitsB e 16 (fun _ => (e.cw.rs 1).toNat) &&
    decide (envFail e.blk e.part (envDescOf (crewRead e.blk e.cw 64 16)) (fun l => (e.cw.rv 0 l).toNat) = none)) = true :=
  ready_of_meets (by decide +kernel)
/-- A descriptor of slots of 8 bytes, one whose slots lie outside the share, and one whose template is slot 0. -/
theorem witness_EnvrstFails : ∀ p ∈ [(natToBytes 4 0 ++ natToBytes 4 1024 ++ natToBytes 4 8 ++ natToBytes 4 8, 1),
      (natToBytes 4 0 ++ natToBytes 4 65536 ++ natToBytes 4 64 ++ natToBytes 4 8, 2),
      (natToBytes 4 1024 ++ natToBytes 4 1024 ++ natToBytes 4 64 ++ natToBytes 4 8, 3)],
    let s := withBlock fun _ => { envBlock with share := writeBytes [] 64 p.1 }
    ∃ e, Ready s (.envrst { cl0 with b := 2, c := 1 }) e ∧ (quiet e && fitsB e 16 (fun _ => (e.cw.rs 1).toNat) &&
      decide ((envFail e.blk e.part (envDescOf (crewRead e.blk e.cw 64 16)) (fun l => (e.cw.rv 0 l).toNat)).map (·.1) = some p.2)) = true :=
  fun p hp => ready_of_meets (by revert p hp; decide +kernel)
/-- An entry of lane 31 outside the share and one off its alignment. -/
theorem witness_QueueAddresses : ∀ a ∈ [65536, 1],
    let s := serving (block0.setCrew 0 { crew0 with v := [(31, BitVec.ofNat 32 a)] })
    ∀ i ∈ [Instr.qpush cl0, .qpop cl0, .qpop { cl0 with opt := 1 }], ∃ e, Ready s i e ∧ (quiet e &&
      decide (queueReason s e.blk 0 true false = none) && decide (queueReason s e.blk 0 false true = none) && (s.oqueue 0).isSome &&
      (decide (maskWhere e.part (fun l => e.blk.r.lmem < queueAddr e 0 l + 64) ≠ 0) == decide (a = 65536)) &&
      (decide (maskWhere e.part (fun l => queueAddr e 0 l % 64 ≠ 0) ≠ 0) == decide (a = 1))) = true :=
  fun a ha => ready_of_all (by revert a ha; decide +kernel)
/-- A job of the crew for an instruction, of lane 0. -/
def job0 (i : Instr) : Job := { i := i, pc := 0, act := 1, part := 1, order := 0 }
/-- The crew that waits for it. -/
def worker (i : Instr) (s : List (Nat × Word)) : Crew := { crew0 with jobs := [job0 i], outs := [{ order := 0, ready := false }], s := s }
/-- The block of that crew with the share given. -/
def workBlock (i : Instr) (s : List (Nat × Word)) (m : Sparse Byte) : Block := { block0.setCrew 0 (worker i s) with share := m }
/-- The state of `Working`, checked. -/
def worksB (s : State) (x : Block) (w : Crew) (j : Job) : Bool :=
  decide (s.block 2 = some x) && decide (look x.crews 0 = some w) && decide (w.jobs = [j]) && decide (x.phase = .running)
    && decide ((s.ctx x.slot).state = .live) && x.errs.isEmpty && s.die0.uerr.isEmpty && s.die1.uerr.isEmpty
/-- It is `Working`. -/
theorem works {s : State} {x : Block} {w : Crew} {j : Job} (h : worksB s x w j = true) : Working s 2 0 x w j := by
  simp only [worksB, Bool.and_eq_true, decide_eq_true_eq, List.isEmpty_iff] at h
  obtain ⟨⟨⟨⟨⟨⟨⟨a, b⟩, c⟩, d⟩, e⟩, f⟩, g⟩, k⟩ := h
  exact ⟨a, b, c, d, e, f, g, k⟩
/-- A unit works on a job of the crew in the state that serves page 0 and the queue. -/
theorem works_serving {i : Instr} {s : List (Nat × Word)} {m : Sparse Byte}
    (h : worksB (serving (workBlock i s m)) (workBlock i s m) (worker i s) (job0 i) = true) :
    ∃ x w j, Working (serving (workBlock i s m)) 2 0 x w j ∧ j.i = i := ⟨_, _, _, works h, rfl⟩
/-- A sort record of one box at 1,024, pairs at 2,048 and room for two. -/
def sortShare : Sparse Byte := writeBytes [] 0 (natToBytes 8 1024 ++ natToBytes 4 1 ++ natToBytes 4 0 ++ natToBytes 8 2048 ++ natToBytes 4 2)
/-- Each unit at work; a sort record that passes and one that does not; entries that may be taken and placed; a block whose one crew
waits at COMPACT. -/
theorem witness_ClusterUnitEvents :
    (∀ i ∈ [Instr.bpsort { cl0 with d := 2 }, .bvht { cl0 with b := 2, c := 4 }, .qpush cl0, .qpop cl0],
      (∃ x w j, Working (serving (workBlock i [] [])) 2 0 x w j ∧ j.i = i) ∧
        jobFirst (serving (workBlock i [] [])) 2 0 (workBlock i [] []) (job0 i) (· = i) = true) ∧
    (serving block0).readsOut 2 0 = false ∧ bitOf (sortRecOf (readLE sortShare 0 64)).flags 0 = false ∧
    queue0.entries.all (fun o => o.err = 0) = true ∧ sortReason block0 0 (sortRecOf (readLE [] 0 64)) = some 1 ∧ sortReason block0 0 (sortRecOf (readLE sortShare 0 64)) = none ∧
    okB (sortRun (serving { block0 with share := sortShare }) 2 0 { block0 with share := sortShare }
      (sortRecOf (readLE sortShare 0 64)) 0) = true ∧
    queue0.entries.length + (lanesOf 1).length ≤ queue0.cap ∧
    (∀ cap ∈ [2, 1], let j := { job0 (.qpush cl0) with bytes := some [List.replicate 64 1] }
     let w := { worker (.qpush cl0) [] with jobs := [j] }
     let s := (serving (block0.setCrew 0 w)).setQueue 0 { queue0 with cap := cap }
     worksB s (block0.setCrew 0 w) w j = true ∧ s.oqueue 0 = some { queue0 with cap := cap } ∧
       (queue0.entries.length + (lanesOf j.part).length ≤ cap) = (cap = 2)) ∧ (lanesOf 1).length ≤ (poppable (serving block0) queue0 false).length ∧
    (let x := block0.setCrew 0 { crew0 with wait := .waiting (.compact cl0) 0 0xFFFFFFFF 0xFFFFFFFF }
     Compacting (withBlock fun _ => x) 2 x cl0 (fun _ => 0) (fun _ => 0xFFFFFFFF) ∧ compactReason (liveCrews x) = none) := by
  refine ⟨fun i hi => ⟨works_serving ?_, ?_⟩, ?_, ?_, ?_, ?_, ?_, ?_, ?_, ?_, ?_, ⟨?_, ?_, ?_, ?_, ?_, ?_, ?_, ?_, ?_, ?_⟩, ?_⟩ <;>
    (try revert i hi) <;> decide +kernel
/-- Records of a solve that lie apart; one without room in the queue of the unit; a card that passes and one that does not. -/
def optCard : Sparse Byte := writeBytes [] 0 (natToBytes 8 0 ++ natToBytes 4 1 ++ natToBytes 4 64 ++ natToBytes 48 0 ++ natToBytes 2 0xE000)
theorem witness_SolverInstructions :
    (∀ i ∈ [Instr.sfact { so0 with a := 1, b := 2, c := 3, d := 4 }, .ssolve { so0 with a := 1, b := 2, c := 3, d := 4 },
      .sadj { so0 with a := 1, b := 2, c := 3, d := 4 }, .sstat { so0 with a := 1, d := 4 }, .slsq { so0 with a := 1 },
      .optwait ⟨h0, 1, 4⟩, .optsub ⟨h0, 0, 0⟩],
      ∃ e, Ready (withS [(1, 1024), (2, 2048), (3, 4096)]) i e ∧ (quiet e &&
        decide (solReason e.blk.r.lmem (solRanges e.cw { so0 with a := 1, b := 2, c := 3 } true) 1 = none) &&
        decide (solReason e.blk.r.lmem [((e.cw.rs 1).toNat, 128, 64)] 0 = none) &&
        decide ((openJobs base e.b).length < 16)) = true) ∧
    (∃ e, Ready (withCrew fun w => { w with queue := [.store 0 [1]] }) (.optsub ⟨h0, 0, 0⟩) e ∧
      (decide (e.part ≠ 0) && !e.cw.queue.isEmpty) = true) ∧
    solReason 65536 (solRanges crew0 so0 true) 1 = some 3 ∧
    ((optCheck { block0 with share := optCard } 2 0 0).isLeft = true) ∧ optCheck block0 2 0 0 = .inr (0x88, 3) := by
  refine ⟨ready_of_all ?_, ready_of_meets ?_, ?_, ?_, ?_⟩ <;> decide +kernel
/-- A run of SLSQ that has not stopped. -/
def run0 : SlsqRun := { p := [], lam := 0, cost := 0, used := 0, it := 0, gh := none, stop := none }
/-- An SLSQ job of the crew. -/
def slsq0 (r : Option SlsqRun) : Slsq := { blk := 2, crew := 0, record := 1024, known := 1, arrived := 0, since := 0, run := r }
/-- An optimiser job of one block of elements. -/
def opt0 (next : Nat) : OptJob :=
  { blk := 2, crew := 0, known := 1, die := 0, cluster := 0, arrived := 0, out := [], off := 0, base := 0, count := 1, osh := 0, flds := List.replicate 8 0, hyper := List.replicate 8 0,
    words := [0xE000], next := next, sides := [], status := 0, done := false }
/-- Jobs of the solver and an OPTWAIT at work; a run of SLSQ under way and one that has stopped; an OPTSUB whose card passes; a job with
its block of elements before it and one with none left. -/
theorem witness_SolverEvents :
    (∀ i ∈ [Instr.sfact { so0 with a := 1, b := 2, d := 4 }, .ssolve { so0 with a := 1, b := 2, c := 3, d := 4 },
      .sadj { so0 with a := 1, b := 2, c := 3, d := 4 }, .sstat { so0 with a := 1, d := 4 }, .optwait ⟨h0, 1, 4⟩],
      let x := workBlock i [(1, 1024), (2, 2048), (3, 4096)] []
      (∃ x w j, Working (serving (workBlock i [(1, 1024), (2, 2048), (3, 4096)] [])) 2 0 x w j ∧ j.i = i) ∧
        solverFirst (serving x) x (x.r.prio, 0, 2, 0) = true) ∧
    lsqReason [] 65536 1024 (lsqRecOf 0) = some 2 ∧
    (∀ r ∈ [none, some run0, some { run0 with stop := some 1 }], let s := { base with slsqs := [(7, slsq0 r)] }
      look s.slsqs 7 = some (slsq0 r) ∧ solverFirst s block0 (block0.r.prio, 0, 2, 7) = true ∧ s.block 2 = some block0 ∧ block0.phase = .running ∧ block0.errs = [] ∧
      s.die0.uerr = [] ∧ s.die1.uerr = []) ∧
    (let w := waiter (.optsub ⟨h0, 1, 0⟩) []
     let x := { block0.setCrew 0 w with share := optCard }
     look x.crews 0 = some w ∧ w.queue = [] ∧ x.errs = [] ∧ (openJobs (base.setBlock 2 x) 2).length < 16 ∧
       (optCheck x 2 0 (w.rs 1).toNat).isLeft = true) ∧
    (opt0 0).next < (opt0 0).blocks ∧ (opt0 1).blocks ≤ (opt0 1).next ∧
    (let s := { mapped block0 with opts := [(7, opt0 0)] }
     engineTakes s 7 (opt0 0) block0 = true ∧ okB (optRun block0 7 s (opt0 0)) = true ∧ (opt0 1).finished = true) ∧
    (∀ d ∈ [false, true], let s := { base with opts := [(7, { opt0 1 with done := d })] }
     (s.opts.filter fun p => p.2.blk = 2 && p.2.off = 0 && p.2.known.getLsbD 0 && decide (p.2.arrived < 1)).getLast? =
       some (7, { opt0 1 with done := d })) := by
  refine ⟨fun i hi => ⟨works_serving ?_, ?_⟩, ?_, ?_, ?_, ?_, ?_, ?_, ?_⟩ <;> (try revert i hi) <;> decide +kernel

/-! ### Witnesses: the fabric and the join table -/

/-- A domain of one member with its list at 0, and a descriptor of one FP32 word of page 0. -/
def collShare : Sparse Byte := writeBytes (writeBytes [] 64
  (natToBytes 4 5 ++ natToBytes 4 1 ++ natToBytes 8 0 ++ natToBytes 8 0)) 128 (natToBytes 8 256 ++ natToBytes 8 512 ++ natToBytes 8 0 ++ natToBytes 4 1)
/-- The block with them and the registers that name them; s5 names endpoint 0. -/
def fabState : State := withBlock fun _ =>
  { block0.setCrew 0 { crew0 with s := [(1, 64), (2, 128), (3, 16)] } with share := collShare }
/-- A collective that passes its checks, sends inside the share, a segment at 0, a configuration of zeros; a task block; a record that
does not lie in the share. -/
theorem witness_FabricInstructions :
    (∀ i ∈ [Instr.coll { fb0 with a := 1, b := 2, d := 8 }, .csend { fb0 with b := 3, d := 8 }, .crecv { fb0 with b := 3, d := 8 },
      .csendRwd { fb0 with b := 3, d := 8 }, .rjopen { fb0 with a := 6, d := 8 }, .rjtick fb0, .rjpop { fb0 with d := 8 },
      .rjstat { fb0 with d := 8 }, .rjstatCfg { fb0 with a := 5 }],
      ∃ e, Ready fabState i e ∧ (quiet e && (fabState.liveToken e.b e.c (nextToken e)).isNone &&
        !shareBad e.blk 64 64 64 && !shareBad e.blk 128 32 32 &&
        decide (collReason (collOf e fb0 (readBytes e.blk.share 64 64) (readBytes e.blk.share 128 32)) (readBytes e.blk.share 64 64)
          (readBytes e.blk.share 128 32) = none) && decide (sendReason e.blk 0 16 1 16 1048576 0 3 = none) &&
        decide (sendReason e.blk 0 16 16 1 4096 0 19 = none) && decide (configReason (readBytes e.blk.share 0 32) = none)) = true) ∧
    (∃ e, Ready (withBlock fun x => { x with r := { x.r with res := false } }) (.rjtick fb0) e ∧
      (!e.blk.r.res && e.part ≠ 0) = true) ∧
    sendReason block0 0 1048592 1 16 1048576 0 3 = some 2 ∧ sendReason block0 0 15 1 16 1048576 0 3 = some 3 ∧
    shareBad block0 65536 32 32 = true := by
  refine ⟨ready_of_all ?_, ready_of_meets ?_, ?_, ?_, ?_⟩ <;> decide +kernel
/-- Page 0 with the lines of a segment record at 0 in the L2 of their home. -/
def segState : State := (mapped block0).setDie 0 { (mapped block0).die0 with
  l2 := [0, 1, 2, 34, 66, 98, 130].map fun k => { line1 with va := k, pa := 128 * k, locked := false } }
/-- An event of the crew on its way to the table of die 0. -/
def tableState (op : TableOp) : State := segState.setDie 0 { segState.die0 with tevents := [⟨0, 2, 0, op⟩] }
/-- A segment of one step that misses its reward and whose time has come. -/
def seg0 : Segment := { slot := 0, va := 0, key := 1, ver := 0, len := 1, miss := 1, tmo := 1, opened := 0 }
/-- Each event at the head of the table; a record of rewards; a head whose time-out has come; a learner queue with a segment and one
without. -/
theorem witness_JoinTableEvents :
    (∀ op ∈ [TableOp.open_ 0 0 8, .tick 1, .config 1 0 0, .stat 0 8], tableTurn (tableState op) 2 0 = some (0, 0, ⟨0, 2, 0, op⟩)) ∧
    okB (openSegment (tableState (.open_ 0 0 8)) 0 0 0 (2, 0)) = true ∧
    okB (release ((tableState (.tick 1)).setJoin 0 0 { cb := 1, ticks := 1 }) 0 0) = true ∧
    rewardTurns (tableState (.rewards 0 none [0])) 0 = [⟨0, 2, 0, .rewards 0 none [0]⟩] ∧
    okB (rewardStep (tableState (.rewards 0 none [0])) 0 ⟨0, 2, 0, .rewards 0 none [0]⟩) = true ∧
    (let s := (segState.setDie 0 { segState.die0 with segs := [seg0] }).setJoin 0 0 { cb := 1, ticks := 1 }
     headSeg s 0 0 = some seg0 ∧ seg0.miss ≠ 0 ∧ releasable s 0 0 seg0 = true ∧ (s.ctx 0).state = .live ∧ okB (release s 0 0) = true) ∧
    (∃ x w j, Working (serving (workBlock (.rjpop { fb0 with d := 8 }) [] [])) 2 0 x w j ∧ j.i = .rjpop { fb0 with d := 8 }) ∧
    okB (release (serving block0) 0 0) = true ∧ releasing (serving block0) 0 0 = false ∧ (base.join 0 0).learner = [] ∧ nextTableEvent base 0 0 = none := by
  refine ⟨fun op h => ?_, ?_, ?_, ?_, ?_, ?_, works_serving ?_, ?_, ?_, ?_, ?_⟩ <;> (try revert op h) <;> decide +kernel
/-- A segment record of one step of version 1. -/
def segHead : List Byte := natToBytes 8 1 ++ natToBytes 4 1 ++ natToBytes 4 1 ++ List.replicate 304 0
/-- The record read, sound and not; a version that is closed and one that is not; a reward that is an orphan, stale, or fits; a head
that may be released, with its arrays read. -/
theorem witness_JoinTableLaws :
    okB (segState.greadAll { joinAcc 0 0 false with use := .forbid } [(0, 0x140), (0x413F, 1)]) = true ∧
    segBad (List.replicate 320 0) 0 0 = true ∧ segBad segHead 0 0 = false ∧ (sliceNat segHead 0xC 4 = 1) ∧ (base.join 0 0).cb ≤ 1 ∧
    ¬({ base.join 0 0 with cb := 1 }.cb ≤ 0) ∧ bitsOf (2 ^ 74) 74 6 ≠ 0 ∧ (base.join 0 0).oring = 0 ∧ bitsOf 0 74 6 = 0 ∧
    bitsOf 0 80 16 + (base.join 0 0).lag < { base.join 0 0 with cb := 65536 }.cb ∧ (base.join 0 0).cb ≤ bitsOf 0 80 16 + (base.join 0 0).lag ∧
    (segsOf base 0 0).find? (fun g => g.key = 0) = none ∧
    (let s := segState.setDie 0 { segState.die0 with segs := [{ seg0 with ver := 0 }] }
     (segsOf s 0 0).find? (fun g => g.key = 1) = some { seg0 with ver := 0 } ∧ 0 < seg0.len ∧ bitOf seg0.miss 0 = true ∧
       okB (s.gwrite (joinAcc 0 0 true) (seg0.va + 0x1140) (natToBytes 4 7)) = true) ∧
    (let s := (segState.setDie 0 { segState.die0 with segs := [seg0] }).setJoin 0 0 { cb := 1, ticks := 1 }
     headSeg s 0 0 = some seg0 ∧ releasable s 0 0 seg0 = true ∧ releasable s 0 0 { seg0 with tmo := 0 } = false ∧
       okB (s.greadAll (joinAcc 0 0 false) [(0, 0x140), (0x140, 4), (0x1140, 4)]) = true) ∧
    (let s := (base.setDie 0 { base.die0 with tlb := [{ page0 with pa := 2 ^ 41 }] }).setJoin 0 0 { oring := 64 }
     (s.join 0 0).oring ≠ 0 ∧ (match s.gread (joinAcc 0 0 false) 64 8 with
       | .wait _ => true
       | _ => false) = true) ∧
    (let s := base.setOwed 0 0 [(2, 0)]
     s.block 2 = some block0 ∧ block0.slot = 0 ∧ (2, 0) ∈ (s.join 0 0).owed) := by
  refine ⟨?_, ?_, ?_, ?_, ?_, ?_, ?_, ?_, ?_, ?_, ?_, ?_, ?_, ?_, ?_, ?_⟩ <;> decide +kernel
theorem witness_FabricArithmetic : 2 ≤ 8192 ∧ 2 ^ 57 - 1 < 2 ^ 57 ∧ shardOwner (2 ^ 57 - 1) 6 = 511 % 6 ∧ (2 : Nat) < 3 := by
  decide +kernel
/-- A collective of one member that has joined and formed its contribution. -/
def coll0 : Coll :=
  { blk := 2, crew := 0, slot := 0, die := 0, token := 0, dkey := 5, num := 0, rank := 0, nmem := 1, mva := 0,
    k := ⟨0, 0, false, false, 1⟩, src := 256, dst := 512, resv := 0 }
/-- A receive of 16 bytes at 0 and the send that meets it. -/
def send0 (recv : Bool) : Send :=
  { blk := 2, crew := 0, slot := 0, die := 0, token := 0, ep := 0, tag := 3, off := 0, len := 16, recv := recv, reward := false }
/-- A flit between two endpoints. -/
def flit0 (good : Bool) (m : FabMsg) : Flit := { src := 7, dst := 0, asid := 0, seq := 4, good := good, msg := m }
/-- A collective that takes a step, one that waits for a digest, differs from one, or forms its contribution, and one that has written; a send that meets a receive; a flit that is sent again and a port that goes
down; a destination that turned a message away; flits that arrive. -/
theorem witness_FabricEvents :
    (let s := { mapped block0 with colls := [(7, coll0)] }
     look s.colls 7 = some coll0 ∧ (s.ctx 0).state = .live ∧ ((collStep s 7 coll0).map okB) = some true) ∧
    (let c := { coll0 with joined := true, mlist := [0] }
     let s := (mapped block0).setDie 0 { base.die0 with tlb := [{ page0 with cc := 1 }] }
     let known (l : List Nat) : State := { s with fab := { s.fab with digests := [⟨0, 0, 5, 0, l⟩] } }
     digestsDiffer (known [0, 2]) c = true ∧ digestsDiffer s c = false ∧ digestsIn s c = false ∧ digestsDiffer (known [0]) c = false ∧
       digestsIn (known [0]) c = true ∧ c.k.kind ≠ 1 ∧ c.k.res = false ∧
       okB ((known [0]).greadAll (c.acc 7 false) [(c.src, 4)]) = true) ∧
    (let c := { coll0 with joined := true, formed := true, chunks := 2 }
     c.chunksOf c.outs ≤ c.outChunk) ∧
    (let s := { base with sends := [(7, send0 true), (8, send0 false)] }
     s.sendRuns (send0 true) = true ∧ s.sendRuns (send0 false) = true ∧ firstRecv s 0 0 0 3 = some 7 ∧
       s.dieOfEp 0 = some 0 ∧ (0 = s.endpoint 0) ∧ firstSend s 0 0 0 3 = some 8) ∧
    (∀ n ∈ [62, 63], let s := { base with fab := { base.fab with leaving := [(9, ⟨0, some 0, n, flit0 true (.ack 0)⟩)] } }
     (look s.fab.leaving 9 = some ⟨0, some 0, n, flit0 true (.ack 0)⟩) ∧ s.portUp 0 = true) ∧
    (let s := { base with fab := { base.fab with rejected := [(9, (0, 0, 7))] } }
     look s.fab.rejected 9 = some (0, 0, 7)) ∧
    base.portUp 15 = true ∧ base.power ≠ .d3cold ∧ base.liveSlot 0 = some 0 ∧ base.liveSlot 1 = none ∧
    (flit0 false (.ack 0)).good = false ∧ (flit0 true (.data 0 3 [])).good = true ∧
    (∀ m ∈ [FabMsg.data 0 3 [], .contrib 0 0 0 [] ⟨0, 0, false, false, 1⟩ [], .reward 0 []], isWork m = true ∧
      (flit0 true m).msg = m) ∧ ¬seenBefore base (flit0 true (.data 0 3 [])) ∧
    seenBefore { base with fab := { base.fab with acked := [(1, 7, 4)] } } (flit0 true (.data 0 3 [])) := by
  refine ⟨?_, ?_, ?_, ?_, ?_, ?_, ?_, ?_, ?_, ?_, ?_, ?_, ?_, fun ⟨a, h, _⟩ => ?_, ⟨(1, 7, 4), by simp, rfl, rfl⟩⟩
  iterate 13 decide +kernel
  exact (List.not_mem_nil (show a ∈ [] from h)).elim

/-! ### Witnesses: crews, blocks, launches, commands -/

/-- The state of `Alive`, checked. -/
def aliveB (s : State) (x : Block) (w : Crew) : Bool :=
  decide (s.block 2 = some x) && decide (look x.crews 0 = some w) && decide (x.phase = .running)
    && decide ((s.ctx x.slot).state = .live)
/-- It is `Alive`. -/
theorem alive {s : State} {x : Block} {w : Crew} (h : aliveB s x w = true) : Alive s 2 0 x w := by
  simp only [aliveB, Bool.and_eq_true, decide_eq_true_eq] at h
  exact ⟨h.1.1.1, h.1.1.2, h.1.2, h.2⟩
/-- A result that is ready, the four parks and waits of a crew, and a crew that has drained. -/
def crews0 : List Crew :=
  [{ crew0 with outs := [{ order := 5, writes := [.v 1 31 9] }] }, { crew0 with wait := .parked (.marker 8) },
   { crew0 with wait := .parked (.trap { code := 0x0E }) },
   { crew0 with vg := 1, wait := .waiting (.regsGrow ⟨false, 0, 2⟩) 0 1 1 }, { crew0 with wait := .draining, live := 0 }]
theorem witness_CrewEvents : (∀ w ∈ crews0, Alive (withCrew fun _ => w) 2 0 (block0.setCrew 0 w) w) ∧
    (∃ w ∈ crews0, ∃ p, w.outs.find? (fun p => p.order = 5) = some p ∧ p.ready = true) ∧
    (∃ w ∈ crews0, w.wait = .parked (.marker 8) ∧ w.outs = [] ∧ w.late = none ∧ w.hflags &&& w.enables = 0) ∧
    (∃ w ∈ crews0, w.wait = .parked (.trap { code := 0x0E }) ∧ w.outs = []) ∧
    (let w : Crew := { crew0 with vg := 1, wait := .waiting (.regsGrow ⟨false, 0, 2⟩) 0 1 1 }
     let bs := (withCrew fun _ => w).onCore 0 0 0
     ((growers bs w.quad).any fun t => growBefore t (0, 2, 0)) = false ∧ 2 - w.granules 0 ≤ (poolOf bs w.quad).v) ∧
    (let w : Crew := { crew0 with vg := 1, wait := .waiting (.regsGrow ⟨false, 0, 2⟩) 0 1 1 }
     let bs := (withBlock fun x => (x.setCrew 0 w).setCrew 1 { w with vg := 127 }).onCore 0 0 0
     ((growers bs w.quad).any fun t => growBefore t (0, 2, 0)) = false ∧ (poolOf bs w.quad).v < 2 - w.granules 0 ∧
       (boundTo bs w.quad).all (fun v => v.growing.isSome) = true) ∧
    (let w : Crew := { crew0 with wait := .draining, live := 0 }
     (withCrew fun _ => w).acked (block0.setCrew 0 w) 2 0 w = true ∧ w.hfaults = [] ∧ (block0.setCrew 0 w).mx.lcause = 0) := by
  refine ⟨fun w h => alive ?_, ?_, ?_, ?_, ?_, ?_, ?_⟩ <;> (try revert w h) <;> decide +kernel
/-- Crews parked at a marker, at an EXIT and at a COMPACT, with a late cause, with an enabled flag, and with neither. -/
def parked0 : List Crew :=
  let l : Late := ⟨3, { code := 0xA5 }⟩
  [{ crew0 with wait := .parked (.marker 8), late := some l }, { crew0 with wait := .parked (.marker 8), fpc := 0x1F00, hflags := 1 },
   { crew0 with wait := .parked (.marker 8), hflags := 1 }, { crew0 with wait := .parked (.exit 8), late := some l },
   { crew0 with wait := .parked (.exit 8), fpc := 0x1F00, hflags := 1 },
   { crew0 with wait := .parked (.compact (.compact cl0) 0 0xFFFFFFFF) }]
theorem witness_UnparkTraps : (∀ w ∈ parked0, Alive (withCrew fun _ => w) 2 0 (block0.setCrew 0 w) w ∧ w.outs = [] ∧ w.live ≠ 0) ∧
    (∃ w ∈ parked0, w.late.isSome = true ∧ w.wait = .parked (.marker 8)) ∧
    (∃ w ∈ parked0, w.late = none ∧ w.wait = .parked (.marker 8) ∧ w.hflags &&& w.enables ≠ 0) ∧
    (∃ w ∈ parked0, w.late = none ∧ w.wait = .parked (.marker 8) ∧ w.hflags &&& w.enables = 0) ∧
    (∃ w ∈ parked0, w.late.isSome = true ∧ w.wait = .parked (.exit 8)) ∧
    (∃ w ∈ parked0, w.late = none ∧ w.wait = .parked (.exit 8)) ∧
    (∃ w ∈ parked0, w.late = none ∧ w.wait = .parked (.compact (.compact cl0) 0 0xFFFFFFFF)) := by
  refine ⟨fun w h => ⟨alive ?_, ?_⟩, ?_, ?_, ?_, ?_, ?_, ?_⟩ <;> (try revert w h) <;> decide +kernel
/-- A block of one crew without a share, saved with that crew. -/
def savedBlock : Block := { block0 with
  phase := .saved, crews := [], teams := [], stays := [(0, ⟨.ready, true, [], 0, none⟩)],
  r := { placedLaunch with lmem := 0, spill := 4, vg := 1, mg := 0, teams := [], ncrew := 1 } }
/-- The sections of its save area, a reserved byte of the record of crew 0 as given. -/
def savedParts (rsv : Nat) : List (List Byte) :=
  [natToBytes 4 (1 + 2 ^ 24 * rsv) ++ natToBytes 4 0xFFFFFFFF ++ List.replicate 2040 0, List.replicate 128 0,
    (List.range 32).flatMap fun l => natToBytes 2 l, [], List.replicate 128 0]
/-- Its header. -/
def savedHeader : List Byte := natToBytes 4 0x00010001 ++ natToBytes 4 0 ++ natToBytes 4 4 ++ List.replicate 244 0
/-- The block with an empty save area in the L2 of its die. -/
def savedState (x : Block) : State := (mapped x).setDie 0 { (mapped x).die0 with
  l2 := (List.range 22).map fun k => { line1 with va := k, pa := 128 * k } }
/-- The block that a restore gives holds the crew that a check sees. -/
theorem restored_ok {x : Block} {c : Nat × Nat × Nat} {qs : List Nat} {hdr : List Byte} {parts : List (List Byte)}
    (h : (match restoredBlock x c qs hdr parts with
      | .ok y => (look y.crews 0).map (·.live)
      | .error _ => none) = some 0xFFFFFFFF) :
    ∃ y w, restoredBlock x c qs hdr parts = .ok y ∧ look y.crews 0 = some w ∧ w.live = 0xFFFFFFFF := by
  split at h
  · rename_i y hy
    obtain ⟨w, hw, hl⟩ := Option.map_eq_some_iff.mp h
    exact ⟨y, w, hy, hw, hl⟩
  · cases h
/-- The restore fails for the crew that a check sees. -/
theorem restored_error {x : Block} {c : Nat × Nat × Nat} {qs : List Nat} {hdr : List Byte} {parts : List (List Byte)}
    (h : (match restoredBlock x c qs hdr parts with
      | .ok _ => none
      | .error k => some k) = some 0) : ∃ k, restoredBlock x c qs hdr parts = .error k ∧ k = 0 := by
  split at h
  · cases h
  · rename_i k hk
    exact ⟨k, hk, by simpa using h⟩
/-- A placed block with nothing to stage, one with nothing to drain, one that gives way, and one to be saved in time, late, or with
a store under way. -/
theorem witness_BlockEvents :
    (let x := { block0 with phase := .staging 0 }
     (withBlock fun _ => x).block 2 = some x ∧ x.stageAt = some 0 ∧ x.hold = none ∧ x.asked = false ∧ x.errs = [] ∧
       bothOk (stageFrom 2 ((numbered x.r.regions).drop 0) ((withBlock fun _ => x).setBlock 2 x)) (fun s _ => (s.block 2).isSome)
         (fun s _ => .ok s ()) = true) ∧
    (∀ chained ∈ [false, true], let x := { block0 with phase := .draining 0 chained }
     let s : State := (withBlock fun _ => x).setGrid 1 { placedGrid with frontier := 0 }
     s.block 2 = some x ∧ x.hold = none ∧ x.grid = 1 ∧ s.grid 1 = some { placedGrid with frontier := 0 } ∧ x.index = 0 ∧
       okB (drainAll 2 0 chained x s) = true) ∧
    (let x := { chainedBlock with phase := .draining 0 true, index := 1 }
     ∃ r ∈ x.r.regions, r.out = true ∧ x.r.chained r = true ∧ x.index ≠ placedGrid.frontier) ∧
    (let x := { block0 with asked := true }
     (withBlock fun _ => x).block 2 = some x ∧ ((withBlock fun _ => x).grid x.grid).isSome = true) ∧
    (let x := { savedBlock with phase := .saving 0, stays := [] }
     let s := (savedState x).setBlock 2 x
     s.block 2 = some x ∧ unquiet x = false ∧ mayPark x = true ∧ x.errs = [] ∧ s.copies = [] ∧ s.clock = 0 ∧
       okB (s.gwriteAll (saveAcc x 2 true) ((saveSections x).map fun p => (p.1, p.2))) = true) ∧
    unquiet { block0.setCrew 0 { crew0 with queue := [.store 0 [1]] } with phase := .saving 0 } = true ∧
    180000 < 180001 - 0 := by
  refine ⟨?_, ?_, ⟨_, List.mem_singleton.mpr rfl, ?_⟩, ?_, ?_, ?_, ?_⟩ <;> decide +kernel
/-- A grid whose first block is done, whose second drains without a chained region, and whose third has one. -/
theorem witness_FrontierAdvances :
    let g := { placedGrid with r := { placedLaunch with nblk := 3, det := true }, fin := [(0, true)] }
    let s := ((base.setGrid 1 g).setBlock 4 { block0 with index := 1, phase := .draining 0 true }).setBlock 6
      { block0 with index := 2, phase := .running }
    s.grid 1 = some g ∧ (s.commit 1).grid 1 = some { g with frontier := 2 } ∧ frontierPasses s 1 g 1 = true ∧ frontierPasses s 1 g 2 = false := by
  decide +kernel
/-- A saved block that a dispatcher comes to, with a sound header and with one that is not; a crew whose record is sound and one
whose record is not. -/
theorem witness_BlockRestored :
    (let x := { savedBlock with r := { savedBlock.r with ncrew := 0 }, stays := [] }
     let g := { placedGrid with r := x.r, waiting := [0] }
     let s (bad : Bool) : State := { savedState x with grids := [(1, g)], die0 := { (savedState x).die0 with
       l2 := (savedState x).die0.l2.map fun l => if l.va = 0 then { l with bytes := [(0, if bad then 9 else 1), (8, 4)] } else l } }
     ∀ bad ∈ [false, true], contenders (s bad) 0 = [(1, g)] ∧ (s bad).grid 1 = some g ∧ takesPart (s bad) 1 g = true ∧
       nextIndex (s bad) 1 g = some 0 ∧ (s bad).blocks.find? (fun q => q.2.grid = 1 && q.2.index = 0 && q.2.phase = .saved) = some (2, x) ∧
       bothOk (savedGranules (s bad) 2 x g) (fun s1 gr => findCore s1 1 0 g.r gr (coresOf 1) = some ((0, 0, 0), []))
         (fun s1 _ => s1.gread (saveAcc x 2 false) 0 256) = true ∧
       bothOk ((s bad).gread (saveAcc x 2 false) 0 256) (fun _ r => headerBad x r.1 = bad && sliceNat r.1 0xC 4 = 0)
         (fun s1 _ => s1.greadAll (saveAcc x 2 false) (restoreSpans x 0)) = true ∧
       okB (restoreBlock (s bad) 2 x g (0, 0, 0) []) = !bad) ∧ savedBlock.r.isMatrix = false ∧
    (∃ y w, restoredBlock savedBlock (0, 0, 0) [0] savedHeader (savedParts 0) = .ok y ∧ look y.crews 0 = some w ∧ w.live = 0xFFFFFFFF) ∧
    (∃ k, restoredBlock savedBlock (0, 0, 0) [0] savedHeader (savedParts 1) = .error k ∧ k = 0) := by
  refine ⟨by decide +kernel, by decide +kernel, ?_, ?_⟩
  · refine restored_ok ?_
    decide +kernel
  · refine restored_error ?_
    decide +kernel
/-- The bits of a command. -/
def cmdBits (x : Cmd) : Nat := x.op + 2 ^ 8 * x.rsv + 2 ^ 32 * x.seq + 2 ^ 64 * x.a0 + 2 ^ 128 * x.a1 + 2 ^ 192 * x.a2 + 2 ^ 256 * x.a3
/-- The state with a command at the head of the control queue. -/
def commandAt (s : State) (x : Cmd) : State :=
  { s with dmem := writeBytes [] 0 (natToBytes 64 (cmdBits x)), host := { s.host with cqTail := 1 } }
/-- A command of an operation. -/
def cmd (op a0 a1 a2 a3 : Nat) : Cmd := ⟨op, 9, 0, a0, a1, a2, a3⟩
/-- `Command` of a state, checked. -/
def isCommand (s : State) (o : CqOp) (x : Cmd) : Bool :=
  decide ((commandAt s x).cqCmd = some x) && decide (cqOp x = some o) && decide (x.rsv = 0) && (commandAt s x).awake
/-- It is the `Command` at the head. -/
theorem command {s : State} {o : CqOp} {x : Cmd} (h : isCommand s o x = true) : Command (commandAt s x) o x := by
  simp only [isCommand, Bool.and_eq_true, decide_eq_true_eq] at h
  exact ⟨h.1.1.1, h.1.1.2, h.1.2, h.2⟩
/-- A state whose block is held with a translation fault of its staging, and whose slot 1 has ended. -/
def heldState : State :=
  ((withBlock fun x => { x with hold := some ⟨{ code := 0xA2 }, none, 0, 0⟩ }).setDie 0 { base.die0 with queues := [(1, queue0)] }).setCtx 1
    { state := .ended }
/-- An operand 0 of 2^63 or more breaks the limits of every command. -/
theorem breaks_of_large (s : State) (o : CqOp) (x : Cmd) (h : 2 ^ 63 ≤ x.a0) : breaks s o x := by
  cases o <;> simp only [breaks] <;> omega
/-- The command that is refused stands at the head of the queue, and breaks the limits. -/
theorem refused {s : State} {o : CqOp} {x : Cmd}
    (h : isCommand s o { x with a0 := 2 ^ 63 + x.a0 } = true) : ∃ t y, t.cqCmd = some y ∧ cqOp y = some o ∧ t.awake = true ∧ breaks t o y :=
  ⟨_, _, (command h).head, (command h).op, (command h).awake, breaks_of_large _ _ _ (Nat.le_add_right _ _)⟩
/-- Each command with operands inside the limits of its table, at their bounds where it has some. -/
def contextCommands : List (CqOp × Cmd) := [(CqOp.ctxCreate, cmd 0x10 (2 + 65536 * 63) 64 4096 (255 + 65536 + 2 ^ 32 * 255)), (.ctxEnd, cmd 0x11 0 0 0 0),
      (.ctxReclaim, cmd 0x12 1 0 0 0), (.sqCreate, cmd 0x13 511 4096 16 8), (.sqCreate, cmd 0x13 0 4096 16 8),
      (.oqBind, cmd 0x14 65536 32 0 0), (.oqBind, cmd 0x14 (64 * 2 + 65536 * 64) 2048 0 0), (.oqUnbind, cmd 0x14 (64 + 8192) 0 0 0),
      (.resolveResume, cmd 0x15 0 0 0 0), (.resolveRetry, cmd 0x15 0 0 (2 ^ 40) 0), (.resolveKill, cmd 0x15 0 0 (2 ^ 41) 0),
      (.setAge, cmd 0x16 4294967295 0 0 0), (.ptRoot, cmd 0x18 0 4096 0 0), (.l2Quota, cmd 0x1B 0 786432 0 0)]
/-- Each is at the head of the queue inside its limits and outside them; a block is held, and a number names no operation. -/
theorem witness_ContextCommands : (∀ p ∈ contextCommands, Command (commandAt heldState p.2) p.1 p.2) ∧
    (∀ p ∈ contextCommands, ∃ t y, t.cqCmd = some y ∧ cqOp y = some p.1 ∧ t.awake = true ∧ breaks t p.1 y) ∧
    (let s := { commandAt heldState (cmd 0xFF 0 0 0 0) with turns := [.refuse] }
     s.cqCmd = some (cmd 0xFF 0 0 0 0) ∧ cqOp (cmd 0xFF 0 0 0 0) = none ∧ s.awake = true) ∧
    (heldState.ctx 63).state = .free ∧ asidTaken heldState 2 = false ∧ (heldState.ctx 1).state = .ended ∧ (heldState.ctx 0).state = .live ∧
    look (heldState.ctx 0).sqs 0 = none ∧ ringSize 16 = true ∧ look heldState.die0.queues 0 = none ∧
    (heldBlock heldState (cmd 0x15 0 0 0 0)).isSome = true ∧ resolveBad heldState (cmd 0x15 0 0 0 0) = false ∧
    (commandAt heldState { cmd 0x16 0 0 0 0 with rsv := 1 }).cqCmd = some { cmd 0x16 0 0 0 0 with rsv := 1 } ∧
    cqOp { cmd 0x16 0 0 0 0 with rsv := 1 } = some .setAge ∧ base.awake = true := by
  refine ⟨fun p hp => command ?_, fun p hp => refused (s := heldState) (x := p.2) ?_, ?_, ?_⟩
  · revert p hp; decide +kernel
  · revert p hp; decide +kernel
  · decide +kernel
  · decide +kernel
/-- Each command for translation and the tiers with operands inside the limits of its table. -/
def memoryCommands : List (CqOp × Cmd) := [(CqOp.inval, cmd 0x19 0 0 1 0), (.invalFlush, cmd 0x19 0 0 (1 + 2 ^ 32) 0), (.asidFlush, cmd 0x1A 65535 0 0 0),
      (.tierCtl, cmd 0x1C 7 65535 4096 0), (.tierPin, cmd 0x1D 65536 0 0 0), (.tierPin, cmd 0x1D 0 0 0 0), (.tierUnpin, cmd 0x1D 65536 1 0 0),
      (.sweep, cmd 0x1E 64 (2 ^ 25) (4096 + 6) 65535), (.sweepStop, cmd 0x1E 64 1 0 (2 ^ 63 + 1023)), (.hbmRate, cmd 0x1F 7 2 0 0)]
theorem witness_MemoryCommands : (∀ p ∈ memoryCommands, Command (commandAt base p.2) p.1 p.2) ∧
    (∀ p ∈ memoryCommands, ∃ t y, t.cqCmd = some y ∧ cqOp y = some p.1 ∧ t.awake = true ∧ breaks t p.1 y) ∧
    invalBad base (cmd 0x19 0 0 1 0) = false ∧ (∀ r ∈ [(0, 512), (0, 2 ^ 64)], hostWaits base (lineIn 0 r.1 r.2) = false ∧ okB (flushLines base (lineIn 0 r.1 r.2)) = true) ∧
    okB (sweepRead base 4096 4) = true ∧ base.poison = [] ∧ (base.die (dieOf 4096)).rerr = [] ∧
    pinBad (cmd 0x1D 65536 0 0 0) = false ∧ (∀ d ∈ [base.die0, base.die1], otherPinned d 65536 = false ∧ look d.swaps (groupNo 65536) = none) ∧
    slotOfPa base.die0 0 = 0 ∧ slotOfPa (base.die (dieOf 65536)) 65536 ≠ 0 := by
  refine ⟨fun p hp => command ?_, fun p hp => refused (s := base) (x := p.2) ?_, ?_⟩
  · revert p hp; decide +kernel
  · revert p hp; decide +kernel
  · decide +kernel
/-- A launch at the head of submission queue 0 of slot 0, its command in page 0. -/
def sqState : State :=
  (((mapped block0).setCtx 0 { base.ctx 0 with sqs := [(0, ⟨0, 16, 8, 0, 1⟩)] }).setDie 0 { (mapped block0).die0 with
    l2 := [{ line1 with bytes := [(0, 1), (4, 7), (28, 1)] }] })
/-- A context that ends, one with a hold record to write. -/
def endState (c : Ctx) : State := mapped block0 |>.setCtx 0 c
/-- A grid with its records read and a block left to place. -/
def grid0 : Grid := { placedGrid with next := 0, r := { placedLaunch with ncrew := 1 } }
/-- The state with grid and block records of one crew in page 0. -/
def recordState : State := (mapped block0).setDie 0 { (mapped block0).die0 with
  l2 := [{ line1 with bytes := writeBytes [] 0 (natToBytes 4 1 ++ natToBytes 4 0 ++ natToBytes 8 256 ++ natToBytes 8 0
      ++ natToBytes 8 128 ++ natToBytes 4 0xFFFFFFFF) },
    { line1 with va := 2, pa := 256, bytes := [(0, 1), (2, 1)] }, { line1 with va := 3, pa := 384 }] }
/-- A launch at its queue's head, a grid whose records are read, a place for a block, a launch whose blocks are done, a context that
ends and one with a hold record. -/
theorem witness_LaunchEvents :
    (∀ twice ∈ [false, true],
      let s := if twice then { sqState with grids := [(1, { placedGrid with seq := 7 })] } else sqState
      bothOk (s.gread (dispAcc 0 0 false) 0 64)
        (fun s1 r => let x := cmdOf (bytesToNat r.1)
          x.op = 1 && launchRefused s1 0 0 x == twice && okB (s1.gwriteAll (dispAcc 0 2 true)
            ((if x.op = 1 ∧ launchRefused s1 0 0 x = true then [(x.a3, completionBytes x.seq 3)] else []) ++ [(8, natToBytes 8 1)])))
        (fun s1 r => takeLaunch s1 0 0 ⟨0, 16, 8, 0, 1⟩ (cmdOf (bytesToNat r.1))) = true) ∧
    (let s := { recordState with grids := [(1, { grid0 with checked := false })] }
     s.headLaunch 0 0 = some (1, { grid0 with checked := false }) ∧ okB (readLaunch s { grid0 with checked := false }) = true) ∧
    (let s := { base with grids := [(1, grid0)], blocks := [] }
     contenders s 0 = [(1, grid0)] ∧ nextIndex s 1 grid0 = some 0 ∧
       (findCore s 1 0 grid0.r grid0.r.granules (coresOf 1)).isSome = true ∧ takesPart s 1 grid0 = true ∧ s.age0 ≤ 3600000) ∧
    (let g := { placedGrid with fin := [(0, true)] }
     (g.r.nblk ≤ g.fin.length) ∧ (base.systemRelease 0).2 = true ∧ okB (completionWord (mapped block0) 0 2 0 0 1) = true) ∧
    (let s := sqState.setCtx 0 { sqState.ctx 0 with state := .ending }
     ringEntries s 0 = [(0, 0, 0)] ∧ okB ((ringRecords 0 (ringEntries s 0) s).bind fun s2 rs => endWrites 0 (endRecords s2 0 ++ rs) s2) = true) ∧
    (let s := endState { state := .live, hrecs := [⟨0xA2, 0, 0, 0, 0, 0, 0, 0, 0⟩] }
     bothOk (s.gread (dispAcc 0 3 false) 0 4) (fun _ r => decide (bytesToNat r.1 < 2 ^ 31))
       (fun s1 _ => s1.gwriteAll { dispAcc 0 4 true with use := .hidden } [(4, List.replicate 60 0), (0, List.replicate 4 0)]) = true) := by
  decide +kernel
/-- A line of the other die's page in the RDC of die 0, and a write-through of it. -/
def through0 : D2d := { src := 0, asid := 0, va := 0, side := false, pa := 0, cc := 2, bytes := [(0, 1)], acked := false }
/-- A prefetch of two lines of page 0. -/
def miss0 (walked : Bool) : Miss := { slot := 0, core := 0, line := 1, left := 2, walked := walked }
/-- How an access ended. -/
def endOf {α : Type} (g : Got α) : Nat := match g with
  | .ok _ _ => 0
  | .wait _ => 1
  | .fail _ _ => 2
/-- How the fill of line 1 ends where page 0 lies at the address given. -/
def fillEnd (s : State) (pa : Nat) : Nat × Nat :=
  let s := s.setDie 0 { s.die0 with tlb := [{ page0 with pa := pa }] }
  match resolve s (missAcc 0 (miss0 true)) 128 with
  | .ok s (p, _) => ((if p.expander then 1 else 0), endOf (readLine s (missAcc 0 (miss0 true)) p))
  | g => (2, endOf g)
/-- A range asked for, whose address is translated, faults, lies in the expander or in host memory, or is filled or not; a line that
leaves, with its bytes or with an error; a write-through and a request on their way. -/
theorem witness_CacheEvents :
    endOf (resolve (mapped block0) (missAcc 0 (miss0 false)) 128) = 0 ∧ endOf (resolve base (missAcc 0 (miss0 false)) 128) = 2 ∧
    fillEnd (mapped block0) 0 = (0, 0) ∧ (fillEnd (mapped block0) expanderBase).1 = 1 ∧ fillEnd (mapped block0) (2 ^ 41) = (0, 1) ∧
    fillEnd (base.setDie 0 { base.die0 with rerr := [(0, 2)] }) 0 = (0, 2) ∧
    (∀ l ∈ [line1, { line1 with dirty := 1, err := 2 }],
      { base.die0 with rdc := [l] }.rdc.find? (fun l => l.va = 0) = some l) ∧
    look { base.die0 with misses := [(7, miss0 false)] }.misses 7 = some (miss0 false) ∧
    (∀ ask ∈ [false, true], let m := { through0 with ask := ask }
     let s := { mapped block0 with d2d := [(7, m)] }
     look s.d2d 7 = some m ∧ s.d2dDown = false ∧ d2dBehind s 7 m = false ∧
       (∀ n < 16, okB (homeWrite (s.noteRetries 0 0 n) 0 0 false 0 2 [(0, 1)]) = true) ∧ (s.ctx 0).state = .live ∧
       s.slotOfAsid 0 = some 0 ∧ s.ctxs.length = 1) ∧
    (let m := { through0 with ask := true, back := true }
     m.acked = false ∧ m.flies = true) ∧ through0.flies = true ∧ { through0 with acked := true }.ask = false := by decide +kernel
/-- Page tables of one entry each at 4,096, 8,192, ..., the root first. -/
def walking (es : List Nat) : State :=
  { base.setCtx 0 { base.ctx 0 with root := 4096 } with dmem := (es.zipIdx).foldl (fun m e => writeLE m (4096 * (e.2 + 1)) 8 e.1) [] }
/-- Entries that name the tables of levels 1 to `n`. -/
def tables0 (n : Nat) : List Nat := (List.range n).map fun k => 1 + 4096 * (k + 2)
/-- Memory without errors. -/
theorem sound_walking (es : List Nat) : Sound (walking es) := ⟨rfl, rfl, fun k => by cases k <;> rfl, fun k => by cases k <;> rfl⟩
/-- An access of the die of page 0 that reads and writes. -/
def acc1 : Acc := { die := 0, slot := 0, rd := true, wr := true }
/-- The cause and INFO of an access to page 0 as given, 0 where it lands. -/
def landing (t : TlbEntry) (a : Acc) : Nat × Nat :=
  match resolve ((mapped block0).setDie 0 { base.die0 with tlb := [t] }) a 4 with
  | .fail _ t => (t.code, t.info)
  | .ok _ _ => (0, 0)
  | .wait _ => (1, 0)
/-- An address past 57 bits and a context without a root; walks that meet an entry that is not present, a table that is not one, and
leaves that are and are not, at several levels; each check of an access, and one that lands; a task block. -/
theorem witness_AccessChecks : (2 ^ 57 ≤ 2 ^ 57 ∧ (base.ctx 0).root = 0 ∧ (base.die (homeDie 4)).tlb = []) ∧
    (∀ q ∈ [(tables0 0, 0), (tables0 4, 4), (tables0 1 ++ [5 + 12288], 1), (tables0 4 ++ [1], 4), (tables0 1 ++ [15], 1), (tables0 2 ++ [15], 2),
        (tables0 4 ++ [15], 4), (tables0 4 ++ [15 + 2 ^ 58], 4)],
      ((walking q.1).ctx 0).root = 4096 ∧ ((walking q.1).die (homeDie 4)).walker = [] ∧ ((walking q.1).die (homeDie 4)).tlb = [] ∧
        (∀ k, k < q.2 → walkEntryAt (walking q.1) 4 4096 k = 1 + 4096 * (k + 2)) ∧
        walkEntryAt (walking q.1) 4 4096 q.2 = q.1.getD q.2 0) ∧
    (∀ q ∈ [(page0, acc1, 0, 0), ({ page0 with pr := false }, acc1, 0xA4, 3), ({ page0 with cc := 0 }, { acc1 with scope := some 6 }, 0xA5, 1),
        ({ page0 with cc := 1 }, { acc1 with scope := some 7 }, 0xA5, 17), ({ page0 with cc := 1 }, { acc1 with scope := some 11 }, 0, 0),
        (page0, { acc1 with scope := some 0, atom := some (2, 0) }, 0xA5, 34),
        ({ page0 with cc := 0 }, { acc1 with die := 1, scope := some 5, atom := some (1, 0) }, 0xA5, 3),
        ({ page0 with pa := 2 ^ 46 }, { acc1 with scope := some 0, atom := some (1, 1) }, 0xA5, 34), ({ page0 with sh := true }, acc1, 0xA6, 5),
        ({ page0 with sh := true, cc := 1 }, { acc1 with use := .forbid }, 0xA6, 4), (page0, { acc1 with use := .mustHide }, 0xA6, 3),
        ({ page0 with sh := true, cc := 1 }, { acc1 with use := .hidden }, 0, 0), ({ page0 with pa := 2 ^ 47 }, acc1, 0xC6, 4)],
      landing q.1 q.2.1 = q.2.2) ∧
    ∃ x, (withBlock fun x => { x with r := { x.r with res := false } }).block 2 = some x ∧ x.r.res = false := by
  refine ⟨by decide +kernel, by decide +kernel, by decide +kernel, _, rfl, rfl⟩
/-- A location of line 0 of page 0. -/
def spot0 : Spot := { va := 4, pa := 4, home := 0, cc := 1, side := false, sh := false, pti := 0 }
/-- Page 0 with its line 0 in the L2 of its home. -/
def lined : State := (mapped block0).setDie 0 { (mapped block0).die0 with l2 := [line1] }
/-- A line that the home holds, one that it lacks, and one of device memory; a write, a read after it, and an atomic with reads before and
after it. -/
theorem witness_LinesAndBytes : HomeLine lined acc1 spot0 line1 ∧ spot0.cc ≠ 2 ∧ 4 + [0xAB#8].length ≤ 128 ∧ Sound (mapped block0) ∧
    ((mapped block0).cache 0 false = [] ∧ spot0.home = acc1.die ∧ spot0.pa < 2 ^ 41) ∧ (line1.pa < 2 ^ 41 ∧ line1.pa % 128 = 0) ∧
    (match resolve lined acc1 4 with
      | .ok _ (p, a1) => decide (p.pa < 2 ^ 46) && bothOk (lined.gwrite acc1 4 [0xAB#8]) (fun _ _ => true) (fun s1 _ => s1.gread a1 4 1) &&
          okB (lined.gread acc1 4 4) && bothOk (lined.gatomic acc1 4 4 0 1 0 (· + 1)) (fun _ _ => true) (fun s1 _ => s1.gread a1 4 4)
      | _ => false) = true := by
  refine ⟨⟨rfl, by decide, rfl, rfl, rfl⟩, by decide, by decide, ⟨rfl, rfl, fun k => by cases k <;> rfl, fun k => by cases k <;> rfl⟩, ?_,
    by decide, ?_⟩ <;> decide +kernel
/-- Fences at every scope from package outward, of a crew with a send under way and with dirty bytes that have set out. -/
theorem witness_FencesAwait : (∀ v ∈ [9, 11], let s := { base with sends := [(7, send0 false)] }
      ∃ e, Ready s (.fence { x0 with d := 1, v := v }) e ∧ (quiet e && s.sendsOut e.b e.c && !s.writesOut e.b e.c) = true) ∧
    (∀ d ∈ [1, 2], ∀ v ∈ [6, 8], let s := { base with d2d := [(7, through0)] }
      ∃ e, Ready s (.fence { x0 with d := d, v := v }) e ∧ (quiet e && !s.writesOut e.b e.c &&
        !(sentOut (s.setBlock e.b (e.blk.setCrew e.c (waitingAt s e (.fence { x0 with d := d, v := v })))) e.blk v).allAcked e.blk.die
          (s.ctx e.blk.slot).asid) = true) ∧
    ∀ d ∈ [0, 2], ∃ e, Ready { base with fars := [(7, far0)] } (.fence { x0 with d := d, v := 6 }) e ∧
      (quiet e && State.readsOut { base with fars := [(7, far0)] } e.b e.c) = true := by
  refine ⟨fun v hv => ready_of_meets ?_, fun d hd v hv => ready_of_meets ?_, fun d hd => ready_of_meets ?_⟩
  · revert v hv
    decide +kernel
  · revert d hd v hv
    decide +kernel
  · revert d hd
    decide +kernel
/-- A swap of frame 3 of group 0 into its fast slot, the end of an epoch, a sweeper with room in its ring, a request to retrain. -/
theorem witness_TierEvents :
    (∀ f < 4, let s := base.setDie 0 { base.die0 with swaps := [(0, ⟨0, f, false⟩)] }
     look s.die0.swaps 0 = some ⟨0, f, false⟩ ∧ getAt false s.die0.retraining (stackOf 0) = false ∧ getAt 0 s.die0.rerr 0 = 0) ∧
    (let s := { base with clock := 3600000 }
     s.die0.epochAt + s.die0.epoch ≤ s.clock ∧ tableWf 0 s.die0.cnt = true) ∧
    (∀ e ∈ [0, 1 + 65536 * 3], ∀ seen ∈ [false, true],
     let w := Sweeper.see { on := true, table := 64, entries := 2, ring := 4096, mark := 1, log := 6 } (readLE [] 4096 4)
     let s := { base with dmem := writeBytes [] 64 (natToBytes 8 e) }.setDie 0 { base.die0 with abit := if seen then [(3, true)] else [] }
     w.on = true ∧ w.idle < w.entries ∧ (w.tail + 2 ^ (10 + w.log) - w.head % 2 ^ (10 + w.log)) % 2 ^ (10 + w.log) < w.mark ∧
       w.ring % 4096 = 0 ∧ w.entries ≤ 2 ^ 25 ∧ w.hand < w.entries ∧ w.tail < 2 ^ (10 + w.log) ∧ w.log ≤ 6 ∧ s.poison = [] ∧ s.ecc = [] ∧
       (∀ d ∈ [s.die0, s.die1], d.rerr = [] ∧ d.retraining = []) ∧ readLE s.dmem (w.table + 8 * w.hand) 8 = e ∧
       bitOf e 0 = (e != 0) ∧ (e ≠ 0 → getAt false (s.die (dieOf (65536 * bitsOf e 16 25))).abit (bitsOf e 16 25) =
         (seen && dieOf (65536 * bitsOf e 16 25) == 0))) ∧
    (let d := { base.die0 with retrain := [(3, 2)], retraining := [(5, true)] }
     getAt 0 d.retrain 3 ≠ 0 ∧ getAt false d.retraining 3 = false ∧ getAt false d.retraining 5 = true) := by
  refine ⟨?_, ?_, ?_, ?_⟩ <;> decide +kernel
/-- A request to host space of 64 bytes that has waited for a millisecond. -/
def req0 : HostReq :=
  { die := 0, slot := 0, asid := 0, va := 0, pa := expanderBase, kind := .read 64, done := none, owner := 5, since := 0 }
theorem witness_HostEvents :
    (let s := { base with hostReqs := [(7, req0)], clock := 3600000 }
     look s.hostReqs 7 = some req0 ∧ req0.done = none ∧ req0.owner ≠ 0 ∧ req0.since + 3600000 ≤ s.clock) ∧
    (base.host.hdmBase ≤ 64 ∧ 64 < base.host.hdmBase + base.host.hdmSize ∧ retrainingAt base 0 = false ∧ base.power ≠ .d3hot ∧
      base.power ≠ .d3cold ∧ bothOk (backInvalidate base 0) (fun s1 _ => (scLines s1 0).isEmpty) (fun s1 _ => dramRead s1 65536 0 0) = true) ∧
    { req0 with kind := .read 64 }.kind = .read 64 ∧ 2 ^ 39 - 2 ^ 34 - 1 < 2 ^ 39 - 2 ^ 34 := by decide +kernel
/-- The power states and the clock at the bounds of the rules, and the host's turn at a mask. -/
theorem witness_WindowAndPower : State.reset.awake = true ∧ 800 ≤ 2600 % 65536 ∧ 1199 < State.reset.host.clock ∧
    { State.reset.host with clock := 3599 }.clock < 3600 ∧ (∀ p ∈ State.reset.ctxs, p.2.state = .free) ∧
    okB State.reset.flushAll = true ∧ (∀ p ∈ State.reset.ctxs, p.2.state ≠ .live) ∧ State.reset.power = .d0Active ∧
    { State.reset with power := .d3hot }.power = .d3hot ∧ { State.reset with turns := [.mask 255] }.turns = [.mask 255] ∧
    (255 : Nat) < 256 := by decide +kernel
theorem witness_ResetAndManagement : State.reset.power ≠ .d3hot ∧ State.reset.power ≠ .d3cold ∧ State.reset.host.flr = false ∧
    (∃ p ∈ base.ctxs, p.2.state = .live) ∧ (∀ p ∈ State.reset.ctxs, p.2.state = .free) ∧ okB State.reset.flushAll = true ∧ State.reset.mgmt.recov = false ∧
    ¬State.reset.mgmt.spdm < 0 ∧ State.reset.mgmt.spdm < 3 := by decide +kernel

/-! ### Witnesses: the whole machine -/

theorem witness_EveryStepKeepsMemory : base.memOk = true ∧ (commandAt base (cmd 0x16 5 0 0 0)).memOk = true := by decide +kernel
/-- A placed word is what the next step fetches and runs. -/
theorem witness_StepRunsDecoded : let s := State.reset.withFetchWord 32 0x85103001
    s.turns = [.issue 2 0] ∧ (∃ x w, readyCrew s 2 0 = some (x, w) ∧ x.fetch w.ipc = .instr (.iaddR2 ⟨h0, true, 3, 4, 5⟩)) := by
  refine ⟨by decide +kernel, placedBlock 1 (natToBytes 4 0x85103001 ++ List.replicate 12 0), freshCrew placedLaunch 0 0, ?_⟩
  decide +kernel
/-- The instruction of the first step after reset is the one placed: v3 takes v4 + s5, and the lanes stand after it. -/
theorem test_step : (match step (State.reset.withFetchWord 16 0xF066) with
    | .next t => (t.crew 2 0).map fun w => (w.rv 3 31, w.pcOf 31, t.steps)
    | _ => none) = some (0xFFFFFFFE, 2, 1) := by decide +kernel
/-- R173, R178, R180: a cause of the die that no crew raises names no core and no block, one of a crew does; a crew whose issue
raises a cause has issued. -/
theorem test_causes : (faultRec base block0 255 0 { code := 0xA4 }).loc / 16 % 16 = 15 ∧
    (faultRec base block0 255 0 { code := 0xA4 }).block = 4294967295 ∧ (faultRec base block0 0 0 { code := 0xA4 }).block = block0.index ∧
    (((routed id).raiseIssue 2 0 { code := 0x01 }).crew 2 0).map (·.lastIssue) = some (base.steps + 1) := by decide +kernel
theorem witness_DecodeOfEncode : (Instr.iaddX { x0 with k := true, imm := 8191 }).wf = true ∧
    encode (.iaddX { x0 with k := true, imm := 8191 }) ≠ [] ∧
    decode (encode (.iaddX { x0 with k := true, imm := 8191 }) ++ [1]) = .ok (.iaddX { x0 with k := true, imm := 8191 }) 8 := by
  decide +kernel
/-- An instruction that completes, one whose result is outstanding and one that traps. -/
theorem witness_RegisterFrame : ∀ i ∈ [Instr.iaddX x0, .fdiv xf, .idiv { x0 with q := true }], registerOnly i = true ∧
    (envOf base i).isSome = true ∧ (match exec i base with
      | .next _ => true
      | _ => false) = true := by decide +kernel

end Sys2Proof.Tests
end

section
/-! CSRR and CSRW (R111 to R115): what an issued instruction does where its block carries no storage error, and the
obligation about them. -/

namespace Sys2Proof.Machine

/-! ### Completion -/

/-- A form that raises no flag completes with its writes, from any state that its effect has reached. -/
theorem complete_onLanes_noFlags (s : State) (e : Env) (uni : Bool) (f : Nat → List Wr) :
    complete s e (onLanes uni e.part fun l => (f l, 0)) = .next (settled s e (written uni e.part f) 0 false) := by
  rw [complete_noFlags s e _ (by simp) (by simp) (by simp), onLanes_wr]

/-- A skipped instruction only moves on (R21). -/
theorem skip_settled (s : State) (e : Env) : skip s e = .next (settled s e [] 0 false) :=
  complete_noFlags s e {} rfl rfl rfl

/-- Where P(c) is empty, a per-crew instruction only moves on (R21). -/
theorem perCrew_empty {s : State} {e : Env} (h : e.part = 0) (k : Out) :
    perCrew s e k = .next (settled s e [] 0 false) := by
  rw [perCrew, if_pos h, skip_settled]

/-- Where a lane takes part, a per-crew instruction has its own effect. -/
theorem perCrew_participating {s : State} {e : Env} (h : e.part ≠ 0) (k : Out) : perCrew s e k = k := if_neg h

/-- A block without storage errors has none in its spill area. -/
theorem spillChecked_clean {e : Env} (h : e.blk.errs = []) (s : State) (f : Nat → List Nat)
    (k : State → Env → Out) : spillChecked s e f k = k s e := by
  simp [spillChecked, Block.memErrors, h]

/-! ### CSRR -/

/-- The meaning that the dispatch gives CSRR. -/
theorem exec_csrr (x : NOps) (s : State) : exec (.csrr x) s = execCsrr x s := rfl

/-- CSRR of a lane CSR writes its value in each lane of P(c) (R111, R112). -/
theorem execCsrr_lane {x : NOps} {s : State} {e : Env} (h : Ready s (.csrr x) e) (hx : csrLane x.num = true) :
    execCsrr x s = .next (settled s e
      (written false e.part fun l => [.v x.d l (BitVec.ofNat 32 (csrOfLane e.blk e.cw x.num l))]) 0 false) := by
  rw [execCsrr, issue_ready h, if_pos hx, spillChecked_clean h.clean]
  exact complete_onLanes_noFlags s e false fun l => [.v x.d l (BitVec.ofNat 32 (csrOfLane e.blk e.cw x.num l))]

/-- CSRR of a crew CSR writes its value once, and a read of the cycle count exposes the context (R111, R112, R115). -/
theorem execCsrr_crew {x : NOps} {s : State} {e : Env} (h : Ready s (.csrr x) e) (hx : csrLane x.num = false) :
    execCsrr x s = .next (settled (exposed s e x.num) e
      (written true e.part fun _ => [.s x.d (BitVec.ofNat 32 (csrOfCrew s e.blk e.c e.cw x.num))]) 0 false) := by
  rw [execCsrr, issue_ready h, if_neg (by simp [hx])]
  exact complete_onLanes_noFlags (exposed s e x.num) e true
    fun _ => [.s x.d (BitVec.ofNat 32 (csrOfCrew s e.blk e.c e.cw x.num))]

/-- The reads that expose a context are those of the two halves of the cycle count in a lane of P(c) (R115). -/
theorem exposed_eq (s : State) (e : Env) (n : Nat) :
    exposed s e n = if (n = 0x020 ∨ n = 0x021) ∧ e.part ≠ 0 then
      s.setCtx e.blk.slot { s.ctx e.blk.slot with texp := true } else s := by
  simp [exposed]

/-! ### CSRW -/

/-- The meaning that the dispatch gives CSRW. -/
theorem exec_csrw (x : NOps) (s : State) : exec (.csrw x) s = execCsrw x s := rfl

/-- CSRW with a lane in P(c) writes the fields of its CSR in the crew that has moved on (R111). -/
theorem execCsrw_participating {x : NOps} {s : State} {e : Env} (h : Ready s (.csrw x) e) (hp : e.part ≠ 0) :
    execCsrw x s = .next (movedOn s e e.blk ((e.advance s e.cw).csrWrite x.num (e.cw.rs x.d))) := by
  rw [execCsrw, issue_ready h, perCrew_participating hp, movedOn]

/-- CSRW with P(c) empty only moves on (R21). -/
theorem execCsrw_empty {x : NOps} {s : State} {e : Env} (h : Ready s (.csrw x) e) (hp : e.part = 0) :
    execCsrw x s = .next (settled s e [] 0 false) := by
  rw [execCsrw, issue_ready h, perCrew_empty hp]

/-- A write of MODE sets MCLF (R114). -/
theorem csrWrite_mode (w : Crew) (v : Word) : w.csrWrite 0x010 v = { w with mclf := v.getLsbD 0 } := rfl

/-- A write of FPC sets the flags and the enables (R137). -/
theorem csrWrite_fpc (w : Crew) (v : Word) : w.csrWrite 0x011 v = { w with fpc := v &&& 0x1F1F } := rfl

/-- A write of TRAPPC, the one other writable CSR, leaves its bit 0 clear (R112). -/
theorem csrWrite_trappc {n : Nat} (hm : n ≠ 0x010) (hf : n ≠ 0x011) (w : Crew) (v : Word) :
    w.csrWrite n v = { w with trappc := v &&& 0xFFFFFFFE } := by
  unfold Crew.csrWrite
  split
  · contradiction
  · contradiction
  · rfl

/-! ### The obligation -/

/-- Settles O14: CSRR by the scope of its CSR, CSRW by P(c) and then by the CSR it names. -/
theorem csrResults : Obligations.CsrResults := by
  intro x s e
  refine ⟨fun h hlane => ?lane, fun h hcrew => ?crew, fun h hp => ?write, fun h hp => ?empty⟩
  case lane => rw [exec_csrr, execCsrr_lane h hlane]
  case crew => rw [exec_csrr, execCsrr_crew h hcrew, exposed_eq]
  case write =>
    rw [exec_csrw, execCsrw_participating h hp]
    split
    next hmode => rw [hmode, csrWrite_mode]
    next hfpc => rw [hfpc, csrWrite_fpc]
    next hm hf => rw [csrWrite_trappc hm hf]
  case empty => rw [exec_csrw, execCsrw_empty h hp]

end Sys2Proof.Machine
end

section
/-! SUPPORT. The sum of a group (R53): what it is when a term is a NaN or an infinity, and that a sum of numbers is exact. -/

namespace Sys2Proof.Machine

/-! ### NaNs and infinities -/

/-- One term added to the sum of the terms before it. -/
def addTerm (g p : Val) : Val := (addVal false g p).1

/-- The sum of a group adds its terms in order, from +0. -/
theorem groupSum_eq_foldl (ps : List Val) : groupSum ps = ps.foldl addTerm (.num false 0 1) := rfl

@[simp] theorem addTerm_nan_left (p : Val) : addTerm .nan p = .nan := rfl

@[simp] theorem addTerm_nan_right (g : Val) : addTerm g .nan = .nan := by cases g <;> rfl

@[simp] theorem addTerm_inf_self (s : Bool) : addTerm (.inf s) (.inf s) = .inf s := by simp [addTerm, addVal]

@[simp] theorem addTerm_inf_not (s : Bool) : addTerm (.inf s) (.inf !s) = .nan := by simp [addTerm, addVal]

@[simp] theorem addTerm_num_inf (s t : Bool) (n d : Nat) : addTerm (.num t n d) (.inf s) = .inf s := rfl

/-- An infinite sum stays when neither a NaN nor the opposite infinity is added. -/
theorem addTerm_inf_of_ne {p : Val} {s : Bool} (hn : Val.nan ≠ p) (ho : Val.inf (!s) ≠ p) : addTerm (.inf s) p = .inf s := by
  cases p with
  | nan => contradiction
  | inf t =>
    have ht : s = t := by simpa using ho
    rw [ht, addTerm_inf_self]
  | num t n d => rfl

/-- The sum of two numbers is a number. -/
theorem addTerm_num_num (s t : Bool) (n d n' d' : Nat) : ∃ u m e, addTerm (.num s n d) (.num t n' d') = .num u m e := by
  simp only [addTerm, addVal]
  split <;> exact ⟨_, _, _, rfl⟩

/-- An infinity added gives that infinity, unless the sum before it was a NaN or the opposite one. -/
theorem addTerm_inf_cases (g : Val) (s : Bool) : addTerm g (.inf s) = .nan ∨ addTerm g (.inf s) = .inf s := by
  cases g with
  | nan => exact .inl rfl
  | inf t =>
    by_cases h : t = s
    · exact .inr (by rw [h, addTerm_inf_self])
    · exact .inl (by rw [Bool.eq_not.mpr (Ne.symm h), addTerm_inf_not])
  | num t n d => exact .inr rfl

/-- A NaN stays. -/
@[simp] theorem foldl_addTerm_nan (ps : List Val) : ps.foldl addTerm .nan = .nan := by
  induction ps with
  | nil => rfl
  | cons p ps ih => exact ih

/-- A NaN among the terms makes the sum a NaN. -/
theorem foldl_addTerm_of_nan_mem {ps : List Val} (h : Val.nan ∈ ps) (g : Val) : ps.foldl addTerm g = .nan := by
  induction ps generalizing g with
  | nil => simp at h
  | cons p ps ih =>
    rw [List.foldl_cons]
    rcases List.mem_cons.mp h with rfl | ht
    · simp
    · exact ih ht _

/-- The opposite infinity makes an infinite sum a NaN. -/
theorem foldl_addTerm_inf_of_opposite_mem {ps : List Val} {s : Bool} (h : Val.inf (!s) ∈ ps) :
    ps.foldl addTerm (.inf s) = .nan := by
  induction ps with
  | nil => simp at h
  | cons p ps ih =>
    rw [List.foldl_cons]
    by_cases hn : Val.nan = p
    · simp [← hn]
    · by_cases ho : Val.inf (!s) = p
      · simp [← ho]
      · rw [addTerm_inf_of_ne hn ho]
        exact ih ((List.mem_cons.mp h).resolve_left ho)

/-- The opposite infinity after an infinite term makes the sum a NaN, whatever the sum before them. -/
theorem foldl_addTerm_inf_head {ps : List Val} {s : Bool} (h : Val.inf (!s) ∈ ps) (g : Val) :
    ps.foldl addTerm (addTerm g (.inf s)) = .nan := by
  rcases addTerm_inf_cases g s with hg | hg
  · rw [hg, foldl_addTerm_nan]
  · rw [hg, foldl_addTerm_inf_of_opposite_mem h]

/-- Both infinities among the terms make the sum a NaN. -/
theorem foldl_addTerm_of_both_inf_mem {ps : List Val} {s : Bool} (h : Val.inf s ∈ ps) (h' : Val.inf (!s) ∈ ps) (g : Val) :
    ps.foldl addTerm g = .nan := by
  induction ps generalizing g with
  | nil => simp at h
  | cons p ps ih =>
    rw [List.foldl_cons]
    rcases List.mem_cons.mp h with rfl | ht <;> rcases List.mem_cons.mp h' with hp | ht'
    · simp at hp
    · exact foldl_addTerm_inf_head ht' g
    · subst hp
      exact foldl_addTerm_inf_head (by simpa using ht) g
    · exact ih ht ht' _

/-- An infinite sum stays where no term is a NaN or the opposite infinity. -/
theorem foldl_addTerm_inf {ps : List Val} {s : Bool} (hn : Val.nan ∉ ps) (ho : Val.inf (!s) ∉ ps) :
    ps.foldl addTerm (.inf s) = .inf s := by
  induction ps with
  | nil => rfl
  | cons p ps ih =>
    rw [List.mem_cons, not_or] at hn ho
    rw [List.foldl_cons, addTerm_inf_of_ne hn.1 ho.1, ih hn.2 ho.2]

/-- An infinity among the terms makes a finite sum that infinity where no term is a NaN or the opposite infinity. -/
theorem foldl_addTerm_num_of_inf_mem {ps : List Val} {s : Bool} (hn : Val.nan ∉ ps) (hi : Val.inf s ∈ ps)
    (ho : Val.inf (!s) ∉ ps) (t : Bool) (n d : Nat) : ps.foldl addTerm (.num t n d) = .inf s := by
  induction ps generalizing t n d with
  | nil => simp at hi
  | cons p ps ih =>
    rw [List.mem_cons, not_or] at hn ho
    rw [List.foldl_cons]
    cases p with
    | nan => exact absurd rfl hn.1
    | inf u =>
      have hu : s = u := by simpa using ho.1
      rw [hu, addTerm_num_inf, ← hu, foldl_addTerm_inf hn.2 ho.2]
    | num u m e =>
      obtain ⟨_, _, _, h⟩ := addTerm_num_num t u n d m e
      rw [h, ih hn.2 (by simpa using hi) ho.2]

/-! ### Numbers -/

/-- The sum of two fractions over nonzero denominators is exact, over a nonzero denominator. -/
theorem addFrac_exact (a c : Int) {b d : Nat} (hb : b ≠ 0) (hd : d ≠ 0) :
    (addFrac a b c d).2 ≠ 0 ∧ (addFrac a b c d).1 * (b * d) = (a * d + c * b) * (addFrac a b c d).2 := by
  by_cases hbd : d % b = 0
  · obtain ⟨k, rfl⟩ := Nat.dvd_of_mod_eq_zero hbd
    have hk : b * k / b = k := Nat.mul_div_cancel_left k (Nat.pos_of_ne_zero hb)
    simp only [addFrac, if_pos hbd, hk, Int.natCast_mul]
    exact ⟨hd, by grind⟩
  · by_cases hdb : b % d = 0
    · obtain ⟨k, rfl⟩ := Nat.dvd_of_mod_eq_zero hdb
      have hk : d * k / d = k := Nat.mul_div_cancel_left k (Nat.pos_of_ne_zero hd)
      simp only [addFrac, if_neg hbd, if_pos hdb, hk, Int.natCast_mul]
      exact ⟨hb, by grind⟩
    · simp only [addFrac, if_neg hbd, if_neg hdb, Int.natCast_mul]
      exact ⟨Nat.mul_ne_zero hb hd, trivial⟩

/-- A value is a number equal to a fraction, its zero being +0. -/
def Val.Equals (v : Val) (t : Int × Nat) : Prop :=
  ∃ s n d, v = .num s n d ∧ d ≠ 0 ∧ (n = 0 → s = false) ∧ sInt s n * t.2 = t.1 * d

/-- A zero of either sign is the integer zero. -/
theorem sInt_zero (s : Bool) : sInt s 0 = 0 := by cases s <;> rfl

/-- The sign and the magnitude of an integer give the integer. -/
theorem sInt_natAbs (n : Int) : sInt (decide (n < 0)) n.natAbs = n := by
  unfold sInt
  split <;> simp only [decide_eq_true_eq] at * <;> omega

/-- Of two numbers of which the first has no zero but +0, the exact sum; a zero sum is +0. -/
theorem addTerm_num_exact {s t : Bool} {n d n' d' : Nat} (hs : n = 0 → s = false) (hd : d ≠ 0) (hd' : d' ≠ 0) :
    (addTerm (.num s n d) (.num t n' d')).Equals (sInt s n * d' + sInt t n' * d, d * d') := by
  obtain ⟨hm, hsum⟩ := addFrac_exact (sInt s n) (sInt t n') hd hd'
  simp only [addTerm, addVal]
  split
  next hz =>
    rw [hz, Int.zero_mul] at hsum
    have hzero := (Int.mul_eq_zero.mp hsum.symm).resolve_right (Int.natCast_ne_zero.mpr hm)
    refine ⟨_, _, _, rfl, Nat.one_ne_zero, fun _ => ?_, ?_⟩
    · split
      next h => exact hs h.1
      next => rfl
    · rw [sInt_zero, hzero, Int.zero_mul, Int.zero_mul]
  next hz =>
    refine ⟨_, _, _, rfl, hm, fun h => absurd (Int.natAbs_eq_zero.mp h) hz, ?_⟩
    rw [sInt_natAbs, Int.natCast_mul]
    exact hsum

/-- A number added to the value of a fraction gives the value of the sum of the two. -/
theorem Val.Equals.add {v : Val} {t : Int × Nat} (h : v.Equals t) (s : Bool) (n : Nat) {d : Nat} (hd : d ≠ 0) :
    (addTerm v (.num s n d)).Equals (t.1 * d + sInt s n * t.2, t.2 * d) := by
  obtain ⟨s0, n0, d0, rfl, hd0, hs0, hv⟩ := h
  obtain ⟨u, m, e, hsum, he, hu, hm⟩ := addTerm_num_exact (t := s) (n' := n) hs0 hd0 hd
  refine ⟨u, m, e, hsum, he, hu, Int.eq_of_mul_eq_mul_right (Int.natCast_ne_zero.mpr hd0) ?_⟩
  simp only [Int.natCast_mul] at hm ⊢
  calc sInt u m * (t.2 * d) * d0 = sInt u m * (d0 * d) * t.2 := by grind
    _ = (sInt s0 n0 * t.2 * d + sInt s n * d0 * t.2) * e := by rw [hm]; grind
    _ = (t.1 * d + sInt s n * t.2) * e * d0 := by rw [hv]; grind

/-- The sum of numbers is exact. -/
theorem foldl_addTerm_exact {ns : List (Bool × Nat × Nat)} (hns : ∀ p ∈ ns, p.2.2 ≠ 0) {v : Val} {t : Int × Nat}
    (h : v.Equals t) :
    ((ns.map fun p => Val.num p.1 p.2.1 p.2.2).foldl addTerm v).Equals
      (ns.foldl (fun t p => (t.1 * p.2.2 + sInt p.1 p.2.1 * t.2, t.2 * p.2.2)) t) := by
  induction ns generalizing v t with
  | nil => exact h
  | cons p ns ih =>
    obtain ⟨hp, hns⟩ := List.forall_mem_cons.mp hns
    exact ih hns (h.add p.1 p.2.1 hp)

/-- The sum of a group of numbers equals the exact sum of the fractions. -/
theorem groupSum_exact {ns : List (Bool × Nat × Nat)} (hns : ∀ p ∈ ns, p.2.2 ≠ 0) :
    (groupSum (ns.map fun p => Val.num p.1 p.2.1 p.2.2)).Equals (fracSum ns) :=
  foldl_addTerm_exact hns ⟨false, 0, 1, rfl, Nat.one_ne_zero, fun _ => rfl, rfl⟩

end Sys2Proof.Machine
end

section
/-! SUPPORT. A step of a stream over its window (R213, R216): every entry of the window becomes its own result, no other entry
changes, and the flags of all of them are ORed into MSW. -/

namespace Sys2Proof.Machine

/-! ### What a fold leaves as it was, and what it sets -/

/-- What no step of a fold changes is as it was. -/
theorem foldl_observed_unchanged {σ ι β : Type} {f : σ → ι → σ} (obs : σ → β) {l : List ι}
    (h : ∀ s, ∀ i ∈ l, obs (f s i) = obs s) (s : σ) : obs (l.foldl f s) = obs s := by
  induction l generalizing s with
  | nil => rfl
  | cons i l ih =>
    obtain ⟨hi, hl⟩ : (∀ s, obs (f s i) = obs s) ∧ ∀ s, ∀ j ∈ l, obs (f s j) = obs s :=
      ⟨fun s => h s i (by simp), fun s j hj => h s j (by simp [hj])⟩
    rw [List.foldl_cons, ih hl, hi]

/-- What one element of a fold sets, and no other element changes, stands at the end. -/
theorem foldl_observed_set {σ ι β : Type} {f : σ → ι → σ} (obs : σ → β) {l : List ι} {i : ι} (hi : i ∈ l) {b : β}
    (hset : ∀ s, obs (f s i) = b) (hkeep : ∀ s, ∀ j, j ∈ l → j ≠ i → obs (f s j) = obs s) (s : σ) :
    obs (l.foldl f s) = b := by
  induction l generalizing s with
  | nil => simp at hi
  | cons j l ih =>
    by_cases hl : i ∈ l
    · exact ih hl (fun s k hk => hkeep s k (by simp [hk])) _
    · obtain rfl : i = j := (List.mem_cons.mp hi).resolve_right hl
      rw [List.foldl_cons, foldl_observed_unchanged obs fun s k hk =>
        hkeep s k (by simp [hk]) fun e => hl (e ▸ hk), hset]

/-- The pairs below two bounds. -/
theorem mem_pairs {n m : Nat} {p : Nat × Nat} : p ∈ pairs n m ↔ p.1 < n ∧ p.2 < m := by
  obtain ⟨i, j⟩ := p
  simp [pairs]

/-! ### Entries and MSW -/

/-- A write of an entry reads back; every other entry reads as before. -/
theorem entry_setEntry (mx : Matrix) {a r n a' r' n' : Nat} (x : DWord) (hr : r < 128) (hn : n < 128) (hr' : r' < 128)
    (hn' : n' < 128) :
    (mx.setEntry a' r' n' x).entry a r n = if a = a' ∧ r = r' ∧ n = n' then x else mx.entry a r n := by
  have hkey : 16384 * a + 128 * r + n = 16384 * a' + 128 * r' + n' ↔ a = a' ∧ r = r' ∧ n = n' := by omega
  simp only [Matrix.setEntry, Matrix.entry, getAt_setAt, hkey]

@[simp] theorem entry_orMsw (mx : Matrix) (f : Word) (a r n : Nat) : (mx.orMsw f).entry a r n = mx.entry a r n := rfl

/-- The bits that a fold ORs into MSW. -/
theorem foldl_msw {ι : Type} {f : Matrix → ι → Matrix} {bits : ι → Word} (h : ∀ mx i, (f mx i).msw = mx.msw ||| bits i)
    (l : List ι) (mx : Matrix) (k : Nat) :
    (l.foldl f mx).msw.getLsbD k = true ↔ mx.msw.getLsbD k = true ∨ ∃ i ∈ l, (bits i).getLsbD k = true := by
  induction l generalizing mx with
  | nil => simp
  | cons i l ih => simp [ih, h, or_assoc]

/-- The rows of a window lie in the array. -/
theorem mlenOf_le_of_inArray {x : Block} {y : MxOps} (h : InArray x y) : mlenOf y ≤ 128 := h.rows

/-! ### A step of MXA and MXG -/

/-- The bits of MSW that a step raises at one entry. -/
def entryBits (r : DWord × Flags × Bool) : Word := r.2.1.setWidth 32 ||| (if r.2.2 then 0x20#32 else 0)

section
variable {x : Block} {y : MxOps} (h : InArray x y) (q : MCmd) (g : Nat)
include h

/-- An entry of the window becomes the result of its own step. -/
theorem gemmStep_entry_of_mem {m n : Nat} (hm : m < mlenOf y) (hn : n < (x.mx.slot y.slot).nlen) :
    (gemmStep x q y g).entry y.acc m n = (entryStep x q y g m n).1 := by
  have hr := (mlenOf_le_of_inArray h)
  have hc := h.cols
  refine foldl_observed_set (fun mx : Matrix => mx.entry y.acc m n) (i := (m, n)) (mem_pairs.mpr ⟨hm, hn⟩) (fun mx => ?_)
    (fun mx p hp hne => ?_) x.mx
  · have hm' := Nat.lt_of_lt_of_le hm hr
    have hn' := Nat.lt_of_lt_of_le hn hc
    rw [entry_orMsw, entry_setEntry mx _ hm' hn' hm' hn', if_pos ⟨rfl, rfl, rfl⟩]
  · obtain ⟨hp1, hp2⟩ := mem_pairs.mp hp
    rw [entry_orMsw, entry_setEntry mx _ (by omega) (by omega) (by omega) (by omega), if_neg]
    rintro ⟨-, rfl, rfl⟩
    exact hne rfl

/-- No entry outside the window changes. -/
theorem gemmStep_entry_outside {a m n : Nat} (hm : m < 128) (hn : n < 128)
    (ho : a ≠ y.acc ∨ mlenOf y ≤ m ∨ (x.mx.slot y.slot).nlen ≤ n) :
    (gemmStep x q y g).entry a m n = x.mx.entry a m n := by
  have hr := (mlenOf_le_of_inArray h)
  have hc := h.cols
  refine foldl_observed_unchanged (fun mx : Matrix => mx.entry a m n) (fun mx p hp => ?_) x.mx
  obtain ⟨hp1, hp2⟩ := mem_pairs.mp hp
  rw [entry_orMsw, entry_setEntry mx _ hm hn (by omega) (by omega), if_neg (by omega)]

end

/-- A step ORs into MSW the bits of the entries of its window. -/
theorem gemmStep_msw (x : Block) (q : MCmd) (y : MxOps) (g k : Nat) :
    (gemmStep x q y g).msw.getLsbD k = true ↔ x.mx.msw.getLsbD k = true ∨
      ∃ m n, m < mlenOf y ∧ n < (x.mx.slot y.slot).nlen ∧ (entryBits (entryStep x q y g m n)).getLsbD k = true := by
  rw [gemmStep, foldl_msw (bits := fun p => entryBits (entryStep x q y g p.1 p.2)) fun _ _ => rfl]
  simp only [mem_pairs, Prod.exists, and_assoc]

/-! ### A step of MXM -/

/-- The step of one pair of entries of a moment stream (R216). -/
def pairStep (x : Block) (q : MCmd) (y : MxOps) (g m n : Nat) : Nat × Nat × Flags :=
  momStep (x.mx.slot y.slot) n ((List.range 32).map fun j => (32 * g + j, streamElem x q m (32 * g + j)))
    (x.mx.entry y.acc m n).toNat (x.mx.entry (y.acc + 1) m n).toNat

/-- MXM steps every pair of entries of its window. -/
theorem momentStep_eq (x : Block) (q : MCmd) (y : MxOps) (g : Nat) :
    momentStep x q y g = (pairs (mlenOf y) (x.mx.slot y.slot).nlen).foldl (fun mx p =>
      ((mx.setEntry y.acc p.1 p.2 (BitVec.ofNat 64 (pairStep x q y g p.1 p.2).1)).setEntry (y.acc + 1) p.1 p.2
        (BitVec.ofNat 64 (pairStep x q y g p.1 p.2).2.1)).orMsw ((pairStep x q y g p.1 p.2).2.2.setWidth 32)) x.mx := rfl

section
variable {x : Block} {y : MxOps} (h : InArray x y) (q : MCmd) (g : Nat)
include h

/-- A pair of entries of the window becomes the result of its own step. -/
theorem momentStep_entry_of_mem {m n : Nat} (hm : m < mlenOf y) (hn : n < (x.mx.slot y.slot).nlen) :
    (momentStep x q y g).entry y.acc m n = BitVec.ofNat 64 (pairStep x q y g m n).1 ∧
      (momentStep x q y g).entry (y.acc + 1) m n = BitVec.ofNat 64 (pairStep x q y g m n).2.1 := by
  have hr := Nat.lt_of_lt_of_le hm (mlenOf_le_of_inArray h)
  have hc := Nat.lt_of_lt_of_le hn h.cols
  have hr' := (mlenOf_le_of_inArray h)
  have hc' := h.cols
  rw [← Prod.mk.injEq, momentStep_eq]
  refine foldl_observed_set (fun mx : Matrix => (mx.entry y.acc m n, mx.entry (y.acc + 1) m n)) (i := (m, n))
    (mem_pairs.mpr ⟨hm, hn⟩) (fun mx => ?_) (fun mx p hp hne => ?_) x.mx
  · simp [entry_setEntry _ _ hr hc hr hc]
  · obtain ⟨hp1, hp2⟩ := mem_pairs.mp hp
    have hmn : ¬ (m = p.1 ∧ n = p.2) := fun ⟨h1, h2⟩ => hne (Prod.ext h1.symm h2.symm)
    simp [entry_setEntry _ _ hr hc (Nat.lt_of_lt_of_le hp1 hr') (Nat.lt_of_lt_of_le hp2 hc'), hmn]

/-- No entry outside the window of the two accumulators changes. -/
theorem momentStep_entry_outside {a m n : Nat} (hm : m < 128) (hn : n < 128)
    (ho : (a ≠ y.acc ∧ a ≠ y.acc + 1) ∨ mlenOf y ≤ m ∨ (x.mx.slot y.slot).nlen ≤ n) :
    (momentStep x q y g).entry a m n = x.mx.entry a m n := by
  have hr := (mlenOf_le_of_inArray h)
  have hc := h.cols
  rw [momentStep_eq]
  refine foldl_observed_unchanged (fun mx : Matrix => mx.entry a m n) (fun mx p hp => ?_) x.mx
  obtain ⟨hp1, hp2⟩ := mem_pairs.mp hp
  rw [entry_orMsw, entry_setEntry _ _ hm hn (by omega) (by omega), if_neg (by omega),
    entry_setEntry _ _ hm hn (by omega) (by omega), if_neg (by omega)]

end

/-- A step ORs into MSW the flags of the pairs of entries of its window. -/
theorem momentStep_msw (x : Block) (q : MCmd) (y : MxOps) (g k : Nat) :
    (momentStep x q y g).msw.getLsbD k = true ↔ x.mx.msw.getLsbD k = true ∨
      ∃ m n, m < mlenOf y ∧ n < (x.mx.slot y.slot).nlen ∧ ((pairStep x q y g m n).2.2.setWidth 32).getLsbD k = true := by
  rw [momentStep_eq, foldl_msw (bits := fun p => (pairStep x q y g p.1 p.2).2.2.setWidth 32) fun _ _ => rfl]
  simp only [mem_pairs, Prod.exists, and_assoc]

end Sys2Proof.Machine
end

section
/-! SUPPORT. The step of one entry of a stream, class by class (R53 to R55, R214, R216), and the obligation about a
step of every class. -/

namespace Sys2Proof.Machine

/-! ### Two's complement -/

/-- A pattern of some bits lies below the power of two. -/
theorem wrapNat_lt (n : Nat) (t : Int) : wrapNat n t < 2 ^ n := by
  have h : (0 : Int) < (2 ^ n : Nat) := Int.natCast_pos.mpr (Nat.two_pow_pos n)
  have hlt := Int.emod_lt_of_pos t h
  have hge := Int.emod_nonneg t (Int.ne_of_gt h)
  unfold wrapNat
  omega

/-- A 64-bit pattern stands in an entry as it is. -/
@[simp] theorem toNat_ofNat_wrapNat (t : Int) : (BitVec.ofNat 64 (wrapNat 64 t)).toNat = wrapNat 64 t := by
  rw [BitVec.toNat_ofNat, Nat.mod_eq_of_lt (wrapNat_lt 64 t)]

/-- A 32-bit value lies in the signed 32-bit range. -/
theorem signedOf_32_mem (c : Nat) : -2147483648 ≤ signedOf 32 c ∧ signedOf 32 c ≤ 2147483647 := by
  simp only [signedOf]
  omega

/-- A value of the signed 32-bit range stands sign-extended in an entry. -/
theorem signedOf_wrapNat_of_mem_32 {t : Int} (h : -2147483648 ≤ t ∧ t ≤ 2147483647) : signedOf 64 (wrapNat 64 t) = t := by
  simp only [signedOf, wrapNat]
  omega

/-- SatT of the signed 32-bit type clamps to its range. -/
theorem satInt_32 (t : Int) : satInt true 32 t = max (-2147483648) (min 2147483647 t) := by
  simp only [satInt, intRange, if_true]
  split
  next => omega
  next => split <;> omega

/-! ### Integer streams -/

/-- The exact sum of the products of offset bytes of an integer step, G of R214. -/
def offsetProducts (x : Block) (q : MCmd) (y : MxOps) (g m n : Nat) : Int :=
  let w := x.mx.slot y.slot
  ((List.range (stepSize .integer)).map fun j =>
    let k := g * stepSize .integer + j
    (byteInt y.fmt (streamElem x q m k) - byteInt y.fmt y.za) * (byteInt w.fmt (w.raw k n) - byteInt w.fmt w.zw)).sum

/-- The step of an entry of an integer stream adds its sum of products in the mode of its accumulator. -/
theorem entryStep_integer {x : Block} {y : MxOps} (h : mclass y.fmt = .integer) (q : MCmd) (g m n : Nat) :
    entryStep x q y g m n =
      (BitVec.ofNat 64 (intStep (x.mx.mode y.acc) (x.mx.entry y.acc m n).toNat (offsetProducts x q y g m n)).1, 0,
        (intStep (x.mx.mode y.acc) (x.mx.entry y.acc m n).toNat (offsetProducts x q y g m n)).2) := by
  simp only [entryStep, h, offsetProducts, List.sum_eq_foldl, List.foldl_map]

/-- Mode S64 adds modulo 2^64. -/
theorem intStep_s64 (c : Nat) (t : Int) : intStep 3 c t = (wrapNat 64 (signedOf 64 c + t), false) := rfl

/-- Mode S32W adds modulo 2^32 and extends the sign. -/
theorem intStep_s32w (c : Nat) (t : Int) :
    intStep 2 c t = (wrapNat 64 (signedOf 32 (wrapNat 32 (signedOf 32 c + t))), false) := rfl

/-- Mode S32S clamps to the signed 32-bit range and says whether it did. -/
theorem intStep_s32s (c : Nat) (t : Int) :
    intStep 1 c t = (wrapNat 64 (max (-2147483648) (min 2147483647 (signedOf 32 c + t))),
      decide (signedOf 32 c + t < -2147483648 ∨ 2147483647 < signedOf 32 c + t)) := by
  simp only [intStep, satInt_32, Prod.mk.injEq, true_and, decide_eq_decide]
  omega

/-- An integer step saturates where mode S32S clamps. -/
theorem intStep_saturates {mode : Nat} (h1 : 1 ≤ mode) (h3 : mode ≤ 3) (c : Nat) (t : Int) :
    (intStep mode c t).2 = true ↔
      mode = 1 ∧ (signedOf 32 c + t < -2147483648 ∨ 2147483647 < signedOf 32 c + t) := by
  obtain rfl | rfl | rfl : mode = 1 ∨ mode = 2 ∨ mode = 3 := by omega
  · simp [intStep_s32s]
  · simp [intStep_s32w]
  · simp [intStep_s64]

/-- An entry that raises no flag raises ISAT, bit 5 of MSW, where it saturates. -/
theorem getLsbD_entryBits_noFlags (v : DWord) (sat : Bool) (k : Nat) :
    (entryBits (v, 0, sat)).getLsbD k = true ↔ k = 5 ∧ sat = true := by
  cases sat with
  | false => simp [entryBits]
  | true =>
    have h : 0x20#32 = BitVec.twoPow 32 5 := by decide
    simp [entryBits, h, BitVec.getLsbD_twoPow, eq_comm]

/-- R55, R213, R214: the entries of the window of an integer stream, MSW, and the entries outside. -/
theorem integerEntries : Claim.IntegerEntries := by
  intro x q y g _ hc ha w old new sum exact32 clamped
  have hnew : ∀ {m n}, m < mlenOf y → n < w.nlen → new m n =
      signedOf 64 (BitVec.ofNat 64 (intStep (x.mx.mode y.acc) (old m n) (sum m n)).1).toNat := fun {m n} hm hn => by
    simp only [new, gemmStep_entry_of_mem ha q g hm hn, entryStep_integer hc]
    rfl
  refine ⟨fun m n hm hn => ⟨fun h => ?s64, fun h => ?s32w, fun h => ?s32s⟩, fun h1 h3 => ?msw,
    fun a m n hm hn ho => gemmStep_entry_outside ha q g hm hn ho⟩
  case s64 => rw [hnew hm hn, h, intStep_s64, toNat_ofNat_wrapNat]
  case s32w =>
    rw [hnew hm hn, h, intStep_s32w, toNat_ofNat_wrapNat, signedOf_wrapNat_of_mem_32 (signedOf_32_mem _)]
  case s32s =>
    rw [hnew hm hn, h, intStep_s32s, toNat_ofNat_wrapNat, signedOf_wrapNat_of_mem_32 (by omega)]
  case msw =>
    have hbit (k : Nat) : (gemmStep x q y g).msw.getLsbD k = true ↔ x.mx.msw.getLsbD k = true ∨
        ∃ m n, m < mlenOf y ∧ n < w.nlen ∧ k = 5 ∧ clamped m n := by
      simp only [gemmStep_msw, entryStep_integer hc, getLsbD_entryBits_noFlags, intStep_saturates h1 h3]
      rfl
    exact ⟨fun k hk => Bool.eq_iff_iff.mpr (by simp [hbit, hk]), (hbit 5).trans (by simp)⟩

/-! ### Streams of numbers -/

/-- The step of an entry of a narrow stream (R53): the group's sum times the two scales is added with one rounding. -/
theorem entryStep_narrow {x : Block} {y : MxOps} (h : mclass y.fmt = .narrow) (q : MCmd) (g m n : Nat) :
    let w := x.mx.slot y.slot
    let sb := q.bv.getD 0 0
    let ks := (List.range 32).map fun j => 32 * g + j
    let r := narrowStep (x.mx.entry y.acc m n).toNat (ks.map fun k => (mulVal (streamVal x q y.fmt sb m k) (w.val k n)).1)
      (streamScale x y.fmt sb g m) (w.scale g n) (streamSnan x q y.fmt sb g m ks ||| w.snan g n ks)
    entryStep x q y g m n = (BitVec.ofNat 64 r.1, r.2, false) := by
  have hs : stepSize .narrow = 32 := rfl
  simp only [entryStep, h, hs, Nat.mul_comm g 32]

/-- The step of an entry of a half, single or double stream (R54) adds its products one at a time. -/
theorem entryStep_sequential {x : Block} {y : MxOps} (hn : mclass y.fmt ≠ .narrow) (hi : mclass y.fmt ≠ .integer) (q : MCmd)
    (g m n : Nat) :
    let w := x.mx.slot y.slot
    let size := stepSize (mclass y.fmt)
    let r := seqStep (mfmtFmt y.fmt) (mfmtFmt w.fmt)
      (((List.range size).map fun j => g * size + j).map fun k => (streamElem x q m k, w.raw k n)) (x.mx.entry y.acc m n).toNat
    entryStep x q y g m n = (BitVec.ofNat 64 r.1, r.2, false) := by
  dsimp only [entryStep]
  split
  next h => exact absurd h hn
  next h => exact absurd h hi
  next => rfl

/-- One product added to an entry and its flags (R39, R54). -/
def addProduct (f fw : Fmt) (c : Nat × Flags) (p : Nat × Nat) : Nat × Flags :=
  let r := roundTo .f64 (addVal false (mulVal (valueOf f p.1) (valueOf fw p.2)).1 (valueOf .f64 c.1)).1 .rn false
  (r.1, c.2 ||| r.2 ||| snanFlag .f64 [c.1] ||| snanFlag f [p.1] ||| snanFlag fw [p.2])

/-- The products of a step are added from the first to the last, and their flags are gathered. -/
theorem foldl_addProduct (f fw : Fmt) (ps : List (Nat × Nat)) (c : Nat) (fl : Flags) :
    ps.foldl (addProduct f fw) (c, fl) = ((seqStep f fw ps c).1, fl ||| (seqStep f fw ps c).2) := by
  induction ps generalizing c fl with
  | nil => simp [seqStep]
  | cons p ps ih =>
    rw [List.foldl_cons, addProduct, ih]
    simp only [seqStep, fmaVal, Prod.mk.injEq, true_and]
    ac_rfl

/-- The step of an entry adds its products from no flag. -/
theorem seqStep_eq_foldl (f fw : Fmt) (ps : List (Nat × Nat)) (c : Nat) :
    seqStep f fw ps c = ps.foldl (addProduct f fw) (c, 0) := by simp [foldl_addProduct]

/-- Where no entry saturates, the entries of the window are the results of their steps and their flags are ORed into MSW. -/
theorem gemmStep_window {x : Block} {y : MxOps} (ha : InArray x y) {q : MCmd} {g : Nat} {v : Nat → Nat → Nat}
    {fl : Nat → Nat → Flags} (h : ∀ m n, entryStep x q y g m n = (BitVec.ofNat 64 (v m n), fl m n, false)) :
    (∀ m n, m < mlenOf y → n < (x.mx.slot y.slot).nlen → (gemmStep x q y g).entry y.acc m n = BitVec.ofNat 64 (v m n)) ∧
      orsInto x y (gemmStep x q y g) fun m n => (fl m n).setWidth 32 :=
  ⟨fun m n hm hn => by rw [gemmStep_entry_of_mem ha q g hm hn, h], fun k => by simp [gemmStep_msw, h, entryBits]⟩

/-! ### Moment streams -/

/-- One K index of a moment step added to the pair of entries (R216). -/
def addMoments (w : WSlot) (n : Nat) (c : Nat × Nat) (p : Nat × Nat) : Nat × Nat :=
  let t := momTerms w p.1 n p.2
  ((accAdd c.1 t.1).1, (accAdd c.2 t.2.1).1)

/-- The terms of a moment step are added from the first K index to the last. -/
theorem momStep_eq_foldl (w : WSlot) (n : Nat) (ps : List (Nat × Nat)) (cm cv : Nat) :
    ((momStep w n ps cm cv).1, (momStep w n ps cm cv).2.1) = ps.foldl (addMoments w n) (cm, cv) := by
  induction ps generalizing cm cv with
  | nil => rfl
  | cons p ps ih => exact ih _ _

/-- A stream element or a weight whose variance is negative. -/
def negativeVariance (w : WSlot) (n k a : Nat) : Bool :=
  ltVal (valueOf .f32 (a / 2 ^ 32)) (.num false 0 1) ||
    (w.fmt = .mw && ltVal (valueOf .f32 (w.pair k n).2) (.num false 0 1))

/-- The variance term before its rounding. -/
def varianceTerm (w : WSlot) (n k a : Nat) : Val :=
  let times (a b : Val) : Val := (mulVal a b).1
  let mu := valueOf .f32 (a % 2 ^ 32)
  let v := valueOf .f32 (a / 2 ^ 32)
  let wm := valueOf .f32 (w.pair k n).1
  let wv := valueOf .f32 (w.pair k n).2
  if w.fmt = .mw then (addVal false (addVal false (times (times wm wm) v) (times (times wv mu) mu)).1
    (times wv v)).1 else times (times wm wm) v

/-- The mean term: the product of the two means. -/
def meanTerm (w : WSlot) (n k a : Nat) : Val := (mulVal (valueOf .f32 (w.pair k n).1) (valueOf .f32 (a % 2 ^ 32))).1

/-- The terms of one K index: the variance term is rounded first; a negative variance makes it a NaN and raises NV. -/
theorem momTerms_eq (w : WSlot) (k n a : Nat) :
    let r := roundTo .f64 (varianceTerm w n k a) .rn false
    let sn := snanFlag .f32 [a % 2 ^ 32, a / 2 ^ 32, (w.pair k n).1, (w.pair k n).2]
    momTerms w k n a = if negativeVariance w n k a = true then (meanTerm w n k a, .nan, r.2 ||| flagNV ||| sn)
      else (meanTerm w n k a, valueOf .f64 r.1, r.2 ||| sn) := rfl

/-- The mean and variance terms that are added to the pair of entries. -/
theorem addMoments_eq (w : WSlot) (n : Nat) (c p : Nat × Nat) :
    addMoments w n c p = ((accAdd c.1 (meanTerm w n p.1 p.2)).1,
      (accAdd c.2 (if negativeVariance w n p.1 p.2 = true then .nan
        else valueOf .f64 (roundTo .f64 (varianceTerm w n p.1 p.2) .rn false).1)).1) := by
  rw [addMoments, momTerms_eq]
  by_cases h : negativeVariance w n p.1 p.2 = true
  · simp only [if_pos h]
  · simp only [if_neg h]

/-- A negative variance raises NV. -/
theorem momTerms_nv {w : WSlot} {k n a : Nat} (h : negativeVariance w n k a = true) :
    (momTerms w k n a).2.2.getLsbD 0 = true := by
  have hnv : flagNV.getLsbD 0 = true := rfl
  simp only [momTerms_eq, if_pos h, BitVec.getLsbD_or, hnv, Bool.or_true, Bool.true_or]

/-- A moment step raises every flag that its terms raise. -/
theorem momStep_raises {w : WSlot} {n j : Nat} {ps : List (Nat × Nat)} {p : Nat × Nat} (hp : p ∈ ps)
    (h : (momTerms w p.1 n p.2).2.2.getLsbD j = true) (cm cv : Nat) : (momStep w n ps cm cv).2.2.getLsbD j = true := by
  induction ps generalizing cm cv with
  | nil => simp at hp
  | cons p' ps ih =>
    simp only [momStep, BitVec.getLsbD_or, Bool.or_eq_true]
    rcases List.mem_cons.mp hp with rfl | hp
    · exact .inl (.inl (.inl h))
    · exact .inr (ih hp _ _)

/-- A pair of entries raises NV where one of its K indices has a negative variance. -/
theorem pairStep_nv {x : Block} {q : MCmd} {y : MxOps} {g m n j : Nat} (hj : j < 32)
    (h : negativeVariance (x.mx.slot y.slot) n (32 * g + j) (streamElem x q m (32 * g + j)) = true) :
    (pairStep x q y g m n).2.2.getLsbD 0 = true :=
  momStep_raises (List.mem_map_of_mem (List.mem_range.mpr hj)) (momTerms_nv h) _ _

/-! ### The obligation -/

/-- R53, R54, R213, R216: sums of groups, the entries of the windows of the streams of numbers, MSW, and the entries outside. -/
theorem realSteps : Claim.RealSteps := by
  refine ⟨fun ps => ⟨?nan, fun s hn hi ho => ?inf, ?exact⟩, fun x q y g ha => ⟨?outside, ?narrow, ?sequential, ?moment⟩⟩
  case nan =>
    rintro (h | ⟨h, h'⟩)
    · exact foldl_addTerm_of_nan_mem h (.num false 0 1)
    · exact foldl_addTerm_of_both_inf_mem h h' (.num false 0 1)
  case inf => exact foldl_addTerm_num_of_inf_mem hn hi ho false 0 1
  case exact =>
    rintro ns rfl hns
    exact groupSum_exact hns
  case outside => exact fun a m n hm hn ho => gemmStep_entry_outside ha q g hm hn ho
  case narrow =>
    intro hc ks r
    refine gemmStep_window ha fun m n => ?_
    rw [entryStep_narrow hc]
    simp only [narrowStep, accAdd, BitVec.or_assoc, r, ks]
  case sequential =>
    intro hn hi size add r
    refine gemmStep_window ha fun m n => ?_
    rw [entryStep_sequential hn hi, seqStep_eq_foldl, List.foldl_map]
    rfl
  case moment =>
    intro hacc negative add r
    have hpair (m n : Nat) : ((pairStep x q y g m n).1, (pairStep x q y g m n).2.1) = r m n := by
      rw [pairStep, momStep_eq_foldl]
      simp only [r, List.foldl_map]
      congr
      funext c j
      rw [addMoments_eq]
      rfl
    refine ⟨fun m n hm hn => ?entries, fun a m n hm hn ho => momentStep_entry_outside ha q g hm hn ho,
      fun m n j hm hn hj hneg => ?nv, fun k hk => (momentStep_msw x q y g k).mpr (.inl hk)⟩
    case entries =>
      rw [← hpair]
      exact momentStep_entry_of_mem ha q g hm hn
    case nv =>
      refine (momentStep_msw x q y g 0).mpr (.inr ⟨m, n, hm, hn, ?_⟩)
      have hv : negativeVariance (x.mx.slot y.slot) n (32 * g + j) (streamElem x q m (32 * g + j)) = true := by
        simpa [negativeVariance, negative] using hneg
      simpa using pairStep_nv hj hv

/-- Settles O35: the integer streams, and the streams of numbers. -/
theorem integerStep : Obligations.IntegerStep := ⟨integerEntries, realSteps⟩

end Sys2Proof.Machine
end

section
/-! SHL, SHR, SAR and ROTL (R92): the computations on numbers as those on words, the short forms from their X form, and the
obligation about every form. -/

namespace Sys2Proof.Machine

/-! ### Shifts of numbers as shifts of words -/

/-- The two's-complement value of a word's number is the word's. -/
theorem signedOf_toNat {n : Nat} (a : BitVec n) : signedOf n a.toNat = a.toInt := by
  rw [signedOf, BitVec.toInt_eq_toNat_cond, Nat.mod_eq_of_lt a.isLt]
  cases n with
  | zero => simp [BitVec.eq_nil a]
  | succ n =>
    have hpow : 2 ^ (n + 1) = 2 * 2 ^ n := Nat.pow_succ'
    simp only [Nat.add_sub_cancel, hpow, Nat.mul_lt_mul_left (Nat.zero_lt_two)]

/-- The pattern of an integer, as a word. -/
theorem ofNat_wrapNat (n : Nat) (t : Int) : BitVec.ofNat n (wrapNat n t) = BitVec.ofInt n t :=
  BitVec.eq_of_toNat_eq (by rw [BitVec.toNat_ofNat, Nat.mod_eq_of_lt (wrapNat_lt n t), BitVec.toNat_ofInt, wrapNat])

/-- SHL on numbers is the shift of the word below its width, and 0 from there on. -/
theorem ofNat_shlN {n : Nat} (a : BitVec n) (k : Nat) :
    BitVec.ofNat n (shlN n a.toNat k) = if k < n then a <<< k else 0 := by
  rw [shlN]
  split
  next => exact BitVec.eq_of_toNat_eq (by simp [BitVec.toNat_shiftLeft, Nat.shiftLeft_eq])
  next => rfl

/-- SHR on numbers is the shift of the word below its width, and 0 from there on. -/
theorem ofNat_shrN {n : Nat} (a : BitVec n) (k : Nat) :
    BitVec.ofNat n (shrN n a.toNat k) = if k < n then a >>> k else 0 := by
  rw [shrN]
  split
  next =>
    have hlt : a.toNat / 2 ^ k < 2 ^ n := Nat.lt_of_le_of_lt (Nat.div_le_self _ _) a.isLt
    refine BitVec.eq_of_toNat_eq ?_
    rw [BitVec.toNat_ofNat, Nat.mod_eq_of_lt a.isLt, Nat.mod_eq_of_lt hlt, BitVec.toNat_ushiftRight,
      Nat.shiftRight_eq_div_pow]
  next => rfl

/-- SAR on numbers is the arithmetic shift of the word by no more than its width. -/
theorem ofNat_sarN {n : Nat} (a : BitVec n) (k : Nat) :
    BitVec.ofNat n (sarN n a.toNat k) = a.sshiftRight (min k n) := by
  rw [sarN, ofNat_wrapNat, signedOf_toNat, ← Int.shiftRight_eq_div_pow, ← BitVec.toInt_sshiftRight, BitVec.ofInt_toInt]

/-- The two parts of a rotation share no bit. -/
theorem shiftLeft_and_ushiftRight_eq_zero {n : Nat} (a : BitVec n) (r : Nat) : a <<< r &&& a >>> (n - r) = 0#n := by
  ext i hi
  have hout : r ≤ i → a.getLsbD (n - r + i) = false := fun h => BitVec.getLsbD_of_ge _ _ (by omega)
  by_cases h : i < r
  · simp [h]
  · simp [hout (by omega)]

/-- ROTL on numbers is the rotation of the word by the count modulo its width. -/
theorem ofNat_rotlN {n : Nat} (a : BitVec n) (k : Nat) :
    BitVec.ofNat n (rotlN n a.toNat k) = a.rotateLeft (k % n) := by
  rw [BitVec.rotateLeft_def, Nat.mod_mod, ← BitVec.add_eq_or_of_and_eq_zero _ _ (shiftLeft_and_ushiftRight_eq_zero a _)]
  refine BitVec.eq_of_toNat_eq ?_
  rw [rotlN, Nat.mod_eq_of_lt a.isLt, BitVec.toNat_ofNat, BitVec.toNat_add, BitVec.toNat_shiftLeft,
    BitVec.toNat_ushiftRight, Nat.shiftLeft_eq, Nat.shiftRight_eq_div_pow]

/-! ### Every form of a shift -/

/-- A shift of shape X writes its value computed on numbers. -/
theorem runs_shift {i : Instr} {x : XOps} {f : Nat → Nat → Nat → Nat}
    (hx : ∀ s, exec i s = issue s i fun s e => complete s e (shift e x f)) :
    Runs i fun e => resultOf e x x.t fun l => f (tyBits x.t) (e.cw.opA x x.t l) (e.cw.opBz x l) :=
  runs_onLanes (uni := fun _ => x.y)
    (f := fun e l => (resultWrites x.y x.t x.d l (f (tyBits x.t) (e.cw.opA x x.t l) (e.cw.opBz x l)), 0)) hx fun _ _ => rfl

/-- `f` computes on numbers what `g` computes on words. -/
def ComputesWords (f : Nat → Nat → Nat → Nat) (g : Word → Word → Word) : Prop :=
  ∀ a k : Word, BitVec.ofNat 32 (f 32 a.toNat k.toNat) = g a k

/-- The writes of a short form whose computation on numbers is one on words. -/
theorem resultWrites_word {f : Nat → Nat → Nat → Nat} {g : Word → Word → Word} (hf : ComputesWords f g) (d l : Nat)
    (a k : Word) : resultWrites false .s32 d l (f 32 a.toNat k.toNat) = [.v d l (g a k)] := by
  rw [← hf]
  rfl

/-- An operand of one register is that register's number. -/
theorem opd_one {w : Crew} {uni : Bool} {t : Ty} (ht : tyRegs t = 1) (r l : Nat) :
    w.opd uni t r l = (if uni then w.rs r else w.rv r l).toNat := by
  simp [Crew.opd, ht, Crew.regs]

/-- The count of shape R2 is its operand b as one register. -/
theorem opBz_r2X (e : Env) (x : R2) (l : Nat) : e.cw.opBz (r2X x) l = (r2B e x l).toNat := by
  simp only [Crew.opBz, opd_one (t := .z32) rfl]
  rfl

/-- The count of an immediate form is the low 13 bits of its immediate, whatever the crew holds. -/
theorem opBz_imm (w : Crew) {x : XOps} (hk : x.k = true) (l : Nat) :
    w.opBz x l = (BitVec.ofNat 32 (x.imm % 8192)).toNat := by
  rw [Crew.opBz, if_pos hk, BitVec.toNat_ofNat]
  omega

section
variable {f : Nat → Nat → Nat → Nat} {g : Word → Word → Word} (hf : ComputesWords f g) {i : Instr}
include hf

/-- A shift whose X form is per lane and of type S32 shifts the words of its first register by the words of its count. -/
theorem runs_shiftWord {x : XOps} (hy : x.y = false) (ht : x.t = .s32) {count : Env → Nat → Word}
    (hc : ∀ e l, e.cw.opBz x l = (count e l).toNat)
    (hx : ∀ s, exec i s = issue s i fun s e => complete s e (shift e x f)) :
    Runs i fun e => written false e.part fun l => [.v x.d l (g (e.cw.rv x.a l) (count e l))] := by
  have ha (e : Env) (l : Nat) : e.cw.opA x .s32 l = (e.cw.rv x.a l).toNat := by
    rw [Crew.opA, opd_one rfl, hy, if_neg Bool.false_ne_true]
  have hw (e : Env) (l : Nat) : resultWrites x.y x.t x.d l (f (tyBits x.t) (e.cw.opA x x.t l) (e.cw.opBz x l)) =
      [.v x.d l (g (e.cw.rv x.a l) (count e l))] := by
    rw [ht, hy, ha, hc]
    exact resultWrites_word hf x.d l _ _
  have h := runs_shift hx
  simp only [resultOf, hw] at h
  rwa [hy] at h

/-- A shift of shape R2 counts with a uniform register or the lane's own. -/
theorem runs_shiftR2 {x : R2} (hx : ∀ s, exec i s = issue s i fun s e => complete s e (shift e (r2X x) f)) :
    Runs i fun e => written false e.part fun l => [.v x.d l (g (e.cw.rv x.a l) (r2B e x l))] :=
  runs_shiftWord hf (x := r2X x) rfl rfl (count := fun e => r2B e x) (fun e l => opBz_r2X e x l) hx

/-- A shift by an immediate counts with its low 13 bits. -/
theorem runs_shiftImm {h : Hdr} {d a c : Nat}
    (hx : ∀ s, exec i s = issue s i fun s e => complete s e (shift e { xForm h d a 0 with k := true, imm := c } f)) :
    Runs i fun e => written false e.part fun l => [.v d l (g (e.cw.rv a l) (BitVec.ofNat 32 (c % 8192)))] :=
  runs_shiftWord hf (x := { xForm h d a 0 with k := true, imm := c }) rfl rfl
    (count := fun _ _ => BitVec.ofNat 32 (c % 8192)) (fun e l => opBz_imm e.cw rfl l) hx

end

/-! ### The obligation -/

/-- Settles O4: on words the computations are the shifts and the rotation of the rule, and each form runs its own. -/
theorem shiftResults : Obligations.ShiftResults := by
  unfold Obligations.ShiftResults
  intro shl shr sar rot r2 i6 i16 xs
  have hshl : ComputesWords shlN shl := fun a k => ofNat_shlN a k.toNat
  have hshr : ComputesWords shrN shr := fun a k => ofNat_shrN a k.toNat
  have hsar : ComputesWords sarN sar := fun a k => ofNat_sarN a k.toNat
  have hrot : ComputesWords rotlN rot := fun a k => ofNat_rotlN a k.toNat
  refine ⟨fun x => ?r2, fun x => ?i6, fun d b => ?i16, fun x => ?x⟩
  case r2 =>
    exact ⟨runs_shiftR2 hshl fun _ => rfl, runs_shiftR2 hshr fun _ => rfl, runs_shiftR2 hsar fun _ => rfl,
      runs_shiftR2 hrot fun _ => rfl⟩
  case i6 =>
    exact ⟨runs_shiftImm hshl fun _ => rfl, runs_shiftImm hshr fun _ => rfl, runs_shiftImm hsar fun _ => rfl,
      runs_shiftImm hrot fun _ => rfl⟩
  case i16 => exact ⟨runs_shiftImm hshl fun _ => rfl, runs_shiftImm hshr fun _ => rfl, runs_shiftImm hsar fun _ => rfl⟩
  case x =>
    exact ⟨runs_shift fun _ => rfl, runs_shift fun _ => rfl, runs_shift fun _ => rfl, runs_shift fun _ => rfl⟩

end Sys2Proof.Machine
end

section
/-! BRA, BRX, CALL and RET (R103 to R107): the target of an offset, what a spill instruction does where its block carries no
storage error, and the obligation about them. -/

namespace Sys2Proof.Machine

/-- The target of shape B is the sum, modulo 2^32, of the issue PC and twice the sign-extended offset (R103). -/
theorem branchTarget_eq (e : Env) (x : BOps) :
    branchTarget e x = e.ipc + 2 * (BitVec.ofNat 20 x.off).signExtend 32 := by
  have hoff : signedOf 20 x.off = (BitVec.ofNat 20 x.off).toInt := by
    rw [← signedOf_toNat, BitVec.toNat_ofNat, signedOf, signedOf, Nat.mod_mod]
  rw [branchTarget, hoff, BitVec.ofInt_mul]
  rfl

/-- A control instruction with the block given takes the lanes of P(c) to their targets and the others on. -/
theorem goTo_movedOn (s : State) (e : Env) (blk : Block) (f : Nat → Word) :
    goTo s e blk f = .next (movedOn s e blk (jumped s e fun l => if e.part.getLsbD l then f l else e.next)) := rfl

/-- Spill words written in a block without storage errors change nothing but the spill area. -/
theorem spilled_clean {x : Block} (h : x.errs = []) (m : Sparse Byte) (e : Env) (f : Nat → List Nat) :
    x.spilled m e f = { x with spill := m } := by
  simp [Block.spilled, h]

/-! ### The instructions at issue -/

/-- An issued BRA takes the lanes of P(c) to its target. -/
theorem exec_bra_ready {x : BOps} {s : State} {e : Env} (h : Ready s (.bra x) e) :
    exec (.bra x) s = goTo s e e.blk fun _ => branchTarget e x := issue_ready h _

/-- An issued BRX takes the lanes of P(c) to the even part of their register. -/
theorem exec_brx_ready {x : R4} {s : State} {e : Env} (h : Ready s (.brx x) e) :
    exec (.brx x) s = goTo s e e.blk fun l => e.cw.rv x.a l &&& 0xFFFFFFFE := issue_ready h _

/-- An issued CALL raises cause 0x0C where a lane has no room, and otherwise pushes and jumps. -/
theorem exec_call_ready {x : BOps} {s : State} {e : Env} (h : Ready s (.call x) e) :
    exec (.call x) s = if overrun e ≠ 0 then trapAt s e 0x0C 0 (overrun e) else
      goTo s e { e.blk with spill := pushed e } fun _ => branchTarget e x := by
  refine (issue_ready h _).trans ?_
  rw [spillChecked_clean h.clean, spilled_clean h.clean]

/-- An issued RET raises cause 0x0D where a lane has nothing to return to, and otherwise pops and returns. -/
theorem exec_ret_ready {x : R4} {s : State} {e : Env} (h : Ready s (.ret x) e) :
    exec (.ret x) s = if atBottom e ≠ 0 then trapAt s e 0x0D 0 (atBottom e) else
      goTo s e { e.blk with spill := popped e } (returnPc e) := by
  refine (issue_ready h _).trans ?_
  rw [spillChecked_clean h.clean]

/-! ### The obligation -/

/-- R103, R107: BRA and BRX. -/
theorem branchResults : Claim.BranchResults :=
  ⟨fun x s e h => by rw [exec_bra_ready h, goTo_movedOn, branchTarget_eq],
    fun x s e h => by rw [exec_brx_ready h, goTo_movedOn]⟩

/-- R104 to R106: CALL and RET, by whether some lane has no room or nothing to return to. -/
theorem callAndReturn : Claim.CallAndReturn := by
  refine ⟨fun x s e h => ?call, fun x s e h => ?ret⟩
  case call =>
    by_cases hroom : overrun e = 0
    · rw [if_pos hroom, exec_call_ready h, if_neg (not_not_intro hroom), goTo_movedOn, branchTarget_eq]
    · rw [if_neg hroom, exec_call_ready h, if_pos hroom, trapAt]
  case ret =>
    by_cases habove : atBottom e = 0
    · rw [if_pos habove, exec_ret_ready h, if_neg (not_not_intro habove), goTo_movedOn]
    · rw [if_neg habove, exec_ret_ready h, if_pos habove, trapAt]

/-- Settles O12: branches, and calls and returns. -/
theorem branchesAndCalls : Obligations.BranchesAndCalls := ⟨branchResults, callAndReturn⟩

end Sys2Proof.Machine
end

section
/-! TRAP, BKPT and TRET (R116, R117, R171): a park for a trap entry, the PCs after the trap routine, and the obligation. -/

namespace Sys2Proof.Machine

/-! ### The PCs of lanes -/

/-- The lanes of a mask, in the order of the machine, are those whose bit is set. -/
theorem mem_lanesOf {m : Word} {l : Nat} : l ∈ lanesOf m ↔ m.getLsbD l = true := by
  have hlt : m.getLsbD l = true → l < 32 := BitVec.lt_of_getLsbD
  simpa only [lanesOf, allLanes, inMask, List.mem_filter, List.mem_range, and_iff_right_iff_imp] using hlt

/-- A lane whose PC was set stands there. -/
theorem getAt_setPcs {w : Crew} {m : Word} {l : Nat} (h : m.getLsbD l = true) (f : Nat → Word) :
    getAt 0 (w.setPcs m f).pcv l = f l :=
  foldl_observed_set (fun t => getAt 0 t l) (mem_lanesOf.mpr h) (fun t => getAt_setAt_self 0 t l (f l))
    (fun t j _ hj => getAt_setAt_ne 0 t j l (f j) hj.symm) w.pcv

/-- After the trap routine a live lane of TRAPM stands at TRAPPC, another live lane where it stood at entry (R117). -/
theorem leaveTrap_pcOf {w : Crew} {l : Nat} (h : w.live.getLsbD l = true) :
    w.leaveTrap.pcOf l = if w.trapm.getLsbD l then w.trappc else getAt 0 w.rpcv l :=
  (if_pos h).trans (getAt_setPcs h _)

/-! ### The park of a trap entry -/

/-- A crew that parks for its trap entry enters the routine at once where nothing is outstanding, and waits otherwise (R30,
R169). -/
theorem park_trap {s : State} {b c : Nat} {x : Block} {w : Crew} (hb : s.block b = some x) (hw : look x.crews c = some w)
    (t : Trap) :
    s.park b c (.trap t) = s.setBlock b (x.setCrew c
      (if w.outs = [] then Crew.enterTrap { w with wait := .parked (.trap t) } x.r.trapr t
       else { w with wait := .parked (.trap t) })) := by
  by_cases ho : w.outs = []
  · simp [State.park, State.unparkNow, State.crew, State.setCrew, hb, hw, ho]
  · simp [State.park, State.crew, State.setCrew, hb, hw, ho]

/-! ### The instructions at issue -/

/-- A per-crew instruction that completes only moves on where no lane takes part, and has its own effect otherwise (R21). -/
theorem perCrew_next (s : State) (e : Env) (t : State) :
    perCrew s e (.next t) = .next (if e.part = 0 then settled s e [] 0 false else t) := by
  by_cases hp : e.part = 0
  · rw [perCrew_empty hp, if_pos hp]
  · rw [perCrew_participating hp, if_neg hp]

/-- An issued TRET without a lane in P(c) only moves on (R21). -/
theorem exec_tret_empty {x : NOps} {s : State} {e : Env} (h : Ready s (.tret x) e) (hp : e.part = 0) :
    exec (.tret x) s = .next (settled s e [] 0 false) := (issue_ready h _).trans (perCrew_empty hp _)

section
variable {x : NOps} {s : State} {e : Env} (h : Ready s (.tret x) e) (hp : e.part ≠ 0)
include h hp

/-- An issued TRET outside the trap routine raises cause 0x10 (R117). -/
theorem exec_tret_outside (hout : e.cw.inTrap = false) : exec (.tret x) s = .next (s.raiseAt e 0x10 0 e.act) := by
  refine (issue_ready h _).trans ?_
  rw [perCrew_participating hp, if_neg (by simp [hout]), trapAt]

/-- An issued TRET in the trap routine returns where no cause is held (R117). -/
theorem exec_tret_returns (hin : e.cw.inTrap = true) (hheld : e.cw.held = none) :
    exec (.tret x) s = .next (movedOn s e e.blk (Env.issued s e.cw.leaveTrap)) := by
  refine (issue_ready h _).trans ?_
  rw [perCrew_participating hp, if_pos hin, hheld, movedOn]

/-- An issued TRET in the trap routine with a held cause returns and parks to enter the routine again (R171). -/
theorem exec_tret_held (hin : e.cw.inTrap = true) {l : Late} (hheld : e.cw.held = some l) :
    exec (.tret x) s = .next ((s.setBlock e.b (e.blk.setCrew e.c (Env.issued s e.cw.leaveTrap))).park e.b e.c
      (.trap { l.trap with next := e.next })) := by
  refine (issue_ready h _).trans ?_
  rw [perCrew_participating hp, if_pos hin, hheld]

end

/-! ### The obligation -/

/-- R116, R117: TRAP and BKPT, by whether a lane takes part. -/
theorem trapAndBreakpoint : Claim.TrapAndBreakpoint := fun _ s e =>
  ⟨fun h => (issue_ready h _).trans (perCrew_next s e _), fun h => (issue_ready h _).trans (perCrew_next s e _)⟩

/-- R117, R171: TRET, by whether a lane takes part, whether the crew is in its trap routine, and whether a cause is held. -/
theorem trapReturn : Claim.TrapReturn := by
  intro x s e h
  refine ⟨exec_tret_empty h, fun hout hp => exec_tret_outside h hp hout,
    fun hin hp hheld => exec_tret_returns h hp hin hheld, fun hin hp l hheld => ?again,
    rfl, rfl, fun l hl => leaveTrap_pcOf hl⟩
  case again =>
    rw [exec_tret_held h hp hin hheld, park_trap (State.setBlock_block_self _ _ _) (Block.setCrew_self _ _ _),
      State.setBlock_setBlock, Block.setCrew_setCrew]
    rfl

/-- Settles O15: TRAP and BKPT, and TRET. -/
theorem trapInstructions : Obligations.TrapInstructions := ⟨trapAndBreakpoint, trapReturn⟩

end Sys2Proof.Machine
end

section
/-! QSCL, QPK, QUPK, CTAB.W, CTAB.SWAP and LUT4 (R130 to R136): the word that a packing lane takes as a sum of codes, what a
write of the code table sets and keeps, and the obligation about block quantisation. -/

namespace Sys2Proof.Machine

/-! ### Scales and codes -/

/-- A form of one 32-bit register per lane completes with that register's writes and the flags of each lane. -/
theorem runsFl_laneWord {i : Instr} {d : Nat} {f : Env → Nat → Nat × Flags}
    (hx : ∀ s, exec i s = issue s i fun s e =>
      complete s e (perLane e.part fun l => (regWrites false d l (f e l).1 1, (f e l).2))) :
    RunsFl i (fun e => written false e.part fun l => [.v d l (BitVec.ofNat 32 (f e l).1)]) fun e l => (f e l).2 :=
  runsFl_onLanes (uni := fun _ => false) (f := fun e l => (regWrites false d l (f e l).1 1, (f e l).2)) hx

/-- Codes put before a word lowest first, by Horner's rule, are the sum of the codes in their places and of the word above
them. -/
theorem foldr_pack (f : Nat → Nat) (b n z : Nat) :
    (List.range n).foldr (fun k r => f k + b * r) z = ((List.range n).map fun k => f k * b ^ k).sum + b ^ n * z := by
  induction n generalizing z with
  | zero => simp only [List.range_zero, List.foldr_nil, List.map_nil, List.sum_nil, Nat.pow_zero, Nat.one_mul, Nat.zero_add]
  | succ n ih =>
    have hstep : b ^ n * (f n + b * z) = f n * b ^ n + b ^ (n + 1) * z := by
      rw [Nat.mul_add, Nat.mul_comm (b ^ n) (f n), ← Nat.mul_assoc, ← Nat.pow_succ]
    simp only [List.range_succ, List.foldr_append, List.foldr_cons, List.foldr_nil, ih, hstep, List.map_append,
      List.sum_append_nat, List.map_cons, List.map_nil, List.sum_cons, List.sum_nil, Nat.add_zero, Nat.add_assoc]

/-- Codes packed lowest first by Horner's rule are the sum of the codes in their places. -/
theorem foldr_pack_eq_sum (f : Nat → Nat) (b n : Nat) :
    (List.range n).foldr (fun k r => f k + b * r) 0 = ((List.range n).map fun k => f k * b ^ k).sum := by
  rw [foldr_pack, Nat.mul_zero, Nat.add_zero]

/-- The code that QPK packs for a lane: nothing from a lane outside P(c) (R131). -/
def packedCode (e : Env) (x : XOps) (l : Nat) : Nat :=
  if e.part.getLsbD l then (qpkCode e x l).1 % 2 ^ codeBits x.t else 0

/-- The word that QPK leaves in a lane: the codes of the lanes it packs, each in its place, and 0 in the lanes past the last
word (R131). -/
def packedWord (e : Env) (x : XOps) (l : Nat) : Nat :=
  if l < codeBits x.t then
    ((List.range (32 / codeBits x.t)).map fun k =>
      packedCode e x (l * (32 / codeBits x.t) + k) * 2 ^ (codeBits x.t * k)).sum
  else 0

/-- QPK writes the packed words and raises the flags of each lane's code (R131). -/
theorem qpkEff_eq (e : Env) (x : XOps) :
    qpkEff e x = perLane e.part fun l => (regWrites false x.d l (packedWord e x l) 1, (qpkCode e x l).2) := by
  have hword (l : Nat) : (List.range (32 / codeBits x.t)).foldr
      (fun k r => packedCode e x (l * (32 / codeBits x.t) + k) + 2 ^ codeBits x.t * r) 0 =
      ((List.range (32 / codeBits x.t)).map fun k =>
        packedCode e x (l * (32 / codeBits x.t) + k) * 2 ^ (codeBits x.t * k)).sum := by
    simp only [foldr_pack_eq_sum, Nat.pow_mul]
  simp only [packedWord, ← hword]
  rfl

/-- The code that QUPK reads for a lane from the packed words (R132). -/
def unpackedCode (e : Env) (x : XOps) (l : Nat) : Nat :=
  bitsOf (e.cw.rv x.a (l / (32 / codeBits x.t))).toNat (l % (32 / codeBits x.t) * codeBits x.t) (codeBits x.t)

/-- Words of S8 and of Z8 hold four codes of 8 bits (R129). -/
theorem unpackedCode_q8 {x : XOps} (ht : x.t = .s8 ∨ x.t = .z8) (e : Env) (l : Nat) :
    unpackedCode e x l = bitsOf (e.cw.rv x.a (l / 4)).toNat (l % 4 * 8) 8 := by
  have hbits : codeBits x.t = 8 := by rcases ht with h | h <;> simp [codeBits, h]
  rw [unpackedCode, hbits]

/-- The value and the flags of QUPK in a lane where T is an integer type (R45, R132). -/
def unpackedQ8 (e : Env) (x : XOps) (l : Nat) : Nat × Flags :=
  q8Value (x.t = .z8) (unpackedCode e x l) (e.cw.opB x .z32 l)

/-- The value and the flags of QUPK in a lane where T is a float type (R132). -/
def unpackedFloat (e : Env) (x : XOps) (l : Nat) : Nat × Flags :=
  let r := roundTo .f32 (mulVal (valueOf (elemFmt x.t).1 (unpackedCode e x l)) (laneScale e x l).1).1 (rndOf x.rnd) x.o
  (r.1, r.2 ||| qupkInvalid e x (unpackedCode e x l) l)

/-- QUPK of S8 and of Z8 decodes a code of 8 bits (R132). -/
theorem qupkEff_q8 {x : XOps} (ht : x.t = .s8 ∨ x.t = .z8) (e : Env) :
    qupkEff e x = perLane e.part fun l => (regWrites false x.d l (unpackedQ8 e x l).1 1, (unpackedQ8 e x l).2) := by
  rcases ht with hs | hz
  · simp only [qupkEff, unpackedQ8, unpackedCode, hs, reduceCtorEq, decide_false]
  · simp only [qupkEff, unpackedQ8, unpackedCode, hz, decide_true]

/-- QUPK of a float type decodes an element of that type (R132). -/
theorem qupkEff_float {x : XOps} (hs : x.t ≠ .s8) (hz : x.t ≠ .z8) (e : Env) :
    qupkEff e x =
      perLane e.part fun l => (regWrites false x.d l (unpackedFloat e x l).1 1, (unpackedFloat e x l).2) := by
  refine congrArg (perLane e.part) (funext fun l => ?_)
  dsimp only
  split
  next h => exact absurd h hs
  next h => exact absurd h hz
  next => rfl

/-- The meaning that the dispatch gives QPK. -/
theorem exec_qpk (x : XOps) (s : State) :
    exec (.qpk x) s = issue s (.qpk x) fun s e => complete s e (qpkEff e x) := rfl

/-- The meaning that the dispatch gives QUPK. -/
theorem exec_qupk (x : XOps) (s : State) :
    exec (.qupk x) s = issue s (.qupk x) fun s e => complete s e (qupkEff e x) := rfl

/-! ### The code table -/

/-- The value of LUT4 in a lane, by its type (R136). -/
def lut4Value (e : Env) (x : XOps) (l : Nat) : Nat :=
  if x.t = .f32 then (fCvt .bf16 .f32 .rn false (ctValue e.blk (bitsOf (e.cw.opA x .z32 l) (4 * x.v) 4))).1
  else ctValue e.blk (bitsOf (e.cw.opA x .z32 l) (8 * x.v) 4)
    + 65536 * ctValue e.blk (bitsOf (e.cw.opA x .z32 l) (8 * x.v + 4) 4)

/-- LUT4 of F32 decodes one code to the exact number of its entry (R136). -/
theorem lut4Value_f32 {x : XOps} (ht : x.t = .f32) (e : Env) : lut4Value e x = fun l =>
    (fCvt .bf16 .f32 .rn false (ctValue e.blk (bitsOf (e.cw.opA x .z32 l) (4 * x.v) 4))).1 := funext fun _ => if_pos ht

/-- LUT4 of another type takes the entries of two codes (R136). -/
theorem lut4Value_pair {x : XOps} (ht : x.t ≠ .f32) (e : Env) : lut4Value e x = fun l =>
    ctValue e.blk (bitsOf (e.cw.opA x .z32 l) (8 * x.v) 4)
      + 65536 * ctValue e.blk (bitsOf (e.cw.opA x .z32 l) (8 * x.v + 4) 4) := funext fun _ => if_neg ht

/-- LUT4 writes its value and raises no flag (R136). -/
theorem runs_lut4 (x : XOps) : Runs (.lut4 x) fun e => resultOf e x .z32 (lut4Value e x) :=
  runs_onLanes (uni := fun _ => x.y) (f := fun e l => (resultWrites x.y .z32 x.d l (lut4Value e x l), 0)) (fun _ => rfl)
    fun _ _ => rfl

/-- One entry of the inactive bank written by a lane (R134). -/
def ctabPut (e : Env) (x : XOps) (m : Sparse (BitVec 16)) (l : Nat) : Sparse (BitVec 16) :=
  setAt 0 m (16 * (!e.blk.bank).toNat + e.cw.opB x .z32 l % 16) (BitVec.ofNat 16 (e.cw.opA x .z32 l))

/-- There are no more than 32 lanes in a mask. -/
theorem length_lanesOf_le (m : Word) : (lanesOf m).length ≤ 32 :=
  List.length_filter_le (inMask m) allLanes

/-- CTAB.W writes an entry for each lane of its form, in ascending order (R134). -/
theorem ctabWritten_eq (e : Env) (x : XOps) :
    ctabWritten e x = (formLanes x.y e.part).foldl (ctabPut e x) e.blk.ctab := by
  have hlanes : (lanesOf e.part).take (if x.y then 1 else 32) = formLanes x.y e.part := by
    unfold formLanes
    split
    next => rfl
    next => exact List.take_of_length_le (length_lanesOf_le e.part)
  rw [ctabWritten, hlanes]
  rfl

/-- The entries of the two banks stand at different places (R133). -/
theorem bankEntry_ne (b : Bool) {j k : Nat} (hj : j < 16) (hk : k < 16) : 16 * b.toNat + k ≠ 16 * (!b).toNat + j := by
  have hone : b.toNat + (!b).toNat = 1 := by cases b <;> rfl
  omega

section
variable (e : Env) (x : XOps)

/-- CTAB.W leaves the active bank as it was (R134). -/
theorem ctabWritten_active {k : Nat} (hk : k < 16) :
    getAt 0 (ctabWritten e x) (16 * e.blk.bank.toNat + k) = e.blk.ctEntry e.blk.bank k := by
  rw [ctabWritten_eq]
  exact foldl_observed_unchanged (getAt 0 · (16 * e.blk.bank.toNat + k))
    (fun m _ _ => getAt_setAt_ne 0 m _ _ _ (bankEntry_ne e.blk.bank (Nat.mod_lt _ (by decide)) hk)) e.blk.ctab

/-- CTAB.W leaves an entry of the inactive bank that no lane of its form names (R134). -/
theorem ctabWritten_unnamed {k : Nat} (hk : ∀ l ∈ formLanes x.y e.part, e.cw.opB x .z32 l % 16 ≠ k) :
    getAt 0 (ctabWritten e x) (16 * (!e.blk.bank).toNat + k) = e.blk.ctEntry (!e.blk.bank) k := by
  rw [ctabWritten_eq]
  exact foldl_observed_unchanged (getAt 0 · (16 * (!e.blk.bank).toNat + k))
    (fun m l hl => getAt_setAt_ne 0 m _ _ _ fun h => hk l hl (Nat.add_left_cancel h).symm) e.blk.ctab

/-- The value of the highest lane remains in the entry that it names (R134). -/
theorem ctabWritten_last {l : Nat} (hl : (formLanes x.y e.part).getLast? = some l) :
    getAt 0 (ctabWritten e x) (16 * (!e.blk.bank).toNat + e.cw.opB x .z32 l % 16) =
      BitVec.ofNat 16 (e.cw.opA x .z32 l) := by
  obtain ⟨ls, hls⟩ := List.getLast?_eq_some_iff.mp hl
  rw [ctabWritten_eq, hls, List.foldl_append, List.foldl_cons, List.foldl_nil]
  exact getAt_setAt_self 0 _ _ _

end

/-- An issued CTAB.W writes the code table and moves on. -/
theorem exec_ctabW_ready {x : XOps} {s : State} {e : Env} (h : Ready s (.ctabW x) e) :
    exec (.ctabW x) s = .next (movedOn s e { e.blk with ctab := ctabWritten e x } (e.advance s e.cw)) :=
  issue_ready h _

/-- A crew that writes nothing and raises nothing only advances. -/
theorem crewAfter_nil (s : State) (e : Env) : crewAfter s e [] 0 false = e.advance s e.cw := by
  have hw : e.cw.write [] = e.cw := rfl
  have hfpc : e.cw.fpc ||| (0 : Flags).setWidth 32 = e.cw.fpc := by simp
  simp only [crewAfter, hw, advance_fpc, advance_mclf, hfpc, Bool.or_false]
  rfl

/-- An issued CTAB.SWAP makes the other bank active where a lane takes part, and only moves on where none does. -/
theorem exec_ctabSwap_ready {x : XOps} {s : State} {e : Env} (h : Ready s (.ctabSwap x) e) :
    exec (.ctabSwap x) s = .next (movedOn s e
      { e.blk with bank := if e.part = 0 then e.blk.bank else !e.blk.bank } (e.advance s e.cw)) := by
  refine (issue_ready h _).trans ?_
  by_cases hp : e.part = 0
  · rw [perCrew_empty hp, if_pos hp, settled, crewAfter_nil]
  · rw [perCrew_participating hp, if_neg hp]
    rfl

/-! ### The obligation -/

/-- R130 to R132, R136: QSCL, QPK, QUPK by the kind of its type, and LUT4 by its type. -/
theorem quantResults : Claim.QuantResults := by
  intro x
  refine ⟨?qscl, ?qpk, fun ht => ?q8, fun hs hz => ?float, fun ht => ?single, fun ht => ?pair⟩
  case qscl =>
    exact runsFl_laneWord
      (f := fun e l => ((groupScale e x l).1, (groupScale e x l).2 ||| snanFlag .f32 [(e.cw.rv x.a l).toNat])) fun _ => rfl
  case qpk =>
    exact runsFl_laneWord (f := fun e l => (packedWord e x l, (qpkCode e x l).2)) fun s => by simp only [exec_qpk, qpkEff_eq]
  case q8 =>
    simp only [← unpackedCode_q8 ht]
    exact runsFl_laneWord (f := fun e => unpackedQ8 e x) fun s => by simp only [exec_qupk, qupkEff_q8 ht]
  case float =>
    exact runsFl_laneWord (f := fun e => unpackedFloat e x) fun s => by simp only [exec_qupk, qupkEff_float hs hz]
  case single => simpa only [lut4Value_f32 ht] using runs_lut4 x
  case pair => simpa only [lut4Value_pair ht] using runs_lut4 x

/-- R133, R134: CTAB.W and CTAB.SWAP. -/
theorem codeTableWrites : Claim.CodeTableWrites := fun x _ e =>
  ⟨fun h => ⟨ctabWritten e x, exec_ctabW_ready h, fun _ => ctabWritten_active e x,
      fun _ _ => ctabWritten_unnamed e x, fun _ => ctabWritten_last e x⟩,
    exec_ctabSwap_ready⟩

/-- Settles O8: the quantisation instructions, and the writes of the code table. -/
theorem quantisationResults : Obligations.QuantisationResults := ⟨quantResults, codeTableWrites⟩

end Sys2Proof.Machine
end

section
/-! SUPPORT. The mask of the lanes that a test selects, and the issue of an instruction whose result returns later. -/

namespace Sys2Proof.Machine

/-! ### Masks of lanes -/

/-- Lanes put into a mask one by one stand in it beside those that it had. -/
theorem getLsbD_foldl_lanes (ls : List Nat) (m : Word) (j : Nat) :
    (ls.foldl (fun m l => m ||| (1#32 <<< l)) m).getLsbD j = true ↔ m.getLsbD j = true ∨ j < 32 ∧ j ∈ ls := by
  induction ls generalizing m with
  | nil => simp
  | cons l ls ih =>
    have hbit : (1#32 <<< l).getLsbD j = true ↔ j < 32 ∧ j = l := by
      rw [← BitVec.twoPow_eq, BitVec.getLsbD_twoPow, Bool.and_eq_true, decide_eq_true_eq, decide_eq_true_eq]
      omega
    rw [List.foldl_cons, ih, BitVec.getLsbD_or, Bool.or_eq_true, hbit, List.mem_cons]
    grind

/-- A lane stands in the mask of a list where the list has it. -/
theorem getLsbD_maskOf (ls : List Nat) (j : Nat) : (maskOf ls).getLsbD j = true ↔ j < 32 ∧ j ∈ ls := by
  simp [maskOf, getLsbD_foldl_lanes]

/-- A lane stands in the mask of those that a test selects where it stands in the mask and the test holds. -/
theorem getLsbD_maskWhere (m : Word) (f : Nat → Bool) (j : Nat) :
    (maskWhere m f).getLsbD j = true ↔ j ∈ lanesOf m ∧ f j = true := by
  rw [maskWhere, getLsbD_maskOf, List.mem_filter, and_iff_right_iff_imp]
  exact fun h => BitVec.lt_of_getLsbD (mem_lanesOf.mp h.1)

/-- A test selects no lane of a mask where it holds in none. -/
theorem maskWhere_eq_zero {m : Word} {f : Nat → Bool} : maskWhere m f = 0 ↔ ∀ l ∈ lanesOf m, f l = false := by
  constructor
  · intro h l hl
    refine Bool.eq_false_iff.mpr fun hf => ?_
    have hbit := (getLsbD_maskWhere m f l).mpr ⟨hl, hf⟩
    rw [h] at hbit
    exact absurd hbit (by simp only [BitVec.ofNat_eq_ofNat, BitVec.getLsbD_zero, Bool.false_eq_true, not_false_eq_true])
  · intro h
    rw [maskWhere, List.filter_eq_nil_iff.mpr fun l hl => by simp [h l hl]]
    rfl

/-- A test selects some lane of a mask where it holds in one. -/
theorem maskWhere_ne_zero {m : Word} {f : Nat → Bool} : maskWhere m f ≠ 0 ↔ ∃ l ∈ lanesOf m, f l = true := by
  rw [ne_eq, maskWhere_eq_zero]
  simp

/-! ### Results that return later -/

/-- A variable-latency instruction that raises no cause issues with its results outstanding. -/
theorem completeLater_deferred (s : State) (e : Env) (i : Instr) {f : Eff} (ht : f.trap = none) :
    completeLater s e i f = .next (deferred s e i f.wr (orFlags f.flags) f.clamp f.late) := by
  simp [completeLater, ht, deferred, defer]

end Sys2Proof.Machine
end

section
/-! The moment instructions (R143 to R154): the check of the sources, what a fixed-latency and a variable-latency form does where
a check fails and where none does, and the obligations about them. -/

namespace Sys2Proof.Machine

/-! ### The check of the sources -/

/-- The variance of some source is below zero in a lane. -/
def negSource (srcs : List (Nat × (Nat → Nat))) (l : Nat) : Bool := srcs.any fun p => negVar (p.2 l)

/-- The sources that are moment registers have those registers' variances. -/
theorem negSource_momSrcs (e : Env) (rs : List Nat) (l : Nat) :
    negSource (momSrcs e rs) l = rs.any fun r => negVar (varOf e r l) := by
  rw [negSource, momSrcs, List.any_map]
  rfl

/-- A single source fails where its own variance is below zero. -/
theorem negSource_single (r : Nat) (v : Nat → Nat) (l : Nat) : negSource [(r, v)] l = negVar (v l) := by
  simp [negSource]

/-- A single moment register fails where its variance is below zero. -/
theorem negSource_momSrcs_single (e : Env) (r l : Nat) : negSource (momSrcs e [r]) l = negVar (varOf e r l) :=
  negSource_single r (varOf e r) l

section
variable {e : Env} {srcs : List (Nat × (Nat → Nat))}

/-- The check of the sources answers for the first source that fails in some lane, with every lane that fails. -/
theorem sourceCheck_eq (e : Env) (srcs : List (Nat × (Nat → Nat))) :
    sourceCheck e srcs = (srcs.find? fun p => failing e p.2 ≠ 0).map fun p =>
      (p.1, srcs.foldl (fun m q => m ||| failing e q.2) 0) := by
  rw [sourceCheck]
  cases srcs.find? fun p => decide (failing e p.2 ≠ 0) <;> rfl

/-- The check of the sources fails where some lane of P(c) has a negative variance in a source. -/
theorem sourceCheck_isSome : (sourceCheck e srcs).isSome = (lanesOf e.part).any (negSource srcs) := by
  rw [Bool.eq_iff_iff]
  simp only [sourceCheck_eq, Option.isSome_map, List.find?_isSome, decide_eq_true_eq, failing, maskWhere_ne_zero, negSource,
    List.any_eq_true]
  exact ⟨fun ⟨p, hp, l, hl, h⟩ => ⟨l, hl, p, hp, h⟩, fun ⟨l, hl, p, hp, h⟩ => ⟨p, hp, l, hl, h⟩⟩

/-- The check of the sources passes where no lane of P(c) has a negative variance in a source. -/
theorem sourceCheck_eq_none : sourceCheck e srcs = none ↔ ∀ l ∈ lanesOf e.part, negSource srcs l = false := by
  simp [← Option.not_isSome_iff_eq_none, sourceCheck_isSome]

/-- The source whose predecessors pass and which fails in some lane is the one that the check names (R144). -/
theorem sourceCheck_first {before after : List (Nat × (Nat → Nat))} {p : Nat × (Nat → Nat)}
    (hs : srcs = before ++ p :: after) (hb : ∀ q ∈ before, failing e q.2 = 0) (hp : failing e p.2 ≠ 0) :
    sourceCheck e srcs = some (p.1, srcs.foldl (fun m q => m ||| failing e q.2) 0) := by
  have hfind : (srcs.find? fun q => failing e q.2 ≠ 0) = some p :=
    List.find?_eq_some_iff_append.mpr ⟨by simpa using hp, before, after, hs, fun q hq => by simpa using hb q hq⟩
  rw [sourceCheck_eq, hfind]
  rfl

end

/-! ### The check of the results -/

/-- A form that writes once in a lane writes lane by lane. -/
theorem written_single (m : Word) (f : Nat → Wr) : written false m (fun l => [f l]) = (lanesOf m).map f :=
  List.map_eq_flatMap.symm

/-- The lanes whose result fails, as the machine lists them. -/
theorem maskOf_failed (m : Word) (f : Nat → MomRes) :
    maskOf ((((lanesOf m).map fun l => (l, f l)).filter (·.2.failed)).map (·.1)) = maskWhere m fun l => (f l).failed := by
  simp [maskWhere, List.filter_map, Function.comp_def]

/-- Some lane is listed as failed where the result of one fails. -/
theorem not_isEmpty_failed (m : Word) (f : Nat → MomRes) :
    (!(((lanesOf m).map fun l => (l, f l)).filter (·.2.failed)).isEmpty) = (lanesOf m).any fun l => (f l).failed := by
  rw [Bool.eq_iff_iff]
  simp [List.filter_map, Function.comp_def]

/-- Some lane fails a check where one fails that of its sources or one that of its result. -/
theorem any_negSource_or_failed (ls : List Nat) (srcs : List (Nat × (Nat → Nat))) (f : Nat → MomRes) :
    (ls.any (negSource srcs) || ls.any fun l => (f l).failed) = ls.any fun l => negSource srcs l || (f l).failed := by
  rw [Bool.eq_iff_iff]
  simp only [Bool.or_eq_true, List.any_eq_true, and_or_left, exists_or]

section
variable {s : State} {e : Env} {x : XOps} {srcs : List (Nat × (Nat → Nat))} {f : Nat → MomRes}

/-! ### Fixed-latency forms -/

/-- Without `.CLAMP` a source that fails its check is a cause of a fixed-latency form, before any effect (R144). -/
theorem momFixed_sourceTrap (hq : x.q = false) {r : Nat} {m : Word} (hc : sourceCheck e srcs = some (r, m)) :
    momFixed s e x srcs f = .next (s.raiseAt e 0x12 (r % 16) m) := by
  simp only [momFixed, hq, hc]
  rfl

/-- A fixed-latency form with `.CLAMP`, or one whose sources pass, goes on to the check of its results (R143, R144). -/
theorem momFixed_checked (hc : x.q = false → sourceCheck e srcs = none) :
    momFixed s e x srcs f =
      if !x.q && (lanesOf e.part).any (fun l => (f l).failed) then
        trapAt s e 0x12 (x.d % 16 + 16) (maskWhere e.part fun l => (f l).failed)
      else complete s e
        { wr := written false e.part fun l => [.m x.d l (f l).m.bits],
          flags := (lanesOf e.part).map fun l => (l, (f l).m.flags),
          clamp := x.q && (lanesOf e.part).any fun l => negSource srcs l || (f l).failed } := by
  cases hq : x.q with
  | false =>
    simp only [momFixed, hq, hc hq, not_isEmpty_failed, maskOf_failed, written_single, List.map_map, Function.comp_def]
    rfl
  | true =>
    simp only [momFixed, hq, not_isEmpty_failed, maskOf_failed, sourceCheck_isSome, any_negSource_or_failed, written_single,
      List.map_map, Function.comp_def]
    rfl

/-- Without `.CLAMP` a result that fails its check is a cause of a fixed-latency form, before any effect (R144). -/
theorem momFixed_resultTrap (hq : x.q = false) (hc : sourceCheck e srcs = none)
    (hf : (maskWhere e.part fun l => (f l).failed) ≠ 0) :
    momFixed s e x srcs f = .next (s.raiseAt e 0x12 (x.d % 16 + 16) (maskWhere e.part fun l => (f l).failed)) := by
  rw [momFixed_checked fun _ => hc, if_pos (by rw [hq, List.any_eq_true.mpr (maskWhere_ne_zero.mp hf)]; rfl), trapAt]

/-- A fixed-latency form with `.CLAMP`, or one none of whose variances fails, completes and says whether it clamped (R143). -/
theorem momFixed_merged
    (h : x.q = false → ∀ l ∈ lanesOf e.part, negSource srcs l = false ∧ (f l).failed = false) :
    momFixed s e x srcs f = .next (merged s e (written false e.part fun l => [.m x.d l (f l).m.bits])
      (fun l => (f l).m.flags) (x.q && (lanesOf e.part).any fun l => negSource srcs l || (f l).failed)) := by
  have hpass : ¬ (!x.q && (lanesOf e.part).any fun l => (f l).failed) = true := by
    simp only [Bool.and_eq_true, Bool.not_eq_true', List.any_eq_true, not_and, not_exists, Bool.not_eq_true]
    exact fun hq l hl => (h hq l hl).2
  rw [momFixed_checked fun hq => sourceCheck_eq_none.mpr fun l hl => (h hq l hl).1, if_neg hpass]
  exact complete_merged s e _ (fun l => (f l).m.flags) rfl rfl

/-! ### Variable-latency forms -/

variable {i : Instr} {g : Nat → Mom → List Wr}

/-- Without `.CLAMP` a source that fails its check is a cause of a variable-latency form, at its issue (R144). -/
theorem momLater_sourceTrap (hq : x.q = false) {r : Nat} {m : Word} (hc : sourceCheck e srcs = some (r, m)) :
    momLater s e i x srcs f g = .next (s.raiseAt e 0x12 (r % 16) m) := by
  simp only [momLater, hq, hc]
  rfl

/-- A variable-latency form with `.CLAMP`, or one whose sources pass, issues; without `.CLAMP` a result that fails its check is a
late cause (R143, R144). -/
theorem momLater_deferred (h : x.q = false → ∀ l ∈ lanesOf e.part, negSource srcs l = false) :
    momLater s e i x srcs f g = .next (deferred s e i (written false e.part fun l => g l (f l).m)
      (raisedBy false e.part fun l => (f l).m.flags)
      (x.q && (lanesOf e.part).any fun l => negSource srcs l || (f l).failed)
      (if !x.q && (lanesOf e.part).any fun l => (f l).failed then some { code := 0x12, info := negInfo x.d true }
       else none)) := by
  cases hq : x.q with
  | false =>
    simp only [momLater, hq, sourceCheck_eq_none.mpr (h hq), completeLater_deferred, List.any_map, Function.comp_def,
      List.flatMap_map, List.map_map, orFlags_map]
    rfl
  | true =>
    simp only [momLater, hq, completeLater_deferred, sourceCheck_isSome, List.any_map, Function.comp_def,
      any_negSource_or_failed, List.flatMap_map, List.map_map, orFlags_map]
    rfl

end

/-! ### The instructions at issue -/

/-- The checked fixed-latency instructions check their sources and the result of each lane. -/
theorem exec_checkedMoment {x : XOps} {s : State} {e : Env} :
    ∀ p ∈ checkedMoments x e, Ready s p.1 e → exec p.1 s = momFixed s e x (momSrcs e p.2.1) p.2.2 := by
  simp only [checkedMoments, List.forall_mem_cons]
  exact ⟨fun h => issue_ready h _, fun h => issue_ready h _, fun h => issue_ready h _, fun h => issue_ready h _,
    fun h => issue_ready h _, List.forall_mem_nil _⟩

/-- An issued MSET checks the variances of its register, under the number of its destination (R151). -/
theorem exec_mset_ready {x : XOps} {s : State} {e : Env} (h : Ready s (.mset x) e) :
    exec (.mset x) s = momFixed s e x [(x.d, fun l => e.cw.opB x .z32 l)] fun l =>
      ⟨{ mu := canon (e.cw.rv x.a l).toNat,
         var := canon (if negVar (e.cw.opB x .z32 l) then 0 else e.cw.opB x .z32 l) }, false⟩ := issue_ready h _

/-- The moment that MCOLL delivers in a lane: the mean, and the deviation or the variance (R154). -/
def collapsed (e : Env) (x : XOps) (l : Nat) : Mom :=
  { momAt e x.a l with var := if x.v = 0 then mFn sqrt32 (momAt e x.a l).var else (momAt e x.a l).var }

/-- An issued MCOLL checks its source and delivers two registers. -/
theorem exec_mcoll_ready {x : XOps} {s : State} {e : Env} (h : Ready s (.mcoll x) e) :
    exec (.mcoll x) s = momLater s e (.mcoll x) x (momSrcs e [x.a]) (fun l => ⟨collapsed e x l, false⟩)
      fun l m => regWrites false x.d l (m.mu.1 + 2 ^ 32 * m.var.1) 2 := issue_ready h _

/-- The variable-latency instructions check their source at issue. -/
theorem exec_laterMoment {x : XOps} {s : State} {e : Env} :
    ∀ p ∈ [(Instr.mrelu x, [x.a]), (.msigm x, [x.a]), (.mtanh x, [x.a]), (.mexp x, [x.a]), (.mcoll x, [x.a])],
      Ready s p.1 e → ∃ f g, exec p.1 s = momLater s e p.1 x (momSrcs e p.2) f g := by
  simp only [List.forall_mem_cons]
  exact ⟨fun h => ⟨_, _, issue_ready h _⟩, fun h => ⟨_, _, issue_ready h _⟩, fun h => ⟨_, _, issue_ready h _⟩,
    fun h => ⟨_, _, issue_ready h _⟩, fun h => ⟨_, _, exec_mcoll_ready h⟩, List.forall_mem_nil _⟩

/-! ### The fixed-latency forms -/

/-- R143 to R146: a checked fixed-latency instruction completes where no variance fails. -/
theorem momRuns_of_mem {i : Instr} {x : XOps} {srcs : List Nat} {f : Env → Nat → MomRes}
    (hm : ∀ e, (i, srcs, f e) ∈ checkedMoments x e) : momRuns i x srcs f := by
  intro s e h hpass
  have hchecks : x.q = false → ∀ l ∈ lanesOf e.part, negSource (momSrcs e srcs) l = false ∧ (f e l).failed = false := by
    intro hq l hl
    obtain ⟨hsrc, hres⟩ := hpass hq l hl
    exact ⟨by simpa [negSource_momSrcs] using hsrc, hres⟩
  rw [exec_checkedMoment _ (hm e) h, momFixed_merged hchecks]
  simp only [negSource_momSrcs]

/-- R145, R146: the arithmetic of moments. -/
theorem momentResults : Claim.MomentResults := fun _ =>
  ⟨momRuns_of_mem fun _ => by simp [checkedMoments], momRuns_of_mem fun _ => by simp [checkedMoments],
    momRuns_of_mem fun _ => by simp [checkedMoments], momRuns_of_mem fun _ => by simp [checkedMoments],
    momRuns_of_mem fun _ => by simp [checkedMoments]⟩

/-- R151 to R153: MMOV, MCLAMP and MSET. -/
theorem momentMoves : Claim.MomentMoves := by
  intro x
  refine ⟨?move, ?clamp, fun s e h hpass => ?set⟩
  case move =>
    exact runs_onLanes (uni := fun _ => false) (f := fun e l => ([.m x.d l (e.cw.rm x.a l)], 0)) (fun _ => rfl)
      fun _ _ => rfl
  case clamp =>
    exact runsFl_onLanes (uni := fun _ => false)
      (f := fun e l =>
        let v := clampVar (varOf e x.a l) (e.cw.opB x .z32 l) (e.cw.opC x .z32 l)
        ([.m x.d l (BitVec.ofNat 64 ((e.cw.rm x.a l).toNat % 2 ^ 32 + 2 ^ 32 * v.1))], v.2)) fun _ => rfl
  case set =>
    rw [exec_mset_ready h, momFixed_merged fun hq l hl => ⟨(negSource_single _ _ l).trans (hpass hq l hl), rfl⟩]
    simp only [negSource_single, Bool.or_false]

/-- Settles O9: the arithmetic, and the moves. -/
theorem momentFixedResults : Obligations.MomentFixedResults := ⟨momentResults, momentMoves⟩

/-! ### The variable-latency forms and the traps -/

/-- R144, R147 to R150: a non-linearity issues where no source fails. -/
theorem momLaterRuns_of_exec {i : Instr} {x : XOps} {f : Mom → Mom}
    (hx : ∀ s, exec i s = issue s i fun s e => momUn s e i x f) : momLaterRuns i x f := by
  intro s e h hpass
  rw [hx, issue_ready h, momUn, momLater_deferred fun hq l hl => (negSource_momSrcs_single e x.a l).trans (hpass hq l hl)]
  simp only [negSource_momSrcs_single]

/-- R147 to R150, R154: the non-linearities, and MCOLL, whose result is not checked. -/
theorem momentLaterResults : Claim.MomentLaterResults := by
  intro x
  refine ⟨momLaterRuns_of_exec fun _ => rfl, momLaterRuns_of_exec fun _ => rfl, momLaterRuns_of_exec fun _ => rfl,
    momLaterRuns_of_exec fun _ => rfl, fun s e h hpass => ?collapse⟩
  case collapse =>
    rw [exec_mcoll_ready h, momLater_deferred fun hq l hl => (negSource_momSrcs_single e x.a l).trans (hpass hq l hl)]
    simp only [negSource_momSrcs_single, Bool.or_false, List.any_eq_false.mpr fun _ _ => Bool.false_ne_true, Bool.and_false]
    rfl

/-- The lanes of P(c) in which one of some moment registers fails its check. -/
theorem foldl_failing (e : Env) (rs : List Nat) :
    (momSrcs e rs).foldl (fun m q => m ||| failing e q.2) 0 = rs.foldl (fun m r => m ||| failing e (varOf e r)) 0 := by
  rw [momSrcs, List.foldl_map]

/-- The moment register whose predecessors pass and which fails in some lane is the one that the check names (R144). -/
theorem sourceCheck_momSrcs {e : Env} {rs before after : List Nat} {r : Nat} (hs : rs = before ++ r :: after)
    (hb : ∀ q ∈ before, failing e (varOf e q) = 0) (hr : failing e (varOf e r) ≠ 0) :
    sourceCheck e (momSrcs e rs) = some (r, rs.foldl (fun m q => m ||| failing e (varOf e q)) 0) := by
  rw [← foldl_failing]
  refine sourceCheck_first (p := (r, varOf e r)) (before := momSrcs e before) (after := momSrcs e after) ?_
    (List.forall_mem_map.mpr hb) hr
  rw [hs, momSrcs, List.map_append, List.map_cons]
  rfl

/-- R143, R144: the traps of negative variances, in a source and in a result. -/
theorem negativeVarianceTraps : Claim.NegativeVarianceTraps := by
  intro x s e hq below
  refine ⟨fun i srcs hi h before r after hs hb hr => ?source, fun h => ?set, fun i srcs f hi h hpass => ?result⟩
  case source =>
    have hc := sourceCheck_momSrcs hs hb hr
    rcases List.mem_append.mp hi with hfixed | hlater
    · obtain ⟨p, hp, hpi⟩ := List.mem_map.mp hfixed
      cases hpi
      rw [exec_checkedMoment p hp h, momFixed_sourceTrap hq hc]
      rfl
    · obtain ⟨f, g, hx⟩ := exec_laterMoment _ hlater h
      rw [hx, momLater_sourceTrap hq hc]
      rfl
  case set =>
    intro m hm
    have hc : sourceCheck e [(x.d, fun l => e.cw.opB x .z32 l)] = some (x.d, 0 ||| m) :=
      sourceCheck_first (before := []) (after := []) rfl (List.forall_mem_nil _) hm
    have hmask : 0 ||| m = m := BitVec.zero_or
    rw [exec_mset_ready h, momFixed_sourceTrap hq hc, hmask]
  case result =>
    intro m hm
    have hc : sourceCheck e (momSrcs e srcs) = none := sourceCheck_eq_none.mpr fun l hl => by
      simpa [negSource_momSrcs] using fun r hr => maskWhere_eq_zero.mp (hpass r hr) l hl
    rw [exec_checkedMoment _ hi h, momFixed_resultTrap hq hc hm]

/-- Settles O10: the variable-latency forms where no source fails, and the traps where one does. -/
theorem momentLateResults : Obligations.MomentLateResults := ⟨momentLaterResults, negativeVarianceTraps⟩

end Sys2Proof.Machine
end

section
/-! Seeding, drawing, the counter form, uniform numbers and keep masks (R156 to R163), and the obligation about them. -/

namespace Sys2Proof.Machine

/-! ### Stream states -/

/-- The stream states with those of some lanes replaced, lane by lane. -/
def strmsSet (f : Nat → BitVec 128) (t : Sparse (BitVec 128)) (ls : List Nat) : Sparse (BitVec 128) :=
  ls.foldl (fun t l => setAt 0 t l (f l)) t

/-- A lane whose stream state was replaced has the new one; every other lane keeps its own. -/
theorem getAt_strmsSet (f : Nat → BitVec 128) (t : Sparse (BitVec 128)) (ls : List Nat) (l : Nat) :
    getAt 0 (strmsSet f t ls) l = if l ∈ ls then f l else getAt 0 t l := by
  by_cases h : l ∈ ls
  · rw [if_pos h]
    exact foldl_observed_set (fun t => getAt 0 t l) h (fun t => getAt_setAt_self 0 t l (f l))
      (fun t j _ hj => getAt_setAt_ne 0 t j l (f j) hj.symm) t
  · rw [if_neg h]
    exact foldl_observed_unchanged (fun t => getAt 0 t l)
      (fun t j hj => getAt_setAt_ne 0 t j l (f j) fun hl => h (hl ▸ hj)) t

/-- Seeding lane by lane replaces the stream states alone. -/
theorem foldl_setStrm (f : Nat → BitVec 128) (ls : List Nat) (w : Crew) :
    ls.foldl (fun w l => w.setStrm l (f l)) w = { w with strm := strmsSet f w.strm ls } := by
  induction ls generalizing w with
  | nil => rfl
  | cons l ls ih => exact ih _

/-- A register write and the stream states do not touch each other. -/
theorem write1_strm (w : Crew) (t : Sparse (BitVec 128)) (x : Wr) :
    Crew.write1 { w with strm := t } x = { w.write1 x with strm := t } := by
  cases x with
  | p k l x =>
    simp only [Crew.write1]
    split <;> rfl
  | _ => rfl

/-- Register writes and the stream states do not touch each other. -/
theorem write_strm (w : Crew) (t : Sparse (BitVec 128)) (ws : List Wr) :
    Crew.write { w with strm := t } ws = { w.write ws with strm := t } := by
  induction ws generalizing w with
  | nil => rfl
  | cons x ws ih =>
    rw [Crew.write, List.foldl_cons, write1_strm]
    exact ih _

/-- Register writes leave the stream states. -/
theorem write_keeps_strm (w : Crew) (ws : List Wr) : (w.write ws).strm = w.strm := by
  have h := congrArg Crew.strm (write_strm w w.strm ws)
  exact h

/-- Drawing lane by lane is the writes of all lanes, and the stream states of all lanes replaced. -/
theorem foldl_draw (g : Nat → List Wr) (f : Nat → BitVec 128) (ls : List Nat) (w : Crew) :
    ls.foldl (fun w l => (w.write (g l)).setStrm l (f l)) w =
      { w.write (ls.flatMap g) with strm := strmsSet f w.strm ls } := by
  induction ls generalizing w with
  | nil => rfl
  | cons l ls ih =>
    have hw : ((w.write (g l)).setStrm l (f l)).write (ls.flatMap g) =
        { w.write ((l :: ls).flatMap g) with strm := setAt 0 (w.write (g l)).strm l (f l) } := by
      rw [Crew.setStrm, write_strm, List.flatMap_cons, Crew.write, Crew.write, Crew.write, List.foldl_append]
    rw [List.foldl_cons, ih, hw, Crew.setStrm, write_keeps_strm]
    rfl

/-! ### The instructions at issue -/

/-- An instruction that only computes a result completes with its writes. -/
theorem runs_toDest0 {i : Instr} {x : XOps} {t : Ty} {f : Env → Nat → Nat}
    (hx : ∀ s, exec i s = issue s i fun s e => complete s e (toDest0 e x t (f e))) : Runs i fun e => resultOf e x t (f e) :=
  runs_onLanes (uni := fun _ => x.y) (f := fun e l => (resultWrites x.y t x.d l (f e l), 0)) hx fun _ _ => rfl

/-- The stream state that RSEED gives a lane (R159). -/
def seeded (e : Env) (x : XOps) (l : Nat) : BitVec 128 :=
  streamOfParts (e.cw.opC x .z32 l) 0 (e.cw.opA x .z32 l + 2 ^ 32 * e.cw.opB x .z32 l)

/-- An issued RSEED gives the lanes of P(c) their seeds. -/
theorem exec_rseed_ready {x : XOps} {s : State} {e : Env} (h : Ready s (.rseed x) e) :
    exec (.rseed x) s = .next (movedOn s e e.blk (e.advance s
      { e.cw with strm := strmsSet (seeded e x) e.cw.strm (lanesOf e.part) })) := by
  refine (issue_ready h _).trans ?_
  rw [← foldl_setStrm]
  rfl

/-- The stream state of a lane after a draw (R160). -/
def drawnOn (w : Crew) (l : Nat) : BitVec 128 :=
  streamOfParts (strmNum (w.strmOf l)) (strmPos (w.strmOf l) + 1) (strmKey (w.strmOf l))

/-- The registers that RNEXT writes in a lane (R160). -/
def drawWrites (e : Env) (x : XOps) (l : Nat) : List Wr :=
  regWrites false x.d l (strmDraw (e.cw.strmOf l) (gtidOf e.blk e.cw l)).toNat (if x.v = 0 then 4 else 1)

/-- An issued RNEXT writes the draws of the lanes of P(c) and advances their positions. -/
theorem exec_rnext_ready {x : XOps} {s : State} {e : Env} (h : Ready s (.rnext x) e) :
    exec (.rnext x) s = .next (movedOn s e e.blk (e.advance s { e.cw.write (written false e.part (drawWrites e x)) with
      strm := strmsSet (drawnOn e.cw) e.cw.strm (lanesOf e.part) })) := by
  refine (issue_ready h _).trans ?_
  rw [written, formLanes, if_neg Bool.false_ne_true, ← foldl_draw]
  rfl

/-- The keep mask of a lane: bit i is set where byte i of the register quad is no less than the threshold (R163). -/
theorem keepMask_eq_sum (a p : Nat) :
    (List.range 16).foldr (fun i n => (if bitsOf a (8 * i) 8 ≥ p then 1 else 0) + 2 * n) 0 =
      ((List.range 16).map fun i => if p ≤ bitsOf a (8 * i) 8 then 2 ^ i else 0).sum := by
  rw [foldr_pack_eq_sum fun i => if bitsOf a (8 * i) 8 ≥ p then 1 else 0]
  have hbit (i : Nat) : (if bitsOf a (8 * i) 8 ≥ p then 1 else 0) * 2 ^ i = if p ≤ bitsOf a (8 * i) 8 then 2 ^ i else 0 := by
    split
    next => exact Nat.one_mul _
    next => exact Nat.zero_mul _
  simp only [hbit]

/-! ### The obligation -/

/-- Settles O11: seeding and drawing by lanes, and the forms that only compute. -/
theorem randomResults : Obligations.RandomResults := by
  intro x
  refine ⟨fun s e h => ?seed, fun s e h => ?next, ?counter, ?uniform, ?mask⟩
  case seed => exact ⟨_, exec_rseed_ready h, rfl, fun l => getAt_strmsSet (seeded e x) e.cw.strm _ l⟩
  case next => exact ⟨_, exec_rnext_ready h, fun l => getAt_strmsSet (drawnOn e.cw) e.cw.strm _ l⟩
  case counter =>
    exact runs_onLanes (uni := fun _ => x.y) (f := fun e l => (regWrites x.y x.d l (sumac (quadOf (e.cw.regs x.y x.a l 4))
      (BitVec.ofNat 32 (e.cw.regs (x.y || x.u) x.b l 2))
      (BitVec.ofNat 32 (e.cw.regs (x.y || x.u) x.b l 2 / 2 ^ 32))).toNat 4, 0)) (fun _ => rfl) fun _ _ => rfl
  case uniform => exact runs_toDest0 fun _ => rfl
  case mask =>
    simp only [← keepMask_eq_sum]
    exact runs_toDest0 fun _ => rfl

end Sys2Proof.Machine
end

section
/-! Local memory (R155, R194, R227 to R233): the address checks of every access, loads in front of and behind the entries of the
store queue, stores, and the obligation about them. -/

namespace Sys2Proof.Machine

/-! ### Address checks -/

section
variable {s : State} {e : Env} {n : Nat} {f : Nat → Int}

/-- An access of which some lane of P(c) lies outside the share raises cause 0x13 with those lanes (R229). -/
theorem addressed_outside (h : outsideLanes e n f ≠ 0) (k : Out) :
    addressed s e n f k = .next (s.raiseAt e 0x13 0 (outsideLanes e n f)) := by
  rw [addressed, if_pos h, trapAt]

/-- A misaligned access inside the share raises cause 0x14 with its lanes (R229). -/
theorem addressed_misaligned (h : outsideLanes e n f = 0) (hm : misalignedLanes e n f ≠ 0) (k : Out) :
    addressed s e n f k = .next (s.raiseAt e 0x14 0 (misalignedLanes e n f)) := by
  rw [addressed, if_neg (not_not_intro h), if_pos hm, trapAt]

/-- An aligned access inside the share goes on to its effect (R229). -/
theorem addressed_fits (h : fits e n f) (k : Out) : addressed s e n f k = k := by
  have hout : outsideLanes e n f = 0 := maskWhere_eq_zero.mpr fun l hl => by
    obtain ⟨hlow, hhigh, -⟩ := h l hl
    exact decide_eq_false (by omega)
  have hmis : misalignedLanes e n f = 0 := maskWhere_eq_zero.mpr fun l hl => by
    obtain ⟨-, -, halign⟩ := h l hl
    exact decide_eq_false (not_not_intro halign)
  rw [addressed, if_neg (not_not_intro hout), if_neg (not_not_intro hmis)]

end

/-- Where a test selects lanes of P(c), a lane takes part. -/
theorem part_ne_zero_of_maskWhere {m : Word} {f : Nat → Bool} (h : maskWhere m f ≠ 0) : m ≠ 0 := by
  obtain ⟨l, hl, -⟩ := maskWhere_ne_zero.mp h
  rintro rfl
  simp [mem_lanesOf] at hl

/-- The instructions whose lanes access local memory, with the size and the addresses of the accesses (R229, R231). -/
def laneAccesses (x : XOps) (e : Env) : List (Instr × Nat × (Nat → Int)) :=
  [(.ld x, tyBits x.t / 8, memAddr e x), (.st x, tyBits x.t / 8, memAddr e x), (.lds x, 4 * ldsWords x, memAddr e x),
   (.mld x, 8, memAddr e x), (.mst x, 8, memAddr e x), (.atom x, tyBits x.t / 8, atomAddr e x)]

/-- The instructions that access a barrier or the descriptor of a ring, with its size and address (R235, R241). -/
def objectAccesses (x : XOps) (e : Env) : List (Instr × Nat × (Nat → Int)) :=
  [(.tbinit x, 16, objAddr e x.a), (.tbarr x, 16, objAddr e x.a), (.tbwait x, 16, objAddr e x.a),
   (.srput x, 32, objAddr e x.a), (.srputCommit x, 32, objAddr e x.a), (.srget x, 32, objAddr e x.a),
   (.srrel x, 32, objAddr e x.a)]

section
variable {x : XOps} {s : State} {e : Env}

/-- An issued access of lanes begins with its address checks, but for an ATOM.FADD in a deterministic grid (R232). -/
theorem exec_laneAccess : ∀ p ∈ laneAccesses x e, Ready s p.1 e → ¬(p.1 = .atom x ∧ x.v = 8 ∧ e.blk.r.det = true) →
    ∃ k, exec p.1 s = addressed s e p.2.1 p.2.2 k := by
  simp only [laneAccesses, List.forall_mem_cons]
  refine ⟨?_, ?_, ?_, ?_, ?_, ?atom, List.forall_mem_nil _⟩
  case atom =>
    exact fun h hdet => ⟨_, (issue_ready h _).trans (if_neg fun ⟨hv, hgrid, _⟩ => hdet ⟨trivial, hv, hgrid⟩)⟩
  all_goals exact fun h _ => ⟨_, issue_ready h _⟩

/-- An issued access of an object by a crew with a lane in P(c) begins with its address checks. -/
theorem exec_objectAccess (hp : e.part ≠ 0) : ∀ p ∈ objectAccesses x e, Ready s p.1 e →
    ∃ k, exec p.1 s = addressed s e p.2.1 p.2.2 k := by
  simp only [objectAccesses, List.forall_mem_cons]
  refine ⟨?_, ?_, ?_, ?_, ?_, ?_, ?_, List.forall_mem_nil _⟩
  all_goals exact fun h => ⟨_, (issue_ready h _).trans (perCrew_participating hp _)⟩

end

/-- R229, R231, R235, R241: the causes of an access outside the share and of a misaligned one. -/
theorem addressChecks : Claim.AddressChecks := by
  intro x s e i n at_ object hi h hdet out mis
  have hmem : (i, n, at_) ∈ laneAccesses x e ++ objectAccesses x e := hi
  have hk (hp : e.part ≠ 0) : ∃ k, exec i s = addressed s e n at_ k := by
    rcases List.mem_append.mp hmem with hlane | hobject
    · exact exec_laneAccess _ hlane h hdet
    · exact exec_objectAccess hp _ hobject h
  refine ⟨fun hout => ?outside, fun hout hmis => ?misaligned⟩
  case outside =>
    obtain ⟨k, hx⟩ := hk (part_ne_zero_of_maskWhere hout)
    exact hx.trans (addressed_outside hout k)
  case misaligned =>
    obtain ⟨k, hx⟩ := hk (part_ne_zero_of_maskWhere hmis)
    exact hx.trans (addressed_misaligned hout hmis k)

/-! ### Loads -/

section
variable {s : State} {e : Env} (hb : s.block e.b = some e.blk) (hc : e.blk.errs = [])
include hb

/-- An environment whose block is the one that the state holds stays as it is. -/
theorem refresh_same : e.refresh s = e := by
  simp [Env.refresh, hb]

include hc

/-- A read of a share without errors meets none. -/
theorem readable_clean (n : Nat) (f : Nat → Int) (k : State → Out) : readable s e n f k = k s := by
  simp [readable, meetRead_clean hb hc]

end

/-- An entry is more than a store where it is no store (R233). -/
theorem blocks_eq_not_isStore (q : QEntry) : q.blocks = !isStore q := by cases q <;> rfl

/-- Some entry of a queue is more than a store where the queue holds not only stores. -/
theorem any_blocks (q : List QEntry) : q.any QEntry.blocks = !q.all isStore := by
  rw [List.not_all_eq_any_not, funext blocks_eq_not_isStore]

section
variable {s : State} {e e1 : Env} {i : Instr} (hq : e.cw.queue ≠ [])
include hq

/-- What comes after a queue that is not empty follows the queue's drain where the crew still stands at the instruction. -/
theorem afterQueue_follows (he : envOf (s.drainQueue e.b e.c) i = some e1) (hpc : e1.ipc = e.ipc)
    (htrap : e1.cw.inTrap = e.cw.inTrap) (k : State → Env → Out) :
    afterQueue s e i k = k (s.drainQueue e.b e.c) e1 := by
  simp [afterQueue, hq, he, hpc, htrap]

/-- What comes after a queue that is not empty is left where the queue's drain has taken the crew elsewhere. -/
theorem afterQueue_stops
    (he : ∀ e1, envOf (s.drainQueue e.b e.c) i = some e1 → e1.ipc ≠ e.ipc ∨ e1.cw.inTrap ≠ e.cw.inTrap)
    (k : State → Env → Out) : afterQueue s e i k = .next (s.drainQueue e.b e.c) := by
  cases h1 : envOf (s.drainQueue e.b e.c) i with
  | none => simp [afterQueue, hq, h1]
  | some e1 =>
    have hleft : ¬(e1.ipc = e.ipc ∧ e1.cw.inTrap = e.cw.inTrap) := fun ⟨hpc, htrap⟩ =>
      (he e1 h1).elim (· hpc) (· htrap)
    simp [afterQueue, hq, h1, hleft]

end

/-- The instruction checks the addresses of its lanes, comes after the entries of the queue that are more than stores, and, in
a block without storage errors, ends in the state given (R155, R227 to R230, R233). -/
def Loads (i : Instr) (x : XOps) (n : Nat) (done : State → Env → State) : Prop :=
  ∃ k : State → Env → Out,
    (∀ s e, Ready s i e → exec i s = addressed s e n (memAddr e x) (beforeRead s e i k)) ∧
    ∀ s e, s.block e.b = some e.blk → e.blk.errs = [] → k s e = .next (done s e)

section
variable {i : Instr} {x : XOps} {n : Nat} {done : State → Env → State} (hl : Loads i x n done) {s : State} {e : Env}
  (h : Ready s i e) (hf : fits e n (memAddr e x))
include hl h hf

/-- A queue of stores alone does not hold up a load. -/
theorem Loads.quick (hq : onlyStores e) : exec i s = .next (done s e) := by
  obtain ⟨k, hx, hk⟩ := hl
  obtain ⟨-, hb, -⟩ := envOf_eq h.env
  have hquick : ¬ e.cw.queue.any QEntry.blocks = true := by
    rw [any_blocks, hq]
    exact Bool.false_ne_true
  rw [hx s e h, addressed_fits hf, beforeRead, if_neg hquick, hk s e hb h.clean]

/-- A load behind an entry that is more than a store comes after the queue, or is left where a cause came first. -/
theorem Loads.behind (hq : ¬ onlyStores e) :
    (∀ e1, envOf (s.drainQueue e.b e.c) i = some e1 → e1.ipc = e.ipc → e1.cw.inTrap = e.cw.inTrap → e1.blk.errs = [] →
      exec i s = .next (done (s.drainQueue e.b e.c) e1)) ∧
    ((∀ e1, envOf (s.drainQueue e.b e.c) i = some e1 → e1.ipc ≠ e.ipc ∨ e1.cw.inTrap ≠ e.cw.inTrap) →
      exec i s = .next (s.drainQueue e.b e.c)) := by
  obtain ⟨k, hx, hk⟩ := hl
  have hne : e.cw.queue ≠ [] := fun hnil => hq (by rw [onlyStores, hnil, List.all_nil])
  have hbehind : e.cw.queue.any QEntry.blocks = true := by
    rw [any_blocks, Bool.not_eq_true', ← Bool.not_eq_true]
    exact hq
  have hafter : exec i s = afterQueue s e i k := by
    rw [hx s e h, addressed_fits hf, beforeRead, if_pos hbehind]
  refine ⟨fun e1 he hpc htrap hc => ?follows, fun he => ?stops⟩
  case follows =>
    obtain ⟨-, hb, -⟩ := envOf_eq he
    rw [hafter, afterQueue_follows hne he hpc htrap, hk _ e1 hb hc]
  case stops => rw [hafter, afterQueue_stops hne he]

end

section
variable (x : XOps)

/-- LD loads one value of its type in each lane of its form; the uniform form with P(c) empty only moves on (R21, R230). -/
theorem loads_ld : Loads (.ld x) x (tyBits x.t / 8) fun s e => if x.y && e.part = 0 then settled s e [] 0 false else
    deferred s e (.ld x) (resultOf e x x.t fun l => crewRead e.blk e.cw (memAddr e x l).toNat (tyBits x.t / 8)) 0
      false none := by
  refine ⟨_, fun s e h => issue_ready h _, fun s e hb hc => ?_⟩
  dsimp only
  split
  next hskip => rw [skip_settled]
  next hloads =>
    rw [readable_clean hb hc, refresh_same hb, completeLater_deferred s e (.ld x) (by simp [toDest0, toDest])]
    simp [toDest0, toDest, loaded]

/-- LDS loads consecutive words in each lane of P(c) (R230). -/
theorem loads_lds : Loads (.lds x) x (4 * ldsWords x) fun s e =>
    deferred s e (.lds x) (written false e.part fun l => regWrites false x.d l
      (crewRead e.blk e.cw (memAddr e x l).toNat (4 * ldsWords x)) (ldsWords x)) 0 false none := by
  refine ⟨_, fun s e h => issue_ready h _, fun s e hb hc => ?_⟩
  dsimp only
  rw [readable_clean hb hc, refresh_same hb, completeLater_deferred s e (.lds x) (perLane_trap _ _)]
  simp

/-- MLD loads a moment in each lane of P(c), with a fixed latency (R155). -/
theorem loads_mld : Loads (.mld x) x 8 fun s e => settled s e (written false e.part fun l =>
    [.m x.d l (BitVec.ofNat 64 (crewRead e.blk e.cw (memAddr e x l).toNat 8))]) 0 false := by
  refine ⟨_, fun s e h => issue_ready h _, fun s e hb hc => ?_⟩
  dsimp only
  rw [readable_clean hb hc, refresh_same hb]
  exact complete_onLanes_noFlags s e false fun l =>
    [.m x.d l (BitVec.ofNat 64 (crewRead e.blk e.cw (memAddr e x l).toNat 8))]

end

/-- R155, R227 to R230, R233: LD, LDS and MLD behind a queue of stores alone. -/
theorem quickLoads : Claim.QuickLoads := fun x _ _ hq =>
  ⟨fun h hf => (loads_ld x).quick h hf hq, fun h hf => (loads_lds x).quick h hf hq, fun h hf => (loads_mld x).quick h hf hq⟩

/-- R155, R230, R233: LD, LDS and MLD behind an entry that is more than a store. -/
theorem loadsBehindAtomics : Claim.LoadsBehindAtomics := by
  intro x s e i n done hi h hf hq
  have hl : Loads i x n done := by
    simp only [List.mem_cons, Prod.mk.injEq, List.not_mem_nil, or_false] at hi
    obtain ⟨rfl, rfl, rfl⟩ | ⟨rfl, rfl, rfl⟩ | ⟨rfl, rfl, rfl⟩ := hi
    · exact loads_ld x
    · exact loads_lds x
    · exact loads_mld x
  exact hl.behind h hf hq

/-! ### Stores -/

/-- The lanes that access memory are those of the form. -/
theorem memLanes_eq_formLanes (e : Env) (uni : Bool) : memLanes e uni = formLanes uni e.part := by
  cases uni with
  | false => exact List.take_of_length_le (length_lanesOf_le e.part)
  | true => rfl

/-- R155, R194, R230: ST and MST put the stores of their lanes at the end of the crew's queue. -/
theorem localStores : Claim.LocalStores := by
  intro x s e queued
  refine ⟨fun h hf => ?st, fun h hf => ?mst⟩
  case st =>
    refine (issue_ready h _).trans ?_
    rw [addressed_fits hf, memLanes_eq_formLanes]
    rfl
  case mst =>
    refine (issue_ready h _).trans ?_
    rw [addressed_fits hf, memLanes_eq_formLanes]
    rfl

/-! ### The obligation -/

/-- Settles O21: loads in front of and behind the entries of the queue, stores, and the address checks. -/
theorem localAccesses : Obligations.LocalAccesses := ⟨quickLoads, loadsBehindAtomics, localStores, addressChecks⟩

end Sys2Proof.Machine
end

section
/-! Causes of a crew (R166 to R172): the crew that has entered its trap routine, the record of a cause that no routine takes, and
the obligations. -/

namespace Sys2Proof.Machine

/-! ### Entry to the trap routine -/

/-- In the trap routine a live lane stands at TRAPR, and RPCV, a table of PCs set from empty, holds the PC at which the cause
met it (R169). -/
theorem enterTrap_lane {w : Crew} {l : Nat} (h : w.live.getLsbD l = true) (trapr : Word) (t : Trap) :
    (w.enterTrap trapr t).pcOf l = trapr ∧ getAt 0 (w.enterTrap trapr t).rpcv l = w.pcOf l :=
  ⟨(if_pos h).trans (getAt_setPcs h _), getAt_setPcs (w := { w with pcv := [] }) h w.pcOf⟩

/-- A crew without a held or late cause holds none in the trap routine (R171). -/
theorem enterTrap_held {w : Crew} (hheld : w.held = none) (hlate : w.late = none) (trapr : Word) (t : Trap) :
    (w.enterTrap trapr t).held = none := by
  simp [Crew.enterTrap, earlier, hheld, hlate]

/-- Settles O17: the cause finds the crew outside its routine with nothing outstanding, so it enters at once. -/
theorem trapEntrySaves : Obligations.TrapEntrySaves := by
  intro s b c x w t hb hw hd hr hi hq hl ho hlate hheld
  refine ⟨w.enterTrap x.r.trapr t, ?entered, rfl, rfl, rfl, rfl, rfl, enterTrap_held hheld hlate _ _, rfl, rfl, rfl, rfl, rfl,
    fun l _ hlive => enterTrap_lane hlive _ _⟩
  case entered =>
    rw [raise_enters hb hw hd hr hi hq hl ho, State.crew, State.setBlock_block_self, Option.bind_some, Block.setCrew_self]

/-! ### A cause that no routine takes -/

/-- The flags of a program-handled cause that no routine takes: NOROUT, NESTED and DRAIN (R173). -/
def untakenFlags (x : Block) (w : Crew) : Nat :=
  (if x.r.trapr = 0xFFFFFFFF then flagNorout else 0) |||
    ((if w.inTrap then flagNested else 0) + (if w.drains then flagDrain else 0))

/-- Each of the three bits stands where its condition holds (R173, log 77). -/
theorem bitOf_untakenFlags (x : Block) (w : Crew) :
    (bitOf (untakenFlags x w) 8 = true ↔ x.r.trapr = 0xFFFFFFFF) ∧
    (bitOf (untakenFlags x w) 9 = true ↔ w.inTrap = true) ∧
    (bitOf (untakenFlags x w) 10 = true ↔ w.drains = true) := by
  unfold untakenFlags
  by_cases hr : x.r.trapr = 0xFFFFFFFF <;> cases w.inTrap <;> cases w.drains <;> simp only [hr] <;> decide

/-- A program-handled cause without a routine, in the routine, or of a draining crew is context-fatal, with its flags
(R166 to R168, R172). -/
theorem raise_untaken {s : State} {b c : Nat} {x : Block} {w : Crew} {t : Trap} (hb : s.block b = some x)
    (hw : look x.crews c = some w) (hd : dispOf t.code = .program)
    (hu : x.r.trapr = 0xFFFFFFFF ∨ w.inTrap = true ∨ w.drains = true) :
    s.raise b c t = s.fatal x.slot (faultRec s x c (untakenFlags x w) t) := by
  have hcond : (x.r.trapr = 0xFFFFFFFF || w.inTrap || w.drains) = true := by simpa [or_assoc] using hu
  have hraise : s.raise b c t = s.fatalBlock b c (if x.r.trapr = 0xFFFFFFFF then flagNorout else 0) t := by
    simp only [State.raise, hb, hw, hd, if_pos hcond]
  have hflags : s.crewFlags b c = (if w.inTrap then flagNested else 0) + (if w.drains then flagDrain else 0) := by
    simp only [State.crewFlags, State.crew, hb, hw, Option.bind_some]
  rw [hraise, untakenFlags, ← hflags]
  simp only [State.fatalBlock, hb]

/-- Settles O18: the cause is fatal to a LIVE context, whose first record it becomes. -/
theorem unhandledCauseIsFatal : Obligations.UnhandledCauseIsFatal := by
  intro s b c x w t hb hw hd hlive hu
  have hdrains : w.drains = true ↔ w.wait = .draining ∨ w.live = 0 := by simp [Crew.drains]
  obtain ⟨hnorout, hnested, hdrain⟩ := bitOf_untakenFlags x w
  rw [raise_untaken hb hw hd (hu.imp_right (Or.imp_right fun h => hdrains.mpr (.inl h))), fatal_live hlive,
    State.setCtx_ctx_self, State.setCtx_block]
  exact ⟨rfl, hb, _, rfl, rfl, rfl, rfl, rfl, hnorout, hnested, hdrain.trans hdrains⟩

end Sys2Proof.Machine
end

section
/-! The control queue (R339 to R343, R347, R355, R372): how a command at its head is carried out or refused, what each command
for contexts, queues and holds does and when it is refused, and the obligation. -/

namespace Sys2Proof.Machine

/-! ### The head of the control queue -/

/-- The move of the head leaves the contexts. -/
theorem cqNext_ctxs (s : State) : s.cqNext.ctxs = s.ctxs := by
  simp [State.cqNext, State.activate, State.takeNotes]

/-- The move of the head leaves each context. -/
theorem cqNext_ctx (s : State) (slot : Nat) : s.cqNext.ctx slot = s.ctx slot := by
  rw [State.ctx, State.ctx, cqNext_ctxs]

/-- Of the host's registers the move of the head changes the head index, and the messages for an activation that the die notes
(R339, R423). -/
theorem cqNext_host (s : State) : ∃ sent pending, s.cqNext.host =
    { s.host with sent := sent, pending := pending, cqHead := (s.host.cqHead + 1) % Config.cqSize } := by
  simp only [State.cqNext, State.activate, State.takeNotes, State.setDie_host]
  exact ⟨_, _, rfl⟩

/-- The turn of refusing answers the command at the head, where the queue has no such operation (R341). -/
theorem step_refuse {s : State} {rest : List Turn} {x : Cmd} (hturns : s.turns = .refuse :: rest) (hx : s.cqCmd = some x)
    (ho : cqOp x = none) (ha : s.awake = true) :
    step s = .next (({ s with turns := rest } : State).refuse x).cqNext.tick := by
  have hx' : ({ s with turns := rest } : State).cqCmd = some x := hx
  have ha' : ({ s with turns := rest } : State).awake = true := ha
  simp only [step, hturns, takeTurn, refuseHead, hx', ho, ha', and_self, if_true, ticked]

/-! ### A command is carried out or refused -/

/-- Instruction `i` is operation `o` of the control queue with the operands of `x` and the effect `f`; the operands that the
model's check turns away are those that break the limits of the table (R341). -/
def Carries (i : Instr) (o : CqOp) (x : Cmd) (f : State → State) : Prop :=
  ∃ m, ∀ s, ∃ bad, exec i s = commands s o x m bad f ∧ (bad = true ↔ breaks s o x)

/-- A command that stands at the head is refused where a reserved bit is set or its check fails, and has its effect
otherwise; the head moves on. -/
theorem commands_head {s : State} {o : CqOp} {x : Cmd} (hx : s.cqCmd = some x) (ho : cqOp x = some o) (ha : s.awake = true)
    (m : String) (bad : Bool) (f : State → State) :
    commands s o x m bad f = .next (if x.rsv ≠ 0 ∨ bad = true then s.refuse x else f s).cqNext := by
  have henabled : ¬(s.cqCmd ≠ some x ∨ cqOp x ≠ some o ∨ (!s.awake) = true) := by simp [hx, ho, ha]
  rw [commands, control, if_neg henabled]
  split
  · rfl
  · rfl

section
variable {i : Instr} {o : CqOp} {x : Cmd} {f : State → State} (h : Carries i o x f) {s : State}
include h

/-- A command inside the limits of its table has its effect, and the head moves on (R339, R341). -/
theorem Carries.done (hc : Command s o x) (hin : ¬ breaks s o x) : exec i s = .next (f s).cqNext := by
  obtain ⟨m, hm⟩ := h
  obtain ⟨bad, hexec, hbad⟩ := hm s
  rw [hexec, commands_head hc.head hc.op hc.awake, if_neg (by simp [hc.plain, hbad, hin])]

/-- A command outside the limits of its table is refused (R341). -/
theorem Carries.refused : Refused s x i o := by
  intro hx ho ha hbreaks
  obtain ⟨m, hm⟩ := h
  obtain ⟨bad, hexec, hbad⟩ := hm s
  rw [hexec, commands_head hx ho ha, if_pos (by rwa [hbad])]
  rfl

end

/-! ### The checks of operands -/

/-- A number has a bit from `n` on where it is at least 2^n. -/
theorem above_iff (n x : Nat) : above n x = true ↔ 2 ^ n ≤ x := decide_eq_true_iff

/-- The slot that a command names is free. -/
theorem slotFree_iff (s : State) (x : Cmd) : slotFree s x = true ↔ (s.ctx (bitsOf x.a0 0 6)).state = .free :=
  decide_eq_true_iff

/-- The vectors that CTX_CREATE turns away (R431). -/
theorem vectorOk_eq_false (v : Nat) : vectorOk v = false ↔ v = 0 ∨ 255 < v := by
  simp only [vectorOk, Bool.and_eq_false_iff, decide_eq_false_iff_not]
  omega

/-- Two operands that the table reserves are 0. -/
theorem eq_zero_of_forall_mem_two {a b : Nat} (h : ∀ n ∈ [a, b], n = 0) : a = 0 ∧ b = 0 :=
  ⟨h a (.head _), h b (.tail _ (.head _))⟩

/-- Three operands that the table reserves are 0. -/
theorem eq_zero_of_forall_mem_three {a b c : Nat} (h : ∀ n ∈ [a, b, c], n = 0) : a = 0 ∧ b = 0 ∧ c = 0 :=
  ⟨h a (.head _), eq_zero_of_forall_mem_two fun n hn => h n (.tail _ hn)⟩

/-- A RESOLVE is turned away where its operands break the limits or it names no held block (R174, R176). -/
theorem resolveBad_iff (s : State) (x : Cmd) : resolveBad s x = true ↔ breaks s .resolveResume x := by
  simp only [resolveBad, Bool.or_eq_true, decide_eq_true_eq, above_iff, slotFree_iff, Option.isNone_iff_eq_none, or_assoc]
  exact Iff.rfl

/-! ### The commands -/

section
variable (x : Cmd)

/-- CTX_CREATE makes a context in a free slot and takes its ASID (R341, R343, R372). -/
theorem carries_ctxCreate : Carries (.ctxCreate x) .ctxCreate x fun s =>
    { s.setCtx (bitsOf x.a0 16 6) { state := .live, asid := bitsOf x.a0 0 16, frec := x.a1, hring := x.a2,
                                    fvec := bitsOf x.a3 (16 * 0) 16, hvec := bitsOf x.a3 (16 * 1) 16,
                                    cvec := bitsOf x.a3 (16 * 2) 16, born := s.fresh } with
      stale := s.stale ++ [bitsOf x.a0 0 16], power := .d0Active } := by
  refine ⟨_, fun s => ⟨_, rfl, ?_⟩⟩
  simp only [Bool.or_eq_true, Bool.not_eq_true', decide_eq_true_eq, above_iff, vectorOk_eq_false, breaks,
    Nat.exists_lt_succ_right, Nat.not_lt_zero, false_and, exists_false, false_or, or_assoc]

/-- CTX_END begins to end a LIVE context (R341, R343). -/
theorem carries_ctxEnd : Carries (.ctxEnd x) .ctxEnd x fun s =>
    let c := s.ctx (cmdSlot x)
    if c.state = .live then s.setCtx (cmdSlot x) { c with state := .ending, first := none, more := 0 } else s := by
  refine ⟨_, fun s => ⟨_, rfl, ?_⟩⟩
  simp only [Bool.or_eq_true, decide_eq_true_eq, above_iff, slotFree_iff, or_assoc]
  exact Iff.rfl

/-- CTX_RECLAIM frees the slot of an ENDED context but for its timing-exposed bit (R341, R343, R430). -/
theorem carries_ctxReclaim : Carries (.ctxReclaim x) .ctxReclaim x fun s =>
    (s.discard (cmdSlot x)).setCtx (cmdSlot x) { texp := ((s.discard (cmdSlot x)).ctx (cmdSlot x)).texp } := by
  refine ⟨_, fun s => ⟨_, rfl, ?_⟩⟩
  simp only [Bool.or_eq_true, decide_eq_true_eq, above_iff, or_assoc]
  exact Iff.rfl

/-- SQ_CREATE makes an empty submission queue (R341). -/
theorem carries_sqCreate : Carries (.sqCreate x) .sqCreate x fun s =>
    let c := s.ctx (cmdSlot x)
    s.setCtx (cmdSlot x) { c with
      sqs := put c.sqs (bitsOf x.a0 6 3) { ring := x.a1, entries := x.a2, headwb := x.a3, head := 0, tail := 0 } } := by
  refine ⟨_, fun s => ⟨_, rfl, ?_⟩⟩
  simp only [Bool.or_eq_true, Bool.not_eq_true', decide_eq_true_eq, above_iff, slotFree_iff, or_assoc]
  exact Iff.rfl

/-- OQ_BIND makes an empty ordered queue on a die, bound to its producer where one is launched (R341, R347). -/
theorem carries_oqBind : Carries (.oqBind x) .oqBind x fun s =>
    let d := s.die (bitsOf x.a0 12 1)
    let o : OQueue :=
      { slot := cmdSlot x, es := 64 * bitsOf x.a0 16 16, cap := x.a1, psq := bitsOf x.a2 32 3, pseq := bitsOf x.a2 0 32,
        pgrid := (s.latest (cmdSlot x) (bitsOf x.a2 32 3) (bitsOf x.a2 0 32)).map (·.1), entries := [], rounds := [],
        pushes := [] }
    s.setDie (bitsOf x.a0 12 1) { d with queues := put d.queues (bitsOf x.a0 6 6) o } := by
  refine ⟨_, fun s => ⟨_, rfl, ?_⟩⟩
  simp only [Bool.or_eq_true, decide_eq_true_eq, above_iff, slotFree_iff, breaks, or_assoc]
  exact Iff.rfl

/-- OQ_BIND with UNBIND frees an ordered queue of the context that it names (R341). -/
theorem carries_oqUnbind : Carries (.oqUnbind x) .oqUnbind x fun s =>
    let d := s.die (bitsOf x.a0 12 1)
    s.setDie (bitsOf x.a0 12 1) { d with queues := dropAt d.queues (bitsOf x.a0 6 6) } := by
  refine ⟨_, fun s => ⟨_, rfl, ?_⟩⟩
  simp only [Bool.or_eq_true, Bool.not_eq_true', decide_eq_true_eq, above_iff, slotFree_iff, breaks, or_assoc]
  cases look (s.die (bitsOf x.a0 12 1)).queues (bitsOf x.a0 6 6) with
  | none => simp
  | some q =>
    have hmine : decide (q.slot = cmdSlot x) = false ↔ q.slot ≠ bitsOf x.a0 0 6 := decide_eq_false_iff_not
    simp only [hmine, Option.some.injEq, forall_eq']
    rw [or_comm (a := q.slot ≠ bitsOf x.a0 0 6), or_assoc]

/-- RESOLVE with RESUME ends the hold of the block (R174, R351). -/
theorem carries_resolveResume : Carries (.resolveResume x) .resolveResume x fun s => match heldBlock s x with
    | none => s
    | some (b, y, _) => s.setBlock b { y with hold := none } :=
  ⟨_, fun s => ⟨_, rfl, resolveBad_iff s x⟩⟩

/-- RESOLVE with RETRY ends a hold by a translation fault, and the step that faulted begins again (R174, R351). -/
theorem carries_resolveRetry : Carries (.resolveRetry x) .resolveRetry x fun s => match heldBlock s x with
    | none => s
    | some (b, y, _) => s.setBlock b { y with
        hold := none, phase := y.phase.restart, share := if (y.phase matches .staging _) then [] else y.share } := by
  refine ⟨_, fun s => ⟨_, rfl, (Bool.or_eq_true _ _).to_iff.trans (or_congr (resolveBad_iff s x) ?_)⟩⟩
  cases heldBlock s x with
  | none => simp
  | some p =>
    obtain ⟨b, y, h⟩ := p
    simp

/-- RESOLVE with KILL makes the cause of the hold fatal (R174). -/
theorem carries_resolveKill : Carries (.resolveKill x) .resolveKill x fun s => match heldBlock s x with
    | none => s
    | some (_, y, h) => s.fatal y.slot (faultRec s y (h.crew.getD 255) flagHostk h.trap) :=
  ⟨_, fun s => ⟨_, rfl, resolveBad_iff s x⟩⟩

/-- SET_AGE sets the ageing interval of both dies (R341, R355). -/
theorem carries_setAge : Carries (.setAge x) .setAge x fun s => { s with age0 := x.a0, age1 := x.a0 } := by
  refine ⟨_, fun s => ⟨_, rfl, ?_⟩⟩
  simp only [Bool.or_eq_true, decide_eq_true_eq, above_iff, or_assoc]
  exact Iff.rfl

/-- PT_ROOT sets the root of a context's page table (R372). -/
theorem carries_ptRoot : Carries (.ptRoot x) .ptRoot x fun s =>
    s.setCtx (cmdSlot x) { s.ctx (cmdSlot x) with root := x.a1 } := by
  refine ⟨_, fun s => ⟨_, rfl, ?_⟩⟩
  simp only [Bool.or_eq_true, decide_eq_true_eq, above_iff, slotFree_iff, or_assoc]
  exact Iff.rfl

/-- L2_QUOTA sets the lines that a context may lock (R372). -/
theorem carries_l2Quota : Carries (.l2Quota x) .l2Quota x fun s =>
    s.setCtx (cmdSlot x) { s.ctx (cmdSlot x) with quota := x.a1 } := by
  refine ⟨_, fun s => ⟨_, rfl, ?_⟩⟩
  simp only [Bool.or_eq_true, decide_eq_true_eq, above_iff, slotFree_iff, or_assoc]
  exact Iff.rfl

end

/-! ### What a reclaimed slot keeps -/

/-- Everything that a context's work stands in goes, its timing-exposed bit stays (R172, R430). -/
theorem discard_texp (s : State) (slot : Nat) : ((s.discard slot).ctx slot).texp = (s.ctx slot).texp := by
  have hblocks (bs : List Nat) : (bs.foldl (fun s b => (s.dropWork b).dropBlock b) s).ctx slot = s.ctx slot :=
    foldl_observed_unchanged (f := fun s b => (s.dropWork b).dropBlock b) (fun t : State => t.ctx slot)
      (fun _ _ _ => rfl) s
  have htexp (bs : List Nat) := congrArg Ctx.texp (hblocks bs)
  exact (congrArg Ctx.texp (State.setCtx_ctx_self _ slot _)).trans (htexp _)

/-! ### The doorbells -/

/-- The doorbell of a submission queue sets its tail (R339). -/
theorem exec_sqdb {s : State} (ha : s.awake = true) {sq : Nat} {k : SubQ}
    (hk : look (s.ctx (sq / 8)).sqs (sq % 8) = some k) (w : Nat) :
    exec (.sqdb sq w) s = .next (s.setCtx (sq / 8)
      { s.ctx (sq / 8) with sqs := put (s.ctx (sq / 8)).sqs (sq % 8) { k with tail := w % k.entries } }) := by
  change execSqdb sq w s = _
  simp only [execSqdb, ha, hk, Bool.not_true, Bool.false_eq_true, if_false]

/-! ### The obligation -/

/-- Settles O47: each command by what it carries out and when its operands break the limits, the refusal of an operation that
the queue does not have, and the doorbells. -/
theorem contextCommands : Obligations.ContextCommands := by
  intro s x slot c zero
  refine ⟨?ctxCreate, fun hc h0 hused hz => ?ctxEnd, fun hc h0 hended hz => ?ctxReclaim,
    fun hc h0 hused hq h1 h2 h3 => ?sqCreate, ⟨?oqBind, ?oqUnbind⟩, fun b y h hheld hok => ?resolve,
    fun hc h0 hz => ?setAge, fun hc h0 hused h1 h1' hz => ?ptRoot, fun hc h0 hused h1 hz => ?l2Quota,
    fun i o hi => ?refused, fun rest hturns hx ho ha => ?unknown, fun w ha => ⟨if_pos ha, fun sq k hk => exec_sqdb ha hk w⟩⟩
  case ctxCreate =>
    intro hc new v h0 hfree h1 h2 h3 hv hasid hrecov
    have hvectors : ¬ ∃ k < 3, v k = 0 ∨ 255 < v k := fun ⟨k, hk, hout⟩ => by
      have hin := hv k hk
      omega
    refine (carries_ctxCreate x).done hc ?_
    simp only [breaks, not_or, Nat.not_le, ne_eq, Classical.not_not, Bool.not_eq_true]
    exact ⟨h0, hfree, h1, h2, h3, hvectors, hasid, hrecov⟩
  case ctxEnd =>
    refine (carries_ctxEnd x).done hc ?_
    simp only [breaks, not_or, Nat.not_le, ne_eq, Classical.not_not]
    exact ⟨h0, hused, eq_zero_of_forall_mem_three hz⟩
  case ctxReclaim =>
    refine ⟨_, (carries_ctxReclaim x).done hc ?_, ?_, ?_⟩
    · simp only [breaks, not_or, Nat.not_le, ne_eq, Classical.not_not]
      exact ⟨h0, hended, eq_zero_of_forall_mem_three hz⟩
    · rw [cqNext_ctx]
      exact congrArg Ctx.state (State.setCtx_ctx_self _ _ _)
    · rw [cqNext_ctx]
      exact (congrArg Ctx.texp (State.setCtx_ctx_self _ _ _)).trans (discard_texp s slot)
  case sqCreate =>
    refine (carries_sqCreate x).done hc ?_
    simp only [breaks, not_or, Nat.not_le, ne_eq, Classical.not_not, Bool.not_eq_false, Bool.not_eq_true, Option.isSome_eq_false_iff,
      Option.isNone_iff_eq_none]
    exact ⟨h0, hused, hq, h1, h2, h3⟩
  case oqBind =>
    intro hc h0 h1 hused es hes hes' ha1 ha2 ha3 hq huse
    refine (carries_oqBind x).done hc ?_
    simp only [breaks, not_or, Nat.not_le, Nat.not_lt, ne_eq, Classical.not_not, Bool.not_eq_true, Option.isSome_eq_false_iff,
      Option.isNone_iff_eq_none]
    exact ⟨⟨h0, h1, hused, Nat.ne_of_gt hes, hes', ha1, ha2, ha3⟩, hq, huse⟩
  case oqUnbind =>
    intro hc h0 h1 hused hes hes' ha1 ha2 ha3 ⟨o, ho, hmine⟩
    refine (carries_oqUnbind x).done hc ?_
    simp only [breaks, not_or, Nat.not_le, Nat.not_lt, ne_eq, Classical.not_not]
    exact ⟨⟨h0, h1, hused, Nat.ne_of_gt hes, hes', ha1, ha2, ha3⟩, fun hother => hother o ho hmine⟩
  case resolve =>
    have hin : ¬ breaks s .resolveResume x := by simp [← resolveBad_iff, hok]
    refine ⟨fun hc => ((carries_resolveResume x).done hc hin).trans (hheld ▸ rfl), fun hc hfault => ?retry,
      fun hc => ((carries_resolveKill x).done hc hin).trans (hheld ▸ rfl)⟩
    case retry =>
      have hin' : ¬ breaks s .resolveRetry x := not_or.mpr ⟨hin, fun hother => hother b y h hheld hfault⟩
      exact ((carries_resolveRetry x).done hc hin').trans (hheld ▸ rfl)
  case setAge =>
    refine (carries_setAge x).done hc ?_
    simp only [breaks, not_or, Nat.not_le, ne_eq, Classical.not_not]
    exact ⟨h0, eq_zero_of_forall_mem_three hz⟩
  case ptRoot =>
    refine (carries_ptRoot x).done hc ?_
    simp only [breaks, not_or, Nat.not_le, ne_eq, Classical.not_not]
    exact ⟨h0, hused, h1, h1', eq_zero_of_forall_mem_two hz⟩
  case l2Quota =>
    refine (carries_l2Quota x).done hc ?_
    simp only [breaks, not_or, Nat.not_le, Nat.not_lt, ne_eq, Classical.not_not]
    exact ⟨h0, hused, h1, eq_zero_of_forall_mem_two hz⟩
  case refused =>
    simp only [List.mem_cons, Prod.mk.injEq, List.not_mem_nil, or_false] at hi
    obtain ⟨rfl, rfl⟩ | ⟨rfl, rfl⟩ | ⟨rfl, rfl⟩ | ⟨rfl, rfl⟩ | ⟨rfl, rfl⟩ | ⟨rfl, rfl⟩ | ⟨rfl, rfl⟩ | ⟨rfl, rfl⟩ |
      ⟨rfl, rfl⟩ | ⟨rfl, rfl⟩ | ⟨rfl, rfl⟩ | ⟨rfl, rfl⟩ := hi
    · exact (carries_ctxCreate x).refused
    · exact (carries_ctxEnd x).refused
    · exact (carries_ctxReclaim x).refused
    · exact (carries_sqCreate x).refused
    · exact (carries_oqBind x).refused
    · exact (carries_oqUnbind x).refused
    · exact (carries_resolveResume x).refused
    · exact (carries_resolveRetry x).refused
    · exact (carries_resolveKill x).refused
    · exact (carries_setAge x).refused
    · exact (carries_ptRoot x).refused
    · exact (carries_l2Quota x).refused
  case unknown =>
    obtain ⟨sent, pending, hhost⟩ := cqNext_host (({ s with turns := rest } : State).refuse x)
    refine ⟨_, step_refuse hturns hx ho ha, ?_⟩
    simp only [State.tick, hhost, cqNext_ctxs]
    exact ⟨rfl, rfl, rfl, rfl, rfl⟩

end Sys2Proof.Machine
end

section
/-! The head of a store queue (R194, R231, R233, R236, R242, R275): what performing each kind of entry does in a block free of
errors, and the obligation about it. -/

namespace Sys2Proof.Machine

/-! ### The head is taken off the queue -/

/-- A crew is read from its block. -/
theorem crew_of_block {s : State} {b c : Nat} {x : Block} {w : Crew} (hb : s.block b = some x) (hw : look x.crews c = some w) :
    s.crew b c = some w := by
  rw [State.crew, hb, Option.bind_some, hw]

/-- A crew is replaced in its block. -/
theorem setCrew_of_block {s : State} {b : Nat} {x : Block} (hb : s.block b = some x) (c : Nat) (w : Crew) :
    s.setCrew b c w = s.setBlock b (x.setCrew c w) := by
  rw [State.setCrew, hb]

/-- The block once the head of crew `c`'s queue is off it. -/
def headTaken (x : Block) (c : Nat) (w : Crew) : Block := x.setCrew c { w with queue := w.queue.tail }

@[simp] theorem headTaken_share (x : Block) (c : Nat) (w : Crew) : (headTaken x c w).share = x.share := rfl
@[simp] theorem headTaken_crew (x : Block) (c : Nat) (w : Crew) :
    look (headTaken x c w).crews c = some { w with queue := w.queue.tail } := Block.setCrew_self _ _ _

/-- The state in which the effect of the head takes place. -/
def afterHead (s : State) (b c : Nat) (x : Block) (w : Crew) : State := s.setBlock b (headTaken x c w)

@[simp] theorem afterHead_block (s : State) (b c : Nat) (x : Block) (w : Crew) :
    (afterHead s b c x w).block b = some (headTaken x c w) := State.setBlock_block_self _ _ _

section
variable {s : State} {b c : Nat} {x : Block} {w : Crew} {h : QEntry} (hh : HeadIs s b c x w h)
include hh

/-- What performing the head of a queue finds: the crew with its queue, and the state that its effect starts from. -/
theorem head_found : ∃ q, w.queue = h :: q ∧ s.crew b c = some w ∧
    s.setCrew b c { w with queue := q } = afterHead s b c x w := by
  obtain ⟨q, hq⟩ := List.head?_eq_some_iff.mp hh.head
  refine ⟨q, hq, crew_of_block hh.block hh.crew, ?_⟩
  rw [setCrew_of_block hh.block, afterHead, headTaken, hq, List.tail_cons]

/-- The event of the head's kind performs it. -/
theorem headEvent_performs {kind : QEntry → Bool} (hk : kind h = true) (m : String) :
    headEvent s b c m kind = .next (s.performHead b c) := by
  simp [headEvent, crew_of_block hh.block hh.crew, hh.head, hk]

end

/-! ### Stores -/

section
variable {s : State} {b : Nat} {x : Block} (hb : s.block b = some x) (he : x.errs = [])
include hb he

/-- A write into the share of a block free of errors is what the block then holds. -/
theorem storeShare_block (crew a : Nat) (bs : List Byte) :
    (s.storeShare b crew a bs).block b = some { x with share := writeBytes x.share a bs } := by
  rw [storeShare_clean hb he, State.setBlock_block_self]

end

section
variable {s : State} {b c : Nat} {x : Block} {w : Crew}

/-- A store at the head reaches the share (R194). -/
theorem performHead_store {a : Nat} {bs : List Byte} (h : HeadIs s b c x w (.store a bs)) :
    (s.performHead b c).block b = some { headTaken x c w with share := writeBytes x.share a bs } := by
  obtain ⟨q, hq, hc, hs⟩ := head_found h
  simp only [State.performHead, hc, hq, hs]
  exact storeShare_block (afterHead_block ..) h.clean _ _ _

end

/-! ### Atomic operations -/

/-- One lane of an ATOM: the share, the writes of the old values and the flags (R231). -/
def atomLane (op : Nat) (ty : Ty) (rnd : Nat) (uni : Bool) (d : Nat) (m : Sparse Byte × List Wr × Flags) (k : AtomLane) :
    Sparse Byte × List Wr × Flags :=
  let n := tyBits ty / 8
  let old := readLE m.1 k.addr n
  let r := atomOp op ty rnd old k.b k.c
  (writeBytes m.1 k.addr (natToBytes n r.1), m.2.1 ++ resultWrites uni ty d k.lane old, m.2.2 ||| r.2)

/-- In a block free of errors the lanes of an ATOM take their turns in ascending order: `ws` and `fl` are what lanes before
these have gathered. -/
theorem atomLanes_clean {b : Nat} (crew op : Nat) (ty : Ty) (rnd : Nat) (uni : Bool) (d : Nat) (ks : List AtomLane) :
    ∀ {s : State} {x : Block}, s.block b = some x → x.errs = [] → ∀ (ws : List Wr) (fl : Flags),
    let t := atomLanes s b crew op ty rnd uni d ks
    let r := ks.foldl (atomLane op ty rnd uni d) (x.share, ws, fl)
    t.1.block b = some { x with share := r.1 } ∧ r.2 = (ws ++ t.2.1, fl ||| t.2.2) := by
  induction ks with
  | nil => intro s x hb _ ws fl; simp [atomLanes, hb]
  | cons k ks ih =>
    intro s x hb he ws fl
    simp only [atomLanes, meetRead_clean hb he, hb, List.foldl_cons]
    have hk := ih (storeShare_block hb he crew k.addr
      (natToBytes (tyBits ty / 8) (atomOp op ty rnd (readLE x.share k.addr (tyBits ty / 8)) k.b k.c).1)) he
      (ws ++ resultWrites uni ty d k.lane (readLE x.share k.addr (tyBits ty / 8)))
      (fl ||| (atomOp op ty rnd (readLE x.share k.addr (tyBits ty / 8)) k.b k.c).2)
    simpa [atomLane, List.append_assoc, BitVec.or_assoc] using hk

section
variable {s : State} {b c : Nat} {x : Block} {w : Crew}

/-- An ATOM at the head, lane after lane, writes the share and fills its result (R231). -/
theorem performHead_atom {order op : Nat} {ty : Ty} {rnd : Nat} {uni : Bool} {d : Nat} {ks : List AtomLane}
    (h : HeadIs s b c x w (.atom order op ty rnd uni d ks)) :
    let r := ks.foldl (atomLane op ty rnd uni d) (x.share, [], 0)
    (s.performHead b c).block b = some { x.setCrew c ({ w with queue := w.queue.tail }.fill order fun p =>
      { p with writes := r.2.1, flags := r.2.2, ready := true }) with share := r.1 } := by
  obtain ⟨q, hq, hc, hs⟩ := head_found h
  obtain ⟨hb, hr⟩ := atomLanes_clean c op ty rnd uni d ks (afterHead_block s b c x w) h.clean [] 0
  rw [List.nil_append, show (0 : Flags) ||| _ = _ from BitVec.zero_or] at hr
  obtain ⟨hws, hfl⟩ := Prod.mk.inj hr
  simp only [State.performHead, hc, hq, hs]
  rw [crew_of_block hb (headTaken_crew x c w)]
  dsimp only
  rw [setCrew_of_block hb, State.setBlock_block_self, ← hws, ← hfl, headTaken]
  simp only [Block.setCrew, put_put, hq, List.tail_cons]

/-! ### Barriers -/

/-- What is ordered before a job is no part of a block. -/
@[simp] theorem mapSeen_block (s : State) (b k : Nat) (f : BitVec 64 → List (Nat × Nat) → BitVec 64 × List (Nat × Nat)) :
    (s.mapSeen b f).block k = s.block k := rfl

/-- The generations without arrivals are no part of a block. -/
@[simp] theorem noArrivals_block (s : State) (b a k : Nat) (g : Nat → Bool) :
    (s.noArrivals b a g).block k = s.block k := rfl

/-- An arrival is no part of a block. -/
@[simp] theorem arrives_block (s : State) (b c a k : Nat) (o : TBar) : (s.arrives b c a o).block k = s.block k := by
  rw [State.arrives, mapSeen_block]
  split <;> rfl

/-- The bits of a new object with quota `n` (R236). -/
theorem bits_newBarrier {n : Nat} (h : n ≤ 1048575) :
    TBar.bits { gen := 0, owed := n, inbound := 0, fault := 0, quota := n, rsv := 0 } = 2 ^ 4 * n + 2 ^ 80 * n := by
  have hn : n % 2 ^ 20 = n := Nat.mod_eq_of_lt (by omega)
  rw [TBar.bits, hn]
  simp [wrapNat]

/-- A TBINIT of a quota inside the limits writes an object of that quota (R236). -/
theorem performHead_tbinit {order a n : Nat} {pc act : Word} (h : HeadIs s b c x w (.tbinit order a n pc act)) (h1 : 1 ≤ n)
    (hn : n ≤ 1048575) : (s.performHead b c).block b =
      some { headTaken x c w with share := writeBytes x.share a (natToBytes 16 (2 ^ 4 * n + 2 ^ 80 * n)) } := by
  obtain ⟨q, hq, hc, hs⟩ := head_found h
  have hin : ¬(n = 0 ∨ n > 1048575) := by omega
  simp only [State.performHead, hc, hq, hs, if_neg hin]
  rw [State.setTbar, bits_newBarrier hn]
  exact storeShare_block ((noArrivals_block ..).trans (afterHead_block ..)) h.clean _ _ _

/-- A cause of an entry of the queue is raised where the crew does not park for a trap entry (R171). -/
theorem raiseLate_raise {l : Late} (hc : s.crew b c = some w) (hw : ∀ k, w.wait ≠ .parked (.trap k)) :
    s.raiseLate b c l = s.raise b c l.trap := by
  simp only [State.raiseLate, hc, Bool.false_eq_true, if_false]

/-- A TBINIT of a quota outside the limits raises cause 0x18 with reason 4 (R236). -/
theorem performHead_tbinit_fails {order a n : Nat} {pc act : Word} (h : HeadIs s b c x w (.tbinit order a n pc act))
    (hn : n = 0 ∨ 1048575 < n) (hw : ∀ k, w.wait ≠ .parked (.trap k)) : s.performHead b c =
      (afterHead s b c x w).raise b c { code := 0x18, info := 4, pc := pc, lanes := act, next := pc + 8 } := by
  obtain ⟨q, hq, hc, hs⟩ := head_found h
  simp only [State.performHead, hc, hq, hs]
  rw [if_pos hn, raiseLate_raise (crew_of_block (afterHead_block ..) (headTaken_crew ..)) hw]

/-- A TBARR that passes its check counts down and gives its ticket; its crew goes on (R236). -/
theorem performHead_tbarr {a d inb : Nat} {pc act ipc iact part : Word} {i : Instr}
    (h : HeadIs s b c x w (.tbarr a d inb pc act)) (hw : w.wait = .waiting i ipc iact part) (hi : (hdrOf i).s = false)
    (ho : tbarrCheck (x.tbar a) inb = none) :
    ∃ y, (s.performHead b c).block b = some y ∧
      y.share = writeBytes x.share a (natToBytes 16 (tbarrNext (x.tbar a) inb).bits) ∧
      ∃ w', look y.crews c = some w' ∧ w'.wait = .ready ∧ w'.rs d = BitVec.ofNat 32 (x.tbar a).gen := by
  obtain ⟨q, hq, hc, hs⟩ := head_found h
  have ho' : tbarrCheck ((headTaken x c w).tbar a) inb = none := ho
  have hb := storeShare_block ((arrives_block _ b c a b (x.tbar a)).trans (afterHead_block s b c x w)) h.clean 255 a
    (natToBytes 16 (tbarrNext (x.tbar a) inb).bits)
  have hw' := headTaken_crew x c w
  simp only [State.performHead, hc, hq, hs]
  simp only [hw, afterHead_block, meetRead_clean (afterHead_block ..) h.clean, ho', State.setTbar]
  refine ⟨_, (congrArg (State.block · b) (resume_plain hb hw' hi)).trans (State.setBlock_block_self ..), rfl, _,
    Block.setCrew_self .., rfl, rs_write1 _ d _⟩

/-! ### Rings -/

/-- An operation on a ring at the head changes its descriptor (R242). -/
theorem performHead_ring {order a v : Nat} {i : Instr} {pc act : Word} (h : HeadIs s b c x w (.ring order i a v pc act))
    {r : Ring} {n : Nat} (hr : ringAct x a (ringHead i v) = .done r n) :
    s.performHead b c = s.setBlock b { headTaken x c w with share := writeBytes x.share a (natToBytes 32 r.bits) } := by
  obtain ⟨q, hq, hc, hs⟩ := head_found h
  have hr' : ringAct (headTaken x c w) a (ringHead i v) = .done r n := hr
  simp only [State.performHead, hc, hq, hs, meetRead_clean (afterHead_block ..) h.clean, afterHead_block, hr']
  rw [storeShare_clean (afterHead_block ..) h.clean, afterHead, State.setBlock_setBlock, headTaken_share]

/-- One that fails raises cause 0x17 with its reason (R242). -/
theorem performHead_ring_fails {order a v k : Nat} {i : Instr} {pc act : Word}
    (h : HeadIs s b c x w (.ring order i a v pc act)) (hr : ringAct x a (ringHead i v) = .fail k)
    (hw : ∀ t, w.wait ≠ .parked (.trap t)) : s.performHead b c =
      (afterHead s b c x w).raise b c { code := 0x17, info := k, pc := pc, lanes := act, next := pc + 8 } := by
  obtain ⟨q, hq, hc, hs⟩ := head_found h
  have hr' : ringAct (headTaken x c w) a (ringHead i v) = .fail k := hr
  simp only [State.performHead, hc, hq, hs, meetRead_clean (afterHead_block ..) h.clean, afterHead_block, hr']
  exact raiseLate_raise (crew_of_block (afterHead_block ..) (headTaken_crew ..)) hw

end

/-! ### ENVRST -/

/-- The slot of one lane takes the template, the episode number and a zero cursor (R275). -/
def envSlot (d : EnvDesc) (m : Sparse Byte) (p : Nat × Nat) : Sparse Byte :=
  writeBytes (writeBytes (writeBytes m p.1 (readBytes m d.tbase d.ssize)) (p.1 + d.epoff) (natToBytes 8 p.2))
    (p.1 + d.curoff) (natToBytes 4 0)

/-- In a block free of errors the slots of an ENVRST are written in ascending lane order. -/
theorem envLanes_clean {b : Nat} (crew : Nat) (d : EnvDesc) (slots : List (Nat × Nat)) :
    ∀ {s : State} {x : Block}, s.block b = some x → x.errs = [] →
    (envLanes s b crew d slots).block b = some { x with share := slots.foldl (envSlot d) x.share } := by
  induction slots with
  | nil => exact fun hb _ => hb
  | cons p slots ih =>
    intro s x hb he
    have h1 := storeShare_block hb he crew p.1 (readBytes x.share d.tbase d.ssize)
    have h2 := storeShare_block h1 he crew (p.1 + d.epoff) (natToBytes 8 p.2)
    have h3 := storeShare_block h2 he crew (p.1 + d.curoff) (natToBytes 4 0)
    simp only [envLanes, envWrite, meetRead_clean hb he, hb]
    exact ih h3 he

/-- An ENVRST at the head writes its slots (R275). -/
theorem performHead_envrst {s : State} {b c : Nat} {x : Block} {w : Crew} {d : EnvDesc} {slots : List (Nat × Nat)}
    (h : HeadIs s b c x w (.envrst d slots)) : (s.performHead b c).block b =
      some { headTaken x c w with share := slots.foldl (envSlot d) x.share } := by
  obtain ⟨q, hq, hc, hs⟩ := head_found h
  simp only [State.performHead, hc, hq, hs]
  exact envLanes_clean c d slots (afterHead_block ..) h.clean

/-! ### The obligation -/

/-- Settles O23: each event performs the head of its kind, kind by kind. -/
theorem queueHeadEffects : Obligations.QueueHeadEffects := by
  intro s b c x w
  refine ⟨fun a bs h => ?store, fun order op ty rnd uni d ks h => ?atom, fun order a n pc act h => ⟨fun h1 hn => ?tbinit,
    fun hn hw => ?tbinitFails⟩, fun order i a v pc act h => ⟨fun r n hr => ?ring, fun k hr hw => ?ringFails⟩,
    fun a d inb pc act i ipc iact part h hw hi ho => ?tbarr, fun d slots h => ?envrst⟩
  case store => exact ⟨_, headEvent_performs h rfl _, performHead_store h⟩
  case atom => exact ⟨_, headEvent_performs h rfl _, performHead_atom h⟩
  case tbinit => exact ⟨_, headEvent_performs h rfl _, performHead_tbinit h h1 hn⟩
  case tbinitFails => exact (headEvent_performs h rfl _).trans (congrArg _ (performHead_tbinit_fails h hn hw))
  case ring => exact (headEvent_performs h rfl _).trans (congrArg _ (performHead_ring h hr))
  case ringFails => exact (headEvent_performs h rfl _).trans (congrArg _ (performHead_ring_fails h hr hw))
  case tbarr =>
    obtain ⟨y, hy, hshare, hcrew⟩ := performHead_tbarr h hw hi ho
    exact ⟨_, y, headEvent_performs h rfl _, hy, hshare, hcrew⟩
  case envrst => exact ⟨_, headEvent_performs h rfl _, performHead_envrst h⟩

end Sys2Proof.Machine
end

section
/-! LAYOUT and its swizzle, RCFENCE, and FENCE (R189 to R193, R248 to R250, R378, R395, R408, R409, R458): what a release and an
acquire leave of the work of the crews, the steps of a fence, and the obligation. -/

namespace Sys2Proof.Machine

/-! ### The swizzle (R189) -/

/-- What the swizzle of mode `m` changes in bits 7 to 2 of an offset: a number of its bits from 8 on. -/
def swizzleMask (m o : Nat) : Nat := bitsOf o 8 13 / 2 ^ (m / 4 % 4) % 2 ^ (6 - m % 4) * 2 ^ (m % 4)

theorem swizzleMask_lt (m o : Nat) : swizzleMask m o < 64 := by
  have hg : 6 - m % 4 + m % 4 = 6 := by omega
  calc swizzleMask m o
    _ < 2 ^ (6 - m % 4) * 2 ^ (m % 4) := Nat.mul_lt_mul_of_pos_right (Nat.mod_lt _ (Nat.two_pow_pos _)) (Nat.two_pow_pos _)
    _ = 2 ^ 6 := by rw [← Nat.pow_add, hg]

/-- The mask depends on the 256-byte group alone. -/
theorem swizzleMask_eq {o o' : Nat} (h : o / 256 = o' / 256) (m : Nat) : swizzleMask m o = swizzleMask m o' := by
  simp [swizzleMask, bitsOf, h]

/-- The swizzle keeps the 256-byte group and the byte of the word, and changes the number of the word in the group. -/
theorem swizzle_parts {m : Nat} (hm : m ≠ 0) (o : Nat) : swizzle m o / 256 = o / 256 ∧
    swizzle m o / 4 % 64 = (o / 4 % 64) ^^^ swizzleMask m o ∧ swizzle m o % 4 = o % 4 := by
  have hx : (o / 4 % 64) ^^^ swizzleMask m o < 64 :=
    Nat.xor_lt_two_pow (n := 6) (Nat.mod_lt _ (by decide)) (swizzleMask_lt m o)
  have hs : swizzle m o = o - o % 256 + 4 * ((o / 4 % 64) ^^^ swizzleMask m o) + o % 4 := by
    rw [swizzle, if_neg hm]
    rfl
  omega

/-- A number XORed twice with a mask is itself, so the mask cancels. -/
theorem eq_of_xor_eq {a b m : Nat} (h : a ^^^ m = b ^^^ m) : a = b := by
  have hm := congrArg (· ^^^ m) h
  simpa only [Nat.xor_assoc, Nat.xor_self, Nat.xor_zero] using hm

/-- R189: the swizzle is injective. -/
theorem swizzleIsInjective : Claim.SwizzleIsInjective := by
  intro m o o' _ h
  by_cases hm : m = 0
  · simpa [swizzle, hm] using h
  obtain ⟨hgroup, hword, hbyte⟩ := swizzle_parts hm o
  obtain ⟨hgroup', hword', hbyte'⟩ := swizzle_parts hm o'
  have hsame : o / 256 = o' / 256 := by rw [← hgroup, h, hgroup']
  have hw : o / 4 % 64 = o' / 4 % 64 := by
    rw [h, hword', swizzleMask_eq hsame.symm] at hword
    exact (eq_of_xor_eq hword).symm
  omega

/-! ### LAYOUT and RCFENCE -/

/-- The lanes that take part stay those of the issue. -/
@[simp] theorem refresh_part (e : Env) (s : State) : (e.refresh s).part = e.part := by
  unfold Env.refresh
  split <;> rfl

/-- An instruction that takes its place after an empty queue follows at once. -/
theorem afterQueue_empty {e : Env} (hq : e.cw.queue = []) (s : State) (i : Instr) (k : State → Env → Out) :
    afterQueue s e i k = k s e := by
  simp [afterQueue, hq]

/-- R189 to R193, R249, R250: LAYOUT and RCFENCE. -/
theorem layoutInstructions : Claim.LayoutInstructions := by
  intro x s e
  refine ⟨fun h s1 l hl => ?layout, fun h hp hq => ?rcfence⟩
  case layout =>
    refine (issue_ready h _).trans ?_
    rw [hl]
    cases l with
    | none => rfl
    | some l =>
      have hc := complete_onLanes_noFlags (served s1 e) (e.refresh (served s1 e)) false
        fun k => [.v x.d k (BitVec.ofNat 32 (layoutResult e.cw l x.a k))]
      rwa [refresh_part] at hc
  case rcfence =>
    refine ⟨s.dropRecords e.blk.coreNo (s.ctx e.blk.slot).asid, ?_, rfl, fun r => ?_⟩
    · refine (issue_ready h _).trans ?_
      rw [perCrew_participating hp, afterQueue_empty hq, complete_noFlags _ _ _ rfl rfl rfl]
    · refine List.mem_filter.trans (and_congr_right fun _ => ?_)
      rw [Bool.not_eq_true', ← Bool.not_eq_true, Bool.and_eq_true, decide_eq_true_iff, decide_eq_true_iff]

/-! ### What a release and an acquire leave -/

/-- The part of the state that says which operations of the crews are outstanding. -/
structure Outstanding where
  blocks : List (Nat × Block)
  copies : List (Nat × Copy)
  fars : List (Nat × Far)
  opts : List (Nat × OptJob)
  colls : List (Nat × Coll)
  sends : List (Nat × Send)
  tevents0 : List TableEvent
  tevents1 : List TableEvent
  joins : Nat → JoinCfg × JoinCfg

/-- The outstanding operations of a state. -/
def State.outstanding (s : State) : Outstanding where
  blocks := s.blocks
  copies := s.copies
  fars := s.fars
  opts := s.opts
  colls := s.colls
  sends := s.sends
  tevents0 := s.die0.tevents
  tevents1 := s.die1.tevents
  joins k := ((s.ctx k).j0, (s.ctx k).j1)

/-- Where the outstanding operations are the same, so are the blocks. -/
theorem block_of_outstanding {s t : State} (h : t.outstanding = s.outstanding) (b : Nat) : t.block b = s.block b :=
  congrArg (fun o : Outstanding => look o.blocks b) h

/-- The outstanding reads of a crew are read from the outstanding operations. -/
theorem readsOut_of_outstanding {s t : State} (h : t.outstanding = s.outstanding) (b c : Nat) :
    t.readsOut b c = s.readsOut b c := by
  simp only [State.outstanding, Outstanding.mk.injEq] at h
  obtain ⟨hblocks, hcopies, hfars, hopts, hcolls, hsends, htev0, htev1, hjoins⟩ := h
  have hj (k : Nat) : (t.ctx k).j0 = (s.ctx k).j0 ∧ (t.ctx k).j1 = (s.ctx k).j1 := Prod.mk.inj (congrFun hjoins k)
  have howed : t.releaseOwed b c = s.releaseOwed b c := by
    simp only [State.releaseOwed, State.block, hblocks, hj]
  simp only [State.readsOut, State.tableWork, howed, hcopies, hfars, hopts, hcolls, hsends, htev0, htev1]

/-- A die replaced by one with the same events at its join table leaves the outstanding operations. -/
theorem setDie_outstanding {s : State} {d : Nat} {x : Die} (h : x.tevents = (s.die d).tevents) :
    (s.setDie d x).outstanding = s.outstanding := by
  unfold State.die at h
  unfold State.setDie State.outstanding
  split
  next hd =>
    rw [if_pos hd] at h
    rw [← h]
    rfl
  next hd =>
    rw [if_neg hd] at h
    rw [← h]
    rfl

/-- A cache is no outstanding operation. -/
@[simp] theorem setCache_outstanding (s : State) (die : Nat) (rdc : Bool) (ls : List Line) :
    (s.setCache die rdc ls).outstanding = s.outstanding := by
  refine setDie_outstanding ?_
  split <;> rfl

/-- A message to the host is no outstanding operation. -/
@[simp] theorem sendVec_outstanding (s : State) (v : Nat) : (s.sendVec v).outstanding = s.outstanding := by
  unfold State.sendVec
  split <;> rfl

/-- A noted cause is no outstanding operation. -/
@[simp] theorem note_outstanding (s : State) (die code loc asid info : Nat) :
    (s.note die code loc asid info).outstanding = s.outstanding := by
  unfold State.note
  extract_lets d same d' s'
  have h : s'.outstanding = s.outstanding := setDie_outstanding (by unfold d'; split <;> rfl)
  split
  · rw [sendVec_outstanding, h]
  · exact h

/-- A context-fatal cause is no outstanding operation: the context keeps its join tables. -/
@[simp] theorem fatal_outstanding (s : State) (slot : Nat) (r : FaultRec) : (s.fatal slot r).outstanding = s.outstanding := by
  have hset (x : Ctx) (h0 : x.j0 = (s.ctx slot).j0) (h1 : x.j1 = (s.ctx slot).j1) :
      (s.setCtx slot x).outstanding = s.outstanding := by
    have hj (k : Nat) : ((s.setCtx slot x).ctx k).j0 = (s.ctx k).j0 ∧ ((s.setCtx slot x).ctx k).j1 = (s.ctx k).j1 := by
      by_cases hk : k = slot
      · rw [hk, State.setCtx_ctx_self]
        exact ⟨h0, h1⟩
      · rw [State.setCtx_ctx_ne _ _ _ _ hk]
        exact ⟨rfl, rfl⟩
    simp [State.outstanding, hj]
  unfold State.fatal
  dsimp only
  split
  · exact hset _ rfl rfl
  · exact hset _ rfl rfl
  · rfl

/-- A line that a cache reads back, with the errors of its storage, is no outstanding operation. -/
theorem meetLine_outstanding (s : State) (die : Nat) (rdc : Bool) (l : Line) :
    (s.meetLine die rdc l).1.outstanding = s.outstanding := by
  have hput (l : Line) : (s.putLine die rdc l).outstanding = s.outstanding := setCache_outstanding ..
  have hdrop : (s.dropLine die rdc l).outstanding = s.outstanding := setCache_outstanding ..
  unfold State.meetLine
  dsimp only
  split
  · rfl
  · exact (note_outstanding ..).trans (hput _)
  · exact (note_outstanding ..).trans (hput _)
  · split
    · exact (note_outstanding ..).trans hdrop
    · unfold State.fatalAsid
      split
      · exact hdrop
      · exact (fatal_outstanding ..).trans hdrop
  · exact (foldl_observed_unchanged State.outstanding (fun s p _ => fatal_outstanding ..) _).trans hdrop

/-- The dirty bytes that set out are no outstanding operation (R408). -/
@[simp] theorem writeThrough_outstanding (s : State) (die asid : Nat) :
    (s.writeThrough die asid).outstanding = s.outstanding := by
  refine foldl_observed_unchanged State.outstanding (fun s l _ => ?_) s
  have h := meetLine_outstanding s die true l
  split <;> rename_i hl <;> rw [hl] at h
  · exact h
  · refine (setCache_outstanding ..).trans (Eq.trans ?_ h)
    unfold State.sendThrough
    split <;> rfl

/-- Nor are the lines that an acquire drops (R409). -/
@[simp] theorem selfInvalidate_outstanding (s : State) (die asid : Nat) :
    (s.selfInvalidate die asid).outstanding = s.outstanding :=
  (setCache_outstanding ..).trans (writeThrough_outstanding ..)

/-- What is outstanding for a crew stays so when the crew itself changes. -/
theorem outs_setCrew {s : State} {b : Nat} {x : Block} (hb : s.block b = some x) (c : Nat) (w : Crew) :
    let t := s.setBlock b (x.setCrew c w)
    t.readsOut b c = s.readsOut b c ∧ t.writesOut b c = s.writesOut b c ∧ t.sendsOut b c = s.sendsOut b c := by
  intro t
  have howed : t.releaseOwed b c = s.releaseOwed b c := by
    simp [t, State.releaseOwed, hb]
  have htable : t.tableWork b c = s.tableWork b c := congrArg (_ || ·) howed
  exact ⟨congrArg (_ || ·) htable, congrArg (_ || ·) htable, rfl⟩

/-! ### The held fault that is raised (R395) -/

/-- The earliest of some faults stays the earliest of more that come no earlier. -/
theorem foldl_earlier_of_le {f : Late} {fs : List Late} (h : ∀ g ∈ fs, f.order ≤ g.order) :
    fs.foldl (fun r g => earlier r (some g)) (some f) = some f := by
  induction fs with
  | nil => rfl
  | cons g fs ih =>
    obtain ⟨hg, hfs⟩ := List.forall_mem_cons.mp h
    have he : earlier (some f) (some g) = some f := if_neg (Nat.not_lt.mpr hg)
    rw [List.foldl_cons, he, ih hfs]

/-- The earliest of faults that all come after `f` gives way to `f`. -/
theorem earlier_foldl_of_lt {f : Late} {fs : List Late} (h : ∀ g ∈ fs, f.order < g.order) {r : Option Late}
    (hr : earlier r (some f) = some f) :
    earlier (fs.foldl (fun r g => earlier r (some g)) r) (some f) = some f := by
  induction fs generalizing r with
  | nil => exact hr
  | cons g fs ih =>
    obtain ⟨hg, hfs⟩ := List.forall_mem_cons.mp h
    refine ih hfs ?_
    have hgf : earlier (some g) (some f) = some f := if_pos hg
    cases r with
    | none => exact hgf
    | some a =>
      dsimp only
      by_cases hga : g.order < a.order
      · rwa [show earlier (some a) (some g) = some g from if_pos hga]
      · rwa [show earlier (some a) (some g) = some a from if_neg hga]

/-- The fault of the command issued first is the one that is raised. -/
theorem firstFault_split {before after : List Late} {f : Late} (hb : ∀ g ∈ before, f.order < g.order)
    (ha : ∀ g ∈ after, f.order ≤ g.order) : firstFault (before ++ f :: after) = some f.trap := by
  rw [firstFault, List.foldl_append, List.foldl_cons, earlier_foldl_of_lt hb rfl, foldl_earlier_of_le ha]
  rfl

/-- The end of an instruction that releases raises the held fault of the command issued first, or none (R395). -/
theorem endRelease_ends {t : State} {b c : Nat} {x : Block} {w : Crew} (hb : t.block b = some x) (hw : look x.crews c = some w)
    (i : Instr) (pc act : Word) : releaseEnds t b c i w pc act (endRelease t b c i pc act) := by
  refine ⟨fun hnone => ?_, fun before f after hsplit hbefore hafter => ?_⟩
  · simp only [endRelease, crew_of_block hb hw, hnone, firstFault, List.foldl_nil, Option.map_none]
  · simp only [endRelease, crew_of_block hb hw, hsplit, firstFault_split hbefore hafter]
    rw [State.resumeFault, crew_of_block (x := x.setCrew c { w with hfaults := [] }) ?_ (Block.setCrew_self ..)]
    · simp only [setCrew_of_block hb, setCrew_of_block (State.setBlock_block_self ..), State.setBlock_setBlock,
        Block.setCrew_setCrew]
      rfl
    · rw [setCrew_of_block hb, State.setBlock_block_self]

/-! ### FENCE -/

section
variable {s : State} {x : Block} {b c v : Nat}

/-- A release waits while operations of the crew are outstanding (R378, R458). -/
theorem released_waits (h : s.writesOut b c = true ∨ (9 ≤ v ∧ s.sendsOut b c = true)) :
    s.released x b c v = (s, false) := by
  rw [State.released, if_pos (by simpa using h)]

/-- A release with nothing outstanding sets the dirty bytes out and asks whether they are acknowledged (R378, R408). -/
theorem released_nothingOutstanding (hw : s.writesOut b c = false) (hs : 9 ≤ v → s.sendsOut b c = false) :
    s.released x b c v = if 6 ≤ v ∧ (sentOut s x v).allAcked x.die (s.ctx x.slot).asid = false then (sentOut s x v, false)
      else ((sentOut s x v).noOlds b c, true) := by
  have hnone : ¬(s.writesOut b c || (decide (9 ≤ v) && s.sendsOut b c)) = true := by simpa [hw] using hs
  rw [State.released, if_neg hnone]
  by_cases hv : 6 ≤ v
  · rw [if_neg (Nat.not_lt.mpr hv)]
    cases ha : (s.writeThrough x.die (s.ctx x.slot).asid).allAcked x.die (s.ctx x.slot).asid <;> simp [sentOut, hv, ha]
  · simp [sentOut, hv, Nat.not_le.mp hv]

/-- A release whose bytes are not acknowledged waits (R408). -/
theorem released_unacknowledged (hw : s.writesOut b c = false) (hs : 9 ≤ v → s.sendsOut b c = false) (hv : 6 ≤ v)
    (ha : (sentOut s x v).allAcked x.die (s.ctx x.slot).asid = false) : s.released x b c v = (sentOut s x v, false) := by
  rw [released_nothingOutstanding hw hs, if_pos ⟨hv, ha⟩]

/-- A release is done once what it waits for is done. -/
theorem released_done (h : releaseDone s x b c v) : s.released x b c v = ((sentOut s x v).noOlds b c, true) := by
  obtain ⟨hw, hs, ha⟩ := h
  rw [released_nothingOutstanding hw hs, if_neg fun hv => by simpa [ha hv.1] using hv.2]

/-- What a release sets out is no outstanding operation. -/
theorem sentOut_noOlds_outstanding (s : State) (x : Block) (b c v : Nat) :
    ((sentOut s x v).noOlds b c).outstanding = s.outstanding := by
  show (sentOut s x v).outstanding = s.outstanding
  unfold sentOut
  split
  · exact writeThrough_outstanding ..
  · rfl

/-- What an acquire drops is no outstanding operation. -/
theorem freshened_outstanding (s : State) (x : Block) (v : Nat) : (freshened s x v).outstanding = s.outstanding := by
  unfold freshened
  split
  · exact selfInvalidate_outstanding ..
  · rfl

end

/-- A scope is the field that names it. -/
theorem scope_mod {v : Nat} (hv : v < 12) : v % 16 = v := Nat.mod_eq_of_lt (by omega)

section
variable {s : State} {x : Block} {b c : Nat} {f : XOps} (hv : f.v < 12) (pc act : Word)
include hv

/-- The step of a fence that acquires: it waits for the crew's reads, then drops the copies of lines (R378, R409). -/
theorem fenceStep_acquire (hd : f.d = 0) : (fenceStep s x b c f pc act).1 = if s.readsOut b c then s else
    (freshened s x f.v).resume b c (.fence f) pc act [] := by
  cases hr : s.readsOut b c <;> simp [fenceStep, hd, scope_mod hv, hr, freshened]

/-- The step of a fence that releases, while its release is not done (R378). -/
theorem fenceStep_unreleased {t : State} (hd : f.d ≠ 0) (hr : s.released x b c f.v = (t, false)) :
    (fenceStep s x b c f pc act).1 = t := by
  simp [fenceStep, hd, scope_mod hv, hr]

/-- The step of a fence that only releases, once its release is done (R378). -/
theorem fenceStep_release {t : State} (hd : f.d = 1) (hr : s.released x b c f.v = (t, true)) :
    (fenceStep s x b c f pc act).1 = endRelease t b c (.fence f) pc act := by
  simp [fenceStep, hd, scope_mod hv, hr]

/-- The step of a full fence, once its release is done: it waits for the crew's reads and acquires (R378, R409). -/
theorem fenceStep_full {t : State} (hd : f.d = 2) (hr : s.released x b c f.v = (t, true)) :
    (fenceStep s x b c f pc act).1 = if t.readsOut b c then t else
      endRelease (freshened t x f.v) b c (.fence f) pc act := by
  cases ht : t.readsOut b c <;> simp [fenceStep, hd, scope_mod hv, hr, ht, freshened]

end

/-- A FENCE with an empty queue takes its step from the state in which its crew waits (R248, R378). -/
theorem exec_fence_ready {x : XOps} {s : State} {e : Env} (h : Ready s (.fence x) e) (hp : e.part ≠ 0)
    (hq : e.cw.queue = []) : exec (.fence x) s =
      .next (fenceStep (waitAt s e (.fence x)) e.blk e.b e.c x e.ipc e.act).1 := by
  refine (issue_ready h _).trans ?_
  rw [perCrew_participating hp, afterQueue_empty hq, ite_self]

/-- R248, R378, R395, R408, R409, R458: a fence that acquires, that releases, and that does both. -/
theorem fenceCompletes : Claim.FenceCompletes := by
  intro x s e h hp hd hv hq w s' sent
  obtain ⟨-, hb, -⟩ := envOf_eq h.env
  have hx : exec (.fence x) s = .next (fenceStep s' e.blk e.b e.c x e.ipc e.act).1 := exec_fence_ready h hp hq
  obtain ⟨hreads, hwrites, hsends⟩ := outs_setCrew hb e.c w
  have hb' {t : State} (ht : t.outstanding = s'.outstanding) : t.block e.b = some (e.blk.setCrew e.c w) :=
    (block_of_outstanding ht _).trans (State.setBlock_block_self ..)
  refine ⟨fun hd => ?acquire, fun hd hout => ?waits, fun hd hw hs hv6 ha => ?unacknowledged, fun hd hdone => ?done⟩
  case acquire => rw [hx, fenceStep_acquire hv _ _ hd, ← hreads]
  case waits =>
    rw [← hwrites, ← hsends] at hout
    rw [hx, fenceStep_unreleased hv _ _ hd (released_waits hout)]
  case unacknowledged =>
    rw [← hwrites] at hw
    rw [← hsends] at hs
    rw [hx, fenceStep_unreleased hv _ _ hd (released_unacknowledged hw hs hv6 ha)]
  case done =>
    intro t
    have hrel : s'.released e.blk e.b e.c x.v = (t, true) := released_done hdone
    have ht : t.outstanding = s'.outstanding := sentOut_noOlds_outstanding ..
    have hfresh : (freshened t e.blk x.v).outstanding = s'.outstanding := (freshened_outstanding ..).trans ht
    have hreads' : t.readsOut e.b e.c = s.readsOut e.b e.c := (readsOut_of_outstanding ht ..).trans hreads
    refine ⟨fun hd => ?release, fun hd hr => ?reads, fun hd hr => ?full⟩
    case release =>
      exact ⟨_, hx.trans (congrArg _ (fenceStep_release hv _ _ hd hrel)),
        endRelease_ends (hb' ht) (Block.setCrew_self ..) _ _ _⟩
    case reads =>
      rw [hx, fenceStep_full hv _ _ hd hrel, hreads', if_pos hr]
    case full =>
      have hstep := fenceStep_full hv e.ipc e.act hd hrel
      rw [hreads', if_neg (by simp [hr])] at hstep
      exact ⟨_, hx.trans (congrArg _ hstep), endRelease_ends (hb' hfresh) (Block.setCrew_self ..) _ _ _⟩

/-- Settles O28: LAYOUT and RCFENCE, the swizzle, and FENCE. -/
theorem layoutsAndFences : Obligations.LayoutsAndFences := ⟨layoutInstructions, swizzleIsInjective, fenceCompletes⟩

end Sys2Proof.Machine
end

section
/-! The events of a block (R196 to R198, R305, R349, R352, R354, R357 to R359): its start and its end, the commit frontier, its
abort, its save with the deadline, its restore, and the obligation about them. -/

namespace Sys2Proof.Machine

/-! ### Events, tables and lists -/

/-- An event that is refused gives no state. -/
theorem notEnabled_ne_next (m : String) (t : State) : notEnabled m ≠ .next t := by simp [notEnabled]

/-- No error is noted where none was met. -/
theorem noteErrs_nil (s : State) (x : Block) (crew : Nat) : s.noteErrs x crew [] = s := rfl

/-- What a table holds once each of its objects has been replaced. -/
theorem look_map {α β : Type} (f : Nat → α → β) (t : List (Nat × α)) (k : Nat) :
    look (t.map fun p => (p.1, f p.1 p.2)) k = (look t k).map (f k) := by
  induction t with
  | nil => rfl
  | cons p t ih =>
    simp only [List.map_cons, look, ih]
    split
    next h => rw [h]; rfl
    next => rfl

/-- The parts of a list from a place on. -/
theorem getD_drop {α : Type} (l : List α) (m k : Nat) (d : α) : (l.drop m).getD k d = l.getD (m + k) d := by
  rw [List.getD_eq_getElem?_getD, List.getElem?_drop, List.getD_eq_getElem?_getD]

/-! ### The commit frontier (R352) -/

/-- What the frontier passes and where it stops: at a block that it may not pass, at the last block, or where its fuel ends. -/
theorem frontierFrom_passes (s : State) (gk : Nat) (g : Grid) (n f : Nat) :
    f ≤ frontierFrom s gk g n f ∧
    (∀ i, f ≤ i → i < frontierFrom s gk g n f → i < g.r.nblk ∧ frontierPasses s gk g i = true) ∧
    (frontierFrom s gk g n f < g.r.nblk → frontierFrom s gk g n f < f + n →
      frontierPasses s gk g (frontierFrom s gk g n f) = false) := by
  induction n generalizing f with
  | zero => exact ⟨Nat.le_refl f, fun i hi hif => absurd hi (Nat.not_le.mpr hif), fun _ hf => absurd hf (Nat.lt_irrefl f)⟩
  | succ n ih =>
    rw [frontierFrom]
    split
    next hpass =>
      obtain ⟨hle, hbelow, hstop⟩ := ih (f + 1)
      refine ⟨by omega, fun i hi hif => ?_, fun hlt hf => hstop hlt (by omega)⟩
      rcases Nat.eq_or_lt_of_le hi with rfl | hi
      · exact hpass
      · exact hbelow i hi hif
    next hstop =>
      refine ⟨Nat.le_refl f, fun i hi hif => absurd hi (Nat.not_le.mpr hif), fun hlt _ => ?_⟩
      simpa [hlt] using hstop

/-- The frontier passes a block that is done, or one that has retired without a chained region to write. -/
theorem frontierPasses_iff (s : State) (gk : Nat) (g : Grid) (i : Nat) : frontierPasses s gk g i = true ↔
    getAt false g.fin i = true ∨ ∃ b y, s.blockOf gk i = some (b, y) ∧ (∃ j c, y.phase = .draining j c) ∧
      ¬ ∃ r ∈ g.r.regions, g.r.chained r = true ∧ r.out = true := by
  rw [frontierPasses, Bool.or_eq_true]
  refine or_congr_right ?_
  cases s.blockOf gk i with
  | none => simp
  | some p =>
    obtain ⟨b, y⟩ := p
    cases hphase : y.phase with
    | draining j c =>
      have hregions : (!(g.r.regions.any fun r => g.r.chained r && r.out)) = true ↔
          ¬ ∃ r ∈ g.r.regions, g.r.chained r = true ∧ r.out = true := by
        rw [Bool.not_eq_true', ← Bool.not_eq_true, List.any_eq_true]
        simp only [Bool.and_eq_true]
      simp only [hphase, Bool.true_and]
      refine hregions.trans ⟨fun h => ⟨b, y, rfl, ⟨j, c, hphase⟩, h⟩, fun hpass => ?_⟩
      obtain ⟨_, _, _, _, h⟩ := hpass
      exact h
    | _ => simp [hphase]

/-- R352: the commit frontier. -/
theorem frontierAdvances : Claim.FrontierAdvances := by
  intro s gk g hg
  obtain ⟨hle, hbelow, hstop⟩ := frontierFrom_passes s gk g g.r.nblk g.frontier
  refine ⟨⟨frontierFrom s gk g g.r.nblk g.frontier, ?_, hle, hbelow, fun hlt => hstop hlt (by omega)⟩,
    frontierPasses_iff s gk g⟩
  simp only [State.commit, hg]

/-- The commit of a grid leaves the blocks. -/
@[simp] theorem commit_block (s : State) (gk b : Nat) : (s.commit gk).block b = s.block b := by
  unfold State.commit
  split <;> rfl

/-! ### The start of a block (R349) -/

/-- A crew at its creation stands at the entry with every lane live. -/
theorem freshCrew_lane (r : LaunchRec) (c quad : Nat) {l : Nat} (hl : l < 32) :
    (freshCrew r c quad).live.getLsbD l = true ∧ (freshCrew r c quad).pcOf l = r.entry := by
  have hlive : (0xFFFFFFFF : Word).getLsbD l = true := by
    show (BitVec.allOnes 32).getLsbD l = true
    rw [BitVec.getLsbD_allOnes, decide_eq_true hl]
  have hlanes : lanesOf 0xFFFFFFFF = allLanes := by decide
  refine ⟨hlive, (if_pos hlive).trans ?_⟩
  have h := getAt_setPcs (w := {}) hlive fun _ => r.entry
  rw [Crew.setPcs, hlanes] at h
  exact h

/-- The crews of a block that starts are new. -/
theorem start_crew {x : Block} {c : Nat} {w : Crew} (h : look x.start.crews c = some w) :
    w.wait = .ready ∧ ∀ l, l < 32 → w.live.getLsbD l = true ∧ w.pcOf l = x.r.entry := by
  have hmap : look x.start.crews c = (look x.crews c).map fun w => freshCrew x.r c w.quad :=
    look_map (fun k (w : Crew) => freshCrew x.r k w.quad) x.crews c
  rw [hmap, Option.map_eq_some_iff] at h
  obtain ⟨w0, -, rfl⟩ := h
  exact ⟨rfl, fun l hl => freshCrew_lane _ _ _ hl⟩

/-! ### What the events leave (R349, R352, R358, R359) -/

/-- A block that is done is gone. -/
theorem endBlock_block (s : State) (b : Nat) (x : Block) : (s.endBlock b x).block b = none := by
  have hgone : ((s.dropWork b).dropBlock b).block b = none := State.dropBlock_block_self ..
  unfold State.endBlock
  dsimp only
  split
  · exact hgone
  · exact (commit_block ..).trans hgone

/-- A block that goes back is gone, and its index waits in its grid. -/
theorem requeue_waits (s : State) (b : Nat) (x : Block) : (s.requeue b x).block b = none ∧ ∀ g, s.grid x.grid = some g →
    (s.requeue b x).grid x.grid = some { g with waiting := g.waiting ++ [x.index] } := by
  have hgone : ((s.dropWork b).dropBlock b).block b = none := State.dropBlock_block_self ..
  have hgrid : ((s.dropWork b).dropBlock b).grid x.grid = s.grid x.grid := rfl
  refine ⟨?_, fun g hg => ?_⟩
  · unfold State.requeue
    dsimp only
    split
    · exact hgone
    · exact hgone
  · simp only [State.requeue, hgrid, hg, State.setGrid_grid_self]

/-- The deadline of a save that began at a cycle has passed. -/
theorem saveOverdue_iff (s : State) {x : Block} {since : Nat} (hphase : x.phase = .saving since) : saveOverdue s x = true ↔
    (if x.r.dline = 0 then 180000 else x.r.dline) < s.clock - since := by
  simp only [saveOverdue, hphase, LaunchRec.deadline]
  exact decide_eq_true_iff

/-! ### The events (R349, R352, R357 to R359) -/

section
variable {s : State} {b : Nat} {x : Block} (hb : s.block b = some x)
include hb

/-- A block whose regions are staged starts. -/
theorem exec_stagingComplete {j : Nat} {s1 : State} {y : Block} (hlive : (s.ctx x.slot).state = .live)
    (hj : x.stageAt = some j) (hhold : x.hold = none) (hasked : x.asked = false) (herrs : x.errs = [])
    (hstage : stageFrom b ((numbered x.r.regions).drop j) (s.setBlock b x) = .ok s1 ()) (hy : s1.block b = some y) :
    exec (.stagingComplete b) s = .next ((s1.startAcquire y).setBlock b y.start) := by
  have hx : { x with errs := x.errs.filter fun e => e.place ≠ .share && e.place ≠ .spill } = x := by
    rw [herrs, List.filter_nil, ← herrs]
  show execStagingComplete b s = _
  simp only [execStagingComplete, hb, hj]
  rw [if_neg (by simp [hhold, hasked, hlive]), hx, hstage]
  simp only [hy]

/-- A block whose regions are drained is done, its chained regions once the frontier has reached it. -/
theorem exec_drainComplete {j : Nat} {chained : Bool} {s1 : State} (hlive : (s.ctx x.slot).state = .live)
    (hphase : x.phase = .draining j chained) (hhold : x.hold = none)
    (hturn : chained = true → ((s.grid x.grid).map (·.frontier)).getD 0 = x.index)
    (hdrain : drainAll b j chained x s = .ok s1 ()) : exec (.drainComplete b) s = .next (s1.endBlock b x) := by
  show execDrainComplete b s = _
  simp only [execDrainComplete, hb, hphase]
  rw [if_neg (by simp +contextual [hhold, hlive, hturn]), hdrain]

/-- Chained regions are not drained before the frontier has reached their block. -/
theorem exec_drainComplete_waits {j : Nat} {g : Grid} (hphase : x.phase = .draining j true) (hg : s.grid x.grid = some g)
    (hf : g.frontier ≠ x.index) (hr : ∃ r ∈ x.r.regions, r.out = true ∧ x.r.chained r = true) (t : State) :
    exec (.drainComplete b) s ≠ .next t := by
  show execDrainComplete b s ≠ _
  simp only [execDrainComplete, hb, hphase, hg]
  rw [if_pos (by simpa [hf] using .inr (.inr hr))]
  exact notEnabled_ne_next _ _

/-- A task block that gives way goes back to the blocks of its grid that wait for a place. -/
theorem exec_blockAbort (hasked : x.asked = true) (hphase : ∀ j c, x.phase ≠ .draining j c) :
    exec (.blockAbort b) s = .next (s.requeue b x) := by
  show execBlockAbort b s = _
  simp only [execBlockAbort, hb, hasked]
  cases hp : x.phase with
  | draining j c => exact absurd hp (hphase j c)
  | _ => rfl

section
variable {since : Nat} (hphase : x.phase = .saving since) (hlive : (s.ctx x.slot).state = .live)
include hphase hlive

/-- A save inside its deadline first drains the queues and withdraws the jobs of the crews. -/
theorem exec_blockSave_quietens (hlate : saveOverdue s x = false) (hu : unquiet x = true) :
    exec (.blockSave b) s = .next (quieten s b x) := by
  show execBlockSave b s = _
  simp only [execBlockSave, hb]
  rw [if_neg (by simp [hphase, hlive, hlate]), if_pos hu]

/-- A quiet block free of errors writes its area, and its footprint is free. -/
theorem exec_blockSave_saves (hlate : saveOverdue s x = false) (hu : unquiet x = false) (hpark : mayPark x = true)
    (hcopies : ∀ p ∈ s.copies, p.2.blk = b → p.2.taken = false) (herrs : x.errs = []) {g : Grid}
    (hg : s.grid x.grid = some g) {y : Block} (hy : y = { x with crews := x.crews.map fun p => (p.1, p.2.settle) })
    {s1 : State} {a : Acc}
    (hw : s.gwriteAll (saveAcc x b true) ((saveSections y).map fun p => (g.saveVa x.index + p.1, p.2)) = .ok s1 a) :
    exec (.blockSave b) s = .next ((s1.forget (2 * b)).setBlock b y.saved) := by
  subst hy
  have hnone : saveErrors x = [] := by rw [saveErrors, herrs, List.filter_nil]
  have hno : saveError x = none := by rw [saveError, hnone]; rfl
  show execBlockSave b s = _
  simp only [execBlockSave, hb]
  rw [if_neg (by simp [hphase, hlive, hlate]), if_neg (by simp [hu]), if_neg (by simpa [hpark] using hcopies), hno, hg]
  dsimp only
  rw [hw]
  simp only [hnone, noteErrs_nil]

omit hphase in
/-- A save that takes too long ends its context, and no longer saves. -/
theorem exec_save_overdue (hlate : saveOverdue s x = true) :
    exec (.saveDeadlineExceeded b) s = .next (s.fatalBlock b 255 0 { code := 0x49 }) ∧
      ∀ t, exec (.blockSave b) s ≠ .next t := by
  constructor
  · show execSaveDeadlineExceeded b s = _
    simp only [execSaveDeadlineExceeded, hb, hlate, hlive, and_self, if_true]
  · intro t
    show execBlockSave b s ≠ _
    simp only [execBlockSave, hb]
    rw [if_pos (.inr (.inr hlate))]
    exact notEnabled_ne_next _ _

end

end

/-- R349, R352, R357 to R359: the start, the end, the abort and the save of a block. -/
theorem blockSteps : Claim.BlockSteps := by
  intro s b x hb
  refine ⟨fun j s1 y hlive hj hhold hasked herrs hstage hy => ?start,
    fun j chained s1 hlive hphase hhold hfalse hdrain => ?done,
    fun j g hphase hg hf hr => exec_drainComplete_waits hb hphase hg hf hr,
    fun j g s1 hlive hphase hhold hg hf hdrain => ?chained, fun hasked hphase => ?abort, fun since hphase hlive => ?save⟩
  case start =>
    exact ⟨exec_stagingComplete hb hlive hj hhold hasked herrs hstage hy, rfl, rfl, fun c w hw => start_crew hw⟩
  case done =>
    refine ⟨exec_drainComplete hb hlive hphase hhold (fun htrue => ?_) hdrain, endBlock_block ..⟩
    rw [hfalse] at htrue
    exact absurd htrue Bool.false_ne_true
  case chained =>
    exact exec_drainComplete hb hlive hphase hhold (fun _ => by rw [hg]; exact hf) hdrain
  case abort =>
    obtain ⟨hgone, hwaits⟩ := requeue_waits s b x
    exact ⟨_, exec_blockAbort hb hasked hphase, hgone, hwaits⟩
  case save =>
    intro late
    have hiff : saveOverdue s x = true ↔ late := saveOverdue_iff s hphase
    have hnot (h : ¬ late) : saveOverdue s x = false := by rwa [← hiff, Bool.not_eq_true] at h
    exact ⟨fun h hu => exec_blockSave_quietens hb hphase hlive (hnot h) hu,
      fun h hu hpark hcopies herrs g s1 a hg hw =>
        ⟨exec_blockSave_saves hb hphase hlive (hnot h) hu hpark hcopies herrs hg rfl hw, rfl, rfl⟩,
      fun h => exec_save_overdue hb hlive (hiff.mpr h)⟩

/-! ### The restore of a block (R196 to R198, R305, R359) -/

/-- What the crews of a restore are made of: the records of the crew indices from `a` on, of which each is checked and those that
the die keeps a stay of are restored. -/
theorem restoreCrews_ok {x : Block} {parts : List (List Byte)} (n : Nat) :
    ∀ {a : Nat} {qs : List Nat} {ws : List (Nat × Crew)}, restoreCrews x (List.range' a n) qs (parts.drop (3 * a)) = .ok ws →
    (∀ k, a ≤ k → k < a + n → crewRecordBad x.r (parts.getD (3 * k) []) = false) ∧
    (∀ c w, look ws c = some w → ∃ q st, look x.stays c = some st ∧ w = crewOfRecord q st (parts.getD (3 * c) [])
      (parts.getD (3 * c + 1) []) (parts.getD (3 * c + 2) [])) ∧
    (∀ c, a ≤ c → c < a + n → (look x.stays c).isSome → (look ws c).isSome) := by
  induction n with
  | zero =>
    intro a qs ws h
    cases h
    exact ⟨fun k hk hk' => absurd hk' (Nat.not_lt.mpr hk), fun c w hw => absurd hw (by simp [look]),
      fun c hc hc' => absurd hc' (Nat.not_lt.mpr hc)⟩
  | succ n ih =>
    intro a qs ws h
    have hnext : (parts.drop (3 * a)).drop 3 = parts.drop (3 * (a + 1)) := by rw [List.drop_drop]; rfl
    have hsplit {k : Nat} (hk : a ≤ k) (hk' : k < a + (n + 1)) : k = a ∨ a + 1 ≤ k ∧ k < a + 1 + n := by omega
    simp only [List.range'_succ, restoreCrews, hnext, getD_drop, Nat.add_zero] at h
    split at h
    next => cases h
    next hgood =>
      have hrecord : crewRecordBad x.r (parts.getD (3 * a) []) = false := by
        simpa using fun hbad => hgood (.inl hbad)
      have hchecked (hrest : ∀ k, a + 1 ≤ k → k < a + 1 + n → crewRecordBad x.r (parts.getD (3 * k) []) = false) (k : Nat)
          (hk : a ≤ k) (hk' : k < a + (n + 1)) : crewRecordBad x.r (parts.getD (3 * k) []) = false := by
        obtain rfl | ⟨hk, hk'⟩ := hsplit hk hk'
        · exact hrecord
        · exact hrest k hk hk'
      split at h
      next hgone =>
        obtain ⟨hrecords, hfrom, hall⟩ := ih h
        refine ⟨hchecked hrecords, hfrom, fun c hc hc' hstay => ?_⟩
        obtain rfl | ⟨hc, hc'⟩ := hsplit hc hc'
        · simp [hgone] at hstay
        · exact hall c hc hc' hstay
      next st hst =>
        split at h
        next => cases h
        next ws' hws =>
          cases h
          obtain ⟨hrecords, hfrom, hall⟩ := ih hws
          refine ⟨hchecked hrecords, fun c w hw => ?_, fun c hc hc' hstay => ?_⟩
          · rw [look] at hw
            split at hw
            next hac =>
              subst hac
              cases hw
              exact ⟨_, st, hst, rfl⟩
            next => exact hfrom c w hw
          · rw [look]
            split
            next => rfl
            next hne =>
              obtain rfl | ⟨hc, hc'⟩ := hsplit hc hc'
              · exact absurd rfl hne
              · exact hall c hc hc' hstay

/-- A restored block has the crews of its records, the share and the spill area of the parts after them, and the flags of its
header; teams, code table and array apart, the rest is that of the saved block (R196, R198). -/
theorem restoredBlock_ok {x y : Block} {core : Nat × Nat × Nat} {qs : List Nat} {hdr : List Byte} {parts : List (List Byte)}
    (h : restoredBlock x core qs hdr parts = .ok y) : ∃ ws teams ctab mx,
      restoreCrews x (List.range x.r.ncrew) qs parts = .ok ws ∧
      y = { x with die := core.1, cluster := core.2.1, core := core.2.2, phase := .running, crews := ws,
                   share := memOf (parts.getD (3 * x.r.ncrew) []), spill := memOf (parts.getD (3 * x.r.ncrew + 1) []),
                   triggered := bitOf (sliceNat hdr 3 1) 0, bank := bitOf (sliceNat hdr 3 1) 1, arrive := [], stays := [],
                   code := [], errs := [], teams := teams, ctab := ctab, mx := mx } := by
  simp only [restoredBlock, getD_drop, Nat.add_zero] at h
  split at h
  next => cases h
  next ws hws =>
    split at h
    next => cases h
    next =>
      split at h
      next => cases h
      next =>
        have hy := Except.ok.inj h
        split at hy
        next => exact ⟨ws, _, _, _, hws, hy.symm⟩
        next => exact ⟨ws, _, _, _, hws, hy.symm⟩

/-- A dispatcher that comes to a saved block whose records it reads and that fits places it where its restore succeeds, and ends
its context where the restore fails. -/
theorem exec_dispatchDecision_saved {s s1 : State} {die gk b i : Nat} {g : Grid} {rest : List (Nat × Grid)} {x : Block}
    {gr : List (Nat × Nat)} {core : Nat × Nat × Nat} {qs : List Nat} (hc : contenders s die = (gk, g) :: rest)
    (hg : s.grid gk = some g) (ht : takesPart s gk g = true) (hi : nextIndex s gk g = some i)
    (hx : s.blocks.find? (fun q => q.2.grid = gk && q.2.index = i && q.2.phase = .saved) = some (b, x))
    (hgr : savedGranules s b x g = .ok s1 gr) (hcore : findCore s1 gk i g.r gr (coresOf g.dieMask) = some (core, qs)) :
    (∀ s2, restoreBlock s1 b x g core qs = .ok s2 () → exec (.dispatchDecision die) s = .next (s2.servedGrid die gk i)) ∧
    (∀ s2 t, restoreBlock s1 b x g core qs = .fail s2 t → exec (.dispatchDecision die) s = .next
      ((s2.setBlock b { x with die := core.1, cluster := core.2.1, core := core.2.2 }).fatalBlock b 255 0 t)) := by
  have hdone {t : State} (htry : trySaved s die gk i g b x = .done t) : exec (.dispatchDecision die) s = .next t := by
    have hgrids : tryGrids die ((contenders s die).map (·.1)) s = (t, true) := by
      simp only [hc, List.map_cons, tryGrids, hg, ht, tryGrid, hi, hx, htry]
      rfl
    show execDispatchDecision die s = _
    simp only [execDispatchDecision, hgrids]
    rfl
  refine ⟨fun s2 hr => hdone ?_, fun s2 t hr => hdone ?_⟩ <;> simp only [trySaved, hgr, hcore, hr]

/-- R196 to R198, R305, R359: the restore of a saved block. -/
theorem blockRestored : Claim.BlockRestored := by
  intro s
  refine ⟨fun die gk g rest b x i gr s1 core qs hc hg ht hi hx hgr hcore =>
    exec_dispatchDecision_saved hc hg ht hi hx hgr hcore,
    fun b x g core qs s1 hdr a1 hread => ⟨fun hbad => ?header, fun hgood s2 bs a2 hparts => ⟨fun k hk => ?crew,
      fun y hy hmx => ?restored⟩⟩, fun x core qs hdr parts y hy => ?block⟩
  case header => simp only [restoreBlock, hread, Got.bind, hbad, if_true, badSave]
  case crew => simp only [restoreBlock, hread, Got.bind, hgood, Bool.false_eq_true, if_false, hparts, hk, badSave]
  case restored =>
    simp only [restoreBlock, hread, Got.bind, hgood, Bool.false_eq_true, if_false, hparts, hy, hmx, Bool.not_false, Bool.true_or,
      if_true]
  case block =>
    obtain ⟨ws, teams, ctab, mx, hws, rfl⟩ := restoredBlock_ok hy
    obtain ⟨hrecords, hfrom, hall⟩ := restoreCrews_ok (a := 0) x.r.ncrew (List.range_eq_range' ▸ hws)
    exact ⟨rfl, rfl, rfl, rfl, rfl, rfl, rfl, rfl, rfl, fun k hk => hrecords k (Nat.zero_le k) (by omega), hfrom,
      fun c hc => hall c (Nat.zero_le c) (by omega)⟩

/-- Settles O45: the steps of a block, the frontier, and the restore. -/
theorem blockEvents : Obligations.BlockEvents := ⟨blockSteps, frontierAdvances, blockRestored⟩

end Sys2Proof.Machine
end

section
/-! The matrix commands at their issue (R206, R207) and at their turn in the queue (R209, R212, R213, R217 to R219, R221, R222):
what a turn does in a block free of errors, what a latched cause leaves of it, and the obligations about them. -/

namespace Sys2Proof.Machine

/-! ### The array -/

@[simp] theorem Matrix.pop_queue (m : Matrix) : m.pop.queue = m.queue.drop 1 := rfl
@[simp] theorem Matrix.pop_tiles (m : Matrix) : m.pop.tiles = m.tiles := rfl
@[simp] theorem Matrix.pop_accs (m : Matrix) : m.pop.accs = m.accs := rfl
@[simp] theorem Matrix.pop_w0 (m : Matrix) : m.pop.w0 = m.w0 := rfl
@[simp] theorem Matrix.pop_w1 (m : Matrix) : m.pop.w1 = m.w1 := rfl
@[simp] theorem Matrix.pop_pcnt (m : Matrix) : m.pop.pcnt = m.pcnt := rfl

/-- The array of a block is replaced. -/
theorem setMx_of_block {s : State} {b : Nat} {x : Block} (hb : s.block b = some x) (m : Matrix) :
    s.setMx b m = s.setBlock b { x with mx := m } := by
  rw [State.setMx, hb]

/-! ### MXPROG and the other commands -/

/-- The command is MXPROG, the one that a latched cause does not empty (R209). -/
def isMxprog (i : Instr) : Bool := i matches .mxprog _

theorem isMxprog_iff {i : Instr} : isMxprog i = true ↔ ∃ y, i = .mxprog y := by
  unfold isMxprog
  split <;> simp_all

/-! ### A turn -/

section
variable {s : State} {b : Nat} {x : Block} (hb : s.block b = some x) {m : String} {kind : Instr → Bool}
  {f : State → Block → MCmd → State}
include hb

/-- The turn of a head that is of the event's kind, has not failed and is not held back by a latched cause. -/
theorem mxTurn_runs {q : MCmd} (hrun : mxMayRun s x = true) (hq : x.mx.queue.head? = some q) (hk : kind q.i = true)
    (hfail : q.fail = 0) (hlatch : x.mx.lcause = 0 ∨ isMxprog q.i = true) : mxTurn s b m kind f = .next (f s x q) := by
  obtain ⟨rest, hq⟩ := List.head?_eq_some_iff.mp hq
  have hcond : (mxMayRun s x && kind q.i && decide (q.fail = 0) && (decide (x.mx.lcause = 0) || isMxprog q.i)) = true := by
    simpa [hrun, hk, hfail] using hlatch
  simp only [mxTurn, hb, hq]
  exact if_pos hcond

/-- While a cause is latched no command but MXPROG has a turn of its own (R209). -/
theorem mxTurn_latched (hl : x.mx.lcause ≠ 0) (hk : ∀ y, kind (.mxprog y) = false) :
    mxTurn s b m kind f = notEnabled m := by
  simp only [mxTurn, hb]
  cases x.mx.queue with
  | nil => rfl
  | cons q rest =>
    refine if_neg fun hc => ?_
    have hcond : (mxMayRun s x && kind q.i && decide (q.fail = 0) && (decide (x.mx.lcause = 0) || isMxprog q.i)) = true := hc
    simp only [Bool.and_eq_true, Bool.or_eq_true, decide_eq_true_eq, hl, false_or] at hcond
    obtain ⟨⟨⟨-, hkind⟩, -⟩, hprog⟩ := hcond
    obtain ⟨y, hi⟩ := isMxprog_iff.mp hprog
    rw [hi, hk y] at hkind
    cases hkind

/-- MXPROG takes its turn whether or not a cause is latched (R221). -/
theorem exec_mxprogTurn {q : MCmd} {y : ProgOps} (hrun : mxMayRun s x = true) (hq : x.mx.queue.head? = some q)
    (hi : q.i = .mxprog y) (hfail : q.fail = 0) : exec (.mxprogTurn b) s = .next
      ((s.fillCrew b q.crew q.order fun p =>
        { p with writes := [.s y.d x.mx.pcnt, .s (y.d + 1) x.mx.msw], late := latchTrap x.mx, ready := true }).setMx b
        (progMatrix x.mx y.clr)) := by
  show execMxprogTurn b s = _
  rw [execMxprogTurn, mxTurn_runs hb hrun hq (by rw [hi]) hfail (.inr (isMxprog_iff.mpr ⟨y, hi⟩))]
  simp only [hi]

end

/-- A command reads the storage of a block free of errors. -/
theorem mxRead_clean {x : Block} (he : x.errs = []) (s : State) (b : Nat) (q : MCmd) (k : State → Block → State) :
    mxRead s b x q k = k s x := by
  simp [mxRead, he]

section
variable {s : State} {b : Nat} {x : Block} {q : MCmd} (h : Turning s b x q) {m : String} {kind : Instr → Bool}
include h

/-- The head of the queue takes a turn of its kind. -/
theorem turning_runs {f : State → Block → MCmd → State} (hk : kind q.i = true) : mxTurn s b m kind f = .next (f s x q) :=
  mxTurn_runs h.block h.may h.head hk h.fail (.inl h.latch)

/-- The same for a turn that reads operands from the storage of the core. -/
theorem turning_reads {k : MCmd → State → Block → State} (hk : kind q.i = true) :
    mxTurn s b m kind (fun s x q => mxRead s b x q (k q)) = .next (k q s x) := by
  rw [turning_runs h hk, mxRead_clean h.clean]

/-- The head of the queue, as the events of a stream look for it. -/
theorem turning_head : ((s.block b).bind fun x => x.mx.queue.head?) = some q := by
  rw [h.block, Option.bind_some, h.head]

end

/-! ### The obligation about the turns -/

/-- Settles O33: the head has its kind and carries no cause, so its event gives the state that its meaning names. -/
theorem matrixTurns : Obligations.MatrixTurns := by
  intro s b x q h becomes
  refine ⟨fun y hi => ?mxw, fun y mom hi hg => ?streamBegins, fun y mom hi hg => ?streamStep, fun y hi => ?mxtl,
    fun y hi => ?mxts, fun y hi => ?accz, fun y hi => ?accld, fun y hi => ?accst, fun y hi => ?accdr, fun y hi => ?mxprog⟩
  case mxw =>
    show execMxwTurn b s = _
    rw [execMxwTurn, turning_reads h (by rw [hi])]
    simp only [hi, h.clean, List.filter_nil, becomes]
  case streamBegins =>
    show execStreamCommandTurn b s = _
    simp only [execStreamCommandTurn, turning_head h, hg, Bool.false_eq_true, if_false]
    rw [turning_runs h (by rw [isStream, hi]; rfl), hi]
  case streamStep =>
    show execStreamStep b s = _
    simp only [execStreamStep, turning_head h, hg, Bool.not_true, Bool.false_eq_true, if_false]
    rw [turning_reads h (by rw [isStream, hi]; rfl), hi]
  case mxtl =>
    show execMxtlTurn b s = _
    rw [execMxtlTurn, turning_reads h (by rw [hi])]
    simp only [hi, h.clean, List.filter_nil, becomes]
  case mxts =>
    show execMxtsTurn b s = _
    rw [execMxtsTurn, turning_reads h (by rw [hi])]
    simp only [hi, scattered]
  case accz =>
    show execAcczTurn b s = _
    rw [execAcczTurn, turning_runs h (by rw [hi])]
    simp only [hi, h.clean, List.filter_nil, becomes, accCleared]
  case accld =>
    show execAccldTurn b s = _
    rw [execAccldTurn, turning_reads h (by rw [hi])]
    simp only [hi, h.clean, List.filter_nil, becomes]
  case accst =>
    show execAccstTurn b s = _
    rw [execAccstTurn, turning_reads h (by rw [hi])]
    simp only [hi, scattered, Bool.false_eq_true, if_false]
  case accdr =>
    show execAccdrTurn b s = _
    rw [execAccdrTurn, turning_reads h (by rw [hi])]
    simp only [hi, scattered, Bool.false_eq_true, if_false]
  case mxprog =>
    rw [exec_mxprogTurn h.block h.may h.head hi h.fail, latchTrap, if_pos h.latch]

/-! ### A latched cause -/

/-- The code of a cause below 256 stands in the byte of MSW.LCAUSE alone (R222). -/
theorem causeByte_outside {n : Nat} (hn : n < 256) : BitVec.ofNat 32 (256 * n) &&& 0xFFFF00FF = 0#32 := by
  have hmask : ∀ k < 32, 8 ≤ k → k < 16 → (0xFFFF00FF#32).getLsbD k = false := by decide
  refine BitVec.eq_of_getLsbD_eq fun k hk => ?_
  have hbit : (256 * n).testBit k = (decide (8 ≤ k) && n.testBit (k - 8)) := Nat.testBit_two_pow_mul (i := 8)
  rw [BitVec.getLsbD_and, BitVec.getLsbD_ofNat, hbit]
  by_cases hlow : 8 ≤ k ∧ k < 16
  · simp [hmask k hk hlow.1 hlow.2]
  · by_cases h8 : 8 ≤ k
    · have hhigh : n.testBit (k - 8) = false :=
        Nat.testBit_lt_two_pow (Nat.lt_of_lt_of_le hn (Nat.pow_le_pow_right (n := 2) (by decide) (show 8 ≤ k - 8 by omega)))
      simp [hhigh]
    · simp [h8]

/-- The code of a cause reads back from MSW.LCAUSE (R222). -/
theorem causeByte_inside (n : Nat) : (BitVec.ofNat 32 (256 * n)).extractLsb' 8 8 = BitVec.ofNat 8 n := by
  refine BitVec.eq_of_toNat_eq ?_
  simp only [BitVec.extractLsb'_toNat, BitVec.toNat_ofNat, Nat.shiftRight_eq_div_pow]
  omega

/-- The array once the cause of a follow-on command that failed is latched; a cause that is latched already stays (R209). -/
def latchedBy (m : Matrix) (q : MCmd) : Matrix :=
  if m.lcause = 0 then m.orMsw (BitVec.ofNat 32 (256 * q.fail)) else m

/-- A latched cause is a change of MSW. -/
theorem latchedBy_eq (m : Matrix) (q : MCmd) : ∃ w, latchedBy m q = { m with msw := w } := by
  unfold latchedBy
  split
  · exact ⟨_, rfl⟩
  · exact ⟨m.msw, rfl⟩

theorem latchedBy_lcause (m : Matrix) {q : MCmd} (hq : q.fail < 256) :
    (latchedBy m q).lcause = if m.lcause = 0 then q.fail else m.lcause := by
  unfold latchedBy
  split
  next h0 =>
    have hz : m.msw.extractLsb' 8 8 = 0#8 := BitVec.eq_of_toNat_eq h0
    rw [Matrix.lcause, Matrix.orMsw, BitVec.extractLsb'_or, hz, causeByte_inside, BitVec.zero_or, BitVec.toNat_ofNat]
    exact Nat.mod_eq_of_lt hq
  next => rfl

theorem latchedBy_msw (m : Matrix) {q : MCmd} (hq : q.fail < 256) :
    (latchedBy m q).msw &&& 0xFFFF00FF = m.msw &&& 0xFFFF00FF := by
  unfold latchedBy
  split
  · rw [Matrix.orMsw, BitVec.and_comm, BitVec.and_or_distrib_left, BitVec.and_comm _ (BitVec.ofNat _ _),
      causeByte_outside hq, BitVec.or_zero, BitVec.and_comm]
  · rfl

/-- MXPROG clears the latch. -/
theorem progMatrix_lcause (m : Matrix) (clr : Bool) : (progMatrix m clr).lcause = 0 := by
  have hbyte : ∀ w k : Word, k.extractLsb' 8 8 = 0#8 → ((w &&& k).extractLsb' 8 8).toNat = 0 := fun w k hk => by
    rw [BitVec.extractLsb'_and, hk, BitVec.and_zero]; rfl
  cases clr
  · exact hbyte m.msw _ (by decide)
  · exact (congrArg (fun w : Word => (w.extractLsb' 8 8).toNat) (BitVec.and_assoc ..)).trans (hbyte m.msw _ (by decide))

theorem progMatrix_msw (m : Matrix) (clr : Bool) :
    (progMatrix m clr).msw = m.msw &&& (if clr then 0xFFFF00C0 else 0xFFFF00FF) := by
  cases clr
  · rfl
  · exact BitVec.and_assoc ..

/-- The registers of every crew of a block are as they were, and so is its share. -/
def keepsRegs (x y : Block) : Prop := y.share = x.share ∧ ∀ c w, look x.crews c = some w →
  ∃ w', look y.crews c = some w' ∧ w'.v = w.v ∧ w'.s = w.s ∧ w'.p = w.p ∧ w'.m = w.m ∧ w'.fpc = w.fpc

theorem keepsRegs_refl (x : Block) : keepsRegs x x := ⟨rfl, fun _ w hw => ⟨w, hw, rfl, rfl, rfl, rfl, rfl⟩⟩

/-- A result that is filled stays outstanding: the registers do not change yet (R28). -/
theorem fillCrew_block {s : State} {b : Nat} {x : Block} (hb : s.block b = some x) (c order : Nat) (f : Pend → Pend) :
    ∃ y, (s.fillCrew b c order f).block b = some y ∧ keepsRegs x y := by
  cases hw : look x.crews c with
  | none => exact ⟨x, by rw [State.fillCrew, State.crew, hb, Option.bind_some, hw]; exact hb, keepsRegs_refl x⟩
  | some w =>
    refine ⟨x.setCrew c (w.fill order f), ?_, rfl, fun k v hv => ?_⟩
    · rw [State.fillCrew, crew_of_block hb hw]
      simp only [setCrew_of_block hb, State.setBlock_block_self]
    · by_cases hk : k = c
      · subst hk
        obtain rfl : v = w := Option.some_inj.mp (hv.symm.trans hw)
        exact ⟨_, Block.setCrew_self .., rfl, rfl, rfl, rfl, rfl⟩
      · exact ⟨v, (Block.setCrew_ne _ _ _ _ hk).trans hv, rfl, rfl, rfl, rfl, rfl⟩

section
variable {s : State} {b : Nat} {x : Block} (hb : s.block b = some x)
include hb

/-- A command that a latched cause empties, or the failed command that latches one, leaves the queue (R209). -/
theorem exec_latchedCommandTurn {q : MCmd} {rest : List MCmd} (hrun : mxMayRun s x = true) (hq : x.mx.queue = q :: rest)
    (hc : q.fail ≠ 0 ∨ x.mx.lcause ≠ 0 ∧ isMxprog q.i = false) :
    ∃ t y, exec (.latchedCommandTurn b) s = .next t ∧ t.block b = some { y with mx := (latchedBy x.mx q).pop } ∧
      keepsRegs x y := by
  have hcond : (mxMayRun s x && (decide (q.fail ≠ 0) || (decide (x.mx.lcause ≠ 0) && !isMxprog q.i))) = true := by
    simpa [hrun] using hc
  obtain ⟨s1, y, hs1, hy, hkeep⟩ : ∃ s1 y, (if mxReturns q.i then
      s.fillCrew b q.crew q.order fun p => { p with ready := true } else s) = s1 ∧ s1.block b = some y ∧ keepsRegs x y := by
    split
    · obtain ⟨y, hy, hkeep⟩ := fillCrew_block hb q.crew q.order fun p => { p with ready := true }
      exact ⟨_, y, rfl, hy, hkeep⟩
    · exact ⟨s, x, rfl, hb, keepsRegs_refl x⟩
  refine ⟨s1.setMx b (latchedBy x.mx q).pop, y, ?_, ?_, hkeep⟩
  · show execLatchedCommandTurn b s = _
    simp only [execLatchedCommandTurn, hb, hq]
    exact (if_pos hcond).trans (hs1 ▸ rfl)
  · rw [setMx_of_block hy, State.setBlock_block_self]

/-- While a cause is latched no command but MXPROG has a turn of its own (R209). -/
theorem turns_refused (hl : x.mx.lcause ≠ 0) : ∀ i ∈ [Instr.mxwTurn b, .mxtlTurn b, .mxtsTurn b, .acczTurn b,
    .accldTurn b, .accstTurn b, .accdrTurn b, .streamCommandTurn b, .streamStep b], ∀ t, exec i s ≠ .next t := by
  have hturn {o m kind f} (ho : o = mxTurn s b m kind f) (hk : ∀ y, kind (.mxprog y) = false) (t : State) :
      o ≠ .next t := by
    rw [ho, mxTurn_latched hb hl hk]
    exact notEnabled_ne_next m t
  simp only [List.forall_mem_cons]
  refine ⟨hturn (execMxwTurn.eq_def b s) fun _ => rfl, hturn (execMxtlTurn.eq_def b s) fun _ => rfl,
    hturn (execMxtsTurn.eq_def b s) fun _ => rfl, hturn (execAcczTurn.eq_def b s) fun _ => rfl,
    hturn (execAccldTurn.eq_def b s) fun _ => rfl, hturn (execAccstTurn.eq_def b s) fun _ => rfl,
    hturn (execAccdrTurn.eq_def b s) fun _ => rfl, fun t => ?streamBegins, fun t => ?streamStep, List.forall_mem_nil _⟩
  case' streamBegins =>
    show execStreamCommandTurn b s ≠ _
    unfold execStreamCommandTurn
  case' streamStep =>
    show execStreamStep b s ≠ _
    unfold execStreamStep
  all_goals
    split
    · exact notEnabled_ne_next _ t
    split
    · exact notEnabled_ne_next _ t
    · exact hturn rfl (fun _ => rfl) t

end

/-- Settles O34: the failed command latches its cause, the latch empties every command but MXPROG, and MXPROG clears it. -/
theorem latchedCause : Obligations.LatchedCause := by
  intro s b x q rest hb hrun hq hfail
  refine ⟨fun hc => ?emptied, fun i hi hl => turns_refused hb hl i hi, fun y hi h0 => ?mxprog⟩
  case emptied =>
    have hc' : q.fail ≠ 0 ∨ x.mx.lcause ≠ 0 ∧ isMxprog q.i = false :=
      hc.imp_right (And.imp_right eq_false_of_ne_true)
    obtain ⟨t, y, ht, hy, hshare, hregs⟩ := exec_latchedCommandTurn hb hrun hq hc'
    obtain ⟨w, hw⟩ := latchedBy_eq x.mx q
    refine ⟨t, _, ht, hy, ?_, hshare, ?_, ?_, ?_, ?_, ?_, latchedBy_lcause x.mx hfail, latchedBy_msw x.mx hfail, hregs⟩
    all_goals simp [hw, hq]
  case mxprog =>
    refine ⟨progMatrix x.mx y.clr, exec_mxprogTurn hb hrun (by rw [hq, List.head?_cons]) hi h0, progMatrix_lcause _ _, rfl,
      ?_, rfl, rfl, progMatrix_msw _ _⟩
    show x.mx.queue.drop 1 = rest
    rw [hq, List.drop_one, List.tail_cons]

/-! ### Issue -/

/-- A matrix command means its issue (R206). -/
theorem exec_matrixCommand {i : Instr} (h : isMatrixCommand i = true) (s : State) : exec i s = matrixIssue s i := by
  unfold isMatrixCommand at h
  split at h
  case h_12 => cases h
  all_goals rfl

/-- The crew stays that of the issue. -/
@[simp] theorem refresh_cw (e : Env) (s : State) : (e.refresh s).cw = e.cw := by
  unfold Env.refresh
  split <;> rfl

/-- The layout of a command is read at its issue, if it has one. -/
theorem mxLayout_of_layoutRead {s s1 : State} {e : Env} {i : Instr} {l : Option Layout} (h : layoutRead s e i s1 l)
    (k : State → Option Layout → Out) : mxLayout s e i k = k s1 l := by
  unfold layoutRead at h
  unfold mxLayout
  split at h
  next hu =>
    obtain ⟨s0, hl, rfl⟩ := h
    rw [if_pos hu, hl]
    rfl
  next hu =>
    obtain ⟨rfl, rfl⟩ := h
    rw [if_neg hu]

/-- A read of the share of the environment's block meets no error where that block stores none. -/
theorem meetRead_refresh {s : State} {e : Env} (h : (e.refresh s).blk.errs = []) (crew : Nat) (at_ : Place)
    (rs : List (Nat × Nat)) : s.meetRead e.b crew at_ rs = (s, false) := by
  cases hb : s.block e.b with
  | none => simp only [State.meetRead, hb]
  | some x =>
    simp only [Env.refresh, hb] at h
    exact meetRead_clean hb h

/-- Settles O32: nothing delays the command, so the checks of R207 alone decide between the cause and the queue. -/
theorem matrixCommands : Obligations.MatrixCommands := by
  intro i s e hi h hp hq hlen s1 l hl e1 check blk s2 e2 he
  have hissue : exec i s = match check with
      | some code => trapAt s1 e1 code 0 e1.act
      | none => mxAccept s1 e1 i (l.getD {}) := by
    rw [exec_matrixCommand hi, matrixIssue, issue_ready h, perCrew_participating hp, afterQueue_empty hq,
      if_neg (Nat.not_le.mpr hlen), mxLayout_of_layoutRead hl]
    simp only [meetRead_refresh he, check, e1, refresh_cw, Bool.false_eq_true, if_false] <;> rfl
  refine ⟨fun code hc => by rw [hissue, hc]; rfl, fun hc => ?accepted⟩
  rw [hissue, hc]
  show (if mxReturns i then Host.Outcome.next (finishIssue (defer s2 e2 i {} false) e2) else complete s2 e2 {}) = _
  rw [complete_noFlags s2 e2 {} rfl rfl rfl]
  split <;> rfl

end Sys2Proof.Machine
end

section
/-! The object of a transaction barrier and the descriptor of a ring (R236, R237, R240, R242): the turnover, what each operation does
to a descriptor, and the obligation about them. -/

namespace Sys2Proof.Machine

/-! ### Barriers -/

/-- The turnover is what is left to do once both counts stand at zero (R236, R237). -/
theorem settle_zero {o : TBar} (ho : o.owed = 0) (hi : o.inbound = 0) : o.settle = o.turnover := if_pos ⟨ho, hi⟩

/-- An object of which a count is not zero stays as it is. -/
theorem settle_pending {o : TBar} (h : ¬(o.owed = 0 ∧ o.inbound = 0)) : o.settle = o := if_neg h

/-- An arrival that passes its check finds one owed (R236). -/
theorem owed_ne_zero_of_tbarrCheck {o : TBar} {inb : Nat} (h : tbarrCheck o inb = none) : o.owed ≠ 0 := by
  intro ho
  unfold tbarrCheck at h
  split_ifs at h

/-- R236, R237: the last arrival with no bytes left turns the object over, and any other counts down. -/
theorem barrierTurnover : Claim.BarrierTurnover := by
  intro o inb h
  have howed := owed_ne_zero_of_tbarrCheck h
  refine ⟨fun ⟨hlast, hbytes⟩ => settle_zero ?_ hbytes,
    fun hopen => settle_pending fun ⟨hlast, hbytes⟩ => hopen ⟨?_, hbytes⟩⟩
  · exact congrArg (· - 1) hlast
  · change o.owed - 1 = 0 at hlast
    omega

/-! ### Bits of a descriptor -/

/-- The bit of a number as the library has it. -/
theorem bitOf_eq_testBit (x k : Nat) : bitOf x k = x.testBit k := Nat.testBit_eq_decide_div_mod_eq.symm

/-- A bit that was clear and whose weight is added is set. -/
theorem bitOf_add_two_pow {x k : Nat} (h : bitOf x k = false) : bitOf (x + 2 ^ k) k = true := by
  rw [bitOf_eq_testBit] at h ⊢
  rw [Nat.add_comm, Nat.testBit_two_pow_add_eq, h, Bool.not_false]

/-- A bit that was set and whose weight is subtracted is clear. -/
theorem bitOf_sub_two_pow {x k : Nat} (h : bitOf x k = true) : bitOf (x - 2 ^ k) k = false := by
  rw [bitOf_eq_testBit] at h ⊢
  have hx : 2 ^ k + (x - 2 ^ k) = x := Nat.add_sub_cancel' (Nat.ge_two_pow_of_testBit h)
  rw [← hx, Nat.testBit_two_pow_add_eq] at h
  exact Bool.not_eq_true' _ ▸ h

/-! ### Rings -/

section
variable {r : Ring}

/-- A put on a full ring waits (R242). -/
theorem ringPut_full (h : r.count = r.nslot) : ringPut r = .wait := if_pos h

/-- The ring after a put: the slot at HEAD is open, HEAD goes on, and one slot more is taken and not yet got (R242). -/
def Ring.put (r : Ring) : Ring :=
  { r with opn := if bitOf r.opn r.head then r.opn else r.opn + 2 ^ r.head, head := (r.head + 1) % r.nslot,
           count := r.count + 1, nget := r.nget + 1 }

/-- A put on a ring with a free slot gives the slot at HEAD (R242). -/
theorem ringPut_room (h : r.count < r.nslot) : ringPut r = .done r.put (r.slotWord r.head) := if_neg (Nat.ne_of_lt h)

/-- The slot that a put gives is open (R242). -/
theorem put_opens (r : Ring) : bitOf r.put.opn r.head = true := by
  show bitOf (if bitOf r.opn r.head then r.opn else r.opn + 2 ^ r.head) r.head = true
  split
  next hopen => exact hopen
  next hclosed => exact bitOf_add_two_pow (Bool.eq_false_iff.mpr hclosed)

/-- A commit of a slot beyond the ring or of one that is not open fails with reason 2 (R242). -/
theorem ringCommit_fails {v : Nat} (h : r.nslot ≤ bitsOf v 24 5 ∨ bitOf r.opn (bitsOf v 24 5) = false) :
    ringCommit r v = .fail 2 := if_pos (by simpa using h)

/-- A commit of an open slot closes it and turns its phase (R242). -/
theorem ringCommit_open {v : Nat} (hslot : bitsOf v 24 5 < r.nslot) (hopen : bitOf r.opn (bitsOf v 24 5) = true) :
    ringCommit r v = .done { r with opn := r.opn - 2 ^ bitsOf v 24 5, phb := r.phb ^^^ 2 ^ bitsOf v 24 5 } 0 :=
  if_neg (by simp [hslot, hopen])

/-- A get from a ring whose slot at TAIL is not committed waits (R242). -/
theorem ringGet_waits (h : r.nget = 0 ∨ bitsOf r.phb r.tail 1 = r.gph) : ringGet r = .wait := if_pos (by simpa using h)

/-- The ring after a get: TAIL goes on, the phase turns where TAIL wraps, and one slot fewer waits to be got (R242). -/
def Ring.get (r : Ring) : Ring :=
  { r with tail := (r.tail + 1) % r.nslot, gph := if (r.tail + 1) % r.nslot = 0 then 1 - r.gph else r.gph, nget := r.nget - 1 }

/-- A get of a committed slot gives the slot at TAIL (R242). -/
theorem ringGet_committed (hget : r.nget ≠ 0) (hphase : bitsOf r.phb r.tail 1 ≠ r.gph) :
    ringGet r = .done r.get (r.slotWord r.tail) := if_neg (by simp [hget, hphase])

/-- The phase of the gets turns after the last slot of the ring (R242). -/
theorem get_gph (h : r.tail < r.nslot) : r.get.gph = if r.tail + 1 = r.nslot then 1 - r.gph else r.gph := by
  have hwrap : (r.tail + 1) % r.nslot = 0 ↔ r.tail + 1 = r.nslot := by
    refine ⟨fun hmod => ?_, fun hlast => hlast ▸ Nat.mod_self _⟩
    exact Nat.le_antisymm h (Nat.le_of_dvd (Nat.succ_pos _) (Nat.dvd_of_mod_eq_zero hmod))
  exact if_congr hwrap rfl rfl

/-- A release with no slot taken out fails with reason 3 (R242). -/
theorem ringRel_fails (h : r.count = r.nget) : ringRel r = .fail 3 := if_pos h

/-- A release gives one slot back (R242). -/
theorem ringRel_taken (h : r.count ≠ r.nget) : ringRel r = .done { r with count := r.count - 1 } 0 := if_neg h

/-- The conditions under which a descriptor is malformed (R240). -/
theorem malformed_iff (r : Ring) (lmem : Nat) : r.malformed lmem = true ↔
    r.rsv ≠ 0 ∨ r.ssize = 0 ∨ r.ssize % 16 ≠ 0 ∨ r.sbase % 16 ≠ 0 ∨ lmem < r.sbase + r.nslot * r.ssize ∨
    r.nslot ≤ r.head ∨ r.nslot ≤ r.tail ∨ r.nslot < r.count ∨ r.count < r.nget ∨ 2 ^ r.nslot ≤ r.phb ∨
    2 ^ r.nslot ≤ r.opn := by
  simp [Ring.malformed, or_assoc]

end

/-- An operation on a malformed descriptor fails with reason 1 (R240, R242). -/
theorem ringAct_malformed {x : Block} {a : Nat} (h : (ringOf (readLE x.share a 32)).malformed x.r.lmem = true)
    (f : Ring → RingAct) : ringAct x a f = .fail 1 := if_pos h

/-- An operation on a well-formed descriptor is that of the instruction. -/
theorem ringAct_wellFormed {x : Block} {a : Nat} (h : (ringOf (readLE x.share a 32)).malformed x.r.lmem = false)
    (f : Ring → RingAct) : ringAct x a f = f (ringOf (readLE x.share a 32)) := if_neg (Bool.eq_false_iff.mp h)

/-- R240, R242: the operations on a ring one by one, and malformed descriptors. -/
theorem ringRules : Claim.RingRules := by
  refine ⟨fun r _ htail => ⟨ringPut_full, fun hroom => ?put, fun v => ringCommit_fails, fun v hslot hopen => ?commit,
    ringGet_waits, fun hget hphase => ?get, ringRel_fails, ringRel_taken⟩, malformed_iff, fun x a f h => ringAct_malformed h f⟩
  case put => exact ⟨r.put, ringPut_room hroom, rfl, rfl, rfl, rfl, rfl, rfl, put_opens r⟩
  case commit => exact ⟨_, ringCommit_open hslot hopen, bitOf_sub_two_pow hopen, rfl, rfl, rfl⟩
  case get => exact ⟨r.get, ringGet_committed hget hphase, rfl, rfl, rfl, rfl, rfl, get_gph htail⟩

/-- Settles O25: barriers and rings. -/
theorem syncObjectRules : Obligations.SyncObjectRules := ⟨barrierTurnover, ringRules⟩

end Sys2Proof.Machine
end

section
/-! TBINIT, TBARR, TBWAIT, JOIN, LEAVE, BAR and BAR.BLK (R235, R238, R245, R246), the instructions of rings (R233, R241, R242), and
the obligations about them. -/

namespace Sys2Proof.Machine

/-! ### In front of every effect -/

/-- A queue of stores alone is not performed before a read (R233). -/
theorem beforeRead_onlyStores {e : Env} (hq : onlyStores e) (s : State) (i : Instr) (k : State → Env → Out) :
    beforeRead s e i k = k s e := by
  rw [beforeRead, any_blocks, hq]
  rfl

/-- The block of a crew that has issued is the one that the state holds. -/
theorem Ready.block {s : State} {i : Instr} {e : Env} (h : Ready s i e) : s.block e.b = some e.blk := by
  obtain ⟨-, hb, -⟩ := envOf_eq h.env
  exact hb

/-- The waiting crew stands in its block. -/
theorem waitAt_block (s : State) (e : Env) (i : Instr) :
    (waitAt s e i).block e.b = some (e.blk.setCrew e.c (waitingAt s e i)) := State.setBlock_block_self ..

/-- The waiting crew. -/
theorem waitAt_crew (s : State) (e : Env) (i : Instr) : (waitAt s e i).crew e.b e.c = some (waitingAt s e i) :=
  crew_of_block (waitAt_block s e i) (Block.setCrew_self ..)

/-! ### Barriers -/

/-- A well-formed object in the generation of the ticket holds its crew (R238). -/
theorem tbwaitNow_waits {o : TBar} {ticket : Nat} (ho : o.malformed = false) (hg : o.gen = ticket % 16) :
    tbwaitNow o ticket = none := by
  simp [tbwaitNow, ho, hg]

/-- A well-formed object in another generation lets its crew go, with its FAULT (R238). -/
theorem tbwaitNow_left {o : TBar} {ticket : Nat} (ho : o.malformed = false) (hg : o.gen ≠ ticket % 16) :
    tbwaitNow o ticket = some (0, o.fault) := by
  simp [tbwaitNow, ho, hg]

section
variable {s : State} {e : Env} {x : XOps} (hp : e.part ≠ 0)
include hp

/-- An issued TBINIT enters the queue (R235). -/
theorem exec_tbinit_ready (h : Ready s (.tbinit x) e) (hf : fits e 16 (objAddr e x.a)) :
    exec (.tbinit x) s = .next (movedOn s e e.blk { e.advance s e.cw with
      queue := e.cw.queue ++ [.tbinit e.cw.issues (e.cw.rs x.a).toNat (uniB e x) e.ipc e.act] }) := by
  refine (issue_ready h _).trans ?_
  rw [perCrew_participating hp, addressed_fits hf]
  rfl

/-- An issued TBARR enters an empty queue, and its crew waits for the ticket (R235). -/
theorem exec_tbarr_ready (h : Ready s (.tbarr x) e) (hf : fits e 16 (objAddr e x.a)) (hq : e.cw.queue = []) :
    exec (.tbarr x) s = .next (s.setBlock e.b (e.blk.setCrew e.c { waitingAt s e (.tbarr x) with
      queue := [.tbarr (e.cw.rs x.a).toNat x.d (if x.q then uniB e x else 0) e.ipc e.act] })) := by
  refine (issue_ready h _).trans ?_
  rw [perCrew_participating hp, addressed_fits hf, afterQueue_empty hq]
  simp only [waitAt_crew, setCrew_of_block (waitAt_block ..)]
  simp only [waitAt, State.setBlock_setBlock, Block.setCrew_setCrew, Crew.enqueue, hq, List.nil_append]

/-- An issued TBWAIT behind a queue of stores does what it finds in the object as its crew reads it (R238). -/
theorem exec_tbwait_ready (h : Ready s (.tbwait x) e) (hf : fits e 16 (objAddr e x.a)) (hq : onlyStores e) :
    exec (.tbwait x) s = .next
      ((tbwaitNow (tbarOf (crewRead e.blk e.cw (e.cw.rs x.a).toNat 16)) (uniB e x)).elim (waitAt s e (.tbwait x))
        (tbwaitEnd (waitAt s e (.tbwait x)) e.b e.c (.tbwait x) e.ipc e.act (e.cw.rs x.a).toNat (uniB e x))) := by
  refine (issue_ready h _).trans ?_
  rw [perCrew_participating hp, addressed_fits hf, beforeRead_onlyStores hq, readable_clean h.block h.clean,
    refresh_same h.block]
  cases tbwaitNow (tbarOf (crewRead e.blk e.cw (e.cw.rs x.a).toNat 16)) (uniB e x) <;> rfl

end

/-- R235, R238: TBINIT, TBARR, and TBWAIT by the generation of its object. -/
theorem barrierInstructions : Claim.BarrierInstructions := by
  intro x s e hp hf
  refine ⟨fun h => exec_tbinit_ready hp h hf, fun h hq => exec_tbarr_ready hp h hf hq, fun h hq => ?tbwait⟩
  case tbwait =>
    intro o s' ho
    refine ⟨fun hg => ?waits, fun hg hfault => ?left⟩
    case waits =>
      rw [exec_tbwait_ready hp h hf hq, tbwaitNow_waits ho hg]
      rfl
    case left =>
      rw [exec_tbwait_ready hp h hf hq, tbwaitNow_left ho hg, hfault]
      rfl

/-! ### Teams -/

/-- The crew waits, in the arrival set of slot `k` (R246). -/
def arrivedAt (s : State) (e : Env) (i : Instr) (k : Nat) : State :=
  s.setBlock e.b { e.blk.setCrew e.c (waitingAt s e i) with
    arrive := setAt 0 e.blk.arrive k (e.blk.arrived k ||| (1#64 <<< e.c)) }

/-- A crew with an empty queue arrives at once (R246). -/
theorem arriveAt_empty {e : Env} (hq : e.cw.queue = []) (s : State) (i : Instr) (k : Nat) :
    arriveAt s e i k = .next (arrivedAt s e i k) := by
  rw [arriveAt, afterQueue_empty hq]
  simp only [waitAt_block]
  rw [waitAt, State.setBlock_setBlock]
  rfl

section
variable {s : State} {e : Env} {x : XOps} (hp : e.part ≠ 0)
include hp

/-- An issued JOIN adds its crew to a valid team (R245). -/
theorem exec_join_ready (h : Ready s (.join x) e) : exec (.join x) s = .next (if (e.blk.team x.v).valid then
    movedOn s e (e.blk.setMembers x.v fun m => m ||| (1#64 <<< e.c)) (e.advance s e.cw) else s.raiseAt e 0x16 1 e.act) := by
  refine (issue_ready h _).trans ?_
  rw [perCrew_participating hp]
  cases (e.blk.team x.v).valid <;> rfl

/-- An issued LEAVE takes its crew, where it is a member, out of a valid team (R245). -/
theorem exec_leave_ready (h : Ready s (.leave x) e) : exec (.leave x) s = .next
    (if (e.blk.team x.v).valid = false then s.raiseAt e 0x16 1 e.act
     else if (e.blk.team x.v).members.getLsbD e.c then
      movedOn s e (e.blk.setMembers x.v fun m => m &&& ~~~(1#64 <<< e.c)) (e.advance s e.cw)
     else s.raiseAt e 0x16 2 e.act) := by
  refine (issue_ready h _).trans ?_
  rw [perCrew_participating hp]
  cases (e.blk.team x.v).valid
  · rfl
  · cases (e.blk.team x.v).members.getLsbD e.c <;> rfl

/-- An issued BAR of a member of the team arrives at its barrier (R246). -/
theorem exec_bar_ready (h : Ready s (.bar x) e) (hq : e.cw.queue = []) : exec (.bar x) s = .next
    (if (e.blk.team x.v).members.getLsbD e.c then arrivedAt s e (.bar x) x.v else s.raiseAt e 0x16 2 e.act) := by
  refine (issue_ready h _).trans ?_
  rw [perCrew_participating hp, arriveAt_empty hq]
  split <;> rfl

/-- An issued BAR.BLK arrives at the barrier of the block (R246). -/
theorem exec_barBlk_ready (h : Ready s (.barBlk x) e) (hq : e.cw.queue = []) :
    exec (.barBlk x) s = .next (arrivedAt s e (.barBlk x) 8) := by
  refine (issue_ready h _).trans ?_
  rw [perCrew_participating hp, arriveAt_empty hq]

end

/-- R245, R246: JOIN, LEAVE, BAR and BAR.BLK. -/
theorem teamInstructions : Claim.TeamInstructions := fun _ _ _ hp =>
  ⟨exec_join_ready hp, exec_leave_ready hp, exec_bar_ready hp, exec_barBlk_ready hp⟩

/-- Settles O26: barrier objects and teams. -/
theorem barrierAndTeamInstructions : Obligations.BarrierAndTeamInstructions := ⟨barrierInstructions, teamInstructions⟩

/-! ### Rings -/

section
variable {s : State} {b : Nat} {x : Block} (hb : s.block b = some x) (he : x.errs = []) {c : Nat} {i : Instr} {pc act : Word}
  {a d : Nat} {f : Ring → RingAct}
include hb he

/-- A ring instruction at the head of its crew's queue that the descriptor does not allow yet goes on waiting (R242). -/
theorem ringStep_waits (h : ringAct x a f = .wait) : ringStep s b c i pc act a d f = none := by
  simp only [ringStep, meetRead_clean hb he, hb, h]

/-- One that fails raises cause 0x17 with its reason (R242). -/
theorem ringStep_fails {k : Nat} (h : ringAct x a f = .fail k) :
    ringStep s b c i pc act a d f = some (s.failWait b c i pc act 0x17 k) := by
  simp only [ringStep, meetRead_clean hb he, hb, h]

/-- One that is served changes the descriptor, and its crew goes on with the value (R242). -/
theorem ringStep_done {r : Ring} {v : Nat} (h : ringAct x a f = .done r v) : ringStep s b c i pc act a d f =
    some ((s.setBlock b { x with share := writeBytes x.share a (natToBytes 32 r.bits) }).resume b c i pc act
      [.s d (BitVec.ofNat 32 v)]) := by
  simp only [ringStep, meetRead_clean hb he, hb, h, storeShare_clean hb he, regWrites, if_true]

end

section
variable {s : State} {e : Env} {i : Instr} {a d : Nat} {f : Ring → RingAct} (hp : e.part ≠ 0) (h : Ready s i e)
  (hf : fits e 32 (objAddr e a)) (hq : onlyStores e)
include hp h hf hq

/-- An instruction of a ring at issue raises cause 0x17 with reason 1 for a malformed descriptor and otherwise has its own effect
(R241). -/
theorem ringIssue_ready (k : State → Env → Out) : ringIssue s i a k =
    if (ringOf (crewRead e.blk e.cw (e.cw.rs a).toNat 32)).malformed e.blk.r.lmem then .next (s.raiseAt e 0x17 1 e.act)
    else k s e := by
  rw [ringIssue, issue_ready h, perCrew_participating hp, addressed_fits hf, beforeRead_onlyStores hq,
    readable_clean h.block h.clean, refresh_same h.block]
  rfl

/-- SRPUT and SRGET at issue: a malformed descriptor raises cause 0x17, at the head of the queue they take their step at once and
wait where it cannot be taken, and behind a store they wait (R233, R241, R242). -/
theorem ringWait_ready : ringWait s i a d f = .next
    (if (ringOf (crewRead e.blk e.cw (e.cw.rs a).toNat 32)).malformed e.blk.r.lmem then s.raiseAt e 0x17 1 e.act
     else if e.cw.queue = [] then
      (ringStep (waitAt s e i) e.b e.c i e.ipc e.act (e.cw.rs a).toNat d f).getD (waitAt s e i)
     else waitAt s e i) := by
  rw [ringWait, ringIssue_ready hp h hf hq]
  split
  next hbad => rfl
  next hok => simp only [List.isEmpty_iff]

/-- SRPUT.COMMIT and SRREL at issue raise cause 0x17 for a malformed descriptor and otherwise enter the queue (R233, R241). -/
theorem ringQueue_ready (v : Env → Nat) : ringQueue s i a v = .next
    (if (ringOf (crewRead e.blk e.cw (e.cw.rs a).toNat 32)).malformed e.blk.r.lmem then s.raiseAt e 0x17 1 e.act
     else movedOn s e e.blk { e.advance s e.cw with
      queue := e.cw.queue ++ [.ring e.cw.issues i (e.cw.rs a).toNat (v e) e.ipc e.act] }) := by
  rw [ringQueue, ringIssue_ready hp h hf hq]
  split <;> rfl

end

/-- Settles O24: SRPUT and SRGET by the queue and then by what the descriptor allows, SRPUT.COMMIT and SRREL by the descriptor. -/
theorem ringInstructions : Obligations.RingInstructions := by
  intro x s e hp hq hf a bad waits queues
  have hwaits (i : Instr) (d : Nat) (f : Ring → RingAct) (hx : exec i s = ringWait s i x.a d f) : waits i d f := by
    intro h s'
    have hready := hx.trans (ringWait_ready hp h hf hq)
    refine ⟨fun hbad => ?malformed, fun hok hne => ?behind, fun hok hempty => ?atHead⟩
    case malformed => rw [hready, if_pos hbad]
    case behind => rw [hready, if_neg (Bool.eq_false_iff.mp hok), if_neg hne, waitAt]
    case atHead =>
      rw [hready, if_neg (Bool.eq_false_iff.mp hok), if_pos hempty]
      have hb := waitAt_block s e i
      cases hr : ringAct e.blk a f with
      | wait => rw [ringStep_waits hb h.clean hr]; rfl
      | fail k => rw [ringStep_fails hb h.clean hr]; rfl
      | done r v => rw [ringStep_done hb h.clean hr, waitAt, State.setBlock_setBlock]; rfl
  have hqueues (i : Instr) (v : Env → Nat) (hx : exec i s = ringQueue s i x.a v) : queues i (v e) :=
    fun h => hx.trans (ringQueue_ready hp h hf hq v)
  exact ⟨hwaits _ _ _ rfl, hwaits _ _ _ rfl, hqueues _ (fun e => (e.cw.rs x.b).toNat) rfl, hqueues _ (fun _ => 0) rfl⟩

end Sys2Proof.Machine
end

section
/-! A barrier whose release ends the context (R172, R246): a crew that it lets go parks at its switch marker, the merge there raises
a cause that no trap routine takes, and the wait of a crew after it is abandoned. -/

namespace Sys2Proof.Machine

/-- A BAR.BLK, with the switch marker or without. -/
def barBlkOps (marked : Bool) : XOps :=
  { h := ⟨false, 0, marked⟩, d := 0, a := 0, b := 0, c := 0, imm := 0, cov := 0, v := 0, t := .s32, q := false, k := false,
    y := false, u := false, o := false, rnd := 0 }

/-- A crew that waits with it in its lane 0, at address 0. -/
def waitsAtBarBlk (marked : Bool) : Crew := { live := 1, wait := .waiting (.barBlk (barBlkOps marked)) 0 1 1 }

/-- A block without a trap routine whose two crews have both arrived: crew 0 waits at a marked BAR.BLK and holds a flag whose
enable is set, crew 1 at an unmarked one. -/
def pairAtBarBlk : Block :=
  { crews := [(0, { waitsAtBarBlk true with fpc := 0x100, hflags := 1 }), (1, waitsAtBarBlk false)], arrive := [(8, 3)] }

/-- The pair in a LIVE context. -/
def pairState : State := { blocks := [(0, pairAtBarBlk)], ctxs := [(0, { state := .live })] }

/-- The barrier of the pair opens, its context begins to end, and crew 1 still waits. -/
theorem barrierRelease_pair : ∃ t, exec (.barrierRelease 0 8) pairState = .next t ∧ (t.ctx 0).state = .ending ∧
    t.crew 0 1 = some (waitsAtBarBlk false) := ⟨_, rfl, by decide, by decide⟩

/-- What is refuted of R246: a barrier may open and leave a crew of its set waiting. -/
theorem not_barrierOpens : ¬ Claim.BarrierOpens := by
  intro h
  obtain ⟨t, hopen, -, hcrew⟩ := barrierRelease_pair
  obtain ⟨-, hset⟩ := h pairState 0 8 pairAtBarBlk rfl
  obtain ⟨y, hy, -, -, hcrews⟩ := hset t hopen
  obtain ⟨w, hw, hready, -⟩ := hcrews rfl 1 (waitsAtBarBlk false) (.barBlk (barBlkOps false)) 0 1 1 (by decide)
    (by decide) rfl rfl ⟨barBlkOps false, .inr rfl, rfl⟩
  rw [crew_of_block hy hw, Option.some.injEq] at hcrew
  rw [hcrew] at hready
  exact Wait.noConfusion hready

/-- Refutes O27: crew 0 goes on first, parks at its marker, and raises cause 0x11, which ends the context for want of a trap
routine; the wait of crew 1, unmarked and in the same set, is then abandoned (R172), so that crew 1 does not stand ready. -/
theorem not_waitsAndBarriersEnd : ¬ Obligations.WaitsAndBarriersEnd := fun h => not_barrierOpens h.2

end Sys2Proof.Machine
end

section
/-! The streamer (R237, R242, R385, R390 to R395): the bytes of a chunk in the share, the debit of a barrier, the end of a copy, and
the events that move chunks and end copies. -/

namespace Sys2Proof.Machine

/-! ### What every event finds -/

/-- The instruction that a crew of a LIVE context waits with (R172). -/
theorem waitOf_waiting {s : State} {b c : Nat} {x : Block} {w : Crew} {i : Instr} {pc act part : Word} (hb : s.block b = some x)
    (hlive : (s.ctx x.slot).state = .live) (hw : look x.crews c = some w) (hi : w.wait = .waiting i pc act part) :
    s.waitOf b c = some (i, pc, act, part) := by
  simp only [State.waitOf, hb, hw, Option.map_some, hi, hlive, if_true]

/-- An access that succeeds goes on with its value. -/
@[simp] theorem Got.bind_ok {α β : Type} (s : State) (a : α) (f : State → α → Got β) : (Got.ok s a).bind f = f s a := rfl

/-- What succeeds after an access has succeeded from what the access left. -/
theorem Got.bind_eq_ok {α β : Type} {g : Got α} {f : State → α → Got β} {t : State} {y : β} (h : g.bind f = .ok t y) :
    ∃ s a, g = .ok s a ∧ f s a = .ok t y := by
  cases g with
  | ok s a => exact ⟨s, a, rfl, h⟩
  | wait s => cases h
  | fail s t => cases h

/-! ### Chunks -/

/-- The share once the elements of a chunk have been written to it from the bytes that it has read (R385, R390). -/
def copiedIn (k : Copy) (es : List Nat) (bs : List Byte) (m : Sparse Byte) : Sparse Byte :=
  ((List.range es.length).zip es).foldl
    (fun m p => writeBytes m (k.localAddr p.2) ((bs.drop (ewBytes k.lay.ew * p.1)).take (ewBytes k.lay.ew))) m

/-- The first element takes the first bytes, the others what is left. -/
theorem copiedIn_cons (k : Copy) (e : Nat) (es : List Nat) (bs : List Byte) (m : Sparse Byte) :
    copiedIn k (e :: es) bs m = copiedIn k es (bs.drop (ewBytes k.lay.ew))
      (writeBytes m (k.localAddr e) (bs.take (ewBytes k.lay.ew))) := by
  simp only [copiedIn, List.length_cons, List.range_succ_eq_map, List.zip_cons_cons, List.foldl_cons, List.zip_map_left,
    List.foldl_map, List.drop_drop, Prod.map_fst, Prod.map_snd, id, Nat.mul_succ, Nat.mul_zero, List.drop_zero, Nat.add_comm]

section
variable {s : State} {b : Nat} {x : Block} {k : Copy}

/-- In a block free of errors the elements of a chunk are written one after another. -/
theorem copyIn_clean (hew : k.lay.ew ≠ 0) {e : Nat} {es : List Nat} {bs : List Byte} (hb : s.block b = some x)
    (he : x.errs = []) :
    copyIn b k (e :: es) bs s = s.setBlock b { x with share := copiedIn k (e :: es) bs x.share } := by
  induction es generalizing e bs s x with
  | nil =>
    rw [copyIn, if_neg hew, storeShare_clean hb he, copiedIn_cons]
    rfl
  | cons e' es ih =>
    rw [copyIn, if_neg hew, ih (storeShare_block hb he ..) he, storeShare_clean hb he, State.setBlock_setBlock,
      copiedIn_cons k e]

/-- In a block free of errors the bytes of a chunk are subtracted from the barrier, which may turn over (R237). -/
theorem debit_clean (hb : s.block b = some x) (he : x.errs = []) (a n : Nat) :
    s.debit b a n = s.setBlock b { x with
      share := writeBytes x.share a
        (natToBytes 16 ({ x.tbar a with inbound := (x.tbar a).inbound - n } : TBar).settle.bits) } := by
  simp only [State.debit, meetRead_clean hb he, hb, State.setTbar, storeShare_clean hb he]

/-- Where no earlier CPH.OUT of the crew has replaced bytes, a chunk reads the bytes that stand there (R379, R411). -/
theorem readOlder_none (h : ∀ o ∈ s.olds, ¬(o.blk = k.blk ∧ o.crew = k.crew)) (as : List Nat) (bs : List Byte) :
    readOlder s k as bs = (s, bs) := by
  have hmine : (s.olds.filter fun o => o.blk = k.blk && o.crew = k.crew) = [] :=
    List.filter_eq_nil_iff.mpr fun o ho => by simpa using h o ho
  simp only [readOlder, hmine, List.isEmpty_nil, if_true]

/-- A chunk of an inbound copy whose pieces are ready and read moves to the share, and its bytes are subtracted from the barrier
of SYNC 1 (R385, R390). -/
theorem moveChunk_inbound {key : Nat} (hin : k.inbound = true) {s1 s2 : State} {ps : List (Spot × Piece)} {a : Acc}
    {bs : List Byte} (hready : readyAll (k.pieces k.chunks fun _ => []) s (k.acc x key) = .ok s1 (ps, a, true))
    (hread : readParts a ps s1 = .ok s2 bs) (holds : ∀ o ∈ s2.olds, ¬(o.blk = k.blk ∧ o.crew = k.crew)) :
    let s3 := copyIn k.blk k (k.chunkElems k.chunks) bs (s2.forget a.owner)
    moveChunk s x key k = .ok (if k.sync = 1 then s3.debit k.blk k.obj (k.chunkBytes k.chunks) else s3) a := by
  simp only [moveChunk, hin, if_true, hready, Got.bind_ok, Bool.not_true, Bool.false_eq_true, if_false, hread,
    readOlder_none holds]

/-! ### The end of a copy -/

/-- A copy without SYNC 2 commits nothing (R390). -/
theorem copyCommit_none (h : k.sync ≠ 2) : copyCommit s k = (s, none) := if_pos h

/-- A copy with SYNC 2 commits its slot where the ring at its object takes it (R390). -/
theorem copyCommit_done (hb : s.block k.blk = some x) (he : x.errs = []) (h : k.sync = 2) {r : Ring} {v : Nat}
    (hr : ringAct x k.obj (fun r => ringCommit r k.slotw) = .done r v) :
    copyCommit s k = (s.setBlock k.blk { x with share := writeBytes x.share k.obj (natToBytes 32 r.bits) }, none) := by
  simp only [copyCommit, if_neg (not_not_intro h), meetRead_clean hb he, hb, hr, storeShare_clean hb he]

/-- A commit that the ring refuses is a fault of the copy (R395). -/
theorem copyCommit_fails (hb : s.block k.blk = some x) (he : x.errs = []) (h : k.sync = 2) {n : Nat}
    (hr : ringAct x k.obj (fun r => ringCommit r k.slotw) = .fail n) :
    copyCommit s k = (s, some { code := 0x17, info := 2 }) := by
  simp only [copyCommit, if_neg (not_not_intro h), meetRead_clean hb he, hb, hr]

/-- The token of a copy completes without a fault (R394). -/
def tokenDone (s : State) (k : Copy) : State := match k.token with
  | some tok => s.endToken k.blk k.crew tok none
  | none => s

/-- The copy has left the streamer. -/
def copyGone (s : State) (key : Nat) : State := { s.forget (2 * key) with copies := dropAt s.copies key }

/-- A copy without a follow-on command whose commit succeeds completes its token and leaves the streamer (R390). -/
theorem endCopy_commits {key : Nat} {t : State} (hf : k.follow = none) (hc : copyCommit s k = (t, none)) :
    endCopy s key k = .ok (copyGone (tokenDone t k) key) () := by
  simp only [endCopy, hf, Got.bind_ok, hc]
  rfl

/-- One whose commit fails delivers the fault and leaves the streamer (R395). -/
theorem endCopy_faults {key : Nat} {t : State} {f : Trap} (hf : k.follow = none) (hc : copyCommit s k = (t, some f)) :
    endCopy s key k = .ok (copyGone (copyFault t k f) key) () := by
  simp only [endCopy, hf, Got.bind_ok, hc]
  rfl

/-- A copy that has ended is out of the streamer. -/
theorem endCopy_leaves {key : Nat} {t : State} (h : endCopy s key k = .ok t ()) : look t.copies key = none := by
  obtain ⟨s1, _, -, hend⟩ := Got.bind_eq_ok h
  simp only [Got.ok.injEq, and_true] at hend
  rw [← hend, look_dropAt_self]

end

/-- R237, R242, R390, R391: the bytes of a chunk, the debit of a barrier, and the end of a copy by its commit. -/
theorem streamerLaws : Claim.StreamerLaws := by
  intro s b x hb he
  refine ⟨fun k es bs hew hes => ?elements, fun a n => ?debit, fun key k a hin s1 ps a1 s2 bs hready hread ha holds => ?chunk,
    fun key k hk hf => ?ends⟩
  case elements =>
    cases es with
    | nil => exact absurd rfl hes
    | cons e es => exact copyIn_clean hew hb he
  case debit => exact debit_clean hb he a n
  case chunk =>
    subst ha
    exact moveChunk_inbound hin hready hread holds
  case ends =>
    subst hk
    refine ⟨fun hs => endCopy_commits hf (copyCommit_none hs), fun hs r v hr => ?commits, fun hs n hr => ?fails⟩
    case commits => exact endCopy_commits hf (copyCommit_done hb he hs hr)
    case fails => exact endCopy_faults hf (copyCommit_fails hb he hs hr)

/-! ### The events of the streamer -/

section
variable {s : State} {b c k : Nat} {x : Block} (hb : s.block b = some x) (hlive : (s.ctx x.slot).state = .live)
include hb hlive

section
variable {q : Copy} (hq : look s.copies k = some q) (hblk : q.blk = b)
include hq hblk

/-- The streamer takes the chunk of the copy that comes next (R385). -/
theorem exec_streamerChunk_takes (htaken : q.taken = false) (hnext : nextCopy s x = some k) :
    exec (.streamerChunk b k) s = .next { s with copies := put s.copies k { q with taken := true } } := by
  show execStreamerChunk b k s = _
  simp [execStreamerChunk, hb, hq, hblk, hlive, htaken, hnext]

section
variable (htaken : q.taken = true) (hphase : x.phase = .running ∨ ∃ d, x.phase = .saving d)
include htaken hphase

/-- A chunk that moves takes the sides that it has found, and LAST drops the lines whose last byte it has read (R382, R390). -/
theorem exec_streamerChunk_moves {a : Acc} {s1 : State} (hmove : moveChunk s x k q = .ok s1 a) :
    let q' : Copy := { q with sides := a.sides }
    exec (.streamerChunk b k) s = .next { copyLast s1 x q' (q'.lastLines q'.chunks) with
      copies := put s1.copies k { q' with chunks := q.chunks + 1, taken := false } } := by
  show execStreamerChunk b k s = _
  obtain hp | ⟨d, hp⟩ := hphase <;> simp [execStreamerChunk, hb, hq, hblk, hlive, htaken, hp, hmove]

/-- A chunk that fails ends the context where its cause has no code of the streamer, and otherwise stops its copy (R395). -/
theorem exec_streamerChunk_fails {s1 : State} {t : Trap} (hmove : moveChunk s x k q = .fail s1 t) :
    exec (.streamerChunk b k) s = .next (if errCode t.code = 0 then s1.fatalBlock b q.crew 0 t
      else { copyLast s1 x q (q.halfRead q.chunks) with
        copies := put s1.copies k { q with err := some t, taken := false } }) := by
  show execStreamerChunk b k s = _
  rw [apply_ite Host.Outcome.next]
  obtain hp | ⟨d, hp⟩ := hphase <;> simp [execStreamerChunk, hb, hq, hblk, hlive, htaken, hp, hmove]

end

variable (hrun : x.phase = .running)
include hrun

/-- A copy whose chunks have all moved ends (R390). -/
theorem exec_streamerCopyComplete_ends (herr : q.err = none) (hall : q.total ≤ q.chunks) {s1 : State}
    (hend : endCopy s k q = .ok s1 ()) : exec (.streamerCopyComplete b k) s = .next s1 := by
  show execStreamerCopyComplete b k s = _
  simp [execStreamerCopyComplete, hb, hq, hblk, hlive, hrun, herr, hall, hend]

/-- A copy that has stopped delivers its fault (R395). -/
theorem exec_streamerCopyComplete_faults {t : Trap} (herr : q.err = some t) (hsync : q.sync ≠ 2) :
    exec (.streamerCopyComplete b k) s = .next (copyFault { s with copies := dropAt s.copies k } q t) := by
  show execStreamerCopyComplete b k s = _
  simp [execStreamerCopyComplete, hb, hq, hblk, hlive, hrun, herr, hsync]

end

/-- A crew that waits for the token of a completed command goes on, and the token goes (R394). -/
theorem exec_cwaitComplete_done {w : Crew} {y : StreamOps} {pc act part : Word} {t : Token} (hw : look x.crews c = some w)
    (hwait : w.wait = .waiting (.cwait y) pc act part) (ht : s.liveToken b c (w.rs y.a).toNat = some t) (hdone : t.done = true)
    (hfault : t.fault = none) : exec (.cwaitComplete b c) s = .next
      ({ s with tokens := s.tokens.filter (fun k => !(k.blk = b && k.crew = c && k.tok = t.tok)),
                olds := s.olds.filter fun o => !(o.blk = b && o.crew = c && o.tok = t.tok) }.resume b c
        (.cwait y) pc act []) := by
  show execCwaitComplete b c s = _
  simp only [execCwaitComplete, waitOf_waiting hb hlive hw hwait, crew_of_block hb hw, ht, hdone, if_true, cwaitEnd, hfault]

end

/-- R382, R385, R390, R394, R395, R398: the chunks and the ends of copies, and the wait for a token. -/
theorem streamerEvents : Claim.StreamerEvents := by
  intro s b c k x hb hlive
  refine ⟨fun q => exec_streamerChunk_takes hb hlive, fun q hq hblk htaken hphase => ⟨fun a s1 => ?moves, fun s1 t => ?fails⟩,
    fun q s1 hq hblk hrun herr hall hend => ⟨?ends, endCopy_leaves hend⟩,
    fun q t hq hblk hrun => exec_streamerCopyComplete_faults hb hlive hq hblk hrun,
    fun w y pc act part t => exec_cwaitComplete_done hb hlive⟩
  case moves => exact exec_streamerChunk_moves hb hlive hq hblk htaken hphase
  case fails => exact exec_streamerChunk_fails hb hlive hq hblk htaken hphase
  case ends => exact exec_streamerCopyComplete_ends hb hlive hq hblk hrun herr hall hend

end Sys2Proof.Machine
end

section
/-! Far memory (R375 to R381, R395, R399, R400, R403 to R405): what its events do where the access that they make succeeds, and the
obligation about the streamer and far memory. -/

namespace Sys2Proof.Machine

section
variable {s : State} {b c k : Nat} {x : Block} (hb : s.block b = some x) (hlive : (s.ctx x.slot).state = .live)
include hb

/-! ### Far atomics -/

/-- A held far atomic is let go once its chain is open (R380). -/
theorem exec_chainedAtomicRelease_open {f : Far} (hf : look s.fars k = some f) (hblk : f.blk = b) (hcrew : f.crew = c)
    (hhold : f.hold = true) (hopen : chainOpen s x f.regions = true) :
    exec (.chainedAtomicRelease b c k) s = .next { s with fars := put s.fars k { f with hold := false } } := by
  have hcond : f.blk = b ∧ f.crew = c ∧ f.hold = true ∧ chainOpen s x f.regions = true := ⟨hblk, hcrew, hhold, hopen⟩
  show execChainedAtomicRelease b c k s = _
  simp only [execChainedAtomicRelease, hb, hf, if_pos hcond]

include hlive

/-- A far atomic whose access succeeds is performed and returns (R403). -/
theorem exec_farAtomicPerform_ok {f : Far} {s1 : State} {old : Nat} (hf : look s.fars k = some f) (hblk : f.blk = b)
    (hcrew : f.crew = c) (hhold : f.hold = false) (hfirst : farBehind s k f = false)
    (hacc : s.gatomic (farAcc x k f) f.va (farBytes f.t) f.op f.b f.c (fun old => (farOp f old).1) = .ok s1 old) :
    exec (.farAtomicPerform b c k) s = .next
      (farReturn { s1.forget (2 * k) with fars := dropAt s1.fars k } f old (farOp f old).2) := by
  have hcond : f.blk = b ∧ f.crew = c ∧ f.hold = false ∧ farBehind s k f = false ∧ (s.ctx x.slot).state = .live :=
    ⟨hblk, hcrew, hhold, hfirst, hlive⟩
  show execFarAtomicPerform b c k s = _
  simp only [execFarAtomicPerform, hb, hf, if_pos hcond, hacc]
  rfl

/-! ### Far-flag waits -/

section
variable {w : Crew} {y : FarOps} {pc act part : Word} (hw : look x.crews c = some w)
  (hwait : w.wait = .waiting (.fwait y) pc act part)
include hw hwait

/-- A crew whose far flag meets the condition goes on (R404). -/
theorem exec_fwaitSatisfied_ok {s1 : State} {bs : List Byte} {a : Acc}
    (hread : s.gread { accOf x (crewOwner b c) with rd := true, pkg := true, scope := some y.scope, use := .forbid }
      (w.rs2 y.a) (farBytes y.t) = .ok s1 (bs, a))
    (hcond : farCond y.t y.cond (bytesToNat bs) (if farBytes y.t = 8 then w.rs2 y.b else (w.rs y.b).toNat) = true) :
    exec (.fwaitSatisfied b c) s = .next ((s1.forget (crewOwner b c)).resume b c (.fwait y) pc act []) := by
  show execFwaitSatisfied b c s = _
  simp only [execFwaitSatisfied, waitOf_waiting hb hlive hw hwait, hb, hw, hread, hcond, if_true]

/-- A fault of the access is a late cause of the crew, which goes on (R375, R477). -/
theorem exec_fwaitSatisfied_fails {s1 : State} {t : Trap}
    (hread : s.gread { accOf x (crewOwner b c) with rd := true, pkg := true, scope := some y.scope, use := .forbid }
      (w.rs2 y.a) (farBytes y.t) = .fail s1 t) (hcode : errCode t.code ≠ 0) :
    exec (.fwaitSatisfied b c) s = .next ((s1.setCrew b c { w with
      late := earlier w.late (some ⟨w.issues, { t with pc := 0, lanes := 0 }⟩) }).resume b c (.fwait y) pc act []) := by
  show execFwaitSatisfied b c s = _
  simp only [execFwaitSatisfied, waitOf_waiting hb hlive hw hwait, hb, hw, hread, if_neg hcode]

end

omit hlive

/-! ### Line locks -/

section
variable {w : Crew} {j : Job} {y : FarOps} {s1 : State} {ps : List Spot} (hw : look x.crews c = some w)
  (hjob : w.jobOf (· matches .l2lck _) = some j) (hi : j.i = .l2lck y)
  (hres : resolveLines { accOf x (crewOwner b c) with rd := true, use := .forbid }
    (linesFrom (w.rs2 y.a) (w.rs y.b).toNat) s = .ok s1 ps)
include hw hjob hi hres

/-- A lock that is refused writes its status (R381). -/
theorem exec_l2lckComplete_refused (hst : lockStatus s1 x.slot ps ≠ 0) : exec (.l2lckComplete b c) s = .next
    (s1.endJob b c j fun p => { p with writes := [.s y.d (BitVec.ofNat 32 (lockStatus s1 x.slot ps))] }) := by
  show execL2lckComplete b c s = _
  simp only [execL2lckComplete, hb, crew_of_block hb hw]
  generalize hfound : w.jobOf _ = found
  obtain rfl : found = some j := hfound.symm.trans hjob
  simp only [hi, hres, Got.bind_ok, if_pos hst]

/-- A lock that is granted fills and pins its lines, and writes status 0 (R381). -/
theorem exec_l2lckComplete_locked {s2 s3 : State} (hst : lockStatus s1 x.slot ps = 0)
    (hcross : crossAll { accOf x (crewOwner b c) with rd := true, use := .forbid } ps s1 = .ok s2 ())
    (hlock : lockLines (s.ctx x.slot).asid ps s2 = .ok s3 ()) : exec (.l2lckComplete b c) s = .next
    ((s3.forget (crewOwner b c)).endJob b c j fun p => { p with writes := [.s y.d 0] }) := by
  show execL2lckComplete b c s = _
  simp only [execL2lckComplete, hb, crew_of_block hb hw]
  generalize hfound : w.jobOf _ = found
  obtain rfl : found = some j := hfound.symm.trans hjob
  simp only [hi, hres, Got.bind_ok, if_neg (not_not_intro hst), hcross, hlock]
  rfl

end

include hlive

/-! ### Publication -/

section
variable {w : Crew} {y : FarOps} {pc act part : Word} {s1 s2 : State} {pages : List TlbEntry} (hw : look x.crews c = some w)
  (hwait : w.wait = .waiting (.publ y) pc act part) (hrel : s.released x b c y.scope = (s1, true))
  (hpages : publPages s1 x.slot w.publ = .ok s2 pages)
include hw hwait hrel hpages

/-- A publication that finds a page whose class does not allow the scope raises cause 0xA5 after it (R399). -/
theorem exec_publFlip_refused {p : TlbEntry} (hp : pages.find? (fun e => !scopeOk e.cc y.scope) = some p) :
    exec (.publFlip b c) s = .next (s2.resumeFault b c (.publ y) pc act { code := 0xA5, info := 1 + 16 * p.cc }) := by
  show execPublFlip b c s = _
  simp only [execPublFlip, waitOf_waiting hb hlive hw hwait, hb, hw, hrel, hpages, hp]

/-- One whose pages all allow the scope flips its bits and ends as a release (R400). -/
theorem exec_publFlip_flips (hall : pages.all (fun e => scopeOk e.cc y.scope) = true) : exec (.publFlip b c) s = .next
    (endRelease (s2.setCtx x.slot (flip (s2.ctx x.slot) w.publ)) b c (.publ y) pc act) := by
  have hnone : pages.find? (fun e => !scopeOk e.cc y.scope) = none :=
    List.find?_eq_none.mpr fun e he => by simp [List.all_eq_true.mp hall e he]
  show execPublFlip b c s = _
  simp only [execPublFlip, waitOf_waiting hb hlive hw hwait, hb, hw, hrel, hpages, hnone]

end

/-! ### Fences -/

section
variable {w : Crew} {y : XOps} {pc act part : Word} (hw : look x.crews c = some w)
  (hwait : w.wait = .waiting (.fence y) pc act part)
include hw hwait

/-- A waiting fence whose step completes it ends in the state of its step (R378). -/
theorem exec_fenceComplete_of_step {t : State} (hstep : fenceStep s x b c y pc act = (t, true)) :
    exec (.fenceComplete b c) s = .next t := by
  show execFenceComplete b c s = _
  simp only [execFenceComplete, waitOf_waiting hb hlive hw hwait, hb, hstep]

end

end

section
variable {s : State} {x : Block} {b c : Nat} {f : XOps} (hv : f.v < 12) (pc act : Word)
include hv

/-- The step of a fence that acquires, once the crew's reads are done, completes it (R378, R409). -/
theorem fenceStep_acquired (hd : f.d = 0) (hr : s.readsOut b c = false) :
    fenceStep s x b c f pc act = ((freshened s x f.v).resume b c (.fence f) pc act [], true) := by
  simp [fenceStep, hd, scope_mod hv, hr, freshened]

/-- The step of a fence that releases, once its release is done and, where it acquires too, the crew's reads, completes it
(R378, R409). -/
theorem fenceStep_released {t : State} (hd : f.d = 1 ∨ f.d = 2) (hrel : s.released x b c f.v = (t, true))
    (hr : f.d = 2 → t.readsOut b c = false) : fenceStep s x b c f pc act =
      (endRelease (if f.d = 2 then freshened t x f.v else t) b c (.fence f) pc act, true) := by
  obtain hd | hd := hd
  · simp [fenceStep, hd, scope_mod hv, hrel]
  · simp [fenceStep, hd, scope_mod hv, hrel, hr hd, freshened]

end

/-- R375, R377, R378, R380, R381, R395, R399, R400, R403 to R405: the events of far memory one by one. -/
theorem farEvents : Claim.FarEvents := by
  intro s b c k x hb hlive
  refine ⟨fun f s1 old => exec_farAtomicPerform_ok hb hlive, fun f => exec_chainedAtomicRelease_open hb,
    fun w y pc act part s1 bs a hw hwait => exec_fwaitSatisfied_ok hb hlive hw hwait,
    fun w y pc act part s1 t hw hwait => exec_fwaitSatisfied_fails hb hlive hw hwait,
    fun w j y s1 ps => exec_l2lckComplete_refused hb,
    fun w j y s1 ps s2 s3 hw hjob hi hres => exec_l2lckComplete_locked hb hw hjob hi hres,
    fun w y pc act part s1 s2 pages hw hwait hrel _ hpages =>
      ⟨fun p => exec_publFlip_refused hb hlive hw hwait hrel hpages, fun hall hb2 => ?publ⟩,
    fun w y pc act part hw hwait hd hv hr => ?acquire, fun w y pc act part hw hwait hd hv hdone hr => ?release⟩
  case publ =>
    have hb' : (s2.setCtx x.slot (flip (s2.ctx x.slot) w.publ)).block b = some x :=
      (State.setCtx_block ..).trans (hb2.trans hb)
    exact ⟨_, exec_publFlip_flips hb hlive hw hwait hrel hpages hall, endRelease_ends hb' hw _ _ _⟩
  case acquire => exact exec_fenceComplete_of_step hb hlive hw hwait (fenceStep_acquired hv pc act hd hr)
  case release =>
    intro t
    have ht : t.outstanding = s.outstanding := sentOut_noOlds_outstanding ..
    have hends : (if y.d = 2 then freshened t x y.v else t).outstanding = s.outstanding := by
      split
      · rw [freshened_outstanding, ht]
      · exact ht
    have hstep := fenceStep_released hv pc act hd (released_done hdone) fun h2 => (readsOut_of_outstanding ht b c).trans (hr h2)
    exact ⟨_, exec_fenceComplete_of_step hb hlive hw hwait hstep,
      endRelease_ends ((block_of_outstanding hends b).trans hb) hw _ _ _⟩

/-- Settles O31: the streamer's laws, its events, and those of far memory. -/
theorem streamerAndFarEvents : Obligations.StreamerAndFarEvents := ⟨streamerLaws, streamerEvents, farEvents⟩

end Sys2Proof.Machine
end

section
/-! The canonical form of the memories: it holds after a reset, and every step keeps it. -/

namespace Sys2Proof.Machine

/-- Settles O55: every memory is empty after a reset. -/
theorem resetMemOk : Obligations.ResetMemOk := by
  unfold Obligations.ResetMemOk
  decide

end Sys2Proof.Machine
end

section
/-! Every step keeps the canonical form of the memories. For each operation `f` of the model, `f_keeps` says that the
form carries over to the state in which `f` goes on: by `sameMem` where `f` leaves the memories alone, and through the
laws of the accesses where it reads or writes them. The operations stand in the order and under the names of the model's
files; the instructions and the events follow from them, then the agents and a step. -/

namespace Sys2Proof.Machine

/-! ### The form along an operation -/

theorem State.keeps.trans {s t u : State} (h : s.keeps t) (k : t.keeps u) : s.keeps u := State.keeps_trans h k
theorem State.sameMem.keeps {s t : State} (h : s.sameMem t) : s.keeps t := State.keeps_of_sameMem h

/-- The state with which an operation that answers a pair goes on. -/
theorem State.keeps.fst {α : Type} {s t : State} {p : State × α} {x : α} (h : s.keeps p.1) (e : p = (t, x)) : s.keeps t := by
  rw [e] at h
  exact h

section
variable {α : Type} {s t : State} {g : Got α} (h : g.keeps s)
include h

/-- The state in which an access that is done goes on. -/
theorem Got.keeps.ok {x : α} (e : g = .ok t x) : s.keeps t := by
  rw [e] at h
  exact h
/-- The state that an access that waits leaves. -/
theorem Got.keeps.wait (e : g = .wait t) : s.keeps t := by
  rw [e] at h
  exact h
/-- The state that an access that fails leaves. -/
theorem Got.keeps.fail {x : Trap} (e : g = .fail t x) : s.keeps t := by
  rw [e] at h
  exact h

end

theorem State.keeps.got {α : Type} {s t : State} {g : Got α} (h : s.keeps t) (k : g.keeps t) : g.keeps s := Got.keeps_trans h k
theorem State.keeps.ok {α : Type} {s t : State} {x : α} (h : s.keeps t) : (Got.ok t x).keeps s := h
theorem State.keeps.wait {α : Type} {s t : State} (h : s.keeps t) : (Got.wait t : Got α).keeps s := h
theorem State.keeps.fail {α : Type} {s t : State} {x : Trap} (h : s.keeps t) : (Got.fail t x : Got α).keeps s := h

/-! ### Outcomes -/

/-- The canonical form carries over from `s` to the state in which an outcome goes on, if it does. -/
def Out.keeps (s : State) (o : Out) : Prop := ∀ t, o = .next t → s.keeps t

theorem State.keeps.next {s t : State} (h : s.keeps t) : Out.keeps s (.next t) := by
  rintro _ ⟨⟩
  exact h
theorem Out.keeps_fault (s : State) (r : Fault) : Out.keeps s (.fault r) := by
  rintro _ ⟨⟩
theorem Out.keeps_refused (s : State) (r : Refusal) : Out.keeps s (.refused r) := by
  rintro _ ⟨⟩
theorem notEnabled_keeps (s : State) (m : String) : Out.keeps s (notEnabled m) := Out.keeps_refused _ _
theorem State.keeps.out {s t : State} {o : Out} (h : s.keeps t) (k : Out.keeps t o) : Out.keeps s o := fun u e => h.trans (k u e)
theorem Out.keeps_of_sameMem {s : State} {o : Out} (h : ∀ t, o = .next t → s.sameMem t) : Out.keeps s o :=
  fun t e => (h t e).keeps
theorem State.keeps.ifAsked {s t u : State} {m : String} (h : s.keeps u) : Out.keeps s (ifAsked t u m) := by
  unfold Sys2Proof.Machine.ifAsked
  split
  · exact notEnabled_keeps _ _
  · exact h.next

/-! ### Issue -/

theorem complete_keeps (s : State) (e : Env) (f : Eff) : Out.keeps s (complete s e f) :=
  Out.keeps_of_sameMem fun _ => complete_sameMem
theorem completeLater_keeps (s : State) (e : Env) (i : Instr) (f : Eff) : Out.keeps s (completeLater s e i f) :=
  Out.keeps_of_sameMem fun _ => completeLater_sameMem

/-- Correctable errors that an issue meets are noted; the instruction's own effect follows. -/
theorem meetErrors_keeps {k : State → Env → Out} (hk : ∀ s e, Out.keeps s (k s e)) (s : State) (e : Env) (i : Instr) :
    Out.keeps s (meetErrors s e i k) := by
  unfold meetErrors
  dsimp only
  split
  · exact hk _ _
  split
  · exact (raiseAt_sameMem _ _ _ _ _).keeps.next
  split
  · exact hk _ _
  · exact ((setBlock_sameMem _ _ _).keeps.trans (noteErrs_sameMem _ _ _ _).keeps).out (hk _ _)

/-- An instruction whose own effect keeps the form keeps it at its issue. -/
theorem issue_keeps {k : State → Env → Out} (hk : ∀ s e, Out.keeps s (k s e)) (s : State) (i : Instr) :
    Out.keeps s (issue s i k) := by
  rcases issue_cases s i k with ⟨_, h⟩ | ⟨e, code, _, _, h⟩ | ⟨e, _, _, h⟩ <;> rw [h]
  · exact Out.keeps_fault _ _
  · exact (raiseAt_sameMem _ _ _ _ _).keeps.next
  · exact meetErrors_keeps hk _ _ _

/-- The canonical form carries over from `s` to the state that an operation may answer. -/
def Maybe.keeps (s : State) (o : Option State) : Prop := ∀ t, o = some t → s.keeps t

theorem Maybe.keeps_none (s : State) : Maybe.keeps s none := by
  rintro _ ⟨⟩
theorem State.keeps.some {s t : State} (h : s.keeps t) : Maybe.keeps s (some t) := by
  rintro _ ⟨⟩
  exact h
theorem State.keeps.maybe {s t : State} {o : Option State} (h : s.keeps t) (k : Maybe.keeps t o) : Maybe.keeps s o :=
  fun u e => h.trans (k u e)

/-- The state in which an outcome that goes on goes on. -/
theorem Out.keeps.of {s t : State} {o : Out} (h : Out.keeps s o) (e : o = .next t) : s.keeps t := h t e
theorem Maybe.keeps.of {s t : State} {o : Option State} (h : Maybe.keeps s o) (e : o = Option.some t) : s.keeps t := h t e

theorem Maybe.keeps.getD {s t : State} {o : Option State} (h : Maybe.keeps s o) (k : s.keeps t) : s.keeps (o.getD t) := by
  cases ho : o with
  | none => exact k
  | some u => exact h u ho
theorem Maybe.keeps.ite {s : State} {o : Option State} {p : Prop} [Decidable p] (h : Maybe.keeps s o) :
    Maybe.keeps s (if p then o else none) := by
  split
  · exact h
  · exact Maybe.keeps_none _

/-! ### Machine/Ops -/

theorem raiseLate_keeps (s : State) (b c : Nat) (l : Late) : s.keeps (s.raiseLate b c l) := by
  unfold State.raiseLate
  split
  · exact State.keeps_refl _
  split
  · split
    · exact (setCrew_sameMem ..).keeps
    · exact (raise_sameMem ..).keeps
  split
  · exact (setCrew_sameMem ..).keeps
  · exact (raise_sameMem ..).keeps
theorem markIssue_keeps (s : State) (b c : Nat) : s.keeps (s.markIssue b c) := by
  unfold State.markIssue
  split
  · exact State.keeps_refl _
  · exact (setCrew_sameMem ..).keeps
theorem skip_keeps (s : State) (e : Env) : Out.keeps s (skip s e) := by
  unfold skip
  exact complete_keeps _ _ _
theorem perCrew_keeps (s : State) (e : Env) {k : Out} (hk : Out.keeps s k) : Out.keeps s (perCrew s e k) := by
  unfold perCrew
  split
  · exact skip_keeps _ _
  · exact hk
theorem trapAt_keeps (s : State) (e : Env) (code info : Nat) (lanes : Word) : Out.keeps s (trapAt s e code info lanes) := by
  unfold trapAt
  exact (raiseAt_sameMem ..).keeps.next
theorem take_keeps (s : State) : s.keeps s.take.2 := State.sameMem.keeps ⟨rfl, rfl, rfl, rfl⟩

/-! ### Machine/Quant -/

theorem execCtabW_keeps (x : XOps) (s : State) : Out.keeps s (execCtabW x s) := by
  unfold execCtabW
  refine issue_keeps (fun _ _ => ?_) _ _
  exact ((setBlock_sameMem ..).keeps.trans (finishIssue_sameMem ..).keeps).next
theorem execCtabSwap_keeps (x : XOps) (s : State) : Out.keeps s (execCtabSwap x s) := by
  unfold execCtabSwap
  refine issue_keeps (fun _ _ => ?_) _ _
  exact perCrew_keeps _ _ ((setBlock_sameMem ..).keeps.trans (finishIssue_sameMem ..).keeps).next

/-! ### Machine/Control -/

theorem goTo_keeps (s : State) (e : Env) (blk : Block) (f : Nat → Word) : Out.keeps s (goTo s e blk f) := by
  unfold goTo
  exact ((setBlock_sameMem ..).keeps.trans (finishIssue_sameMem ..).keeps).next
theorem spillChecked_keeps (s : State) (e : Env) (f : Nat → List Nat) {k : State → Env → Out}
  (hk : ∀ s e, Out.keeps s (k s e)) :
    Out.keeps s (spillChecked s e f k) := by
  unfold spillChecked
  dsimp only
  split
  · exact trapAt_keeps _ _ _ _ _
  split
  · exact hk _ _
  · exact ((setBlock_sameMem ..).keeps.trans (noteErrs_sameMem ..).keeps).out (hk _ _)
theorem execCall_keeps (x : BOps) (s : State) : Out.keeps s (execCall x s) := by
  unfold execCall
  refine issue_keeps (fun _ _ => spillChecked_keeps _ _ _ (fun _ _ => ?_)) _ _
  split
  · exact trapAt_keeps _ _ _ _ _
  · exact goTo_keeps _ _ _ _
theorem execRet_keeps (x : R4) (s : State) : Out.keeps s (execRet x s) := by
  unfold execRet
  refine issue_keeps (fun _ _ => spillChecked_keeps _ _ _ (fun _ _ => ?_)) _ _
  split
  · exact trapAt_keeps _ _ _ _ _
  · exact goTo_keeps _ _ _ _
theorem execExit_keeps (x : R4) (s : State) : Out.keeps s (execExit x s) := by
  unfold execExit
  refine issue_keeps (fun _ _ => ?_) _ _
  exact perCrew_keeps _ _ ((setBlock_sameMem ..).keeps.trans (park_sameMem ..).keeps).next
theorem settleDeps_keeps (s : State) : s.keeps s.settleDeps := by
  unfold State.settleDeps
  exact State.sameMem.keeps ⟨rfl, rfl, rfl, rfl⟩
theorem trigger_keeps (s : State) (b : Nat) : s.keeps (s.trigger b) := by
  unfold State.trigger
  split
  · exact State.keeps_refl _
  dsimp only
  split
  · exact (setBlock_sameMem ..).keeps
  · exact ((setBlock_sameMem ..).keeps.trans (setGrid_sameMem ..).keeps).trans (settleDeps_keeps _)
theorem execTrigger_keeps (x : R4) (s : State) : Out.keeps s (execTrigger x s) := by
  unfold execTrigger
  refine issue_keeps (fun _ _ => (State.keeps.trans ?_ (finishIssue_sameMem ..).keeps).next) _ _
  split
  · exact (setBlock_sameMem ..).keeps
  · exact (setBlock_sameMem ..).keeps.trans (trigger_keeps _ _)
theorem exposed_keeps (s : State) (e : Env) (n : Nat) : s.keeps (exposed s e n) := by
  unfold exposed
  split
  · exact (setCtx_sameMem ..).keeps
  · exact State.keeps_refl _
theorem execCsrr_keeps (x : NOps) (s : State) : Out.keeps s (execCsrr x s) := by
  unfold execCsrr
  refine issue_keeps (fun _ _ => ?_) _ _
  split
  · exact spillChecked_keeps _ _ _ (fun _ _ => complete_keeps _ _ _)
  · exact (exposed_keeps _ _ _).out (complete_keeps _ _ _)
theorem execCsrw_keeps (x : NOps) (s : State) : Out.keeps s (execCsrw x s) := by
  unfold execCsrw
  refine issue_keeps (fun _ _ => ?_) _ _
  exact perCrew_keeps _ _ ((setBlock_sameMem ..).keeps.trans (finishIssue_sameMem ..).keeps).next
theorem completeThenRaise_keeps (s : State) (e : Env) (code info : Nat) : s.keeps (completeThenRaise s e code info) := by
  unfold completeThenRaise
  exact (setBlock_sameMem ..).keeps.trans (raise_sameMem ..).keeps
theorem execBkpt_keeps (x : NOps) (s : State) : Out.keeps s (execBkpt x s) := by
  unfold execBkpt
  refine issue_keeps (fun _ _ => perCrew_keeps _ _ ?_) _ _
  exact ((completeThenRaise_keeps _ _ _ _).trans (finishIssue_sameMem ..).keeps).next
theorem execTret_keeps (x : NOps) (s : State) : Out.keeps s (execTret x s) := by
  unfold execTret
  refine issue_keeps (fun _ _ => perCrew_keeps _ _ ?_) _ _
  split
  · refine State.keeps.next ?_
    split
    · exact (setBlock_sameMem ..).keeps.trans (finishIssue_sameMem ..).keeps
    · exact (setBlock_sameMem ..).keeps.trans (park_sameMem ..).keeps
  · exact trapAt_keeps _ _ _ _ _
theorem execRegsGrow_keeps (x : RegsOps) (s : State) : Out.keeps s (execRegsGrow x s) := by
  unfold execRegsGrow
  refine issue_keeps (fun _ _ => ?_) _ _
  split
  · exact trapAt_keeps _ _ _ _ _
  split
  · exact complete_keeps _ _ _
  · exact (setBlock_sameMem ..).keeps.next
theorem execRegsShrink_keeps (x : RegsOps) (s : State) : Out.keeps s (execRegsShrink x s) := by
  unfold execRegsShrink
  refine issue_keeps (fun _ _ => ?_) _ _
  split
  · exact trapAt_keeps _ _ _ _ _
  split
  · exact ((setBlock_sameMem ..).keeps.trans (finishIssue_sameMem ..).keeps).next
  · exact complete_keeps _ _ _

/-! ### Machine/Random -/

theorem execRseed_keeps (x : XOps) (s : State) : Out.keeps s (execRseed x s) := by
  unfold execRseed
  refine issue_keeps (fun _ _ => ?_) _ _
  exact ((setBlock_sameMem ..).keeps.trans (finishIssue_sameMem ..).keeps).next
theorem execRnext_keeps (x : XOps) (s : State) : Out.keeps s (execRnext x s) := by
  unfold execRnext
  refine issue_keeps (fun _ _ => ?_) _ _
  exact ((setBlock_sameMem ..).keeps.trans (finishIssue_sameMem ..).keeps).next

/-! ### Machine/LocalOps -/

theorem atomLanes_keeps (s : State) (b crew op : Nat) (t : Ty) (rnd : Nat) (uni : Bool) (d : Nat) (l : List AtomLane) :
    s.keeps (atomLanes s b crew op t rnd uni d l).1 := by
  induction l generalizing s with
  | nil =>
    unfold atomLanes
    exact State.keeps_refl _
  | cons x xs ih =>
    unfold atomLanes
    dsimp only
    split
    · dsimp only
      exact (meetRead_sameMem ..).keeps
    · dsimp only
      exact ((meetRead_sameMem ..).keeps.trans (storeShare_sameMem ..).keeps).trans (ih _)
theorem setTbar_keeps (s : State) (b a : Nat) (o : TBar) : s.keeps (s.setTbar b a o) := by
  unfold State.setTbar
  exact (storeShare_sameMem ..).keeps
theorem noArrivals_keeps (s : State) (b a : Nat) (g : Nat → Bool) : s.keeps (s.noArrivals b a g) := by
  unfold State.noArrivals
  exact (mapSeen_sameMem ..).keeps
theorem arrives_keeps (s : State) (b c a : Nat) (o : TBar) : s.keeps (s.arrives b c a o) := by
  unfold State.arrives
  refine State.keeps.trans ?_ (mapSeen_sameMem ..).keeps
  split
  · exact noArrivals_keeps _ _ _ _
  · exact State.keeps_refl _
theorem envWrite_keeps (s : State) (b crew : Nat) (d : EnvDesc) (slot ep : Nat) :
    s.keeps (envWrite s b crew d slot ep) := by
  unfold envWrite
  split
  split
  · exact (meetRead_sameMem ..).keeps.fst ‹_›
  split
  · exact (meetRead_sameMem ..).keeps.fst ‹_›
  · exact ((((meetRead_sameMem ..).keeps.fst ‹_›).trans (storeShare_sameMem ..).keeps).trans
      (storeShare_sameMem ..).keeps).trans (storeShare_sameMem ..).keeps
theorem envLanes_keeps (s : State) (b crew : Nat) (d : EnvDesc) (l : List (Nat × Nat)) :
    s.keeps (envLanes s b crew d l) := by
  induction l generalizing s with
  | nil =>
    unfold envLanes
    exact State.keeps_refl _
  | cons x xs ih =>
    unfold envLanes
    exact (envWrite_keeps _ _ _ _ _ _).trans (ih _)
theorem performHead_keeps (s : State) (b c : Nat) : s.keeps (s.performHead b c) := by
  unfold State.performHead
  split
  · exact State.keeps_refl _
  split
  · exact State.keeps_refl _
  dsimp only
  split
  · exact (setCrew_sameMem ..).keeps.trans (storeShare_sameMem ..).keeps
  · split
    · exact (setCrew_sameMem ..).keeps.trans (atomLanes_keeps _ _ _ _ _ _ _ _ _)
    · exact ((setCrew_sameMem ..).keeps.trans (atomLanes_keeps _ _ _ _ _ _ _ _ _)).trans (setCrew_sameMem ..).keeps
  · split
    · exact (setCrew_sameMem ..).keeps.trans (raiseLate_keeps _ _ _ _)
    · exact ((setCrew_sameMem ..).keeps.trans (noArrivals_keeps _ _ _ _)).trans (setTbar_keeps _ _ _ _)
  · split
    · split
      · exact (setCrew_sameMem ..).keeps.trans (meetRead_sameMem ..).keeps
      split
      · exact ((setCrew_sameMem ..).keeps.trans (meetRead_sameMem ..).keeps).trans (failWait_sameMem ..).keeps
      · exact ((((setCrew_sameMem ..).keeps.trans (meetRead_sameMem ..).keeps).trans (arrives_keeps _ _ _ _ _)).trans
          (setTbar_keeps _ _ _ _)).trans (resume_sameMem ..).keeps
    · exact (setCrew_sameMem ..).keeps
  · exact (setCrew_sameMem ..).keeps.trans (envLanes_keeps _ _ _ _ _)
  · split
    · split
      · exact ((setCrew_sameMem ..).keeps.trans (meetRead_sameMem ..).keeps).trans (storeShare_sameMem ..).keeps
      · exact ((setCrew_sameMem ..).keeps.trans (meetRead_sameMem ..).keeps).trans (raiseLate_keeps _ _ _ _)
      · exact (setCrew_sameMem ..).keeps.trans (meetRead_sameMem ..).keeps
    · exact (setCrew_sameMem ..).keeps.trans (meetRead_sameMem ..).keeps
theorem performMany_keeps (s : State) (b c n : Nat) : s.keeps (s.performMany b c n) := by
  induction n generalizing s with
  | zero =>
    unfold State.performMany
    exact State.keeps_refl _
  | succ n ih =>
    unfold State.performMany
    exact (performHead_keeps _ _ _).trans (ih _)
theorem drainQueue_keeps (s : State) (b c : Nat) : s.keeps (s.drainQueue b c) := by
  unfold State.drainQueue
  split
  · exact State.keeps_refl _
  · exact performMany_keeps _ _ _ _
theorem afterQueue_keeps (s : State) (e : Env) (i : Instr) {k : State → Env → Out} (hk : ∀ s e, Out.keeps s (k s e)) :
    Out.keeps s (afterQueue s e i k) := by
  unfold afterQueue
  split
  · exact hk _ _
  dsimp only
  split
  · split
    · exact (drainQueue_keeps _ _ _).out (hk _ _)
    · exact (drainQueue_keeps _ _ _).next
  · exact (drainQueue_keeps _ _ _).next
theorem beforeRead_keeps (s : State) (e : Env) (i : Instr) {k : State → Env → Out} (hk : ∀ s e, Out.keeps s (k s e)) :
    Out.keeps s (beforeRead s e i k) := by
  unfold beforeRead
  split
  · exact afterQueue_keeps _ _ _ (fun _ _ => hk _ _)
  · exact hk _ _
theorem addressed_keeps (s : State) (e : Env) (n : Nat) (f : Nat → Int) {k : Out} (hk : Out.keeps s k) :
    Out.keeps s (addressed s e n f k) := by
  unfold addressed
  split
  · exact trapAt_keeps _ _ _ _ _
  split
  · exact trapAt_keeps _ _ _ _ _
  · exact hk

/-! ### Machine/Local -/

theorem readable_keeps (s : State) (e : Env) (n : Nat) (f : Nat → Int) {k : State → Out} (hk : ∀ s, Out.keeps s (k s)) :
    Out.keeps s (readable s e n f k) := by
  unfold readable
  split
  split
  · exact ((meetRead_sameMem ..).keeps.fst ‹_›).next
  · exact ((meetRead_sameMem ..).keeps.fst ‹_›).out (hk _)
theorem execLd_keeps (x : XOps) (s : State) : Out.keeps s (execLd x s) := by
  unfold execLd
  refine issue_keeps (fun _ _ => ?_) _ _
  refine addressed_keeps _ _ _ _ (beforeRead_keeps _ _ _ (fun _ _ => ?_))
  split
  · exact skip_keeps _ _
  · exact readable_keeps _ _ _ _ (fun _ => completeLater_keeps _ _ _ _)
theorem queueStores_keeps (s : State) (e : Env) (qs : List QEntry) : Out.keeps s (queueStores s e qs) := by
  unfold queueStores
  exact ((setBlock_sameMem ..).keeps.trans (finishIssue_sameMem ..).keeps).next
theorem execLds_keeps (x : XOps) (s : State) : Out.keeps s (execLds x s) := by
  unfold execLds
  refine issue_keeps (fun _ _ => ?_) _ _
  refine addressed_keeps _ _ _ _ (beforeRead_keeps _ _ _ (fun _ _ => ?_))
  exact readable_keeps _ _ _ _ (fun _ => completeLater_keeps _ _ _ _)
theorem atomIssue_keeps (s : State) (e : Env) (x : XOps) : Out.keeps s (atomIssue s e x) := by
  unfold atomIssue
  refine (State.keeps.trans ?_ (finishIssue_sameMem ..).keeps).next
  split
  · exact (defer_sameMem ..).keeps
  split
  · exact (defer_sameMem ..).keeps
  · exact (defer_sameMem ..).keeps.trans (setCrew_sameMem ..).keeps
theorem execAtom_keeps (x : XOps) (s : State) : Out.keeps s (execAtom x s) := by
  unfold execAtom
  refine issue_keeps (fun _ _ => ?_) _ _
  split
  · exact trapAt_keeps _ _ _ _ _
  refine addressed_keeps _ _ _ _ ?_
  split
  · exact skip_keeps _ _
  · exact atomIssue_keeps _ _ _
theorem execMld_keeps (x : XOps) (s : State) : Out.keeps s (execMld x s) := by
  unfold execMld
  refine issue_keeps (fun _ _ => ?_) _ _
  refine addressed_keeps _ _ _ _ (beforeRead_keeps _ _ _ (fun _ _ => ?_))
  exact readable_keeps _ _ _ _ (fun _ => complete_keeps _ _ _)
theorem headEvent_keeps (s : State) (b c : Nat) (m : String) (kind : QEntry → Bool) :
    Out.keeps s (headEvent s b c m kind) := by
  unfold headEvent
  split
  · exact notEnabled_keeps _ _
  split
  · exact notEnabled_keeps _ _
  split
  · exact (performHead_keeps _ _ _).next
  · exact notEnabled_keeps _ _

/-! ### Machine/Sync -/

theorem waitAt_keeps (s : State) (e : Env) (i : Instr) : s.keeps (waitAt s e i) := by
  unfold waitAt
  exact (setBlock_sameMem ..).keeps
theorem execTbinit_keeps (x : XOps) (s : State) : Out.keeps s (execTbinit x s) := by
  unfold execTbinit
  refine issue_keeps (fun _ _ => ?_) _ _
  exact perCrew_keeps _ _ (addressed_keeps _ _ _ _ (queueStores_keeps _ _ _))
theorem execTbarr_keeps (x : XOps) (s : State) : Out.keeps s (execTbarr x s) := by
  unfold execTbarr
  refine issue_keeps (fun _ _ => perCrew_keeps _ _ ?_) _ _
  refine addressed_keeps _ _ _ _ (afterQueue_keeps _ _ _ (fun _ _ => State.keeps.next ?_))
  split
  · exact waitAt_keeps _ _ _
  · exact (waitAt_keeps _ _ _).trans (setCrew_sameMem ..).keeps
theorem seeJobs_keeps (s : State) (b c a g : Nat) : s.keeps (s.seeJobs b c a g) := by
  unfold State.seeJobs
  exact (mapSeen_sameMem ..).keeps
theorem tbwaitEnd_keeps (s : State) (b c : Nat) (i : Instr) (pc act : Word) (a ticket : Nat) (r : Nat × Nat) :
    s.keeps (tbwaitEnd s b c i pc act a ticket r) := by
  unfold tbwaitEnd
  split
  · exact (failWait_sameMem ..).keeps
  dsimp only
  split
  · exact (seeJobs_keeps _ _ _ _ _).trans (resume_sameMem ..).keeps
  split
  · exact seeJobs_keeps _ _ _ _ _
  · exact ((seeJobs_keeps _ _ _ _ _).trans (setCrew_sameMem ..).keeps).trans (raise_sameMem ..).keeps
theorem execTbwait_keeps (x : XOps) (s : State) : Out.keeps s (execTbwait x s) := by
  unfold execTbwait
  refine issue_keeps (fun _ _ => perCrew_keeps _ _ (addressed_keeps _ _ _ _ ?_)) _ _
  refine beforeRead_keeps _ _ _ (fun _ _ => readable_keeps _ _ _ _ (fun _ => ?_))
  dsimp only
  split
  · exact ((waitAt_keeps _ _ _).trans (tbwaitEnd_keeps _ _ _ _ _ _ _ _ _)).next
  · exact (waitAt_keeps _ _ _).next
theorem execTbwaitComplete_keeps (b c : Nat) (s : State) : Out.keeps s (execTbwaitComplete b c s) := by
  unfold execTbwaitComplete
  split
  · split
    · exact notEnabled_keeps _ _
    dsimp only
    split
    · exact ((meetRead_sameMem ..).keeps.fst ‹_›).next
    · exact (((meetRead_sameMem ..).keeps.fst ‹_›).trans (tbwaitEnd_keeps _ _ _ _ _ _ _ _ _)).next
    · exact notEnabled_keeps _ _
  · exact notEnabled_keeps _ _
theorem ringStep_keeps (s : State) (b c : Nat) (i : Instr) (pc act : Word) (a d : Nat) (f : Ring → RingAct) :
    Maybe.keeps s (ringStep s b c i pc act a d f) := by
  unfold ringStep
  split
  · exact ((meetRead_sameMem ..).keeps.fst ‹_›).some
  split
  · exact Maybe.keeps_none _
  split
  · exact Maybe.keeps_none _
  · exact (((meetRead_sameMem ..).keeps.fst ‹_›).trans (failWait_sameMem ..).keeps).some
  · exact ((((meetRead_sameMem ..).keeps.fst ‹_›).trans (storeShare_sameMem ..).keeps).trans (resume_sameMem ..).keeps).some
theorem ringIssue_keeps (s : State) (i : Instr) (a : Nat) {k : State → Env → Out} (hk : ∀ s e, Out.keeps s (k s e)) :
    Out.keeps s (ringIssue s i a k) := by
  unfold ringIssue
  refine issue_keeps (fun _ _ => perCrew_keeps _ _ (addressed_keeps _ _ _ _ ?_)) _ _
  refine beforeRead_keeps _ _ _ (fun _ _ => readable_keeps _ _ _ _ (fun _ => ?_))
  dsimp only
  split
  · exact trapAt_keeps _ _ _ _ _
  · exact hk _ _
theorem ringWait_keeps (s : State) (i : Instr) (a d : Nat) (f : Ring → RingAct) : Out.keeps s (ringWait s i a d f) := by
  unfold ringWait
  refine ringIssue_keeps _ _ _ (fun _ _ => State.keeps.next ?_)
  split
  · exact ((waitAt_keeps _ _ _).maybe (ringStep_keeps _ _ _ _ _ _ _ _ _)).getD (waitAt_keeps _ _ _)
  · exact waitAt_keeps _ _ _
theorem ringQueue_keeps (s : State) (i : Instr) (a : Nat) (slotw : Env → Nat) : Out.keeps s (ringQueue s i a slotw) := by
  unfold ringQueue
  exact ringIssue_keeps _ _ _ (fun _ _ => queueStores_keeps _ _ _)
theorem execSrputWake_keeps (b c : Nat) (s : State) : Out.keeps s (execSrputWake b c s) := by
  unfold execSrputWake
  split
  · split
    · exact ((ringStep_keeps _ _ _ _ _ _ _ _ _).ite.of ‹_›).next
    · exact notEnabled_keeps _ _
  · exact notEnabled_keeps _ _
theorem execSrgetWake_keeps (b c : Nat) (s : State) : Out.keeps s (execSrgetWake b c s) := by
  unfold execSrgetWake
  split
  · split
    · exact ((ringStep_keeps _ _ _ _ _ _ _ _ _).ite.of ‹_›).next
    · exact notEnabled_keeps _ _
  · exact notEnabled_keeps _ _
theorem execJoin_keeps (x : XOps) (s : State) : Out.keeps s (execJoin x s) := by
  unfold execJoin
  refine issue_keeps (fun _ _ => perCrew_keeps _ _ ?_) _ _
  split
  · exact trapAt_keeps _ _ _ _ _
  · exact ((setBlock_sameMem ..).keeps.trans (finishIssue_sameMem ..).keeps).next
theorem execLeave_keeps (x : XOps) (s : State) : Out.keeps s (execLeave x s) := by
  unfold execLeave
  refine issue_keeps (fun _ _ => perCrew_keeps _ _ ?_) _ _
  split
  · exact trapAt_keeps _ _ _ _ _
  split
  · exact trapAt_keeps _ _ _ _ _
  · exact ((setBlock_sameMem ..).keeps.trans (finishIssue_sameMem ..).keeps).next
theorem arriveAt_keeps (s : State) (e : Env) (i : Instr) (k : Nat) : Out.keeps s (arriveAt s e i k) := by
  unfold arriveAt
  refine afterQueue_keeps _ _ _ (fun _ _ => State.keeps.next ?_)
  split
  · exact waitAt_keeps _ _ _
  · exact (waitAt_keeps _ _ _).trans (setBlock_sameMem ..).keeps
theorem execBar_keeps (x : XOps) (s : State) : Out.keeps s (execBar x s) := by
  unfold execBar
  refine issue_keeps (fun _ _ => perCrew_keeps _ _ ?_) _ _
  split
  · exact arriveAt_keeps _ _ _ _
  · exact trapAt_keeps _ _ _ _ _
theorem joinJobs_keeps (s : State) (b : Nat) (m : BitVec 64) : s.keeps (s.joinJobs b m) := by
  unfold State.joinJobs
  exact (mapSeen_sameMem ..).keeps
theorem releaseCrew_keeps (s : State) (b c : Nat) : s.keeps (releaseCrew s b c) := by
  unfold releaseCrew
  split
  · exact (resume_sameMem ..).keeps
  · exact (resume_sameMem ..).keeps
  · exact State.keeps_refl _
theorem execBarrierRelease_keeps (b k : Nat) (s : State) : Out.keeps s (execBarrierRelease b k s) := by
  unfold execBarrierRelease
  split
  · exact notEnabled_keeps _ _
  dsimp only
  split
  · refine (((setBlock_sameMem ..).keeps.trans (joinJobs_keeps _ _ _)).trans (foldl_keeps _ (fun _ _ => ?_) _ _)).next
    exact releaseCrew_keeps _ _ _
  · exact notEnabled_keeps _ _

/-! ### Machine/Records -/

theorem gotAt_keeps {α : Type} {s : State} (e : Env) {g : Got α} (hg : g.keeps s) {k : State → α → Out}
  (hk : ∀ s x, Out.keeps s (k s x)) :
    Out.keeps s (gotAt e g k) := by
  unfold gotAt
  split
  · exact ((hg.ok rfl).trans (forget_sameMem ..).keeps).out (hk _ _)
  · exact (hg.wait rfl).next
  · exact ((hg.fail rfl).trans (raiseIssue_sameMem ..).keeps).next
theorem recordAt_keeps (s : State) (x : Block) (va owner : Nat) : (s.recordAt x va owner).keeps s := by
  unfold State.recordAt
  dsimp only
  split
  · exact (State.keeps_refl _).ok
  refine Got.keeps_bind (gread_keeps _ _ _ _) fun _ _ _ => ?_
  exact State.keeps.ok (State.sameMem.keeps ⟨rfl, rfl, rfl, rfl⟩)
theorem layoutOf_keeps (s : State) (x : Block) (vals : List Nat) (owner : Nat) : (s.layoutOf x vals owner).keeps s := by
  unfold State.layoutOf
  dsimp only
  split
  · split
    · exact (State.keeps_refl _).ok
    · exact Got.keeps_bind (recordAt_keeps _ _ _ _) fun _ _ _ => (State.keeps_refl _).ok
  · exact (State.keeps_refl _).ok
theorem execLayout_keeps (x : XOps) (s : State) : Out.keeps s (execLayout x s) := by
  unfold execLayout
  refine issue_keeps (fun _ _ => ?_) _ _
  refine gotAt_keeps _ ?_ (fun _ _ => ?_)
  · exact layoutOf_keeps _ _ _ _
  · split
    · exact trapAt_keeps _ _ _ _ _
    · exact complete_keeps _ _ _
theorem dropRecords_keeps (s : State) (core asid : Nat) : s.keeps (s.dropRecords core asid) := by
  unfold State.dropRecords
  exact State.sameMem.keeps ⟨rfl, rfl, rfl, rfl⟩
theorem execRcfence_keeps (x : XOps) (s : State) : Out.keeps s (execRcfence x s) := by
  unfold execRcfence
  refine issue_keeps (fun _ _ => perCrew_keeps _ _ ?_) _ _
  exact afterQueue_keeps _ _ _ (fun _ _ => (dropRecords_keeps _ _ _).out (complete_keeps _ _ _))

/-! ### Machine/MatrixOps -/

theorem putElem_keeps (s : State) (b : Nat) (l : Layout) (i0 i1 v : Nat) : s.keeps (s.putElem b l i0 i1 v) := by
  unfold State.putElem
  dsimp only
  split
  · split
    · exact State.keeps_refl _
    · exact (storeShare_sameMem ..).keeps
  · exact (storeShare_sameMem ..).keeps

/-! ### Machine/Matrix -/

theorem setMx_keeps (s : State) (b : Nat) (m : Matrix) : s.keeps (s.setMx b m) := by
  unfold State.setMx
  split
  · exact State.keeps_refl _
  · exact (setBlock_sameMem ..).keeps
theorem mxLayout_keeps (s : State) (e : Env) (i : Instr) {k : State → Option Layout → Out}
  (hk : ∀ s l, Out.keeps s (k s l)) :
    Out.keeps s (mxLayout s e i k) := by
  unfold mxLayout
  split
  · refine gotAt_keeps _ ?_ (fun _ _ => ?_)
    · exact layoutOf_keeps _ _ _ _
    · exact hk _ _
  · exact hk _ _
theorem mxAccept_keeps (s : State) (e : Env) (i : Instr) (l : Layout) : Out.keeps s (mxAccept s e i l) := by
  unfold mxAccept
  dsimp only
  split
  · exact (((setBlock_sameMem ..).keeps.trans (defer_sameMem ..).keeps).trans (finishIssue_sameMem ..).keeps).next
  · exact (setBlock_sameMem ..).keeps.out (complete_keeps _ _ _)
theorem matrixIssue_keeps (s : State) (i : Instr) : Out.keeps s (matrixIssue s i) := by
  unfold matrixIssue
  refine issue_keeps (fun _ _ => perCrew_keeps _ _ (afterQueue_keeps _ _ _ (fun _ _ => ?_))) _ _
  split
  · exact (State.keeps_refl _).next
  refine mxLayout_keeps _ _ _ (fun _ _ => ?_)
  dsimp only
  split
  · exact (meetRead_sameMem ..).keeps.next
  split
  · exact (meetRead_sameMem ..).keeps.out (trapAt_keeps _ _ _ _ _)
  · exact (meetRead_sameMem ..).keeps.out (mxAccept_keeps _ _ _ _)
theorem mxFollow_keeps (s : State) (b : Nat) (q : MCmd) (owner : Nat) : (s.mxFollow b q owner).keeps s := by
  unfold State.mxFollow
  split
  · exact (State.keeps_refl _).ok
  split
  · exact (State.keeps_refl _).wait
  refine Got.keeps_bind ?_ fun _ _ _ => ?_
  · split
    · exact layoutOf_keeps _ _ _ _
    · exact (State.keeps_refl _).ok
  · dsimp only
    split
    · exact (((drainQueue_keeps _ _ _).trans (meetRead_sameMem ..).keeps).trans (setBlock_sameMem ..).keeps).ok
    · exact ((drainQueue_keeps _ _ _).trans (meetRead_sameMem ..).keeps).ok
theorem mxTurn_keeps (s : State) (b : Nat) (m : String) (kind : Instr → Bool) {f : State → Block → MCmd → State}
    (hf : ∀ (s : State) x q, s.keeps (f s x q)) : Out.keeps s (mxTurn s b m kind f) := by
  unfold mxTurn
  split
  · exact notEnabled_keeps _ _
  split
  · exact notEnabled_keeps _ _
  split
  · split
    · exact (hf _ _ _).next
    · exact notEnabled_keeps _ _
  split
  · exact (hf _ _ _).next
  · exact notEnabled_keeps _ _
theorem mxRead_keeps (s : State) (b : Nat) (x : Block) (q : MCmd) {k : State → Block → State}
  (hk : ∀ (s : State) y, s.keeps (k s y)) :
    s.keeps (mxRead s b x q k) := by
  unfold mxRead
  split
  · exact hk _ _
  split
  split
  · exact (meetStore_sameMem ..).keeps.fst ‹_›
  split
  split
  · exact (((meetStore_sameMem ..).keeps.fst ‹_›).trans (meetRead_sameMem ..).keeps).fst ‹_›
  split
  · exact (((meetStore_sameMem ..).keeps.fst ‹_›).trans (meetRead_sameMem ..).keeps).fst ‹_›
  · exact ((((meetStore_sameMem ..).keeps.fst ‹_›).trans (meetRead_sameMem ..).keeps).fst ‹_›).trans (hk _ _)
theorem execMxwTurn_keeps (b : Nat) (s : State) : Out.keeps s (execMxwTurn b s) := by
  unfold execMxwTurn
  refine mxTurn_keeps _ _ _ _ (fun _ _ _ => mxRead_keeps _ _ _ _ (fun _ _ => ?_))
  split
  · exact (setBlock_sameMem ..).keeps
  · exact State.keeps_refl _
theorem execStreamCommandTurn_keeps (b : Nat) (s : State) : Out.keeps s (execStreamCommandTurn b s) := by
  unfold execStreamCommandTurn
  split
  · exact notEnabled_keeps _ _
  split
  · exact notEnabled_keeps _ _
  refine mxTurn_keeps _ _ _ _ (fun _ _ _ => ?_)
  split
  · exact State.keeps_refl _
  · exact (setBlock_sameMem ..).keeps
theorem execStreamStep_keeps (b : Nat) (s : State) : Out.keeps s (execStreamStep b s) := by
  unfold execStreamStep
  split
  · exact notEnabled_keeps _ _
  split
  · exact notEnabled_keeps _ _
  refine mxTurn_keeps _ _ _ _ (fun _ _ _ => mxRead_keeps _ _ _ _ (fun _ _ => ?_))
  split
  · exact State.keeps_refl _
  · exact (setBlock_sameMem ..).keeps
theorem execMxtlTurn_keeps (b : Nat) (s : State) : Out.keeps s (execMxtlTurn b s) := by
  unfold execMxtlTurn
  refine mxTurn_keeps _ _ _ _ (fun _ _ _ => mxRead_keeps _ _ _ _ (fun _ _ => ?_))
  split
  · exact (setBlock_sameMem ..).keeps
  · exact State.keeps_refl _
theorem execMxtsTurn_keeps (b : Nat) (s : State) : Out.keeps s (execMxtsTurn b s) := by
  unfold execMxtsTurn
  refine mxTurn_keeps _ _ _ _ (fun _ _ _ => mxRead_keeps _ _ _ _ (fun _ _ => ?_))
  split
  · refine (foldl_keeps _ (fun _ _ => ?_) _ _).trans (setMx_keeps _ _ _)
    dsimp only
    split
    · exact putElem_keeps _ _ _ _ _ _
    · exact putElem_keeps _ _ _ _ _ _
  · exact State.keeps_refl _
theorem execAcczTurn_keeps (b : Nat) (s : State) : Out.keeps s (execAcczTurn b s) := by
  unfold execAcczTurn
  refine mxTurn_keeps _ _ _ _ (fun _ _ _ => ?_)
  split
  · exact (setBlock_sameMem ..).keeps
  · exact State.keeps_refl _
theorem execAccldTurn_keeps (b : Nat) (s : State) : Out.keeps s (execAccldTurn b s) := by
  unfold execAccldTurn
  refine mxTurn_keeps _ _ _ _ (fun _ _ _ => mxRead_keeps _ _ _ _ (fun _ _ => ?_))
  split
  · exact (setBlock_sameMem ..).keeps
  · exact State.keeps_refl _
theorem execAccstTurn_keeps (b : Nat) (s : State) : Out.keeps s (execAccstTurn b s) := by
  unfold execAccstTurn
  refine mxTurn_keeps _ _ _ _ (fun _ _ _ => mxRead_keeps _ _ _ _ (fun _ _ => ?_))
  split
  · exact (foldl_keeps _ (fun _ _ => putElem_keeps _ _ _ _ _ _) _ _).trans (setMx_keeps _ _ _)
  · exact State.keeps_refl _
theorem fillCrew_keeps (s : State) (b c order : Nat) (f : Pend → Pend) : s.keeps (s.fillCrew b c order f) := by
  unfold State.fillCrew
  split
  · exact State.keeps_refl _
  · exact (setCrew_sameMem ..).keeps
theorem execAccdrTurn_keeps (b : Nat) (s : State) : Out.keeps s (execAccdrTurn b s) := by
  unfold execAccdrTurn
  refine mxTurn_keeps _ _ _ _ (fun _ _ _ => mxRead_keeps _ _ _ _ (fun _ _ => ?_))
  split
  · refine State.keeps.trans ?_ (setMx_keeps _ _ _)
    split
    · exact foldl_keeps _ (fun _ _ => putElem_keeps _ _ _ _ _ _) _ _
    split
    · exact fillCrew_keeps _ _ _ _ _
    · exact State.keeps_refl _
  · exact State.keeps_refl _
theorem execMxprogTurn_keeps (b : Nat) (s : State) : Out.keeps s (execMxprogTurn b s) := by
  unfold execMxprogTurn
  refine mxTurn_keeps _ _ _ _ (fun _ _ _ => ?_)
  split
  · exact (fillCrew_keeps _ _ _ _ _).trans (setMx_keeps _ _ _)
  · exact State.keeps_refl _
theorem execLatchedCommandTurn_keeps (b : Nat) (s : State) : Out.keeps s (execLatchedCommandTurn b s) := by
  unfold execLatchedCommandTurn
  split
  · exact notEnabled_keeps _ _
  split
  · exact notEnabled_keeps _ _
  split
  · split
    · refine (State.keeps.trans ?_ (setMx_keeps _ _ _)).next
      split
      · exact fillCrew_keeps _ _ _ _ _
      · exact State.keeps_refl _
    · exact notEnabled_keeps _ _
  · split
    · refine (State.keeps.trans ?_ (setMx_keeps _ _ _)).next
      split
      · exact fillCrew_keeps _ _ _ _ _
      · exact State.keeps_refl _
    · exact notEnabled_keeps _ _

/-! ### Machine/Streamer -/

theorem giveToken_keeps (s : State) (e : Env) (d : Nat) : Out.keeps s (giveToken s e d) := by
  unfold giveToken
  refine ((State.keeps.trans ?_ (setBlock_sameMem ..).keeps).trans (finishIssue_sameMem ..).keeps).next
  exact State.sameMem.keeps ⟨rfl, rfl, rfl, rfl⟩
theorem copyEnter_keeps (s : State) (e : Env) (k : Copy) (d : Option Nat) : Out.keeps s (copyEnter s e k d) := by
  have put (l : List (Nat × Copy)) : s.keeps { s.take.2 with copies := l } := State.sameMem.keeps ⟨rfl, rfl, rfl, rfl⟩
  unfold copyEnter
  cases d with
  | none => exact (put _).out (complete_keeps _ _ _)
  | some d =>
    dsimp only
    split
    · exact (take_keeps s).out (trapAt_keeps _ _ _ _ _)
    · exact (put _).out (giveToken_keeps _ _ _)
theorem copyIssue_keeps (s : State) (i : Instr) (x : StreamOps) (kind : CopyKind) (d : Option Nat) :
    Out.keeps s (copyIssue s i x kind d) := by
  unfold copyIssue
  refine issue_keeps (fun _ _ => perCrew_keeps _ _ (afterQueue_keeps _ _ _ (fun _ _ => ?_))) _ _
  split
  · exact (State.keeps_refl _).next
  refine gotAt_keeps _ ?_ (fun _ _ => ?_)
  · exact layoutOf_keeps _ _ _ _
  · split
    · exact trapAt_keeps _ _ _ _ _
    dsimp only
    split
    · split
      · exact (meetRead_sameMem ..).keeps.next
      split
      · exact (meetRead_sameMem ..).keeps.out (trapAt_keeps _ _ _ _ _)
      · exact (meetRead_sameMem ..).keeps.out (copyEnter_keeps _ _ _ _)
    · split
      · exact (State.keeps_refl _).next
      split
      · exact trapAt_keeps _ _ _ _ _
      · exact copyEnter_keeps _ _ _ _
theorem copyIn_keeps (b : Nat) (k : Copy) (l : List Nat) (bs : List Byte) (s : State) : s.keeps (copyIn b k l bs s) := by
  induction l generalizing s bs with
  | nil =>
    unfold copyIn
    exact State.keeps_refl _
  | cons x xs ih =>
    unfold copyIn
    exact (storeShare_sameMem ..).keeps.trans (ih _ _)
theorem keepOld_keeps (s : State) (k : Copy) (ws : List (Nat × List Byte)) : s.keeps (s.keepOld k ws) := by
  unfold State.keepOld
  split
  · exact State.sameMem.keeps ⟨rfl, rfl, rfl, rfl⟩
  · exact State.keeps_refl _
theorem readOlder_keeps (s : State) (k : Copy) (as : List Nat) (bs : List Byte) : s.keeps (readOlder s k as bs).1 := by
  unfold readOlder
  dsimp only
  split
  · exact State.keeps_refl _
  · split
    · exact State.keeps_refl _
    · dsimp only
      exact State.sameMem.keeps ⟨rfl, rfl, rfl, rfl⟩
theorem copyHalves_keeps (x : Block) (k : Copy) (es : List Nat) (s : State) (a : Acc) :
    (copyHalves x k es s a).keeps s := by
  unfold copyHalves
  refine Got.keeps_bind (greadAll_keeps _ _ _) fun _ _ _ => ?_
  split
  refine Got.keeps_bind (gwriteAll_keeps _ _ _) fun _ _ _ => ?_
  exact ((keepOld_keeps _ _ _).trans (forget_sameMem ..).keeps).ok
theorem debit_keeps (s : State) (b a n : Nat) : s.keeps (s.debit b a n) := by
  unfold State.debit
  split
  · exact (meetRead_sameMem ..).keeps.fst ‹_›
  split
  · exact (meetRead_sameMem ..).keeps.fst ‹_›
  · exact ((meetRead_sameMem ..).keeps.fst ‹_›).trans (setTbar_keeps _ _ _ _)
theorem moveChunk_keeps (s : State) (x : Block) (key : Nat) (k : Copy) : (moveChunk s x key k).keeps s := by
  unfold moveChunk
  dsimp only
  split
  · refine Got.keeps_bind (readyAll_keeps _ _ _) fun _ _ _ => ?_
    split
    · exact (State.keeps_refl _).wait
    refine Got.keeps_bind (readParts_keeps _ _ _) fun _ _ _ => State.keeps.ok ?_
    split
    · exact (((readOlder_keeps _ _ _ _).trans (forget_sameMem ..).keeps).trans (copyIn_keeps _ _ _ _ _)).trans
        (debit_keeps _ _ _ _)
    · exact ((readOlder_keeps _ _ _ _).trans (forget_sameMem ..).keeps).trans (copyIn_keeps _ _ _ _ _)
  · split
    · exact (meetRead_sameMem ..).keeps.ok
    split
    · exact (meetRead_sameMem ..).keeps.got (copyHalves_keeps _ _ _ _ _)
    refine Got.keeps_bind ((meetRead_sameMem ..).keeps.got (readyAll_keeps _ _ _)) fun _ _ _ => ?_
    split
    · exact (State.keeps_refl _).wait
    refine Got.keeps_bind (writeParts_keeps _ _ _) fun _ _ _ => ?_
    exact ((keepOld_keeps _ _ _).trans (forget_sameMem ..).keeps).ok
theorem dropLast_keeps (s : State) (asid line : Nat) (side : Bool) : s.keeps (dropLast s asid line side) := by
  unfold dropLast
  dsimp only
  split
  · split
    · split
      · split
        · exact (((((((setCache_sameMem ..).keeps.trans (setDie_sameMem ..).keeps).trans
            (setCache_sameMem ..).keeps).trans (setDie_sameMem ..).keeps).trans (setCache_sameMem ..).keeps).trans
              (setDie_sameMem ..).keeps).trans (setCache_sameMem ..).keeps).trans (setDie_sameMem ..).keeps
        · exact ((((((setCache_sameMem ..).keeps.trans (setDie_sameMem ..).keeps).trans
            (setCache_sameMem ..).keeps).trans (setDie_sameMem ..).keeps).trans (setCache_sameMem ..).keeps).trans
              (setDie_sameMem ..).keeps).trans (setCache_sameMem ..).keeps
      split
      · exact ((((((setCache_sameMem ..).keeps.trans (setDie_sameMem ..).keeps).trans
          (setCache_sameMem ..).keeps).trans (setDie_sameMem ..).keeps).trans (setCache_sameMem ..).keeps).trans
            (setCache_sameMem ..).keeps).trans (setDie_sameMem ..).keeps
      · exact (((((setCache_sameMem ..).keeps.trans (setDie_sameMem ..).keeps).trans (setCache_sameMem ..).keeps).trans
          (setDie_sameMem ..).keeps).trans (setCache_sameMem ..).keeps).trans (setCache_sameMem ..).keeps
    · split
      · split
        · exact ((((((setCache_sameMem ..).keeps.trans (setDie_sameMem ..).keeps).trans
            (setCache_sameMem ..).keeps).trans (setCache_sameMem ..).keeps).trans (setDie_sameMem ..).keeps).trans
              (setCache_sameMem ..).keeps).trans (setDie_sameMem ..).keeps
        · exact (((((setCache_sameMem ..).keeps.trans (setDie_sameMem ..).keeps).trans
            (setCache_sameMem ..).keeps).trans (setCache_sameMem ..).keeps).trans (setDie_sameMem ..).keeps).trans
              (setCache_sameMem ..).keeps
      split
      · exact (((((setCache_sameMem ..).keeps.trans (setDie_sameMem ..).keeps).trans (setCache_sameMem ..).keeps).trans
          (setCache_sameMem ..).keeps).trans (setCache_sameMem ..).keeps).trans (setDie_sameMem ..).keeps
      · exact ((((setCache_sameMem ..).keeps.trans (setDie_sameMem ..).keeps).trans (setCache_sameMem ..).keeps).trans
          (setCache_sameMem ..).keeps).trans (setCache_sameMem ..).keeps
  · split
    · split
      · split
        · exact ((((((setCache_sameMem ..).keeps.trans (setCache_sameMem ..).keeps).trans
            (setDie_sameMem ..).keeps).trans (setCache_sameMem ..).keeps).trans (setDie_sameMem ..).keeps).trans
              (setCache_sameMem ..).keeps).trans (setDie_sameMem ..).keeps
        · exact (((((setCache_sameMem ..).keeps.trans (setCache_sameMem ..).keeps).trans
            (setDie_sameMem ..).keeps).trans (setCache_sameMem ..).keeps).trans (setDie_sameMem ..).keeps).trans
              (setCache_sameMem ..).keeps
      split
      · exact (((((setCache_sameMem ..).keeps.trans (setCache_sameMem ..).keeps).trans (setDie_sameMem ..).keeps).trans
          (setCache_sameMem ..).keeps).trans (setCache_sameMem ..).keeps).trans (setDie_sameMem ..).keeps
      · exact ((((setCache_sameMem ..).keeps.trans (setCache_sameMem ..).keeps).trans (setDie_sameMem ..).keeps).trans
          (setCache_sameMem ..).keeps).trans (setCache_sameMem ..).keeps
    · split
      · split
        · exact (((((setCache_sameMem ..).keeps.trans (setCache_sameMem ..).keeps).trans
            (setCache_sameMem ..).keeps).trans (setDie_sameMem ..).keeps).trans (setCache_sameMem ..).keeps).trans
              (setDie_sameMem ..).keeps
        · exact ((((setCache_sameMem ..).keeps.trans (setCache_sameMem ..).keeps).trans
            (setCache_sameMem ..).keeps).trans (setDie_sameMem ..).keeps).trans (setCache_sameMem ..).keeps
      split
      · exact ((((setCache_sameMem ..).keeps.trans (setCache_sameMem ..).keeps).trans
          (setCache_sameMem ..).keeps).trans (setCache_sameMem ..).keeps).trans (setDie_sameMem ..).keeps
      · exact (((setCache_sameMem ..).keeps.trans (setCache_sameMem ..).keeps).trans (setCache_sameMem ..).keeps).trans
          (setCache_sameMem ..).keeps
theorem copyLast_keeps (s : State) (x : Block) (k : Copy) (lines : List Nat) : s.keeps (copyLast s x k lines) := by
  unfold copyLast
  split
  · exact State.keeps_refl _
  refine foldl_keeps _ (fun _ _ => ?_) _ _
  split
  · exact dropLast_keeps _ _ _ _
  · exact State.keeps_refl _
theorem execStreamerChunk_keeps (b k : Nat) (s : State) : Out.keeps s (execStreamerChunk b k s) := by
  unfold execStreamerChunk
  split
  · split
    · exact notEnabled_keeps _ _
    split
    · split
      · exact State.keeps.next (State.sameMem.keeps ⟨rfl, rfl, rfl, rfl⟩)
      · exact notEnabled_keeps _ _
    split
    · split
      · exact notEnabled_keeps _ _
      split
      · exact State.keeps.next ((((moveChunk_keeps _ _ _ _).ok ‹_›).trans (copyLast_keeps _ _ _ _)).trans
          (State.sameMem.keeps ⟨rfl, rfl, rfl, rfl⟩))
      · exact ((moveChunk_keeps _ _ _ _).wait ‹_›).ifAsked
      · split
        · exact (((moveChunk_keeps _ _ _ _).fail ‹_›).trans (fatalBlock_sameMem ..).keeps).next
        · exact State.keeps.next ((((moveChunk_keeps _ _ _ _).fail ‹_›).trans (copyLast_keeps _ _ _ _)).trans
            (State.sameMem.keeps ⟨rfl, rfl, rfl, rfl⟩))
    · split
      · exact notEnabled_keeps _ _
      split
      · exact State.keeps.next ((((moveChunk_keeps _ _ _ _).ok ‹_›).trans (copyLast_keeps _ _ _ _)).trans
          (State.sameMem.keeps ⟨rfl, rfl, rfl, rfl⟩))
      · exact ((moveChunk_keeps _ _ _ _).wait ‹_›).ifAsked
      · split
        · exact (((moveChunk_keeps _ _ _ _).fail ‹_›).trans (fatalBlock_sameMem ..).keeps).next
        · exact State.keeps.next ((((moveChunk_keeps _ _ _ _).fail ‹_›).trans (copyLast_keeps _ _ _ _)).trans
            (State.sameMem.keeps ⟨rfl, rfl, rfl, rfl⟩))
  · exact notEnabled_keeps _ _
theorem holdFault_keeps (s : State) (b c order : Nat) (t : Trap) : s.keeps (s.holdFault b c order t) := by
  unfold State.holdFault
  dsimp only
  split
  · exact State.keeps_refl _
  split
  · exact (setBlock_sameMem ..).keeps
  · exact (setBlock_sameMem ..).keeps
  · exact State.keeps_refl _
theorem endToken_keeps (s : State) (b c tok : Nat) (f : Option Trap) : s.keeps (s.endToken b c tok f) := by
  unfold State.endToken
  exact State.sameMem.keeps ⟨rfl, rfl, rfl, rfl⟩
theorem copyCommit_keeps (s : State) (k : Copy) : s.keeps (copyCommit s k).1 := by
  unfold copyCommit
  split
  · exact State.keeps_refl _
  · split
    · dsimp only
      exact (meetRead_sameMem ..).keeps.fst ‹_›
    · split
      · dsimp only
        exact (meetRead_sameMem ..).keeps.fst ‹_›
      · split
        · dsimp only
          exact ((meetRead_sameMem ..).keeps.fst ‹_›).trans (storeShare_sameMem ..).keeps
        · dsimp only
          exact (meetRead_sameMem ..).keeps.fst ‹_›
theorem copyFault_keeps (s : State) (k : Copy) (t : Trap) : s.keeps (copyFault s k t) := by
  unfold copyFault
  split
  · exact endToken_keeps _ _ _ _ _
  split
  · split
    · exact (meetRead_sameMem ..).keeps.fst ‹_›
    split
    · exact (meetRead_sameMem ..).keeps.fst ‹_›
    refine State.keeps.trans ?_ (setTbar_keeps _ _ _ _)
    split
    · exact ((meetRead_sameMem ..).keeps.fst ‹_›).trans (noArrivals_keeps _ _ _ _)
    · exact (meetRead_sameMem ..).keeps.fst ‹_›
  · exact holdFault_keeps _ _ _ _ _
theorem endCopy_keeps (s : State) (key : Nat) (k : Copy) : (endCopy s key k).keeps s := by
  unfold endCopy
  refine Got.keeps_bind ?_ fun t _ _ => ?_
  · split
    · exact State.keeps_refl _
    · exact mxFollow_keeps _ _ _ _
  · have hc := copyCommit_keeps t k
    dsimp only
    split
    · exact State.keeps.ok <| (hc.trans (copyFault_keeps _ _ _)).trans (State.sameMem.keeps ⟨rfl, rfl, rfl, rfl⟩)
    split
    · rename_i tok _
      exact State.keeps.ok <| (hc.trans (endToken_keeps _ k.blk k.crew tok none)).trans
        (State.sameMem.keeps ⟨rfl, rfl, rfl, rfl⟩)
    · exact State.keeps.ok <| hc.trans (State.sameMem.keeps ⟨rfl, rfl, rfl, rfl⟩)
theorem execStreamerCopyComplete_keeps (b k : Nat) (s : State) : Out.keeps s (execStreamerCopyComplete b k s) := by
  unfold execStreamerCopyComplete
  split
  · split
    · split
      · refine (State.keeps.trans ?_ (copyFault_keeps _ _ _)).next
        split
        · refine State.keeps.trans ?_ (copyCommit_keeps _ _)
          exact State.sameMem.keeps ⟨rfl, rfl, rfl, rfl⟩
        · exact State.sameMem.keeps ⟨rfl, rfl, rfl, rfl⟩
      · split
        · split
          · exact ((endCopy_keeps _ _ _).ok ‹_›).next
          · exact ((endCopy_keeps _ _ _).wait ‹_›).ifAsked
          · exact (((endCopy_keeps _ _ _).fail ‹_›).trans (fatalBlock_sameMem ..).keeps).next
        · exact notEnabled_keeps _ _
    · exact notEnabled_keeps _ _
  · exact notEnabled_keeps _ _
theorem execCtok_keeps (x : StreamOps) (s : State) : Out.keeps s (execCtok x s) := by
  unfold execCtok
  refine issue_keeps (fun _ _ => perCrew_keeps _ _ ?_) _ _
  split
  · exact trapAt_keeps _ _ _ _ _
  · exact ((setBlock_sameMem ..).keeps.trans (finishIssue_sameMem ..).keeps).next
theorem cwaitEnd_keeps (s : State) (b c : Nat) (i : Instr) (pc act : Word) (t : Token) :
    s.keeps (cwaitEnd s b c i pc act t) := by
  unfold cwaitEnd
  dsimp only
  split
  · refine State.keeps.trans ?_ (resume_sameMem ..).keeps
    exact State.sameMem.keeps ⟨rfl, rfl, rfl, rfl⟩
  split
  · exact State.sameMem.keeps ⟨rfl, rfl, rfl, rfl⟩
  refine (State.keeps.trans ?_ (setCrew_sameMem ..).keeps).trans (raise_sameMem ..).keeps
  exact State.sameMem.keeps ⟨rfl, rfl, rfl, rfl⟩
theorem execCwait_keeps (x : StreamOps) (s : State) : Out.keeps s (execCwait x s) := by
  unfold execCwait
  refine issue_keeps (fun _ _ => perCrew_keeps _ _ ?_) _ _
  split
  · exact trapAt_keeps _ _ _ _ _
  refine State.keeps.next ?_
  split
  · exact (waitAt_keeps _ _ _).trans (cwaitEnd_keeps _ _ _ _ _ _ _)
  · exact waitAt_keeps _ _ _
theorem execCwaitComplete_keeps (b c : Nat) (s : State) : Out.keeps s (execCwaitComplete b c s) := by
  unfold execCwaitComplete
  split
  · split
    · split
      · exact (cwaitEnd_keeps _ _ _ _ _ _ _).next
      · exact notEnabled_keeps _ _
    · exact notEnabled_keeps _ _
  · exact notEnabled_keeps _ _
theorem execPref_keeps (x : StreamOps) (s : State) : Out.keeps s (execPref x s) := by
  unfold execPref
  refine issue_keeps (fun _ _ => perCrew_keeps _ _ ?_) _ _
  dsimp only
  split
  · exact trapAt_keeps _ _ _ _ _
  split
  · exact trapAt_keeps _ _ _ _ _
  split
  · exact (State.keeps_refl _).next
  · exact ((take_keeps _).trans (setDie_sameMem ..).keeps).out (complete_keeps _ _ _)

/-! ### Machine/Far -/

theorem released_keeps (s : State) (x : Block) (b c scope : Nat) : s.keeps (s.released x b c scope).1 := by
  unfold State.released
  dsimp only
  split
  · exact State.keeps_refl _
  · split
    · dsimp only
      exact (noOlds_sameMem ..).keeps
    · split
      · dsimp only
        exact (writeThrough_keeps _ _ _).trans (noOlds_sameMem ..).keeps
      · dsimp only
        exact writeThrough_keeps _ _ _
theorem resumeFault_keeps (s : State) (b c : Nat) (i : Instr) (pc act : Word) (t : Trap) :
    s.keeps (s.resumeFault b c i pc act t) := by
  unfold State.resumeFault
  split
  · exact State.keeps_refl _
  · exact (setCrew_sameMem ..).keeps.trans (raise_sameMem ..).keeps
theorem endRelease_keeps (s : State) (b c : Nat) (i : Instr) (pc act : Word) : s.keeps (endRelease s b c i pc act) := by
  unfold endRelease
  split
  · exact State.keeps_refl _
  split
  · exact (resume_sameMem ..).keeps
  · exact (setCrew_sameMem ..).keeps.trans (resumeFault_keeps _ _ _ _ _ _ _)
theorem fenceStep_keeps (s : State) (x : Block) (b c : Nat) (f : XOps) (pc act : Word) :
    s.keeps (fenceStep s x b c f pc act).1 := by
  unfold fenceStep
  dsimp only
  split
  · dsimp only
    split
    · dsimp only
      refine State.keeps.trans ?_ (resume_sameMem ..).keeps
      split
      · exact selfInvalidate_keeps _ _ _
      · exact State.keeps_refl _
    · exact State.keeps_refl _
  · split
    · dsimp only
      refine State.keeps.trans ?_ (endRelease_keeps _ _ _ _ _ _)
      split
      · exact (released_keeps _ _ _ _ _).trans (selfInvalidate_keeps _ _ _)
      · exact released_keeps _ _ _ _ _
    · dsimp only
      exact released_keeps _ _ _ _ _
theorem execFence_keeps (x : XOps) (s : State) : Out.keeps s (execFence x s) := by
  unfold execFence
  refine issue_keeps (fun _ _ => perCrew_keeps _ _ ?_) _ _
  split
  · refine afterQueue_keeps _ _ _ (fun _ _ => ?_)
    exact ((waitAt_keeps _ _ _).trans (fenceStep_keeps _ _ _ _ _ _ _)).next
  · exact ((waitAt_keeps _ _ _).trans (fenceStep_keeps _ _ _ _ _ _ _)).next
theorem execFenceComplete_keeps (b c : Nat) (s : State) : Out.keeps s (execFenceComplete b c s) := by
  unfold execFenceComplete
  split
  · split
    · exact ((fenceStep_keeps _ _ _ _ _ _ _).fst ‹_›).next
    · exact ((fenceStep_keeps _ _ _ _ _ _ _).fst ‹_›).ifAsked
  · exact notEnabled_keeps _ _
theorem chainedRegions_keeps (x : Block) (loc n owner : Nat) (l : List (Nat × Region)) (s : State) :
    (chainedRegions x loc n owner l s).keeps s := by
  induction l generalizing s with
  | nil =>
    unfold chainedRegions
    exact (State.keeps_refl _).ok
  | cons x xs ih =>
    unfold chainedRegions
    split
    · exact ih _
    refine Got.keeps_bind (gread_keeps _ _ _ _) fun _ _ _ => ?_
    split
    exact Got.keeps_bind (ih _) fun _ _ _ => (State.keeps_refl _).ok
theorem farAll_keeps (e : Env) (x : FarOps) (l : List Nat) (s : State) : (farAll e x l s).keeps s := by
  induction l generalizing s with
  | nil =>
    unfold farAll
    exact (State.keeps_refl _).ok
  | cons x xs ih =>
    unfold farAll
    refine Got.keeps_bind ?_ fun _ _ _ => ?_
    · split
      · exact chainedRegions_keeps _ _ _ _ _ _
      · exact (State.keeps_refl _).ok
    · exact Got.keeps_bind (ih _) fun _ _ _ => (State.keeps_refl _).ok
theorem addFars_keeps (s : State) (fs : List Far) : s.keeps (s.addFars fs) := by
  unfold State.addFars
  refine foldl_keeps _ (fun _ _ => ?_) _ _
  exact State.sameMem.keeps ⟨rfl, rfl, rfl, rfl⟩
theorem execFatom_keeps (x : FarOps) (s : State) : Out.keeps s (execFatom x s) := by
  unfold execFatom
  refine issue_keeps (fun _ _ => perCrew_keeps _ _ ?_) _ _
  split
  · exact trapAt_keeps _ _ _ _ _
  split
  · exact trapAt_keeps _ _ _ _ _
  split
  · exact trapAt_keeps _ _ _ _ _
  refine gotAt_keeps _ ?_ (fun _ _ => ?_)
  · exact farAll_keeps _ _ _ _
  · dsimp only
    split
    · exact (((defer_sameMem ..).keeps.trans (addFars_keeps _ _)).trans (finishIssue_sameMem ..).keeps).next
    · exact (addFars_keeps _ _).out (complete_keeps _ _ _)
theorem farReturn_keeps (s : State) (f : Far) (old : Nat) (fl : Flags) : s.keeps (farReturn s f old fl) := by
  unfold farReturn
  dsimp only
  split
  · exact State.keeps_refl _
  · exact fillCrew_keeps _ _ _ _ _
theorem farFault_keeps (s : State) (f : Far) (t : Trap) : s.keeps (farFault s f t) := by
  unfold farFault
  dsimp only
  split
  · exact fillCrew_keeps _ _ _ _ _
  · exact holdFault_keeps _ _ _ _ _
theorem execFarAtomicPerform_keeps (b c k : Nat) (s : State) : Out.keeps s (execFarAtomicPerform b c k s) := by
  unfold execFarAtomicPerform
  split
  · split
    · split
      · rename_i t old h
        have hg := (gatomic_keeps _ _ _ _ _ _ _ _).ok h
        have hf : t.keeps { t.forget (2 * k) with fars := dropAt (t.forget (2 * k)).fars k } := State.sameMem.keeps
          ⟨rfl, rfl, rfl, rfl⟩
        exact ((hg.trans hf).trans (farReturn_keeps _ _ _ _)).next
      · exact ((gatomic_keeps _ _ _ _ _ _ _ _).wait ‹_›).ifAsked
      · rename_i t x h
        have hg := (gatomic_keeps _ _ _ _ _ _ _ _).fail h
        have hf : t.keeps { t with fars := dropAt t.fars k } := State.sameMem.keeps ⟨rfl, rfl, rfl, rfl⟩
        dsimp only
        split
        · exact ((hg.trans hf).trans (fatalBlock_sameMem ..).keeps).next
        · exact ((hg.trans hf).trans (farFault_keeps _ _ _)).next
    · exact notEnabled_keeps _ _
  · exact notEnabled_keeps _ _
theorem execChainedAtomicRelease_keeps (b c k : Nat) (s : State) : Out.keeps s (execChainedAtomicRelease b c k s) := by
  unfold execChainedAtomicRelease
  split
  · split
    · exact State.keeps.next (State.sameMem.keeps ⟨rfl, rfl, rfl, rfl⟩)
    · exact notEnabled_keeps _ _
  · exact notEnabled_keeps _ _
theorem execFwait_keeps (x : FarOps) (s : State) : Out.keeps s (execFwait x s) := by
  unfold execFwait
  refine issue_keeps (fun _ _ => perCrew_keeps _ _ ?_) _ _
  split
  · exact trapAt_keeps _ _ _ _ _
  split
  · exact trapAt_keeps _ _ _ _ _
  · exact (waitAt_keeps _ _ _).next
theorem execFwaitSatisfied_keeps (b c : Nat) (s : State) : Out.keeps s (execFwaitSatisfied b c s) := by
  unfold execFwaitSatisfied
  split
  · split
    · exact notEnabled_keeps _ _
    dsimp only
    split
    · split
      · split
        · exact ((((gread_keeps _ _ _ _).ok ‹_›).trans (forget_sameMem ..).keeps).trans (resume_sameMem ..).keeps).next
        split
        · exact (((gread_keeps _ _ _ _).ok ‹_›).trans (forget_sameMem ..).keeps).next
        · exact notEnabled_keeps _ _
      · split
        · exact ((((gread_keeps _ _ _ _).ok ‹_›).trans (forget_sameMem ..).keeps).trans (resume_sameMem ..).keeps).next
        split
        · exact (((gread_keeps _ _ _ _).ok ‹_›).trans (forget_sameMem ..).keeps).next
        · exact notEnabled_keeps _ _
    · exact ((gread_keeps _ _ _ _).wait ‹_›).ifAsked
    · split
      · exact (((gread_keeps _ _ _ _).fail ‹_›).trans (fatalBlock_sameMem ..).keeps).next
      · exact ((((gread_keeps _ _ _ _).fail ‹_›).trans (setCrew_sameMem ..).keeps).trans (resume_sameMem ..).keeps).next
  · exact notEnabled_keeps _ _
theorem resolveLines_keeps (a : Acc) (l : List Nat) (s : State) : (resolveLines a l s).keeps s := by
  induction l generalizing s with
  | nil =>
    unfold resolveLines
    exact (State.keeps_refl _).ok
  | cons x xs ih =>
    unfold resolveLines
    refine Got.keeps_bind (resolve_keeps _ _ _) fun _ _ _ => ?_
    split
    exact Got.keeps_bind (ih _) fun _ _ _ => (State.keeps_refl _).ok
theorem lockLines_keeps (asid : Nat) (l : List Spot) (s : State) : (lockLines asid l s).keeps s := by
  induction l generalizing s with
  | nil =>
    unfold lockLines
    exact (State.keeps_refl _).ok
  | cons x xs ih =>
    unfold lockLines
    refine Got.keeps_bind (homeLine_keeps _ _ _ _ _ _) fun _ _ _ => ?_
    exact (putLine_sameMem ..).keeps.got (ih _)
theorem crossAll_keeps (a : Acc) (l : List Spot) (s : State) : (crossAll a l s).keeps s := by
  induction l generalizing s with
  | nil =>
    unfold crossAll
    exact (State.keeps_refl _).ok
  | cons x xs ih =>
    unfold crossAll
    split
    · exact ((reachHome_keeps _ _ _).ok ‹_›).got (ih _)
    · refine Got.keeps_bind (((reachHome_keeps _ _ _).wait ‹_›).got (ih _)) fun _ _ _ => ?_
      exact (State.keeps_refl _).wait
    · exact ((reachHome_keeps _ _ _).fail ‹_›).fail
theorem execL2lck_keeps (x : FarOps) (s : State) : Out.keeps s (execL2lck x s) := by
  unfold execL2lck
  refine issue_keeps (fun _ _ => perCrew_keeps _ _ ?_) _ _
  split
  · exact trapAt_keeps _ _ _ _ _
  split
  · exact trapAt_keeps _ _ _ _ _
  refine (State.keeps.trans ?_ (finishIssue_sameMem ..).keeps).next
  split
  · exact (defer_sameMem ..).keeps
  · exact (defer_sameMem ..).keeps.trans (setCrew_sameMem ..).keeps
theorem execL2lckComplete_keeps (b c : Nat) (s : State) : Out.keeps s (execL2lckComplete b c s) := by
  unfold execL2lckComplete
  split
  · split
    · split
      · dsimp only
        generalize hg : Got.bind _ _ = g
        have hk : g.keeps s := by
          rw [← hg]
          refine Got.keeps_bind (resolveLines_keeps _ _ _) fun t ps _ => ?_
          split
          · exact State.keeps_refl _
          split
          · rename_i h
            have hc := (crossAll_keeps _ _ _).ok h
            split
            · exact ((hc.trans ((lockLines_keeps _ _ _).ok ‹_›)).trans (forget_sameMem ..).keeps).ok
            · exact hc.wait
            · exact (hc.trans ((lockLines_keeps _ _ _).fail ‹_›)).fail
          · exact ((crossAll_keeps _ _ _).wait ‹_›).wait
          · exact ((crossAll_keeps _ _ _).fail ‹_›).fail
        split
        · exact ((hk.ok rfl).trans (endJob_sameMem ..).keeps).next
        · exact (hk.wait rfl).ifAsked
        split
        · exact ((hk.fail rfl).trans (fatalBlock_sameMem ..).keeps).next
        · exact ((hk.fail rfl).trans (endJob_sameMem ..).keeps).next
      · exact notEnabled_keeps _ _
    · exact notEnabled_keeps _ _
  · exact notEnabled_keeps _ _
theorem unlockLines_keeps (s : State) (asid : Nat) (ps : List Spot) : s.keeps (unlockLines s asid ps) := by
  unfold unlockLines
  exact foldl_keeps _ (fun _ _ => (setDie_sameMem ..).keeps) _ _
theorem unlockable_keeps (a : Acc) (l : List Nat) (s : State) : (unlockable a l s).keeps s := by
  induction l generalizing s with
  | nil =>
    unfold unlockable
    exact (State.keeps_refl _).ok
  | cons x xs ih =>
    unfold unlockable
    split
    · refine Got.keeps_bind (((resolve_keeps _ _ _).ok ‹_›).got (ih _)) fun _ _ _ => ?_
      split
      exact (State.keeps_refl _).ok
    · exact ((resolve_keeps _ _ _).wait ‹_›).wait
    · split
      · exact ((resolve_keeps _ _ _).fail ‹_›).fail
      refine Got.keeps_bind (((resolve_keeps _ _ _).fail ‹_›).got (ih _)) fun _ _ _ => ?_
      split
      exact (State.keeps_refl _).ok
theorem execL2ulk_keeps (x : FarOps) (s : State) : Out.keeps s (execL2ulk x s) := by
  unfold execL2ulk
  refine issue_keeps (fun _ _ => perCrew_keeps _ _ ?_) _ _
  split
  · exact trapAt_keeps _ _ _ _ _
  split
  · exact trapAt_keeps _ _ _ _ _
  dsimp only
  split
  · exact ((unlockable_keeps _ _ _).wait ‹_›).next
  · exact (((unlockable_keeps _ _ _).fail ‹_›).trans (raiseIssue_sameMem ..).keeps).next
  · exact (((unlockable_keeps _ _ _).ok ‹_›).trans (unlockLines_keeps _ _ _)).out (complete_keeps _ _ _)
theorem gather_keeps {f : Nat → State → Got (List TlbEntry)} (hf : ∀ i s, (f i s).keeps s) (l : List Nat) (s : State) :
    (gather f l s).keeps s := by
  induction l generalizing s with
  | nil =>
    unfold gather
    exact (State.keeps_refl _).ok
  | cons x xs ih =>
    unfold gather
    refine Got.keeps_bind (hf _ _) fun _ _ _ => ?_
    exact Got.keeps_bind (ih _) fun _ _ _ => (State.keeps_refl _).ok
theorem leavesFrom_keeps (asid : Nat) (l : List Nat) (t va : Nat) (s : State) : (leavesFrom asid l t va s).keeps s := by
  induction l generalizing t va s with
  | nil =>
    unfold leavesFrom
    exact (State.keeps_refl _).ok
  | cons x xs ih =>
    unfold leavesFrom
    refine gather_keeps (fun _ _ => Got.keeps_bind (physRead_keeps _ _ _ _ _) fun _ _ _ => ?_) _ _
    split
    · exact (State.keeps_refl _).ok
    split
    · exact (State.keeps_refl _).ok
    · exact ih _ _ _
theorem publPages_keeps (s : State) (slot : Nat) (ps : List Nat) : (publPages s slot ps).keeps s := by
  unfold publPages
  split
  · exact (State.keeps_refl _).ok
  · exact Got.keeps_bind (leavesFrom_keeps _ _ _ _ _) fun _ _ _ => (State.keeps_refl _).ok
theorem execPubl_keeps (x : FarOps) (s : State) : Out.keeps s (execPubl x s) := by
  unfold execPubl
  refine issue_keeps (fun _ _ => perCrew_keeps _ _ ?_) _ _
  split
  · exact trapAt_keeps _ _ _ _ _
  refine beforeRead_keeps _ _ _ (fun _ _ => ?_)
  dsimp only
  split
  · exact (meetRead_sameMem ..).keeps.next
  split
  · exact (meetRead_sameMem ..).keeps.out (trapAt_keeps _ _ _ _ _)
  · exact ((meetRead_sameMem ..).keeps.trans (waitAt_keeps _ _ _)).next
theorem execPublFlip_keeps (b c : Nat) (s : State) : Out.keeps s (execPublFlip b c s) := by
  unfold execPublFlip
  split
  · split
    · exact notEnabled_keeps _ _
    split
    · exact ((released_keeps _ _ _ _ _).fst ‹_›).ifAsked
    split
    · exact notEnabled_keeps _ _
    · exact (((((released_keeps _ _ _ _ _).fst ‹_›).got (publPages_keeps _ _ _)).fail ‹_›).trans
        (fatalBlock_sameMem ..).keeps).next
    · split
      · exact (((((released_keeps _ _ _ _ _).fst ‹_›).got (publPages_keeps _ _ _)).ok ‹_›).trans
          (resumeFault_keeps _ _ _ _ _ _ _)).next
      · exact ((((((released_keeps _ _ _ _ _).fst ‹_›).got (publPages_keeps _ _ _)).ok ‹_›).trans
          (setCtx_sameMem ..).keeps).trans (endRelease_keeps _ _ _ _ _ _)).next
  · exact notEnabled_keeps _ _

/-! ### Machine/Cluster -/

theorem jobIssue_keeps (s : State) (e : Env) (i : Instr) (bytes : optParam (Option (List (List Byte))) none) :
    Out.keeps s (jobIssue s e i bytes) := by
  unfold jobIssue
  refine (State.keeps.trans ?_ (finishIssue_sameMem ..).keeps).next
  split
  · exact (defer_sameMem ..).keeps
  · exact (defer_sameMem ..).keeps.trans (setCrew_sameMem ..).keeps
theorem unitCheck_keeps (s : State) (x : Block) (die unit : Nat) {k : State → State} (hk : ∀ s : State, s.keeps (k s)) :
    s.keeps (unitCheck s x die unit k) := by
  unfold unitCheck
  dsimp only
  split
  · exact hk _
  split
  · exact (setDie_sameMem ..).keeps.trans (fatal_sameMem ..).keeps
  refine ((setDie_sameMem ..).keeps.trans (foldl_keeps _ (fun _ _ => ?_) _ _)).trans (hk _)
  exact (note_sameMem ..).keeps
theorem execCompact_keeps (x : CluOps) (s : State) : Out.keeps s (execCompact x s) := by
  unfold execCompact
  refine issue_keeps (fun _ _ => ?_) _ _
  exact ((setBlock_sameMem ..).keeps.trans (park_sameMem ..).keeps).next
theorem compacted_keeps (s : State) (b : Nat) (x : Block) (ps : List (Nat × Crew)) : s.keeps (compacted s b x ps) := by
  unfold compacted
  refine ((setBlock_sameMem ..).keeps.trans (joinJobs_keeps _ _ _)).trans (foldl_keeps _ (fun _ _ => ?_) _ _)
  exact (startDrain_sameMem ..).keeps
theorem execCompactComplete_keeps (b : Nat) (s : State) : Out.keeps s (execCompactComplete b s) := by
  unfold execCompactComplete
  split
  · exact notEnabled_keeps _ _
  dsimp only
  split
  · refine (unitCheck_keeps _ _ _ _ (fun _ => ?_)).next
    split
    · refine foldl_keeps _ (fun _ _ => ?_) _ _
      split
      · exact (failWait_sameMem ..).keeps
      · exact State.keeps_refl _
    · split
      · exact (meetStore_sameMem ..).keeps
      · exact (meetStore_sameMem ..).keeps.trans (compacted_keeps _ _ _ _)
  · exact notEnabled_keeps _ _
theorem execEnvrst_keeps (x : CluOps) (s : State) : Out.keeps s (execEnvrst x s) := by
  unfold execEnvrst
  refine issue_keeps (fun _ _ => addressed_keeps _ _ _ _ ?_) _ _
  refine beforeRead_keeps _ _ _ (fun _ _ => readable_keeps _ _ _ _ (fun _ => ?_))
  dsimp only
  split
  · exact trapAt_keeps _ _ _ _ _
  split
  · exact complete_keeps _ _ _
  · exact complete_keeps _ _ _
theorem execBpsort_keeps (x : CluOps) (s : State) : Out.keeps s (execBpsort x s) := by
  unfold execBpsort
  refine issue_keeps (fun _ _ => ?_) _ _
  exact perCrew_keeps _ _ (afterQueue_keeps _ _ _ (fun _ _ => jobIssue_keeps _ _ _ _))
theorem unitRead_keeps (s : State) (b c : Nat) (x : Block) (glob : Bool) (a n : Nat) :
    (unitRead s b c x glob a n).keeps s := by
  unfold unitRead
  split
  · refine Got.keeps_bind (gread_keeps _ _ _ _) fun _ _ _ => ?_
    split
    exact (State.keeps_refl _).ok
  split
  exact ((meetRead_sameMem ..).keeps.fst ‹_›).ok
theorem unitWrite_keeps (s : State) (b c : Nat) (x : Block) (glob : Bool) (a : Nat) (bs : List Byte) :
    (unitWrite s b c x glob a bs).keeps s := by
  unfold unitWrite
  split
  · exact (State.keeps_refl _).ok
  split
  · exact Got.keeps_bind (gwrite_keeps _ _ _ _) fun _ _ _ => (State.keeps_refl _).ok
  · exact (storeShare_sameMem ..).keeps.ok
theorem sortRun_keeps (s : State) (b c : Nat) (x : Block) (r : SortRec) (axis : Nat) :
    (sortRun s b c x r axis).keeps s := by
  unfold sortRun
  refine Got.keeps_bind (unitRead_keeps _ _ _ _ _ _ _) fun _ _ _ => ?_
  split
  · exact (State.keeps_refl _).ok
  refine Got.keeps_bind (unitWrite_keeps _ _ _ _ _ _ _) fun _ _ _ => ?_
  exact Got.keeps_bind (unitWrite_keeps _ _ _ _ _ _ _) fun _ _ _ => (State.keeps_refl _).ok
theorem jobGot_keeps {α : Type} (s : State) (b c : Nat) (m : String) {g : Got α} (hg : g.keeps s) {k : State → α → State}
    (hk : ∀ (s : State) x, s.keeps (k s x)) : Out.keeps s (jobGot s b c m g k) := by
  unfold jobGot
  split
  · exact (((hg.ok rfl).trans (forget_sameMem ..).keeps).trans (hk _ _)).next
  · exact (hg.wait rfl).ifAsked
  · exact ((hg.fail rfl).trans (fatalBlock_sameMem ..).keeps).next
theorem withJob_keeps (s : State) (b c : Nat) (m : String) (kind : Instr → Bool) {k : Block → Crew → Job → Out}
    (hk : ∀ x w j, Out.keeps s (k x w j)) : Out.keeps s (withJob s b c m kind k) := by
  unfold withJob
  split
  · exact notEnabled_keeps _ _
  split
  · exact notEnabled_keeps _ _
  split
  · exact notEnabled_keeps _ _
  split
  · exact hk _ _ _
  · exact notEnabled_keeps _ _
theorem withFirst_keeps (s : State) (b c : Nat) (m : String) (kind : Instr → Bool) {k : Block → Crew → Job → Out}
    (hk : ∀ x w j, Out.keeps s (k x w j)) : Out.keeps s (withFirst s b c m kind k) := by
  unfold withFirst
  refine withJob_keeps _ _ _ _ _ (fun _ _ _ => ?_)
  split
  · exact hk _ _ _
  · exact notEnabled_keeps _ _
theorem sortRecord_keeps (s : State) (b c : Nat) (x : Block) (a : Nat) : s.keeps (sortRecord s b c x a).1 := by
  unfold sortRecord
  dsimp only
  split
  · exact (meetRead_sameMem ..).keeps
  · exact State.keeps_refl _
theorem execBpsortJob_keeps (b c : Nat) (s : State) : Out.keeps s (execBpsortJob b c s) := by
  unfold execBpsortJob
  refine withFirst_keeps _ _ _ _ _ (fun _ _ _ => ?_)
  split
  · dsimp only
    split
    · exact ((sortRecord_keeps _ _ _ _ _).fst ‹_›).next
    split
    · exact notEnabled_keeps _ _
    split
    · refine (((sortRecord_keeps _ _ _ _ _).fst ‹_›).trans (unitCheck_keeps _ _ _ _ (fun _ => ?_))).next
      exact (endJob_sameMem ..).keeps
    refine ((sortRecord_keeps _ _ _ _ _).fst ‹_›).out (jobGot_keeps _ _ _ _ ?_ (fun _ _ => ?_))
    · exact sortRun_keeps _ _ _ _ _ _
    · refine unitCheck_keeps _ _ _ _ (fun _ => ?_)
      split
      · exact State.keeps_refl _
      · exact (endJob_sameMem ..).keeps
  · exact notEnabled_keeps _ _
theorem execBvht_keeps (x : CluOps) (s : State) : Out.keeps s (execBvht x s) := by
  unfold execBvht
  refine issue_keeps (fun _ _ => ?_) _ _
  exact perCrew_keeps _ _ (afterQueue_keeps _ _ _ (fun _ _ => jobIssue_keeps _ _ _ _))
theorem traverse_keeps {read : State → Nat → Got (Option Nat)} (hr : ∀ s k, (read s k).keeps s) (nnode q n : Nat)
    (l : List Todo) (hits : List Nat) (v : Nat) (s : State) : (traverse read nnode q n l hits v s).keeps s := by
  induction n generalizing l hits v s with
  | zero =>
    unfold traverse
    exact (State.keeps_refl _).ok
  | succ n ih =>
    match l with
    | [] =>
      rw [traverse]
      exact (State.keeps_refl _).ok
    | .hit p :: rest =>
      rw [traverse]
      exact ih _ _ _ _
    | .node k d :: rest =>
      rw [traverse]
      split
      · exact (State.keeps_refl _).ok
      split
      · exact (State.keeps_refl _).ok
      split
      · exact (State.keeps_refl _).ok
      refine Got.keeps_bind (hr _ _) fun _ _ _ => ?_
      split
      · exact (State.keeps_refl _).ok
      split
      · exact (State.keeps_refl _).ok
      · exact ih _ _ _ _
theorem bvhtLane_keeps (b c : Nat) (x : Block) (glob : Bool) (base nnode a : Nat) (s : State) :
    (bvhtLane b c x glob base nnode a s).keeps s := by
  unfold bvhtLane
  dsimp only
  split
  · split
    · exact (meetRead_sameMem ..).keeps.ok
    split
    · exact (meetRead_sameMem ..).keeps.ok
    split
    · exact (meetRead_sameMem ..).keeps.ok
    refine Got.keeps_bind ((meetRead_sameMem ..).keeps.got (traverse_keeps (fun _ _ => ?_) _ _ _ _ _ _ _)) fun _ _ _ => ?_
    · exact Got.keeps_bind (unitRead_keeps _ _ _ _ _ _ _) fun _ _ _ => (State.keeps_refl _).ok
    · exact (storeShare_sameMem ..).keeps.ok
  · split
    · exact (State.keeps_refl _).ok
    split
    · exact (State.keeps_refl _).ok
    split
    · exact (State.keeps_refl _).ok
    refine Got.keeps_bind (traverse_keeps (fun _ _ => ?_) _ _ _ _ _ _ _) fun _ _ _ => ?_
    · exact Got.keeps_bind (unitRead_keeps _ _ _ _ _ _ _) fun _ _ _ => (State.keeps_refl _).ok
    · exact (storeShare_sameMem ..).keeps.ok
theorem bvhtLanes_keeps (b c : Nat) (x : Block) (w : Crew) (y : CluOps) (l : List Nat) (s : State) :
    (bvhtLanes b c x w y l s).keeps s := by
  induction l generalizing s with
  | nil =>
    unfold bvhtLanes
    exact (State.keeps_refl _).ok
  | cons x xs ih =>
    unfold bvhtLanes
    refine Got.keeps_bind (bvhtLane_keeps _ _ _ _ _ _ _ _) fun _ _ _ => ?_
    exact Got.keeps_bind (ih _) fun _ _ _ => (State.keeps_refl _).ok
theorem execBvhtJob_keeps (b c : Nat) (s : State) : Out.keeps s (execBvhtJob b c s) := by
  unfold execBvhtJob
  refine withFirst_keeps _ _ _ _ _ (fun _ _ _ => ?_)
  split
  · refine jobGot_keeps _ _ _ _ ?_ (fun _ _ => ?_)
    · exact bvhtLanes_keeps _ _ _ _ _ _ _
    · refine unitCheck_keeps _ _ _ _ (fun _ => ?_)
      split
      · exact State.keeps_refl _
      · exact (endJob_sameMem ..).keeps
  · exact notEnabled_keeps _ _

/-! ### Machine/Optimiser -/

theorem optAccept_keeps (s : State) (b c : Nat) (i : Instr) (pc act : Word) (a : Nat) :
    Maybe.keeps s (optAccept s b c i pc act a) := by
  unfold optAccept
  split
  · exact Maybe.keeps_none _
  split
  · exact Maybe.keeps_none _
  dsimp only
  split
  · exact Maybe.keeps_none _
  split
  · exact (meetRead_sameMem ..).keeps.some
  split
  · exact ((meetRead_sameMem ..).keeps.trans (failWait_sameMem ..).keeps).some
  refine (State.keeps.trans ?_ (resume_sameMem ..).keeps).some
  exact ((meetRead_sameMem ..).keeps.trans (take_keeps _)).trans (State.sameMem.keeps ⟨rfl, rfl, rfl, rfl⟩)
theorem execOptsub_keeps (x : OptOps) (s : State) : Out.keeps s (execOptsub x s) := by
  unfold execOptsub
  refine issue_keeps (fun _ _ => perCrew_keeps _ _ ?_) _ _
  exact (((waitAt_keeps _ _ _).maybe (optAccept_keeps _ _ _ _ _ _ _)).getD (waitAt_keeps _ _ _)).next
theorem execOptsubAccept_keeps (b c : Nat) (s : State) : Out.keeps s (execOptsubAccept b c s) := by
  unfold execOptsubAccept
  split
  · split
    · exact ((optAccept_keeps _ _ _ _ _ _ _).of ‹_›).next
    · exact notEnabled_keeps _ _
  · exact notEnabled_keeps _ _
theorem execOptwaitComplete_keeps (b c : Nat) (s : State) : Out.keeps s (execOptwaitComplete b c s) := by
  unfold execOptwaitComplete
  refine withJob_keeps _ _ _ _ _ (fun _ _ _ => ?_)
  split
  · dsimp only
    split
    · exact (endJob_sameMem ..).keeps.next
    split
    · exact (endJob_sameMem ..).keeps.next
    · exact notEnabled_keeps _ _
  · exact notEnabled_keeps _ _
theorem optLoad_keeps (s : State) (x : Block) (key b : Nat) (j : OptJob) (d : Nat) : (optLoad s x key b j d).keeps s := by
  unfold optLoad
  dsimp only
  split
  · exact (State.keeps_refl _).ok
  refine Got.keeps_bind (gread_keeps _ _ _ _) fun _ _ _ => ?_
  split
  · exact (State.keeps_refl _).ok
  · exact Got.keeps_bind (gread_keeps _ _ _ _) fun _ _ _ => (State.keeps_refl _).ok
theorem optLoads_keeps (x : Block) (key b : Nat) (l : List Nat) (s : State) (j : OptJob) :
    (optLoads x key b l s j).keeps s := by
  induction l generalizing s j with
  | nil =>
    unfold optLoads
    exact (State.keeps_refl _).ok
  | cons x xs ih =>
    unfold optLoads
    refine Got.keeps_bind (optLoad_keeps _ _ _ _ _ _) fun _ _ _ => ?_
    split
    refine Got.keeps_bind (ih _ _) fun _ _ _ => ?_
    split
    exact (State.keeps_refl _).ok
theorem optWrite_keeps (x : Block) (key : Nat) (s : State) (j : OptJob) (w : Nat × List Byte) :
    (optWrite x key s j w).keeps s := by
  unfold optWrite
  exact Got.keeps_bind (gwrite_keeps _ _ _ _) fun _ _ _ => (forget_sameMem ..).keeps.ok
theorem optBlock_keeps (x : Block) (key : Nat) (s : State) (j : OptJob) : (optBlock x key s j).keeps s := by
  unfold optBlock
  refine Got.keeps_bind (optLoads_keeps _ _ _ _ _ _) fun _ _ _ => ?_
  split
  exact (forget_sameMem ..).keeps.ok
theorem optRun_keeps (x : Block) (key : Nat) (s : State) (j : OptJob) : (optRun x key s j).keeps s := by
  unfold optRun
  split
  · exact optWrite_keeps _ _ _ _ _
  · exact optBlock_keeps _ _ _ _
theorem execOptimiserCheckpoint_keeps (k : Nat) (s : State) : Out.keeps s (execOptimiserCheckpoint k s) := by
  unfold execOptimiserCheckpoint
  split
  · exact notEnabled_keeps _ _
  split
  · exact notEnabled_keeps _ _
  split
  · split
    · rename_i t j h
      have ht : t.keeps { t with opts := put t.opts k j } := State.sameMem.keeps ⟨rfl, rfl, rfl, rfl⟩
      exact ((((optRun_keeps _ _ _ _).ok h).trans ht).trans (unitCheck_keeps _ _ _ _ State.keeps_refl)).next
    · exact ((optRun_keeps _ _ _ _).wait ‹_›).ifAsked
    · rename_i t _ h
      have hr := (optRun_keeps _ _ _ _).fail h
      have ht (o : List (Nat × OptJob)) : t.keeps { t with opts := o } := State.sameMem.keeps ⟨rfl, rfl, rfl, rfl⟩
      split
      · exact (hr.trans (fatalBlock_sameMem ..).keeps).next
      · exact ((hr.trans (ht _)).trans (holdFault_keeps _ _ _ _ _)).next
  · exact notEnabled_keeps _ _
theorem execOptimiserJobComplete_keeps (k : Nat) (s : State) : Out.keeps s (execOptimiserJobComplete k s) := by
  unfold execOptimiserJobComplete
  split
  · exact notEnabled_keeps _ _
  split
  · exact State.keeps.next (State.sameMem.keeps ⟨rfl, rfl, rfl, rfl⟩)
  · exact notEnabled_keeps _ _

/-! ### Machine/Queues -/

theorem setQueue_keeps (s : State) (id : Nat) (q : OQueue) : s.keeps (s.setQueue id q) := by
  unfold State.setQueue
  exact (setDie_sameMem ..).keeps
theorem queueChecked_keeps (s : State) (e : Env) (x : CluOps) (push nb : Bool) {k : Nat → Out}
  (hk : ∀ id, Out.keeps s (k id)) :
    Out.keeps s (queueChecked s e x push nb k) := by
  unfold queueChecked
  dsimp only
  split
  · exact trapAt_keeps _ _ _ _ _
  split
  · exact trapAt_keeps _ _ _ _ _
  split
  · exact trapAt_keeps _ _ _ _ _
  · exact hk _
theorem execQpush_keeps (x : CluOps) (s : State) : Out.keeps s (execQpush x s) := by
  unfold execQpush
  refine issue_keeps (fun _ _ => ?_) _ _
  refine perCrew_keeps _ _ (queueChecked_keeps _ _ _ _ _ (fun _ => ?_))
  split
  · exact readable_keeps _ _ _ _ (fun _ => jobIssue_keeps _ _ _ _)
  · exact jobIssue_keeps _ _ _ _
theorem pushPlace_keeps (s : State) (b c : Nat) (x : Block) (w : Crew) (j : Job) (y : CluOps) (id : Nat) (q : OQueue)
    (bs : List (List Byte)) :
    Maybe.keeps s (pushPlace s b c x w j y id q bs) := by
  unfold pushPlace
  dsimp only
  split
  · exact ((setQueue_keeps _ _ _).trans (endJob_sameMem ..).keeps).some
  · exact Maybe.keeps_none _
theorem execQpushPlace_keeps (b c : Nat) (s : State) : Out.keeps s (execQpushPlace b c s) := by
  unfold execQpushPlace
  refine withJob_keeps _ _ _ _ _ (fun _ _ _ => ?_)
  split
  · dsimp only
    split
    · exact notEnabled_keeps _ _
    split
    · split
      · exact ((pushPlace_keeps _ _ _ _ _ _ _ _ _ _).of ‹_›).next
      · exact notEnabled_keeps _ _
    split
    · exact (((drainQueue_keeps _ _ _).trans (meetRead_sameMem ..).keeps).fst ‹_›).next
    split
    · exact ((((drainQueue_keeps _ _ _).trans (meetRead_sameMem ..).keeps).fst ‹_›).trans (setCrew_sameMem ..).keeps).next
    · exact (((drainQueue_keeps _ _ _).trans (meetRead_sameMem ..).keeps).fst ‹_›).next
  · exact notEnabled_keeps _ _
theorem execQpushRound_keeps (x : CluOps) (s : State) : Out.keeps s (execQpushRound x s) := by
  unfold execQpushRound
  refine issue_keeps (fun _ _ => perCrew_keeps _ _ ?_) _ _
  dsimp only
  split
  · exact trapAt_keeps _ _ _ _ _
  split
  · exact skip_keeps _ _
  split
  · exact (setQueue_keeps _ _ _).out (complete_keeps _ _ _)
  · exact skip_keeps _ _
theorem popInto_keeps (s : State) (b c : Nat) (w : Crew) (a : Nat) (ps : List (Nat × OEntry)) :
    s.keeps (popInto s b c w a ps) := by
  unfold popInto
  exact foldl_keeps _ (fun _ _ => (storeShare_sameMem ..).keeps) _ _
theorem entryCheck_keeps (s : State) (x : Block) (die : Nat) (es : List OEntry) {k : State → State}
  (hk : ∀ s : State, s.keeps (k s)) :
    s.keeps (entryCheck s x die es k) := by
  unfold entryCheck
  split
  · exact (fatal_sameMem ..).keeps
  · exact (foldl_keeps _ (fun _ _ => (note_sameMem ..).keeps) _ _).trans (hk _)
theorem execQpop_keeps (x : CluOps) (s : State) : Out.keeps s (execQpop x s) := by
  unfold execQpop
  refine issue_keeps (fun _ _ => perCrew_keeps _ _ ?_) _ _
  refine queueChecked_keeps _ _ _ _ _ (fun _ => afterQueue_keeps _ _ _ (fun _ _ => ?_))
  split
  · exact jobIssue_keeps _ _ _ _
  split
  · exact skip_keeps _ _
  dsimp only
  split
  · exact (entryCheck_keeps _ _ _ _ (fun _ => State.keeps_refl _)).next
  refine ((setQueue_keeps _ _ _).trans (entryCheck_keeps _ _ _ _ (fun _ => ?_))).out (completeLater_keeps _ _ _ _)
  exact popInto_keeps _ _ _ _ _ _
theorem execQpopTake_keeps (b c : Nat) (s : State) : Out.keeps s (execQpopTake b c s) := by
  unfold execQpopTake
  refine withJob_keeps _ _ _ _ _ (fun _ _ _ => ?_)
  split
  · dsimp only
    split
    · exact notEnabled_keeps _ _
    split
    · refine ((setQueue_keeps _ _ _).trans (entryCheck_keeps _ _ _ _ (fun _ => ?_))).next
      exact (popInto_keeps _ _ _ _ _ _).trans (endJob_sameMem ..).keeps
    · exact notEnabled_keeps _ _
  · exact notEnabled_keeps _ _

/-! ### Machine/Solver -/

theorem frameOut_keeps (b c base w rows cols : Nat) (lower : Bool) (a : Sparse Nat) (s : State) :
    s.keeps (frameOut b c base w rows cols lower a s) := by
  unfold frameOut
  refine foldl_keeps _ (fun _ _ => foldl_keeps _ (fun _ _ => ?_) _ _) _ _
  split
  · exact State.keeps_refl _
  · exact (storeShare_sameMem ..).keeps
theorem solIssue_keeps (s : State) (i : Instr) (x : SolOps) (rhs : Bool) (nrhs : Nat) :
    Out.keeps s (solIssue s i x rhs nrhs) := by
  unfold solIssue
  refine issue_keeps (fun _ _ => perCrew_keeps _ _ (afterQueue_keeps _ _ _ (fun _ _ => ?_))) _ _
  split
  · exact trapAt_keeps _ _ _ _ _
  · exact jobIssue_keeps _ _ _ _
theorem solJob_keeps (s : State) (b c : Nat) (x : Block) (w : Crew) (j : Job) (o : SolOps) (rhs : Bool)
    {run : Trap ⊕ (Nat × (State → State))} (hrun : ∀ st f, run = .inr (st, f) → ∀ s : State, s.keeps (f s)) :
    Out.keeps s (solJob s b c x w j o rhs run) := by
  unfold solJob
  split
  · exact notEnabled_keeps _ _
  dsimp only
  split
  · exact (meetRead_sameMem ..).keeps.next
  refine ((meetRead_sameMem ..).keeps.trans (unitCheck_keeps _ _ _ _ fun t => ?_)).next
  split
  · exact (endJob_sameMem ..).keeps
  · exact (hrun _ _ rfl t).trans (endJob_sameMem ..).keeps
/-- What a factorisation that does not trap writes are scratchpad bytes. -/
theorem sfactRun_keeps {m : Sparse Byte} {b c : Nat} {w : Crew} {x : SolOps} {st : Nat} {f : State → State}
    (h : sfactRun m b c w x = .inr (st, f)) (s : State) : s.keeps (f s) := by
  unfold sfactRun at h
  dsimp only at h
  split at h
  · cases h
  split at h
  · cases h
  · cases h
    exact (frameOut_keeps _ _ _ _ _ _ _ _ _).trans (storeShare_sameMem ..).keeps
/-- What a solve that does not trap writes are scratchpad bytes. -/
theorem solveRun_keeps {m : Sparse Byte} {b c : Nat} {w : Crew} {x : SolOps} {adj : Bool} {st : Nat} {f : State → State}
    (h : solveRun m b c w x adj = .inr (st, f)) (s : State) : s.keeps (f s) := by
  unfold solveRun at h
  dsimp only at h
  split at h
  · cases h
  split at h
  · cases h
  split at h
  · cases h
  split at h
  · cases h
  · cases h
    have hx := frameOut_keeps b c
    dsimp only
    split
    · exact (hx _ _ _ _ _ _ _).trans (hx _ _ _ _ _ _ _)
    · exact hx _ _ _ _ _ _ _
theorem execSfactComplete_keeps (b c : Nat) (s : State) : Out.keeps s (execSfactComplete b c s) := by
  refine withJob_keeps _ _ _ _ _ fun x w j => ?_
  split
  · exact solJob_keeps _ _ _ _ _ _ _ _ fun _ _ => sfactRun_keeps
  · exact notEnabled_keeps _ _
theorem execSsolveComplete_keeps (b c : Nat) (s : State) : Out.keeps s (execSsolveComplete b c s) := by
  refine withJob_keeps _ _ _ _ _ fun x w j => ?_
  split
  · exact solJob_keeps _ _ _ _ _ _ _ _ fun _ _ => solveRun_keeps
  · exact notEnabled_keeps _ _
theorem execSadjComplete_keeps (b c : Nat) (s : State) : Out.keeps s (execSadjComplete b c s) := by
  refine withJob_keeps _ _ _ _ _ fun x w j => ?_
  split
  · exact solJob_keeps _ _ _ _ _ _ _ _ fun _ _ => solveRun_keeps
  · exact notEnabled_keeps _ _
theorem scribble_keeps (s : State) (b c a work n : Nat) : s.keeps (s.scribble b c a work n) := by
  unfold State.scribble
  exact (storeShare_sameMem ..).keeps.trans (storeShare_sameMem ..).keeps
theorem execSlsq_keeps (x : SolOps) (s : State) : Out.keeps s (execSlsq x s) := by
  unfold execSlsq
  refine issue_keeps (fun _ _ => perCrew_keeps _ _ (afterQueue_keeps _ _ _ (fun _ _ => ?_))) _ _
  dsimp only
  split
  · exact trapAt_keeps _ _ _ _ _
  split
  · exact trapAt_keeps _ _ _ _ _
  split
  · exact (State.keeps_refl _).next
  refine State.keeps.out ?_ (complete_keeps _ _ _)
  exact (take_keeps _).trans (State.sameMem.keeps ⟨rfl, rfl, rfl, rfl⟩)
theorem withSlsq_keeps (s : State) (k : Nat) (m : String) {f : Slsq → Block → Out} (hf : ∀ j x, Out.keeps s (f j x)) :
    Out.keeps s (withSlsq s k m f) := by
  unfold withSlsq
  split
  · exact notEnabled_keeps _ _
  split
  · exact notEnabled_keeps _ _
  split
  · exact hf _ _
  · exact notEnabled_keeps _ _
theorem execSlsqCheckpoint_keeps (k : Nat) (s : State) : Out.keeps s (execSlsqCheckpoint k s) := by
  unfold execSlsqCheckpoint
  refine withSlsq_keeps _ _ _ (fun _ _ => ?_)
  split
  · exact notEnabled_keeps _ _
  dsimp only
  split
  · exact (meetRead_sameMem ..).keeps.next
  refine ((meetRead_sameMem ..).keeps.trans (unitCheck_keeps _ _ _ _ (fun _ => ?_))).next
  split
  · split
    · exact (storeShare_sameMem ..).keeps.trans (State.sameMem.keeps ⟨rfl, rfl, rfl, rfl⟩)
    split
    · exact (storeShare_sameMem ..).keeps.trans (meetRead_sameMem ..).keeps
    refine (State.keeps.trans ?_ (scribble_keeps _ _ _ _ _ _)).trans (State.sameMem.keeps ⟨rfl, rfl, rfl, rfl⟩)
    split
    · exact ((storeShare_sameMem ..).keeps.trans (meetRead_sameMem ..).keeps).trans (setCtx_sameMem ..).keeps
    · exact (storeShare_sameMem ..).keeps.trans (meetRead_sameMem ..).keeps
  · exact (scribble_keeps _ _ _ _ _ _).trans (State.sameMem.keeps ⟨rfl, rfl, rfl, rfl⟩)
theorem lsqOutputs_keeps (j : Slsq) (r : LsqRec) (u : SlsqRun) (e : Nat) (s : State) : s.keeps (lsqOutputs j r u e s) := by
  unfold lsqOutputs
  refine State.keeps.trans ?_ (storeShare_sameMem ..).keeps
  split
  · exact State.keeps_refl _
  · exact (((storeShare_sameMem ..).keeps.trans (storeShare_sameMem ..).keeps).trans
      (storeShare_sameMem ..).keeps).trans (storeShare_sameMem ..).keeps
theorem execSlsqComplete_keeps (k : Nat) (s : State) : Out.keeps s (execSlsqComplete k s) := by
  unfold execSlsqComplete
  refine withSlsq_keeps _ _ _ (fun _ _ => ?_)
  split
  · split
    · refine (State.keeps.trans ?_ (lsqOutputs_keeps _ _ _ _ _)).next
      exact State.sameMem.keeps ⟨rfl, rfl, rfl, rfl⟩
    · exact notEnabled_keeps _ _
  · exact notEnabled_keeps _ _
theorem execSstat_keeps (x : SolOps) (s : State) : Out.keeps s (execSstat x s) := by
  unfold execSstat
  refine issue_keeps (fun _ _ => perCrew_keeps _ _ (afterQueue_keeps _ _ _ (fun _ _ => ?_))) _ _
  split
  · exact trapAt_keeps _ _ _ _ _
  · exact jobIssue_keeps _ _ _ _
theorem execSstatComplete_keeps (b c : Nat) (s : State) : Out.keeps s (execSstatComplete b c s) := by
  unfold execSstatComplete
  refine withJob_keeps _ _ _ _ _ (fun _ _ _ => ?_)
  split
  · dsimp only
    split
    · exact notEnabled_keeps _ _
    split
    · exact (meetRead_sameMem ..).keeps.next
    · exact ((meetRead_sameMem ..).keeps.trans (endJob_sameMem ..).keeps).next
  · exact notEnabled_keeps _ _

/-! ### Machine/Crews -/

theorem execResultReturn_keeps (b c k : Nat) (s : State) : Out.keeps s (execResultReturn b c k s) := by
  unfold execResultReturn
  split
  · split
    · split
      · exact (setCrew_sameMem ..).keeps.next
      · exact notEnabled_keeps _ _
    · exact notEnabled_keeps _ _
  · exact notEnabled_keeps _ _
theorem execUnpark_keeps (b c : Nat) (s : State) : Out.keeps s (execUnpark b c s) := by
  unfold execUnpark
  split
  · split
    · exact (unparkNow_sameMem ..).keeps.next
    · exact notEnabled_keeps _ _
  · exact notEnabled_keeps _ _
theorem execTrapEntry_keeps (b c : Nat) (s : State) : Out.keeps s (execTrapEntry b c s) := by
  unfold execTrapEntry
  split
  · split
    · exact (unparkNow_sameMem ..).keeps.next
    · exact notEnabled_keeps _ _
  · exact notEnabled_keeps _ _
theorem execRegsGrant_keeps (b c : Nat) (s : State) : Out.keeps s (execRegsGrant b c s) := by
  unfold execRegsGrant
  split
  · split
    · dsimp only
      split
      · exact notEnabled_keeps _ _
      split
      · split
        · exact ((setCrew_sameMem ..).keeps.trans (resume_sameMem ..).keeps).next
        split
        · exact (failWait_sameMem ..).keeps.next
        · exact notEnabled_keeps _ _
      · split
        · exact ((setCrew_sameMem ..).keeps.trans (resume_sameMem ..).keeps).next
        split
        · exact (failWait_sameMem ..).keeps.next
        · exact notEnabled_keeps _ _
    · exact notEnabled_keeps _ _
  · exact notEnabled_keeps _ _
theorem fatalDrain_keeps (s : State) (b c : Nat) (x : Block) (t : Trap) : s.keeps (s.fatalDrain b c x t) := by
  unfold State.fatalDrain
  exact (fatalBlock_sameMem ..).keeps
theorem commit_keeps (s : State) (gk : Nat) : s.keeps (s.commit gk) := by
  unfold State.commit
  split
  · exact State.keeps_refl _
  · exact (setGrid_sameMem ..).keeps
theorem retire_keeps (s : State) (b : Nat) : s.keeps (s.retire b) := by
  unfold State.retire
  split
  · exact State.keeps_refl _
  · exact ((setBlock_sameMem ..).keeps.trans (trigger_keeps _ _)).trans (commit_keeps _ _)
theorem execCrewDrainComplete_keeps (b c : Nat) (s : State) : Out.keeps s (execCrewDrainComplete b c s) := by
  unfold execCrewDrainComplete
  split
  · split
    · exact notEnabled_keeps _ _
    split
    · exact (fatalDrain_keeps _ _ _ _ _).next
    dsimp only
    split
    · refine (State.keeps.trans ?_ (setBlock_sameMem ..).keeps).next
      exact State.sameMem.keeps ⟨rfl, rfl, rfl, rfl⟩
    split
    · refine ((State.keeps.trans ?_ (setBlock_sameMem ..).keeps).trans (fatalDrain_keeps _ _ _ _ _)).next
      exact State.sameMem.keeps ⟨rfl, rfl, rfl, rfl⟩
    refine ((State.keeps.trans ?_ (setBlock_sameMem ..).keeps).trans (retire_keeps _ _)).next
    exact State.sameMem.keeps ⟨rfl, rfl, rfl, rfl⟩
  · exact notEnabled_keeps _ _

/-! ### Machine/Staging -/

theorem keepSides_keeps (s : State) (b : Nat) (store : Bool) (rs : List (Nat × Nat)) :
    s.keeps (s.keepSides b store rs).1 := by
  unfold State.keepSides
  dsimp only
  split
  · exact State.keeps_refl _
  · dsimp only
    exact (setBlock_sameMem ..).keeps
theorem regionLayout_keeps (s : State) (b lmem j : Nat) (r : Region) : (regionLayout s b lmem j r).keeps s := by
  unfold regionLayout
  split
  refine Got.keeps_bind (((keepSides_keeps _ _ _ _).fst ‹_›).got (gread_keeps _ _ _ _)) fun _ _ _ => ?_
  split
  split
  · exact (State.keeps_refl _).ok
  · exact (State.keeps_refl _).fail
theorem stageEntry_keeps (s : State) (b j : Nat) (r : Region) : (stageEntry s b j r).keeps s := by
  unfold stageEntry
  dsimp only
  split
  · exact (State.keeps_refl _).ok
  refine Got.keeps_bind (regionLayout_keeps _ _ _ _ _) fun _ _ _ => ?_
  refine Got.keeps_bind ((keepSides_keeps _ _ _ _).got (greadAll_keeps _ _ _)) fun _ _ _ => ?_
  refine Got.keeps_bind (greadAll_keeps _ _ _) fun _ _ _ => ?_
  exact ((forget_sameMem ..).keeps.trans (setBlock_sameMem ..).keeps).ok
theorem stageFrom_keeps (b : Nat) (l : List (Nat × Region)) (s : State) : (stageFrom b l s).keeps s := by
  induction l generalizing s with
  | nil =>
    unfold stageFrom
    exact (State.keeps_refl _).ok
  | cons x xs ih =>
    unfold stageFrom
    split
    · exact (State.keeps_refl _).ok
    dsimp only
    split
    · exact (setBlock_sameMem ..).keeps.got (ih _)
    split
    · exact (setBlock_sameMem ..).keeps.wait
    refine Got.keeps_bind ((setBlock_sameMem ..).keeps.got (stageEntry_keeps _ _ _ _)) fun _ _ _ => ?_
    exact ih _
theorem regionFault_keeps (s : State) (b j : Nat) (drain : Bool) (t : Trap) : s.keeps (regionFault s b j drain t) := by
  unfold regionFault
  split
  · exact State.keeps_refl _
  dsimp only
  split
  · exact (holdBlock_sameMem ..).keeps
  split
  · split
    · exact (fatal_sameMem ..).keeps
    · exact (fatalBlock_sameMem ..).keeps
  · exact (fatalBlock_sameMem ..).keeps
theorem startAcquire_keeps (s : State) (x : Block) : s.keeps (s.startAcquire x) := by
  unfold State.startAcquire
  split
  · exact selfInvalidate_keeps _ _ _
  · exact State.keeps_refl _
theorem State.keeps.ifMoved {s t u : State} {b : Nat} {m : String} (h : s.keeps u) : Out.keeps s (ifMoved t u b m) := by
  unfold Sys2Proof.Machine.ifMoved
  split
  · exact notEnabled_keeps _ _
  · exact h.next
theorem execStagingComplete_keeps (b : Nat) (s : State) : Out.keeps s (execStagingComplete b s) := by
  unfold execStagingComplete
  split
  · exact notEnabled_keeps _ _
  split
  · exact notEnabled_keeps _ _
  split
  · exact notEnabled_keeps _ _
  dsimp only
  split
  · refine State.keeps.next ?_
    split
    · exact ((setBlock_sameMem ..).keeps.got (stageFrom_keeps _ _ _)).ok ‹_›
    · exact ((((setBlock_sameMem ..).keeps.got (stageFrom_keeps _ _ _)).ok ‹_›).trans (startAcquire_keeps _ _)).trans
        (setBlock_sameMem ..).keeps
  · exact (((setBlock_sameMem ..).keeps.got (stageFrom_keeps _ _ _)).wait ‹_›).ifMoved
  · exact ((((setBlock_sameMem ..).keeps.got (stageFrom_keeps _ _ _)).fail ‹_›).trans (regionFault_keeps _ _ _ _ _)).next
theorem drainEntry_keeps (s : State) (b j : Nat) (r : Region) : (drainEntry s b j r).keeps s := by
  unfold drainEntry
  split
  · exact (State.keeps_refl _).ok
  refine Got.keeps_bind (regionLayout_keeps _ _ _ _ _) fun _ _ _ => ?_
  dsimp only
  split
  · exact (meetRead_sameMem ..).keeps.wait
  refine Got.keeps_bind (((meetRead_sameMem ..).keeps.trans (keepSides_keeps _ _ _ _)).got (gwriteAll_keeps _ _ _)) fun
    _ _ _ => ?_
  exact (forget_sameMem ..).keeps.ok
theorem drainFrom_keeps (b : Nat) (chained : Bool) (l : List (Nat × Region)) (s : State) :
    (drainFrom b chained l s).keeps s := by
  induction l generalizing s with
  | nil =>
    unfold drainFrom
    exact (State.keeps_refl _).ok
  | cons x xs ih =>
    unfold drainFrom
    split
    · exact (State.keeps_refl _).ok
    dsimp only
    split
    · refine Got.keeps_bind ((setBlock_sameMem ..).keeps.got (drainEntry_keeps _ _ _ _)) fun _ _ _ => ?_
      exact ih _
    · exact (setBlock_sameMem ..).keeps.got (ih _)
theorem dropWork_keeps (s : State) (b : Nat) : s.keeps (s.dropWork b) := by
  unfold State.dropWork
  exact State.sameMem.keeps ⟨rfl, rfl, rfl, rfl⟩
theorem endBlock_keeps (s : State) (b : Nat) (x : Block) : s.keeps (s.endBlock b x) := by
  unfold State.endBlock
  dsimp only
  split
  · exact (dropWork_keeps _ _).trans (dropBlock_sameMem ..).keeps
  · exact (((dropWork_keeps _ _).trans (dropBlock_sameMem ..).keeps).trans (setGrid_sameMem ..).keeps).trans
      (commit_keeps _ _)
theorem drainAll_keeps (b j : Nat) (chained : Bool) (x : Block) (s : State) : (drainAll b j chained x s).keeps s := by
  unfold drainAll
  refine Got.keeps_bind (drainFrom_keeps _ _ _ _) fun _ _ _ => ?_
  split
  · exact (State.keeps_refl _).ok
  dsimp only
  split
  · exact (setBlock_sameMem ..).keeps.wait
  · exact (setBlock_sameMem ..).keeps.got (drainFrom_keeps _ _ _ _)
theorem execDrainComplete_keeps (b : Nat) (s : State) : Out.keeps s (execDrainComplete b s) := by
  unfold execDrainComplete
  split
  · exact notEnabled_keeps _ _
  split
  · dsimp only
    split
    · exact notEnabled_keeps _ _
    split
    · exact (((drainAll_keeps _ _ _ _ _).ok ‹_›).trans (endBlock_keeps _ _ _)).next
    · split
      · exact ((drainAll_keeps _ _ _ _ _).wait ‹_›).next
      · exact ((drainAll_keeps _ _ _ _ _).wait ‹_›).ifMoved
    · exact (((drainAll_keeps _ _ _ _ _).fail ‹_›).trans (regionFault_keeps _ _ _ _ _)).next
  · exact notEnabled_keeps _ _
theorem completionWord_keeps (s : State) (slot owner va seq status : Nat) :
    (completionWord s slot owner va seq status).keeps s := by
  unfold completionWord
  exact Got.keeps_bind (gwrite_keeps _ _ _ _) fun _ _ _ => (forget_sameMem ..).keeps.ok
theorem systemRelease_keeps (s : State) (asid : Nat) : s.keeps (s.systemRelease asid).1 := by
  unfold State.systemRelease
  dsimp only
  exact (writeThrough_keeps _ _ _).trans (writeThrough_keeps _ _ _)
theorem execLaunchCompletion_keeps (grid : Nat) (s : State) : Out.keeps s (execLaunchCompletion grid s) := by
  unfold execLaunchCompletion
  split
  · exact notEnabled_keeps _ _
  dsimp only
  split
  · exact notEnabled_keeps _ _
  split
  · exact (systemRelease_keeps _ _).ifAsked
  split
  · refine State.keeps.next ?_
    split
    · exact (((((systemRelease_keeps _ _).got (completionWord_keeps _ _ _ _ _ _)).ok ‹_›).trans
        (setGrid_sameMem ..).keeps).trans (settleDeps_keeps _)).trans (sendVec_sameMem ..).keeps
    · exact ((((systemRelease_keeps _ _).got (completionWord_keeps _ _ _ _ _ _)).ok ‹_›).trans
        (setGrid_sameMem ..).keeps).trans (settleDeps_keeps _)
  · exact (((systemRelease_keeps _ _).got (completionWord_keeps _ _ _ _ _ _)).wait ‹_›).ifAsked
  · exact ((((systemRelease_keeps _ _).got (completionWord_keeps _ _ _ _ _ _)).fail ‹_›).trans
      (fatalDie_sameMem ..).keeps).next

/-! ### Machine/SaveArea -/

theorem queueOfState_keeps (b g0 : Nat) (old : List MCmd) (l : List (Nat × List Byte)) (x : Block) (s : State) :
    (queueOfState b g0 old l x s).keeps s := by
  induction l generalizing x s with
  | nil =>
    unfold queueOfState
    exact (State.keeps_refl _).ok
  | cons x xs ih =>
    unfold queueOfState
    split
    · exact (State.keeps_refl _).ok
    refine Got.keeps_bind ?_ fun _ _ _ => ?_
    · split
      · exact layoutOf_keeps _ _ _ _
      · exact (State.keeps_refl _).ok
    · dsimp only
      split
      · exact (State.keeps_refl _).ok
      · exact ih _ _

/-! ### Machine/Dispatcher -/

theorem savedGranules_keeps (s : State) (b : Nat) (x : Block) (g : Grid) : (savedGranules s b x g).keeps s := by
  unfold savedGranules
  refine Got.keeps_bind (greadAll_keeps _ _ _) fun _ _ _ => ?_
  split
  exact (State.keeps_refl _).ok
theorem unreserve_keeps (s : State) (gk i : Nat) : s.keeps (s.unreserve gk i) := by
  unfold State.unreserve
  exact State.sameMem.keeps ⟨rfl, rfl, rfl, rfl⟩
theorem servedGrid_keeps (s : State) (die gk i : Nat) : s.keeps (s.servedGrid die gk i) := by
  unfold State.servedGrid
  split
  · exact State.keeps_refl _
  refine (State.keeps.trans ?_ (setDie_sameMem ..).keeps).trans (unreserve_keeps _ _ _)
  split
  · split
    · exact (setGrid_sameMem ..).keeps.trans (setGrid_sameMem ..).keeps
    · exact (setGrid_sameMem ..).keeps
  · exact (setGrid_sameMem ..).keeps
theorem placeNew_keeps (s : State) (gk i : Nat) (g : Grid) (c : Nat × Nat × Nat) (qs : List Nat) :
    s.keeps (placeNew s gk i g c qs) := by
  unfold placeNew
  dsimp only
  exact (take_keeps _).trans (setBlock_sameMem ..).keeps
theorem rearrive_keeps (s : State) (b : Nat) : s.keeps (s.rearrive b) := by
  unfold State.rearrive
  exact State.sameMem.keeps ⟨rfl, rfl, rfl, rfl⟩
theorem restoreBlock_keeps (s : State) (b : Nat) (x : Block) (g : Grid) (c : Nat × Nat × Nat) (qs : List Nat) :
    (restoreBlock s b x g c qs).keeps s := by
  unfold restoreBlock
  refine Got.keeps_bind (gread_keeps _ _ _ _) fun _ _ _ => ?_
  split
  split
  · exact (State.keeps_refl _).fail
  refine Got.keeps_bind (greadAll_keeps _ _ _) fun _ _ _ => ?_
  split
  dsimp only
  split
  · exact (State.keeps_refl _).fail
  split
  · exact ((((forget_sameMem ..).keeps.trans (rearrive_keeps _ _)).trans (startAcquire_keeps _ _)).trans
      (setBlock_sameMem ..).keeps).ok
  refine Got.keeps_bind (queueOfState_keeps _ _ _ _ _ _) fun _ _ _ => ?_
  split
  · exact (State.keeps_refl _).fail
  · exact ((((forget_sameMem ..).keeps.trans (rearrive_keeps _ _)).trans (startAcquire_keeps _ _)).trans
      (setBlock_sameMem ..).keeps).ok
theorem requeue_keeps (s : State) (b : Nat) (x : Block) : s.keeps (s.requeue b x) := by
  unfold State.requeue
  dsimp only
  split
  · exact (dropWork_keeps _ _).trans (dropBlock_sameMem ..).keeps
  · exact ((dropWork_keeps _ _).trans (dropBlock_sameMem ..).keeps).trans (setGrid_sameMem ..).keeps
theorem giveWay_keeps (s : State) (p : Nat × Block) : s.keeps (giveWay s p) := by
  unfold giveWay
  split
  split
  · exact (setBlock_sameMem ..).keeps
  split
  · exact (setBlock_sameMem ..).keeps
  · exact requeue_keeps _ _ _
  · exact requeue_keeps _ _ _
  · exact State.keeps_refl _
theorem preempt_keeps (s : State) (gk i : Nat) (g : Grid) (gr : List (Nat × Nat)) (l : List (Nat × Nat × Nat)) :
    s.keeps (preempt s gk i g gr l) := by
  induction l generalizing s with
  | nil =>
    unfold preempt
    exact State.keeps_refl _
  | cons x xs ih =>
    unfold preempt
    dsimp only
    split
    · exact ih _
    · exact (foldl_keeps _ (fun _ _ => giveWay_keeps _ _) _ _).trans (setDie_sameMem ..).keeps
theorem preemptMore_keeps (s : State) (g : Grid) (gr : List (Nat × Nat)) (c : Nat × Nat × Nat) :
    s.keeps (preemptMore s g gr c) := by
  unfold preemptMore
  dsimp only
  split
  · exact State.keeps_refl _
  · exact foldl_keeps _ (fun _ _ => giveWay_keeps _ _) _ _
theorem askRoom_keeps (s : State) (gk i : Nat) (g : Grid) (gr : List (Nat × Nat)) : s.keeps (askRoom s gk i g gr) := by
  unfold askRoom
  split
  · exact preemptMore_keeps _ _ _ _
  · exact preempt_keeps _ _ _ _ _ _
/-- The state that a try to place a block leaves. -/
def Placed.state : Placed → State
  | .done s | .nowhere s | .wait s => s
theorem tryNew_keeps (s : State) (die gk i : Nat) (g : Grid) : s.keeps (tryNew s die gk i g).state := by
  unfold tryNew
  split
  · exact (placeNew_keeps _ _ _ _ _ _).trans (servedGrid_keeps _ _ _ _)
  · exact askRoom_keeps _ _ _ _ _
theorem trySaved_keeps (s : State) (die gk i : Nat) (g : Grid) (b : Nat) (x : Block) :
    s.keeps (trySaved s die gk i g b x).state := by
  unfold trySaved
  split
  · exact (savedGranules_keeps _ _ _ _).wait ‹_›
  · rename_i t _ h
    exact State.keeps.trans (t := t) ((savedGranules_keeps _ _ _ _).fail h) (fatalBlock_sameMem ..).keeps
  · rename_i t gr h
    have hg := (savedGranules_keeps _ _ _ _).ok h
    split
    · split
      · rename_i u _ h
        exact State.keeps.trans (t := u) (hg.trans ((restoreBlock_keeps _ _ _ _ _ _).ok h)) (servedGrid_keeps _ _ _ _)
      · exact hg.trans ((restoreBlock_keeps _ _ _ _ _ _).wait ‹_›)
      · rename_i u _ h
        exact State.keeps.trans (t := u) (hg.trans ((restoreBlock_keeps _ _ _ _ _ _).fail h))
          ((setBlock_sameMem ..).keeps.trans (fatalBlock_sameMem ..).keeps)
    · exact hg.trans (askRoom_keeps _ _ _ _ _)
theorem tryGrid_keeps (s : State) (die : Nat) (p : Nat × Grid) : s.keeps (tryGrid s die p).state := by
  unfold tryGrid
  split
  · exact State.keeps_refl _
  split
  · exact trySaved_keeps _ _ _ _ _ _ _
  · exact tryNew_keeps _ _ _ _ _
theorem tryGrids_keeps (die : Nat) (ks : List Nat) (s : State) : s.keeps (tryGrids die ks s).1 := by
  induction ks generalizing s with
  | nil => exact State.keeps_refl _
  | cons k ks ih =>
    unfold tryGrids
    split
    · exact ih _
    split
    · exact ih _
    rename_i g _ _
    have ht := tryGrid_keeps s die (k, g)
    split <;> rename_i h <;> rw [h] at ht
    · exact ht
    · exact ht.trans (ih _)
    · exact ht
theorem execDispatchDecision_keeps (die : Nat) (s : State) : Out.keeps s (execDispatchDecision die s) := by
  unfold execDispatchDecision
  dsimp only
  split
  · exact (tryGrids_keeps _ _ _).next
  · exact notEnabled_keeps _ _
theorem execAgeingInterval_keeps (grid : Nat) (s : State) : Out.keeps s (execAgeingInterval grid s) := by
  unfold execAgeingInterval
  split
  · split
    · exact (State.keeps_refl _).next
    · exact notEnabled_keeps _ _
  · exact notEnabled_keeps _ _
theorem execBlockAbort_keeps (b : Nat) (s : State) : Out.keeps s (execBlockAbort b s) := by
  unfold execBlockAbort
  split
  · split
    · split
      · exact (requeue_keeps _ _ _).next
      · exact notEnabled_keeps _ _
    split
    · exact (requeue_keeps _ _ _).next
    · exact notEnabled_keeps _ _
  · exact notEnabled_keeps _ _
theorem quieten_keeps (s : State) (b : Nat) (x : Block) : s.keeps (quieten s b x) := by
  unfold quieten
  dsimp only
  split
  · exact foldl_keeps _ (fun _ _ => drainQueue_keeps _ _ _) _ _
  · exact (foldl_keeps _ (fun _ _ => drainQueue_keeps _ _ _) _ _).trans (setBlock_sameMem ..).keeps
theorem execBlockSave_keeps (b : Nat) (s : State) : Out.keeps s (execBlockSave b s) := by
  unfold execBlockSave
  split
  · exact notEnabled_keeps _ _
  split
  · split
    · exact notEnabled_keeps _ _
    split
    · exact (quieten_keeps _ _ _).next
    split
    · exact notEnabled_keeps _ _
    split
    · exact (fatalBlock_sameMem ..).keeps.next
    · exact notEnabled_keeps _ _
    · dsimp only
      split
      · exact (((((gwriteAll_keeps _ _ _).ok ‹_›).trans (forget_sameMem ..).keeps).trans
          (noteErrs_sameMem ..).keeps).trans (setBlock_sameMem ..).keeps).next
      · exact ((gwriteAll_keeps _ _ _).wait ‹_›).ifAsked
      · exact (((gwriteAll_keeps _ _ _).fail ‹_›).trans (fatalBlock_sameMem ..).keeps).next
  · split
    · exact notEnabled_keeps _ _
    split
    · exact (quieten_keeps _ _ _).next
    split
    · exact notEnabled_keeps _ _
    split
    · exact (fatalBlock_sameMem ..).keeps.next
    · exact notEnabled_keeps _ _
    · dsimp only
      split
      · exact (((((gwriteAll_keeps _ _ _).ok ‹_›).trans (forget_sameMem ..).keeps).trans
          (noteErrs_sameMem ..).keeps).trans (setBlock_sameMem ..).keeps).next
      · exact ((gwriteAll_keeps _ _ _).wait ‹_›).ifAsked
      · exact (((gwriteAll_keeps _ _ _).fail ‹_›).trans (fatalBlock_sameMem ..).keeps).next
theorem execSaveDeadlineExceeded_keeps (b : Nat) (s : State) : Out.keeps s (execSaveDeadlineExceeded b s) := by
  unfold execSaveDeadlineExceeded
  split
  · split
    · exact (fatalBlock_sameMem ..).keeps.next
    · exact notEnabled_keeps _ _
  · exact notEnabled_keeps _ _

/-! ### Machine/Link -/

theorem sendFab_keeps (s : State) (die asid dst : Nat) (m : FabMsg) : s.keeps (s.sendFab die asid dst m) := by
  unfold State.sendFab State.take
  dsimp only
  split
  · exact State.sameMem.keeps ⟨rfl, rfl, rfl, rfl⟩
  split
  · exact State.sameMem.keeps ⟨rfl, rfl, rfl, rfl⟩
  · exact State.sameMem.keeps ⟨rfl, rfl, rfl, rfl⟩
theorem execFlitResend_keeps (k : Nat) (s : State) : Out.keeps s (execFlitResend k s) := by
  unfold execFlitResend
  split
  · split
    · exact notEnabled_keeps _ _
    refine (State.keeps.trans ?_ (note_sameMem ..).keeps).next
    exact State.sameMem.keeps ⟨rfl, rfl, rfl, rfl⟩
  · exact notEnabled_keeps _ _
theorem execPortDown_keeps (port : Nat) (s : State) : Out.keeps s (execPortDown port s) := by
  unfold execPortDown
  dsimp only
  split
  · refine (State.keeps.trans ?_ (foldl_keeps _ (fun _ _ => ?_) _ _)).next
    · exact State.sameMem.keeps ⟨rfl, rfl, rfl, rfl⟩
    · exact (fatalDie_sameMem ..).keeps
  · exact notEnabled_keeps _ _
theorem execDestinationUnreachable_keeps (k : Nat) (s : State) : Out.keeps s (execDestinationUnreachable k s) := by
  unfold execDestinationUnreachable
  split
  · refine (State.keeps.trans ?_ (fatalAsid_sameMem ..).keeps).next
    exact State.sameMem.keeps ⟨rfl, rfl, rfl, rfl⟩
  · exact notEnabled_keeps _ _
theorem sayGone_keeps (s : State) (slot : Nat) : s.keeps (s.sayGone slot) := by
  unfold State.sayGone
  refine foldl_keeps _ (fun _ _ => ?_) _ _
  split
  · exact sendFab_keeps _ _ _ _ _
  · exact State.keeps_refl _

/-! ### Machine/Launch -/

theorem refuse_keeps (s : State) (x : Cmd) : s.keeps (s.refuse x) := by
  unfold State.refuse
  exact State.sameMem.keeps ⟨rfl, rfl, rfl, rfl⟩
theorem bindProducer_keeps (s : State) (slot q seq gk : Nat) : s.keeps (s.bindProducer slot q seq gk) := by
  unfold State.bindProducer
  exact State.sameMem.keeps ⟨rfl, rfl, rfl, rfl⟩
theorem acceptLaunch_keeps (s : State) (slot q : Nat) (x : Cmd) : s.keeps (acceptLaunch s slot q x) := by
  unfold acceptLaunch
  dsimp only
  exact (((take_keeps _).trans (setGrid_sameMem ..).keeps).trans (bindProducer_keeps _ _ _ _ _)).trans (settleDeps_keeps _)
theorem takeLaunch_keeps (s : State) (slot q : Nat) (k : SubQ) (x : Cmd) : (takeLaunch s slot q k x).keeps s := by
  unfold takeLaunch
  refine Got.keeps_bind (gwriteAll_keeps _ _ _) fun _ _ _ => State.keeps.ok ?_
  split
  · exact ((forget_sameMem ..).keeps.trans (setCtx_sameMem ..).keeps).trans (refuse_keeps _ _)
  split
  · exact (forget_sameMem ..).keeps.trans (setCtx_sameMem ..).keeps
  · exact ((forget_sameMem ..).keeps.trans (setCtx_sameMem ..).keeps).trans (acceptLaunch_keeps _ _ _ _)
theorem execLaunch_keeps (sq : Nat) (x : Cmd) (s : State) : Out.keeps s (execLaunch sq x s) := by
  unfold execLaunch
  dsimp only
  split
  · exact notEnabled_keeps _ _
  split
  · exact notEnabled_keeps _ _
  split
  · exact ((gread_keeps _ _ _ _).wait ‹_›).ifAsked
  · exact (((gread_keeps _ _ _ _).fail ‹_›).trans (fatalDie_sameMem ..).keeps).next
  · split
    · exact notEnabled_keeps _ _
    split
    · exact (((((gread_keeps _ _ _ _).ok ‹_›).got (takeLaunch_keeps _ _ _ _ _)).ok ‹_›).trans
        (forget_sameMem ..).keeps).next
    · exact ((((gread_keeps _ _ _ _).ok ‹_›).got (takeLaunch_keeps _ _ _ _ _)).wait ‹_›).ifAsked
    · exact (((((gread_keeps _ _ _ _).ok ‹_›).got (takeLaunch_keeps _ _ _ _ _)).fail ‹_›).trans
        (fatalDie_sameMem ..).keeps).next
theorem readRegions_keeps (slot lmem list : Nat) (l : List Nat) (s : State) : (readRegions slot lmem list l s).keeps s := by
  induction l generalizing s with
  | nil =>
    unfold readRegions
    exact (State.keeps_refl _).ok
  | cons x xs ih =>
    unfold readRegions
    refine Got.keeps_bind (gread_keeps _ _ _ _) fun _ _ _ => ?_
    split
    dsimp only
    split
    · exact (State.keeps_refl _).fail
    refine Got.keeps_bind (gread_keeps _ _ _ _) fun _ _ _ => ?_
    split
    · exact (State.keeps_refl _).fail
    · exact Got.keeps_bind (ih _) fun _ _ _ => (State.keeps_refl _).ok
theorem readLaunch_keeps (s : State) (g : Grid) : (readLaunch s g).keeps s := by
  unfold readLaunch
  refine Got.keeps_bind (gread_keeps _ _ _ _) fun _ _ _ => ?_
  split
  dsimp only
  split
  · exact (State.keeps_refl _).fail
  refine Got.keeps_bind (gread_keeps _ _ _ _) fun _ _ _ => ?_
  split
  · exact (State.keeps_refl _).fail
  refine Got.keeps_bind (gread_keeps _ _ _ _) fun _ _ _ => ?_
  split
  · exact (State.keeps_refl _).fail
  · exact Got.keeps_bind (readRegions_keeps _ _ _ _ _) fun _ _ _ => (State.keeps_refl _).ok
theorem refuseLaunch_keeps (s : State) (k : Nat) (g : Grid) : (refuseLaunch s k g).keeps s := by
  unfold refuseLaunch
  refine Got.keeps_bind (completionWord_keeps _ _ _ _ _ _) fun _ _ _ => State.keeps.ok ?_
  split
  · refine State.keeps.trans ?_ (setGrid_sameMem ..).keeps
    exact State.sameMem.keeps ⟨rfl, rfl, rfl, rfl⟩
  · exact State.sameMem.keeps ⟨rfl, rfl, rfl, rfl⟩
theorem execHeadLaunchCheck_keeps (sq : Nat) (s : State) : Out.keeps s (execHeadLaunchCheck sq s) := by
  unfold execHeadLaunchCheck
  dsimp only
  split
  · exact notEnabled_keeps _ _
  split
  · exact notEnabled_keeps _ _
  split
  · exact ((readLaunch_keeps _ _).wait ‹_›).ifAsked
  · exact (((readLaunch_keeps _ _).fail ‹_›).trans (fatal_sameMem ..).keeps).next
  · split
    · split
      · exact (((((readLaunch_keeps _ _).ok ‹_›).got (refuseLaunch_keeps _ _ _)).ok ‹_›).trans
          (forget_sameMem ..).keeps).next
      · exact ((((readLaunch_keeps _ _).ok ‹_›).got (refuseLaunch_keeps _ _ _)).wait ‹_›).ifAsked
      · exact (((((readLaunch_keeps _ _).ok ‹_›).got (refuseLaunch_keeps _ _ _)).fail ‹_›).trans
          (fatalDie_sameMem ..).keeps).next
    · exact (((((readLaunch_keeps _ _).ok ‹_›).trans (forget_sameMem ..).keeps).trans (setGrid_sameMem ..).keeps).trans
        (settleDeps_keeps _)).next
theorem execHoldRecordWrite_keeps (slot : Nat) (s : State) : Out.keeps s (execHoldRecordWrite slot s) := by
  unfold execHoldRecordWrite
  dsimp only
  split
  · exact notEnabled_keeps _ _
  split
  · exact notEnabled_keeps _ _
  split
  · exact ((gread_keeps _ _ _ _).wait ‹_›).ifAsked
  · exact (((gread_keeps _ _ _ _).fail ‹_›).trans (fatalDie_sameMem ..).keeps).next
  · split
    · split
      · exact (((gread_keeps _ _ _ _).ok ‹_›).trans (forget_sameMem ..).keeps).next
      · exact notEnabled_keeps _ _
    split
    · exact ((((gread_keeps _ _ _ _).ok ‹_›).got (gwriteAll_keeps _ _ _)).wait ‹_›).ifAsked
    · exact (((((gread_keeps _ _ _ _).ok ‹_›).got (gwriteAll_keeps _ _ _)).fail ‹_›).trans (fatalDie_sameMem ..).keeps).next
    · exact ((((((((gread_keeps _ _ _ _).ok ‹_›).got (gwriteAll_keeps _ _ _)).ok ‹_›).trans
        (forget_sameMem ..).keeps).trans (forget_sameMem ..).keeps).trans (setCtx_sameMem ..).keeps).trans
          (sendVec_sameMem ..).keeps).next
theorem discard_keeps (s : State) (slot : Nat) : s.keeps (s.discard slot) := by
  unfold State.discard
  dsimp only
  have hf (l : List Nat) : s.keeps (l.foldl (fun s b => (s.dropWork b).dropBlock b) s) :=
    foldl_keeps _ (fun t b => (dropWork_keeps t b).trans (dropBlock_sameMem ..).keeps) _ _
  exact (hf _).trans (State.sameMem.keeps ⟨rfl, rfl, rfl, rfl⟩)
theorem endWrites_keeps (slot : Nat) (l : List (Nat × Nat × List Byte)) (s : State) : (endWrites slot l s).keeps s := by
  induction l generalizing s with
  | nil =>
    unfold endWrites
    exact (State.keeps_refl _).ok
  | cons x xs ih =>
    unfold endWrites
    split
    · exact ((gwrite_keeps _ _ _ _).ok ‹_›).got (ih _)
    · exact ((gwrite_keeps _ _ _ _).fail ‹_›).got (ih _)
    · exact ((gwrite_keeps _ _ _ _).wait ‹_›).wait
theorem ringRecords_keeps (slot : Nat) (l : List (Nat × Nat × Nat)) (s : State) : (ringRecords slot l s).keeps s := by
  induction l generalizing s with
  | nil =>
    unfold ringRecords
    exact (State.keeps_refl _).ok
  | cons x xs ih =>
    unfold ringRecords
    split
    · exact ((gread_keeps _ _ _ _).wait ‹_›).wait
    · exact ((gread_keeps _ _ _ _).fail ‹_›).got (ih _)
    · refine Got.keeps_bind (((gread_keeps _ _ _ _).ok ‹_›).got (ih _)) fun _ _ _ => ?_
      exact (State.keeps_refl _).ok
theorem execContextStopComplete_keeps (slot : Nat) (s : State) : Out.keeps s (execContextStopComplete slot s) := by
  unfold execContextStopComplete
  split
  · exact notEnabled_keeps _ _
  generalize hg : Got.bind _ _ = g
  have hk : g.keeps s := by
    rw [← hg]
    exact Got.keeps_bind (ringRecords_keeps _ _ _) fun _ _ _ => endWrites_keeps _ _ _
  split
  · exact (hk.wait rfl).ifAsked
  · exact (hk.fail rfl).next
  · exact (((((hk.ok rfl).trans (sayGone_keeps _ _)).trans (discard_keeps _ _)).trans (forget_sameMem ..).keeps).trans
      ((setCtx_sameMem ..).keeps.trans (sendVec_sameMem ..).keeps)).next

/-! ### Machine/Package -/

theorem setMiss_keeps (s : State) (die k : Nat) (m : Miss) : s.keeps (s.setMiss die k m) := by
  unfold State.setMiss
  exact (setDie_sameMem ..).keeps
theorem execTranslationWalk_keeps (die k : Nat) (s : State) : Out.keeps s (execTranslationWalk die k s) := by
  unfold execTranslationWalk
  split
  · split
    · exact notEnabled_keeps _ _
    split
    · exact (((resolve_keeps _ _ _).ok ‹_›).trans (setMiss_keeps _ _ _ _)).next
    · exact notEnabled_keeps _ _
    · exact (((resolve_keeps _ _ _).fail ‹_›).trans (setMiss_keeps _ _ _ _)).next
  · exact notEnabled_keeps _ _
theorem execLineFill_keeps (die k : Nat) (s : State) : Out.keeps s (execLineFill die k s) := by
  unfold execLineFill
  split
  · split
    · exact notEnabled_keeps _ _
    dsimp only
    split
    · split
      · exact (((resolve_keeps _ _ _).ok ‹_›).trans (setMiss_keeps _ _ _ _)).next
      split
      · exact ((((((resolve_keeps _ _ _).ok ‹_›).got (readLine_keeps _ _ _)).ok ‹_›).trans
          (endAsk_sameMem ..).keeps).trans (setMiss_keeps _ _ _ _)).next
      · split
        · exact (((((resolve_keeps _ _ _).ok ‹_›).got (readLine_keeps _ _ _)).wait ‹_›).trans (setMiss_keeps _ _ _ _)).next
        · exact ((((resolve_keeps _ _ _).ok ‹_›).got (readLine_keeps _ _ _)).wait ‹_›).ifAsked
      · exact (((((resolve_keeps _ _ _).ok ‹_›).got (readLine_keeps _ _ _)).fail ‹_›).trans (setMiss_keeps _ _ _ _)).next
    · exact notEnabled_keeps _ _
    · exact (((resolve_keeps _ _ _).fail ‹_›).trans (setMiss_keeps _ _ _ _)).next
  · exact notEnabled_keeps _ _
theorem execRdcEviction_keeps (die line : Nat) (s : State) : Out.keeps s (execRdcEviction die line s) := by
  unfold execRdcEviction
  split
  · split
    · exact ((evict_keeps _ _ _ _).ok ‹_›).next
    · exact notEnabled_keeps _ _
  · exact notEnabled_keeps _ _
theorem noteRetries_keeps (s : State) (src asid n : Nat) : s.keeps (s.noteRetries src asid n) := by
  induction n generalizing s with
  | zero =>
    unfold State.noteRetries
    exact State.keeps_refl _
  | succ n ih =>
    unfold State.noteRetries
    exact (note_sameMem ..).keeps.trans (ih _)
theorem arrive_keeps (s : State) (k : Nat) (m : D2d) : (arrive s k m).keeps s := by
  unfold arrive
  split
  · exact State.keeps.ok (State.sameMem.keeps ⟨rfl, rfl, rfl, rfl⟩)
  · exact deliver_keeps _ _ _
theorem execDieToDieTransfer_keeps (k : Nat) (s : State) : Out.keeps s (execDieToDieTransfer k s) := by
  unfold execDieToDieTransfer
  split
  · split
    · exact notEnabled_keeps _ _
    split
    · exact (((noteRetries_keeps _ _ _ _).got (arrive_keeps _ _ _)).ok ‹_›).next
    · exact notEnabled_keeps _ _
    · exact ((((noteRetries_keeps _ _ _ _).got (arrive_keeps _ _ _)).fail ‹_›).trans (fatalAsid_sameMem ..).keeps).next
  · exact notEnabled_keeps _ _
theorem execWriteThroughAck_keeps (k : Nat) (s : State) : Out.keeps s (execWriteThroughAck k s) := by
  unfold execWriteThroughAck
  split
  · split
    · exact State.keeps.next ((noteRetries_keeps _ _ _ _).trans (State.sameMem.keeps ⟨rfl, rfl, rfl, rfl⟩))
    · exact notEnabled_keeps _ _
  · exact notEnabled_keeps _ _
theorem execDieToDieTransferFailed_keeps (k : Nat) (s : State) : Out.keeps s (execDieToDieTransferFailed k s) := by
  unfold execDieToDieTransferFailed
  split
  · split
    · exact notEnabled_keeps _ _
    refine State.keeps.next (((noteRetries_keeps _ _ _ _).trans (foldl_keeps _ (fun _ _ => ?_) _ _)).trans
      (State.sameMem.keeps ⟨rfl, rfl, rfl, rfl⟩))
    exact (fatalAsid_sameMem ..).keeps
  · exact notEnabled_keeps _ _
theorem execDieToDieRetrainingComplete_keeps (s : State) : Out.keeps s (execDieToDieRetrainingComplete s) := by
  unfold execDieToDieRetrainingComplete
  split
  · exact State.keeps.next (State.sameMem.keeps ⟨rfl, rfl, rfl, rfl⟩)
  · exact notEnabled_keeps _ _
theorem physWrite_keeps (s : State) (pa : Nat) (bs : List Byte) : s.keeps (physWrite s pa bs) := by
  unfold physWrite
  exact foldl_keeps _ (fun _ _ => dramWrite_keeps _ _ _ _ _) _ _
/-- A table in the canonical form keeps it when entries are dropped. -/
theorem tableWf_filter {α : Type} [DecidableEq α] {d : α} {m : Sparse α} (h : tableWf d m = true) (p : Nat × α → Bool) :
    tableWf d (m.filter p) = true := by
  rw [tableWf_iff] at h ⊢
  exact ⟨h.1.filter _, fun e he => h.2 e (List.mem_of_mem_filter he)⟩
theorem cleanFrame_keeps (s : State) (die f : Nat) : s.keeps (cleanFrame s die f) := by
  unfold cleanFrame
  refine State.keeps.trans ?_ (foldl_keeps _ (fun _ _ => (noteMem_sameMem ..).keeps) _ _)
  intro h
  rw [memOk_iff] at h ⊢
  obtain ⟨hd, hh, hp, he⟩ := h
  exact ⟨hd, hh, hp, tableWf_filter he _⟩
theorem execSwap_keeps (die k : Nat) (s : State) : Out.keeps s (execSwap die k s) := by
  unfold execSwap
  dsimp only
  split
  · exact notEnabled_keeps _ _
  split
  · exact notEnabled_keeps _ _
  split
  · split
    · exact (((setDie_sameMem ..).keeps.trans (noteMem_sameMem ..).keeps).trans (setDie_sameMem ..).keeps).next
    · exact (((((((setDie_sameMem ..).keeps.trans (noteMem_sameMem ..).keeps).trans (cleanFrame_keeps _ _ _)).trans
        (cleanFrame_keeps _ _ _)).trans (activate_sameMem ..).keeps).trans (setDie_sameMem ..).keeps).trans
          (activate_sameMem ..).keeps).next
  split
  · exact (setDie_sameMem ..).keeps.next
  · exact (((((cleanFrame_keeps _ _ _).trans (cleanFrame_keeps _ _ _)).trans (activate_sameMem ..).keeps).trans
      (setDie_sameMem ..).keeps).trans (activate_sameMem ..).keeps).next
theorem execEpochHalving_keeps (die : Nat) (s : State) : Out.keeps s (execEpochHalving die s) := by
  unfold execEpochHalving
  dsimp only
  split
  · exact notEnabled_keeps _ _
  · exact (setDie_sameMem ..).keeps.next
theorem sweepRead_keeps (s : State) (pa n : Nat) : (sweepRead s pa n).keeps s := by
  unfold sweepRead
  split
  · exact ((physRead_keeps _ _ _ _ _).ok ‹_›).ok
  · exact ((physRead_keeps _ _ _ _ _).wait ‹_›).wait
  · exact ((physRead_keeps _ _ _ _ _).fail ‹_›).ok
theorem sweepEntry_keeps (s : State) (die : Nat) (w : Sweeper) (e : Option Nat) : s.keeps (sweepEntry s die w e) := by
  unfold sweepEntry
  dsimp only
  split
  · exact (setDie_sameMem ..).keeps.trans (physWrite_keeps _ _ _)
  split
  · exact (setDie_sameMem ..).keeps.trans (physWrite_keeps _ _ _)
  split
  · exact ((setDie_sameMem ..).keeps.trans (setDie_sameMem ..).keeps).trans (physWrite_keeps _ _ _)
  · exact (((physWrite_keeps _ _ _).trans (physWrite_keeps _ _ _)).trans (setDie_sameMem ..).keeps).trans
      (physWrite_keeps _ _ _)
theorem execSweeperStep_keeps (die : Nat) (s : State) : Out.keeps s (execSweeperStep die s) := by
  unfold execSweeperStep
  split
  · rename_i t head h
    have hr := (sweepRead_keeps _ _ _).ok h
    dsimp only
    split
    · exact notEnabled_keeps _ _
    split
    · rename_i u e h
      exact ((hr.trans ((sweepRead_keeps _ _ _).ok h)).trans (sweepEntry_keeps _ _ _ _)).next
    · exact notEnabled_keeps _ _
  · exact notEnabled_keeps _ _
theorem execRetrainingStart_keeps (die stack : Nat) (s : State) : Out.keeps s (execRetrainingStart die stack s) := by
  unfold execRetrainingStart
  dsimp only
  split
  · exact notEnabled_keeps _ _
  split
  · exact (noteMem_sameMem ..).keeps.next
  · exact (setDie_sameMem ..).keeps.next
theorem execRetrainingComplete_keeps (die stack : Nat) (s : State) : Out.keeps s (execRetrainingComplete die stack s) := by
  unfold execRetrainingComplete
  dsimp only
  split
  · exact (setDie_sameMem ..).keeps.next
  · exact notEnabled_keeps _ _
theorem snoopDie_keeps (s : State) (pa : Nat) (take : Bool) (die : Nat) : s.keeps (snoopDie s pa take die) := by
  unfold snoopDie
  refine foldl_keeps _ (fun _ _ => ?_) _ _
  split
  · exact (meetLine_keeps _ _ _ _).fst ‹_›
  dsimp only
  split
  · exact (((meetLine_keeps _ _ _ _).fst ‹_›).trans (writeBack_keeps _ _)).trans (dropLine_sameMem ..).keeps
  · exact (((meetLine_keeps _ _ _ _).fst ‹_›).trans (writeBack_keeps _ _)).trans (putLine_sameMem ..).keeps
/-- The host memory changes to one in the canonical form, and nothing else of the memories. -/
theorem State.keeps_of_hmem {s t : State} (hd : t.dmem = s.dmem) (hp : t.poison = s.poison) (he : t.ecc = s.ecc)
    (hh : Memory.wf s.hmem = true → Memory.wf t.hmem = true) : s.keeps t := by
  intro h
  rw [memOk_iff] at h ⊢
  obtain ⟨h1, h2, h3, h4⟩ := h
  exact ⟨hd ▸ h1, hh h2, hp ▸ h3, he ▸ h4⟩
theorem execHostSnoop_keeps (line : Nat) (take : Bool) (bytes : List (Nat × Byte)) (s : State) :
    Out.keeps s (execHostSnoop line take bytes s) := by
  unfold execHostSnoop
  split
  · exact notEnabled_keeps _ _
  dsimp only
  have hs := (snoopDie_keeps s (hostBase + 128 * line) take 0).trans (snoopDie_keeps _ (hostBase + 128 * line) take 1)
  split
  · refine State.keeps.next (hs.trans ?_)
    exact State.keeps_of_hmem rfl rfl rfl (wf_foldl _ (fun m _ => wf_setByte m _ _) _ _)
  · exact hs.next
theorem hostFail_keeps (s : State) (k : Nat) (r : HostReq) (reason : Nat) : s.keeps (hostFail s k r reason) := by
  unfold hostFail
  dsimp only
  split
  · exact State.sameMem.keeps ⟨rfl, rfl, rfl, rfl⟩
  refine State.keeps.trans ?_ (fatalDie_sameMem ..).keeps
  exact State.sameMem.keeps ⟨rfl, rfl, rfl, rfl⟩
theorem hostAnswer_keeps (s : State) (k : Nat) (r : HostReq) (bytes : List Byte) : s.keeps (hostAnswer s k r bytes) := by
  unfold hostAnswer
  dsimp only
  split
  · have hs := snoopDie_keeps s r.pa true (1 - r.die)
    split
    · refine State.keeps.trans (State.keeps.trans (hs.trans ?_) ((makeRoom_keeps _ _ _ _).ok ‹_›))
        (putLine_sameMem ..).keeps
      exact State.keeps_of_hmem rfl rfl rfl (wf_writeBytes _ _ _)
    · refine State.keeps.trans (hs.trans ?_) (putLine_sameMem ..).keeps
      exact State.keeps_of_hmem rfl rfl rfl (wf_writeBytes _ _ _)
  · exact State.keeps_of_hmem rfl rfl rfl (wf_writeBytes _ _ _)
  · exact State.keeps_of_hmem rfl rfl rfl (wf_writeBytes _ _ _)
  · exact State.keeps_of_hmem rfl rfl rfl fun h => wf_writeLE _ _ _ _ (wf_writeBytes _ _ _ h)
theorem execHostCompletion_keeps (k status : Nat) (bytes : List Byte) (s : State) :
    Out.keeps s (execHostCompletion k status bytes s) := by
  unfold execHostCompletion
  split
  · split
    · exact notEnabled_keeps _ _
    split
    · exact (hostAnswer_keeps _ _ _ _).next
    split
    · exact (hostFail_keeps _ _ _ _).next
    · exact notEnabled_keeps _ _
  · exact notEnabled_keeps _ _
theorem execHostCompletionTimeout_keeps (k : Nat) (s : State) : Out.keeps s (execHostCompletionTimeout k s) := by
  unfold execHostCompletionTimeout
  split
  · split
    · exact notEnabled_keeps _ _
    · exact (hostFail_keeps _ _ _ _).next
  · exact notEnabled_keeps _ _
theorem backInvalidate_go_keeps (other : Nat) (l : List Line) (s : State) : (backInvalidate.go other l s).keeps s := by
  induction l generalizing s with
  | nil => exact (State.keeps_refl _).ok
  | cons x l ih =>
    unfold backInvalidate.go
    split
    · exact State.keeps.got ((syncLine_keeps _ _ _ _ _).ok ‹_›) (ih _)
    · exact Got.keeps_bind (State.keeps.got ((syncLine_keeps _ _ _ _ _).wait ‹_›) (ih _)) fun _ _ _ =>
        (State.keeps_refl _).wait
    · exact ((syncLine_keeps _ _ _ _ _).fail ‹_›).fail
theorem backInvalidate_keeps (s : State) (pa : Nat) : (backInvalidate s pa).keeps s := by
  unfold backInvalidate
  refine Got.keeps_bind (backInvalidate_go_keeps _ _ _) fun _ _ _ => ?_
  split
  · exact (State.keeps_refl _).wait
  · exact (State.keeps_refl _).ok
theorem meetCopies_keeps (s : State) (pa : Nat) : s.keeps (meetCopies s pa) := by
  unfold meetCopies
  exact foldl_keeps _ (fun _ _ => meetLine_keeps _ _ _ _) _ _
theorem cxlWrite_keeps (s : State) (pa : Nat) (bs : List (Nat × Byte)) : s.keeps (cxlWrite s pa bs) := by
  unfold cxlWrite
  dsimp only
  split
  · exact (meetCopies_keeps _ _).trans (dramWrite_keeps _ _ _ _ _)
  refine (meetCopies_keeps _ _).trans (foldl_keeps _ (fun _ _ => ?_) _ _)
  split
  · exact (putLine_sameMem ..).keeps
  · exact (putLine_sameMem ..).keeps.trans (fatalAsid_sameMem ..).keeps
theorem cxlRead_keeps (s : State) (pa : Nat) : s.keeps (cxlRead s pa) := by
  have hm := meetCopies_keeps s pa
  have hh (t : State) (h : HostRegs) : t.keeps { t with host := h } := State.sameMem.keeps ⟨rfl, rfl, rfl, rfl⟩
  unfold cxlRead
  dsimp only
  split
  · exact hm.trans (hh _ _)
  split
  · exact (hm.trans ((dramRead_keeps _ _ _ _).ok ‹_›)).trans (hh _ _)
  · exact (hm.trans ((dramRead_keeps _ _ _ _).wait ‹_›)).trans (hh _ _)
  · exact (hm.trans ((dramRead_keeps _ _ _ _).fail ‹_›)).trans (hh _ _)
theorem execCxlMemRequest_keeps (addr : Nat) (write : Bool) (bytes : List Byte) (s : State) :
    Out.keeps s (execCxlMemRequest addr write bytes s) := by
  unfold execCxlMemRequest
  dsimp only
  split
  · exact notEnabled_keeps _ _
  split
  · refine State.keeps.next ?_
    split
    · exact ((backInvalidate_keeps _ _).ok ‹_›).trans (cxlWrite_keeps _ _ _)
    · exact ((backInvalidate_keeps _ _).ok ‹_›).trans (cxlRead_keeps _ _)
  · exact ((backInvalidate_keeps _ _).wait ‹_›).ifAsked
  · exact notEnabled_keeps _ _

/-! ### Machine/Commands -/

theorem cqNext_keeps (s : State) : s.keeps s.cqNext := by
  unfold State.cqNext
  exact (activate_sameMem ..).keeps.trans (State.sameMem.keeps ⟨rfl, rfl, rfl, rfl⟩)
theorem control_keeps (s : State) (o : CqOp) (x : Cmd) (m : String) (bad : Bool) {k : State → Out}
  (hk : ∀ s, Out.keeps s (k s)) :
    Out.keeps s (control s o x m bad k) := by
  unfold control
  split
  · exact notEnabled_keeps _ _
  split
  · exact ((refuse_keeps _ _).trans (cqNext_keeps _)).next
  · exact hk _
theorem commands_keeps (s : State) (o : CqOp) (x : Cmd) (m : String) (bad : Bool) {f : State → State}
  (hf : ∀ s : State, s.keeps (f s)) :
    Out.keeps s (commands s o x m bad f) := by
  unfold commands
  exact control_keeps _ _ _ _ _ (fun _ => ((hf _).trans (cqNext_keeps _)).next)
theorem refuseHead_keeps (s : State) : Out.keeps s (refuseHead s) := by
  unfold refuseHead
  split
  · split
    · exact ((refuse_keeps _ _).trans (cqNext_keeps _)).next
    · exact notEnabled_keeps _ _
  split
  · exact notEnabled_keeps _ _
  split
  · exact notEnabled_keeps _ _
  split
  · split
    · exact ((((remapCheck_keeps _ _ _ _).ok ‹_›).trans (refuse_keeps _ _)).trans (cqNext_keeps _)).next
    · exact (((remapCheck_keeps _ _ _ _).ok ‹_›).trans (eccClean_keeps _ _ _ _)).next
  · exact notEnabled_keeps _ _
  · exact ((((remapCheck_keeps _ _ _ _).fail ‹_›).trans (refuse_keeps _ _)).trans (cqNext_keeps _)).next
theorem execCtxCreate_keeps (x : Cmd) (s : State) : Out.keeps s (execCtxCreate x s) := by
  unfold execCtxCreate
  exact commands_keeps _ _ _ _ _ fun _ => State.sameMem.keeps ⟨rfl, rfl, rfl, rfl⟩
theorem execCtxEnd_keeps (x : Cmd) (s : State) : Out.keeps s (execCtxEnd x s) := by
  unfold execCtxEnd
  refine commands_keeps _ _ _ _ _ (fun _ => ?_)
  dsimp only
  split
  · exact (setCtx_sameMem ..).keeps
  · exact State.keeps_refl _
theorem execResolveResume_keeps (x : Cmd) (s : State) : Out.keeps s (execResolveResume x s) := by
  unfold execResolveResume
  refine commands_keeps _ _ _ _ _ (fun _ => ?_)
  split
  · exact State.keeps_refl _
  · exact (setBlock_sameMem ..).keeps
theorem execResolveRetry_keeps (x : Cmd) (s : State) : Out.keeps s (execResolveRetry x s) := by
  unfold execResolveRetry
  refine commands_keeps _ _ _ _ _ (fun _ => ?_)
  split
  · exact State.keeps_refl _
  · exact (setBlock_sameMem ..).keeps
theorem execResolveKill_keeps (x : Cmd) (s : State) : Out.keeps s (execResolveKill x s) := by
  unfold execResolveKill
  refine commands_keeps _ _ _ _ _ (fun _ => ?_)
  split
  · exact State.keeps_refl _
  · exact (fatal_sameMem ..).keeps
theorem dropTlb_keeps (s : State) (asid lo hi : Nat) : s.keeps (s.dropTlb asid lo hi) := by
  unfold State.dropTlb
  exact State.sameMem.keeps ⟨rfl, rfl, rfl, rfl⟩
theorem flushRdc_keeps (s : State) (die : Nat) (sel : Nat → Nat → Bool) : s.keeps (flushRdc s die sel) := by
  unfold flushRdc
  refine foldl_keeps _ (fun _ _ => ?_) _ _
  split
  · exact (meetLine_keeps _ _ _ _).fst ‹_›
  refine State.keeps.trans ?_ (dropLine_sameMem ..).keeps
  split
  · exact ((meetLine_keeps _ _ _ _).fst ‹_›).trans (writeBack_keeps _ _)
  · exact ((meetLine_keeps _ _ _ _).fst ‹_›).trans (sendThrough_sameMem ..).keeps
theorem flushL2_keeps (die : Nat) (l : List Line) (s : State) : (flushL2 die l s).keeps s := by
  induction l generalizing s with
  | nil =>
    unfold flushL2
    exact (State.keeps_refl _).ok
  | cons x xs ih =>
    unfold flushL2
    exact Got.keeps_bind (evict_keeps _ _ _ _) fun _ _ _ => ih _
theorem flushLines_keeps (s : State) (sel : Nat → Nat → Bool) : (flushLines s sel).keeps s := by
  unfold flushLines
  dsimp only
  split
  · exact ((flushRdc_keeps _ _ _).trans (flushRdc_keeps _ _ _)).wait
  refine Got.keeps_bind (((flushRdc_keeps _ _ _).trans (flushRdc_keeps _ _ _)).got (flushL2_keeps _ _ _)) fun _ _ _ => ?_
  refine Got.keeps_bind (flushL2_keeps _ _ _) fun _ _ _ => ?_
  exact State.keeps.ok (State.sameMem.keeps ⟨rfl, rfl, rfl, rfl⟩)
theorem flushed_keeps (s : State) (m : String) (sel : Nat → Nat → Bool) {f : State → State}
  (hf : ∀ s : State, s.keeps (f s)) :
    Out.keeps s (flushed s m sel f) := by
  unfold flushed
  split
  · exact notEnabled_keeps _ _
  split
  · exact ((((flushLines_keeps _ _).ok ‹_›).trans (hf _)).trans (cqNext_keeps _)).next
  · exact ((flushLines_keeps _ _).wait ‹_›).ifAsked
  · exact notEnabled_keeps _ _
theorem execAsidFlush_keeps (x : Cmd) (s : State) : Out.keeps s (execAsidFlush x s) := by
  unfold execAsidFlush
  refine control_keeps _ _ _ _ _ fun t => flushed_keeps _ _ _ fun t => ?_
  have hd (st : List Nat) : (t.dropTlb x.a0 0 (2 ^ 64)).keeps { t.dropTlb x.a0 0 (2 ^ 64) with stale := st } :=
    State.sameMem.keeps ⟨rfl, rfl, rfl, rfl⟩
  dsimp only
  split
  · exact dropTlb_keeps _ _ _ _
  · exact (dropTlb_keeps _ _ _ _).trans (hd _)
theorem execTierPin_keeps (x : Cmd) (s : State) : Out.keeps s (execTierPin x s) := by
  unfold execTierPin
  refine control_keeps _ _ _ _ _ (fun _ => ?_)
  dsimp only
  split
  · exact notEnabled_keeps _ _
  split
  · exact ((setDie_sameMem ..).keeps.trans (cqNext_keeps _)).next
  · exact (setDie_sameMem ..).keeps.next
theorem execSweep_keeps (x : Cmd) (s : State) : Out.keeps s (execSweep x s) := by
  unfold execSweep
  refine control_keeps _ _ _ _ _ (fun _ => ?_)
  dsimp only
  split
  · exact ((((sweepRead_keeps _ _ _).ok ‹_›).trans (setDie_sameMem ..).keeps).trans (cqNext_keeps _)).next
  · exact notEnabled_keeps _ _
theorem execCqdb_keeps (w : Nat) (s : State) : Out.keeps s (execCqdb w s) := by
  unfold execCqdb
  split
  · exact State.keeps.next (State.sameMem.keeps ⟨rfl, rfl, rfl, rfl⟩)
  · exact notEnabled_keeps _ _
theorem execSqdb_keeps (sq w : Nat) (s : State) : Out.keeps s (execSqdb sq w s) := by
  unfold execSqdb
  split
  · exact notEnabled_keeps _ _
  dsimp only
  split
  · exact (State.keeps_refl _).next
  · exact (setCtx_sameMem ..).keeps.next

/-! ### Machine/Fabric -/

theorem withShare_keeps (s : State) (e : Env) (a n : Nat) {k : State → Env → List Byte → Out}
  (hk : ∀ s e bs, Out.keeps s (k s e bs)) :
    Out.keeps s (withShare s e a n k) := by
  unfold withShare
  split
  split
  · exact ((meetRead_sameMem ..).keeps.fst ‹_›).next
  split
  · exact ((meetRead_sameMem ..).keeps.fst ‹_›).next
  · exact ((meetRead_sameMem ..).keeps.fst ‹_›).out (hk _ _ _)
theorem tokenEnter_keeps (s : State) (e : Env) (d : Nat) {f : State → State} (hf : ∀ s : State, s.keeps (f s)) :
    Out.keeps s (tokenEnter s e d f) := by
  unfold tokenEnter
  split
  · exact trapAt_keeps _ _ _ _ _
  · exact (hf _).out (giveToken_keeps _ _ _)
theorem fabIssue_keeps (s : State) (i : Instr) {k : State → Env → Out} (hk : ∀ s e, Out.keeps s (k s e)) :
    Out.keeps s (fabIssue s i k) := by
  unfold fabIssue
  refine issue_keeps (fun _ _ => perCrew_keeps _ _ ?_) _ _
  split
  · exact trapAt_keeps _ _ _ _ _
  · exact afterQueue_keeps _ _ _ (fun _ _ => hk _ _)
theorem addColl_keeps (s : State) (k : Coll) : s.keeps (s.addColl k) := by
  unfold State.addColl State.take
  dsimp only
  split
  · exact State.sameMem.keeps ⟨rfl, rfl, rfl, rfl⟩
  · exact State.sameMem.keeps ⟨rfl, rfl, rfl, rfl⟩
theorem execColl_keeps (x : FabOps) (s : State) : Out.keeps s (execColl x s) := by
  unfold execColl
  refine fabIssue_keeps _ _ (fun _ _ => ?_)
  dsimp only
  split
  · exact trapAt_keeps _ _ _ _ _
  refine withShare_keeps _ _ _ _ (fun _ _ _ => withShare_keeps _ _ _ _ (fun _ _ _ => ?_))
  split
  · exact trapAt_keeps _ _ _ _ _
  · exact tokenEnter_keeps _ _ _ (fun _ => addColl_keeps _ _)
theorem endColl_keeps (s : State) (key : Nat) (k : Coll) (f : Option Trap) : s.keeps (s.endColl key k f) :=
  State.sameMem.keeps ⟨rfl, rfl, rfl, rfl⟩
theorem collFault_keeps (s : State) (key : Nat) (k : Coll) (t : Trap) : s.keeps (collFault s key k t) := by
  unfold collFault
  split
  · exact endColl_keeps _ _ _ _
  split
  · exact (fatalBlock_sameMem ..).keeps
  · exact endColl_keeps _ _ _ _
theorem mismatch_keeps (s : State) (k : Coll) : s.keeps (mismatch s k) := by
  unfold mismatch
  exact (fatalDie_sameMem ..).keeps
theorem digestArrives_keeps (s : State) (d : Digest) : s.keeps (s.digestArrives d) := by
  unfold State.digestArrives
  dsimp only
  split
  · split
    · refine State.keeps.trans ?_ (fatalDie_sameMem ..).keeps
      exact State.sameMem.keeps ⟨rfl, rfl, rfl, rfl⟩
    · exact State.sameMem.keeps ⟨rfl, rfl, rfl, rfl⟩
  · exact State.sameMem.keeps ⟨rfl, rfl, rfl, rfl⟩
theorem sendDigest_keeps (s : State) (k : Coll) (ms : List Nat) : s.keeps (sendDigest s k ms) := by
  unfold sendDigest
  refine foldl_keeps _ (fun _ _ => ?_) _ _
  split
  · exact digestArrives_keeps _ _
  · exact sendFab_keeps _ _ _ _ _
/-- An access that answers a state: the canonical form carries over from `s` to what it answers, or to where it stops. -/
def Got.carries (s : State) : Got State → Prop
  | .ok _ u => s.keeps u
  | .wait t => s.keeps t
  | .fail t _ => s.keeps t
theorem Got.carries_bind {α : Type} {s : State} {g : Got α} {f : State → α → Got State} (hg : g.keeps s)
    (hf : ∀ t x, (f t x).carries t) : (g.bind f).carries s := by
  cases g with
  | ok t x =>
    have ht : s.keeps t := hg.ok rfl
    have h := hf t x
    show Got.carries s (f t x)
    cases hft : f t x with
    | ok v u => rw [hft] at h; exact ht.trans h
    | wait u => rw [hft] at h; exact ht.trans h
    | fail u e => rw [hft] at h; exact ht.trans h
  | wait t => exact hg.wait rfl
  | fail t x => exact hg.fail rfl
theorem State.keeps.carries {s t u : State} (h : s.keeps u) : (Got.ok t u).carries s := h
/-- The canonical form carries over to either side of a choice. -/
theorem State.keeps.ite {s t u : State} {p : Prop} [Decidable p] (h : s.keeps t) (k : s.keeps u) :
    s.keeps (if p then t else u) := by
  split
  · exact h
  · exact k
theorem joinColl_carries (s : State) (key : Nat) (k : Coll) : (joinColl s key k).carries s := by
  unfold joinColl
  refine Got.carries_bind (gread_keeps _ _ _ _) fun t x => State.keeps.carries ?_
  have hs (ms : List Nat) : t.keeps (sendDigest (t.forget (2 * key)) k ms) :=
    (forget_sameMem ..).keeps.trans (sendDigest_keeps _ _ _)
  have hu (u : State) (h : t.keeps u) (cs : List (Nat × Coll)) (ds : List DomainUse) :
      t.keeps { u with colls := cs, domains := ds } := h.trans (State.sameMem.keeps ⟨rfl, rfl, rfl, rfl⟩)
  have hi (b : Bool) (ms : List Nat) : t.keeps (if b then sendDigest (t.forget (2 * key)) k ms else t.forget (2 * key)) :=
    (hs ms).ite (forget_sameMem ..).keeps
  exact State.keeps.ite ((hi _ _).trans (mismatch_keeps _ _)) (hu _ (hi _ _) _ _)
theorem publish_keeps (s : State) (k : Coll) : s.keeps (publish s k) := by
  unfold publish
  refine foldl_keeps _ (fun _ _ => ?_) _ _
  split
  · exact State.sameMem.keeps ⟨rfl, rfl, rfl, rfl⟩
  · exact sendFab_keeps _ _ _ _ _
theorem gatherChunk_keeps (s : State) (key : Nat) (k : Coll) : (gatherChunk s key k).keeps s := by
  unfold gatherChunk
  split
  dsimp only
  split
  · exact (State.keeps_refl _).ok
  · exact Got.keeps_bind (gread_keeps _ _ _ _) fun _ _ _ => (State.keeps_refl _).ok
theorem reduceChunk_keeps (s : State) (key : Nat) (k : Coll) : (reduceChunk s key k).keeps s := by
  unfold reduceChunk
  split
  refine Got.keeps_bind (greadAll_keeps _ _ _) fun _ _ _ => ?_
  split
  dsimp only
  split
  · split
    · exact (State.keeps_refl _).ok
    · exact Got.keeps_bind (gwriteAll_keeps _ _ _) fun _ _ _ => (State.keeps_refl _).ok
  split
  · split
    · exact (State.keeps_refl _).ok
    · exact Got.keeps_bind (gwriteAll_keeps _ _ _) fun _ _ _ => (State.keeps_refl _).ok
  split
  · exact (State.keeps_refl _).ok
  · exact Got.keeps_bind (gwriteAll_keeps _ _ _) fun _ _ _ => (State.keeps_refl _).ok
theorem sourceChunk_carries (s : State) (key : Nat) (k : Coll) : (sourceChunk s key k).carries s := by
  unfold sourceChunk
  refine Got.carries_bind ?_ fun t x => State.keeps.carries ?_
  · split
    · exact gatherChunk_keeps _ _ _
    · exact reduceChunk_keeps _ _ _
  · split
    · exact State.sameMem.keeps ⟨rfl, rfl, rfl, rfl⟩
    · refine State.keeps.trans ?_ (publish_keeps _ _)
      exact State.sameMem.keeps ⟨rfl, rfl, rfl, rfl⟩
theorem resultChunk_carries (s : State) (key : Nat) (k : Coll) (cs : List Contrib) :
    (resultChunk s key k cs).carries s := by
  unfold resultChunk
  dsimp only
  split
  · exact (mismatch_keeps _ _).carries
  · exact Got.carries_bind (gwrite_keeps _ _ _ _) fun t x => State.keeps.carries (State.sameMem.keeps ⟨rfl, rfl, rfl, rfl⟩)
theorem collStep_carries {s : State} {key : Nat} {k : Coll} {g : Got State} (h : collStep s key k = some g) :
    g.carries s := by
  unfold collStep at h
  dsimp only at h
  split at h
  · split at h
    · cases h
    · cases h
      exact joinColl_carries _ _ _
  split at h
  · cases h
    exact (mismatch_keeps _ _).carries
  split at h
  · cases h
  split at h
  · cases h
    exact sourceChunk_carries _ _ _
  split at h
  · cases h
    exact (mismatch_keeps _ _).carries
  split at h
  · cases h
  · cases h
    exact resultChunk_carries _ _ _ _
theorem execCollChunk_keeps (k : Nat) (s : State) : Out.keeps s (execCollChunk k s) := by
  unfold execCollChunk
  split
  · exact notEnabled_keeps _ _
  split
  · exact notEnabled_keeps _ _
  split
  · exact notEnabled_keeps _ _
  · rename_i h
    exact State.keeps.next (show Got.carries s _ from collStep_carries h)
  · rename_i h
    exact State.keeps.ifAsked (show Got.carries s _ from collStep_carries h)
  · rename_i t x h
    have ht : s.keeps t := collStep_carries h
    exact (ht.trans (collFault_keeps _ _ _ _)).next
theorem execCollComplete_keeps (k : Nat) (s : State) : Out.keeps s (execCollComplete k s) := by
  unfold execCollComplete
  split
  · exact notEnabled_keeps _ _
  split
  · exact (endColl_keeps _ _ _ _).next
  · exact notEnabled_keeps _ _
theorem addSend_keeps (s : State) (k : Send) (bytes : List Byte) : s.keeps (s.addSend k bytes) := by
  unfold State.addSend State.take
  dsimp only
  split
  · exact State.sameMem.keeps ⟨rfl, rfl, rfl, rfl⟩
  · refine State.keeps.trans ?_ (sendFab_keeps _ _ _ _ _)
    exact State.sameMem.keeps ⟨rfl, rfl, rfl, rfl⟩
theorem execCsend_keeps (x : FabOps) (s : State) : Out.keeps s (execCsend x s) := by
  unfold execCsend
  refine fabIssue_keeps _ _ (fun _ _ => ?_)
  dsimp only
  split
  · exact trapAt_keeps _ _ _ _ _
  refine withShare_keeps _ _ _ _ (fun _ _ _ => ?_)
  exact tokenEnter_keeps _ _ _ (fun _ => addSend_keeps _ _ _)
theorem execCrecv_keeps (x : FabOps) (s : State) : Out.keeps s (execCrecv x s) := by
  unfold execCrecv
  refine fabIssue_keeps _ _ (fun _ _ => ?_)
  dsimp only
  split
  · exact trapAt_keeps _ _ _ _ _
  · exact tokenEnter_keeps _ _ _ (fun _ => addSend_keeps _ _ _)
theorem endSend_keeps (s : State) (key : Nat) (k : Send) (sized : Bool) : s.keeps (s.endSend key k sized) :=
  State.sameMem.keeps ⟨rfl, rfl, rfl, rfl⟩
theorem receive_keeps (s : State) (key : Nat) (k : Send) (bytes : List Byte) : s.keeps (s.receive key k bytes) := by
  unfold State.receive
  split
  · exact (storeShare_sameMem ..).keeps.trans (endSend_keeps _ _ _ _)
  · exact endSend_keeps _ _ _ _
theorem execSendMatch_keeps (k j : Nat) (s : State) : Out.keeps s (execSendMatch k j s) := by
  unfold execSendMatch
  split
  · exact notEnabled_keeps _ _
  split
  · exact notEnabled_keeps _ _
  split
  · split
    · split
      · exact notEnabled_keeps _ _
      · refine State.keeps.next (State.keeps.ite (meetRead_sameMem ..).keeps ?_)
        exact ((meetRead_sameMem ..).keeps.trans (receive_keeps _ _ _ _)).trans (endSend_keeps _ _ _ _)
    · exact notEnabled_keeps _ _
  · split
    · split
      · refine State.keeps.next (State.keeps.trans (State.keeps.trans ?_ (receive_keeps _ _ _ _)) (sendFab_keeps _ _ _ _ _))
        exact State.sameMem.keeps ⟨rfl, rfl, rfl, rfl⟩
      · exact notEnabled_keeps _ _
    · exact notEnabled_keeps _ _
  · exact notEnabled_keeps _ _

/-! ### Machine/Fetch -/

theorem fetchLine_keeps (s : State) (b c : Nat) (x : Block) (line : Nat) : (fetchLine s b c x line).keeps s := by
  unfold fetchLine
  refine Got.keeps_bind (gread_keeps _ _ _ _) fun _ _ _ => ?_
  split
  refine State.keeps.ok ?_
  split
  · exact (forget_sameMem ..).keeps.trans (setBlock_sameMem ..).keeps
  · exact (forget_sameMem ..).keeps
theorem fetchLines_keeps (b c : Nat) (pc : Word) (n : Nat) (s : State) : (fetchLines b c pc n s).keeps s := by
  induction n generalizing s with
  | zero =>
    unfold fetchLines
    exact (State.keeps_refl _).wait
  | succ n ih =>
    unfold fetchLines
    split
    · exact (State.keeps_refl _).wait
    split
    · exact Got.keeps_bind (fetchLine_keeps _ _ _ _ _) fun _ _ _ => ih _
    · exact (State.keeps_refl _).ok
theorem raiseFetch_keeps (s : State) (b c : Nat) (w : Crew) (code len : Nat) : s.keeps (s.raiseFetch b c w code len) := by
  unfold State.raiseFetch
  exact (raiseIssue_sameMem ..).keeps
theorem execIllegalEncoding_keeps (b c : Nat) (s : State) : Out.keeps s (execIllegalEncoding b c s) := by
  unfold execIllegalEncoding
  split
  · exact notEnabled_keeps _ _
  split
  · exact (raiseFetch_keeps _ _ _ _ _ _).next
  · exact notEnabled_keeps _ _
theorem execFetchOutsideImage_keeps (b c : Nat) (s : State) : Out.keeps s (execFetchOutsideImage b c s) := by
  unfold execFetchOutsideImage
  split
  · exact notEnabled_keeps _ _
  split
  · exact (raiseFetch_keeps _ _ _ _ _ _).next
  · exact notEnabled_keeps _ _

/-! ### Machine/Float -/

theorem laterUnless_keeps (s : State) (e : Env) (i : Instr) (x : XOps) (f : Eff) : Out.keeps s (laterUnless s e i x f) := by
  unfold laterUnless
  split
  · exact skip_keeps _ _
  · exact completeLater_keeps _ _ _ _

/-! ### Machine/Join -/

theorem setJoin_keeps (s : State) (die slot : Nat) (j : JoinCfg) : s.keeps (s.setJoin die slot j) := by
  unfold State.setJoin
  exact (setCtx_sameMem ..).keeps
theorem addTableEvent_keeps (s : State) (die : Nat) (t : TableEvent) : s.keeps (s.addTableEvent die t) := by
  unfold State.addTableEvent
  exact (setDie_sameMem ..).keeps
theorem dropTableEvent_keeps (s : State) (die : Nat) (t : TableEvent) : s.keeps (s.dropTableEvent die t) := by
  unfold State.dropTableEvent
  exact (setDie_sameMem ..).keeps
theorem mapSeg_keeps (s : State) (die slot key : Nat) (f : Segment → Option Segment) :
    s.keeps (s.mapSeg die slot key f) := by
  unfold State.mapSeg
  exact (setDie_sameMem ..).keeps
theorem noteJoin_keeps (s : State) (die slot code : Nat) : s.keeps (s.noteJoin die slot code) := by
  unfold State.noteJoin
  exact (note_sameMem ..).keeps
theorem releaseHead_keeps (s : State) (die slot : Nat) (g : Segment) : (releaseHead s die slot g).keeps s := by
  unfold releaseHead
  refine Got.keeps_bind (greadAll_keeps _ _ _) fun _ _ _ => ?_
  split
  refine Got.keeps_bind (gwriteAll_keeps _ _ _) fun _ _ _ => State.keeps.ok ?_
  split
  · exact ((((forget_sameMem ..).keeps.trans (mapSeg_keeps _ _ _ _ _)).trans (setJoin_keeps _ _ _ _)).trans
      (setCtx_sameMem ..).keeps).trans (noteJoin_keeps _ _ _ _)
  · exact ((forget_sameMem ..).keeps.trans (mapSeg_keeps _ _ _ _ _)).trans (setJoin_keeps _ _ _ _)
theorem releaseFrom_keeps (die slot n : Nat) (s : State) : (releaseFrom die slot n s).keeps s := by
  induction n generalizing s with
  | zero =>
    unfold releaseFrom
    exact (State.keeps_refl _).ok
  | succ n ih =>
    unfold releaseFrom
    split
    · exact (State.keeps_refl _).ok
    split
    · exact Got.keeps_bind (releaseHead_keeps _ _ _ _) fun _ _ _ => ih _
    · exact (State.keeps_refl _).ok
theorem release_keeps (s : State) (die slot : Nat) : (release s die slot).keeps s := by
  unfold release
  exact releaseFrom_keeps _ _ _ _
theorem setOwed_keeps (s : State) (die slot : Nat) (ks : List (Nat × Nat)) : s.keeps (s.setOwed die slot ks) := by
  unfold State.setOwed
  exact setJoin_keeps _ _ _ _
theorem releaseOn_keeps (s : State) (die slot : Nat) (who : Option (Nat × Nat)) : (releaseOn s die slot who).keeps s := by
  unfold releaseOn
  split
  · exact (((release_keeps _ _ _).wait ‹_›).trans (setOwed_keeps _ _ _ _)).ok
  · exact (((release_keeps _ _ _).ok ‹_›).trans (setOwed_keeps _ _ _ _)).ok
  · exact ((release_keeps _ _ _).fail ‹_›).fail
theorem tableOut_keeps (s : State) (die slot : Nat) (m : String) {g : Got Unit} (hg : g.keeps s) :
    Out.keeps s (tableOut s die slot m g) := by
  unfold tableOut
  split
  · exact (hg.ok rfl).next
  · exact (hg.wait rfl).ifAsked
  · exact ((hg.fail rfl).trans (fatalDie_sameMem ..).keeps).next
theorem execJoinTimeout_keeps (die slot : Nat) (s : State) : Out.keeps s (execJoinTimeout die slot s) := by
  unfold execJoinTimeout
  split
  · refine tableOut_keeps _ _ _ _ ?_
    exact Got.keeps_bind (release_keeps _ _ _) fun _ _ _ => (setOwed_keeps _ _ _ _).ok
  · exact notEnabled_keeps _ _
theorem execRjopen_keeps (x : FabOps) (s : State) : Out.keeps s (execRjopen x s) := by
  unfold execRjopen
  refine fabIssue_keeps _ _ (fun _ _ => ?_)
  dsimp only
  split
  · exact trapAt_keeps _ _ _ _ _
  · exact (((addTableEvent_keeps _ _ _).trans (defer_sameMem ..).keeps).trans (finishIssue_sameMem ..).keeps).next
theorem openSegment_keeps (s : State) (die slot va : Nat) (who : Nat × Nat) : (openSegment s die slot va who).keeps s := by
  unfold openSegment
  refine Got.keeps_bind (greadAll_keeps _ _ _) fun _ _ _ => ?_
  split
  dsimp only
  split
  · exact (forget_sameMem ..).keeps.ok
  split
  · exact (forget_sameMem ..).keeps.ok
  split
  · exact (forget_sameMem ..).keeps.ok
  split
  · exact (forget_sameMem ..).keeps.ok
  refine Got.keeps_bind ((forget_sameMem ..).keeps.got (gwrite_keeps _ _ _ _)) fun _ _ _ => ?_
  refine Got.keeps_bind ((setDie_sameMem ..).keeps.got (releaseOn_keeps _ _ _ _)) fun _ _ _ => ?_
  exact (State.keeps_refl _).ok
theorem answerOpen_keeps (s : State) (b c order d : Nat) (r : Nat ⊕ Trap) : s.keeps (answerOpen s b c order d r) := by
  unfold answerOpen
  exact fillCrew_keeps _ _ _ _ _
theorem execRjopenEvent_keeps (b c : Nat) (s : State) : Out.keeps s (execRjopenEvent b c s) := by
  unfold execRjopenEvent
  split
  · split
    · split
      · exact ((((openSegment_keeps _ _ _ _ _).ok ‹_›).trans (dropTableEvent_keeps _ _ _)).trans
          (answerOpen_keeps _ _ _ _ _ _)).next
      · exact ((openSegment_keeps _ _ _ _ _).wait ‹_›).ifAsked
      · split
        · exact ((((openSegment_keeps _ _ _ _ _).fail ‹_›).trans (dropTableEvent_keeps _ _ _)).trans
            (answerOpen_keeps _ _ _ _ _ _)).next
        · exact (((openSegment_keeps _ _ _ _ _).fail ‹_›).trans (fatalBlock_sameMem ..).keeps).next
    · exact notEnabled_keeps _ _
  · exact notEnabled_keeps _ _
theorem execRjtickEvent_keeps (b c : Nat) (s : State) : Out.keeps s (execRjtickEvent b c s) := by
  unfold execRjtickEvent
  split
  · split
    · refine tableOut_keeps _ _ _ _ ?_
      exact ((dropTableEvent_keeps _ _ _).trans (setJoin_keeps _ _ _ _)).got (releaseOn_keeps _ _ _ _)
    · exact notEnabled_keeps _ _
  · exact notEnabled_keeps _ _
theorem execRjstatCfg_keeps (x : FabOps) (s : State) : Out.keeps s (execRjstatCfg x s) := by
  unfold execRjstatCfg
  refine fabIssue_keeps _ _ (fun _ _ => ?_)
  dsimp only
  split
  · exact trapAt_keeps _ _ _ _ _
  refine withShare_keeps _ _ _ _ (fun _ _ _ => ?_)
  split
  · exact trapAt_keeps _ _ _ _ _
  · exact (addTableEvent_keeps _ _ _).out (complete_keeps _ _ _)
theorem execRjstatCfgEvent_keeps (b c : Nat) (s : State) : Out.keeps s (execRjstatCfgEvent b c s) := by
  unfold execRjstatCfgEvent
  split
  · split
    · exact ((dropTableEvent_keeps _ _ _).trans (setJoin_keeps _ _ _ _)).next
    · exact notEnabled_keeps _ _
  · exact notEnabled_keeps _ _
theorem execRjstat_keeps (x : FabOps) (s : State) : Out.keeps s (execRjstat x s) := by
  unfold execRjstat
  refine fabIssue_keeps _ _ (fun _ _ => ?_)
  exact (((addTableEvent_keeps _ _ _).trans (defer_sameMem ..).keeps).trans (finishIssue_sameMem ..).keeps).next
theorem execRjstatEvent_keeps (b c : Nat) (s : State) : Out.keeps s (execRjstatEvent b c s) := by
  unfold execRjstatEvent
  split
  · split
    · exact ((dropTableEvent_keeps _ _ _).trans (fillCrew_keeps _ _ _ _ _)).next
    · exact notEnabled_keeps _ _
  · exact notEnabled_keeps _ _
theorem execRjpopComplete_keeps (b c : Nat) (s : State) : Out.keeps s (execRjpopComplete b c s) := by
  unfold execRjpopComplete
  refine withJob_keeps _ _ _ _ _ (fun _ _ _ => ?_)
  split
  · dsimp only
    split
    · refine tableOut_keeps _ _ _ _ ?_
      refine Got.keeps_bind ((setJoin_keeps _ _ _ _).got (releaseOn_keeps _ _ _ _)) fun _ _ _ => ?_
      exact (endJob_sameMem ..).keeps.ok
    split
    · exact (endJob_sameMem ..).keeps.next
    · exact notEnabled_keeps _ _
  · exact notEnabled_keeps _ _
theorem execCsendRwd_keeps (x : FabOps) (s : State) : Out.keeps s (execCsendRwd x s) := by
  unfold execCsendRwd
  refine fabIssue_keeps _ _ (fun _ _ => ?_)
  dsimp only
  split
  · exact trapAt_keeps _ _ _ _ _
  refine withShare_keeps _ _ _ _ (fun _ _ _ => tokenEnter_keeps _ _ _ (fun _ => ?_))
  split
  · refine State.keeps.trans ?_ (addTableEvent_keeps _ _ _)
    exact (take_keeps _).trans (State.sameMem.keeps ⟨rfl, rfl, rfl, rfl⟩)
  refine State.keeps.trans ?_ (sendFab_keeps _ _ _ _ _)
  exact (take_keeps _).trans (State.sameMem.keeps ⟨rfl, rfl, rfl, rfl⟩)
theorem countOrphan_keeps (s : State) (die slot : Nat) : s.keeps (s.countOrphan die slot) := by
  unfold State.countOrphan
  exact (setJoin_keeps _ _ _ _).trans (noteJoin_keeps _ _ _ _)
theorem orphan_keeps (s : State) (die slot r reason : Nat) : (orphan s die slot r reason).keeps s := by
  unfold orphan
  dsimp only
  split
  · exact (countOrphan_keeps _ _ _).ok
  refine Got.keeps_bind (gread_keeps _ _ _ _) fun _ _ _ => ?_
  split
  · exact (((countOrphan_keeps _ _ _).trans (setJoin_keeps _ _ _ _)).trans (noteJoin_keeps _ _ _ _)).ok
  refine Got.keeps_bind (gwriteAll_keeps _ _ _) fun _ _ _ => ?_
  exact ((countOrphan_keeps _ _ _).trans (forget_sameMem ..).keeps).ok
theorem reward_keeps (s : State) (die slot r : Nat) (who : Option (Nat × Nat)) : (reward s die slot r who).keeps s := by
  unfold reward
  dsimp only
  split
  · exact orphan_keeps _ _ _ _ _
  split
  · exact ((setJoin_keeps _ _ _ _).trans (noteJoin_keeps _ _ _ _)).ok
  split
  · exact orphan_keeps _ _ _ _ _
  split
  · exact orphan_keeps _ _ _ _ _
  split
  · exact orphan_keeps _ _ _ _ _
  refine Got.keeps_bind (gwrite_keeps _ _ _ _) fun _ _ _ => ?_
  exact (mapSeg_keeps _ _ _ _ _).got (releaseOn_keeps _ _ _ _)
theorem rewardsDone_keeps (s : State) (die slot key : Nat) (from_ : Option Nat) :
    s.keeps (rewardsDone s die slot key from_) := by
  unfold rewardsDone
  split
  · exact sendFab_keeps _ _ _ _ _
  split
  · exact endSend_keeps _ _ _ _
  · exact State.keeps_refl _
theorem rewardStep_keeps (s : State) (die : Nat) (t : TableEvent) : (rewardStep s die t).keeps s := by
  unfold rewardStep
  split
  · refine Got.keeps_bind (reward_keeps _ _ _ _ _) fun _ _ _ => ?_
    split
    · exact ((dropTableEvent_keeps _ _ _).trans (rewardsDone_keeps _ _ _ _ _)).ok
    · exact (setDie_sameMem ..).keeps.ok
  · exact (State.keeps_refl _).ok
theorem execRewardRecord_keeps (die : Nat) (s : State) : Out.keeps s (execRewardRecord die s) := by
  unfold execRewardRecord
  split
  · exact notEnabled_keeps _ _
  · exact tableOut_keeps _ _ _ _ (rewardStep_keeps _ _ _)
theorem arriveFlit_keeps (s : State) (die slot : Nat) (f : Flit) : s.keeps (s.arrive die slot f) := by
  unfold State.arrive
  split
  · exact State.sameMem.keeps ⟨rfl, rfl, rfl, rfl⟩
  · exact addTableEvent_keeps _ _ _
  · exact State.sameMem.keeps ⟨rfl, rfl, rfl, rfl⟩
  · split
    · exact State.keeps.ite (endSend_keeps _ _ _ _) (State.keeps_refl _)
    · exact State.keeps_refl _
  · exact State.keeps.ite (fatalDie_sameMem ..).keeps (State.keeps_refl _)
  · exact digestArrives_keeps _ _
  · split
    · exact State.keeps_refl _
    · exact State.sameMem.keeps ⟨rfl, rfl, rfl, rfl⟩
  · exact State.keeps_refl _
theorem acknowledge_keeps (s : State) (port : Nat) (f : Flit) : s.keeps (s.acknowledge port f) := by
  unfold State.acknowledge
  exact State.sameMem.keeps ⟨rfl, rfl, rfl, rfl⟩
theorem takeFlit_keeps (s : State) (f : Flit) : s.keeps (s.takeFlit f) := by
  unfold State.takeFlit
  split
  · exact arriveFlit_keeps _ _ _ _
  · exact State.keeps.ite (sendFab_keeps _ _ _ _ _) (State.keeps_refl _)
  · exact State.keeps_refl _
theorem execFlitReceive_keeps (port : Nat) (f : Flit) (s : State) : Out.keeps s (execFlitReceive port f s) := by
  unfold execFlitReceive
  split
  · exact notEnabled_keeps _ _
  split
  · exact (State.keeps_refl _).next
  split
  · exact State.keeps.next (State.sameMem.keeps ⟨rfl, rfl, rfl, rfl⟩)
  refine State.keeps.next ?_
  split
  · exact acknowledge_keeps _ _ _
  · exact (acknowledge_keeps _ _ _).trans (takeFlit_keeps _ _)

/-! ### Machine/Host -/

theorem execPcapWrite_keeps (w : Nat) (s : State) : Out.keeps s (execPcapWrite w s) := by
  unfold execPcapWrite
  dsimp only
  split
  · exact notEnabled_keeps _ _
  refine State.keeps.next ?_
  split
  · exact State.keeps_refl _
  · exact State.sameMem.keeps ⟨rfl, rfl, rfl, rfl⟩
theorem execEvtailRead_keeps (die : Nat) (s : State) : Out.keeps s (execEvtailRead die s) := by
  unfold execEvtailRead
  split
  · exact (setDie_sameMem ..).keeps.next
  · exact notEnabled_keeps _ _
theorem execUnsupportedRequest_keeps (off size : Nat) (_write : Bool) (s : State) :
    Out.keeps s (execUnsupportedRequest off size _write s) := by
  unfold execUnsupportedRequest
  split
  · exact (State.keeps_refl _).next
  · exact notEnabled_keeps _ _
theorem execMsiXUnmask_keeps (vec : Nat) (s : State) : Out.keeps s (execMsiXUnmask vec s) := by
  unfold execMsiXUnmask
  split
  · exact notEnabled_keeps _ _
  · refine State.keeps.next (State.keeps.ite (State.keeps.trans ?_ (sendVec_sameMem ..).keeps) ?_)
    · exact State.sameMem.keeps ⟨rfl, rfl, rfl, rfl⟩
    · exact State.sameMem.keeps ⟨rfl, rfl, rfl, rfl⟩
theorem maskVector_keeps (vec : Nat) (s : State) : Out.keeps s (maskVector vec s) := by
  unfold maskVector
  split
  · exact notEnabled_keeps _ _
  · exact State.keeps.next (State.sameMem.keeps ⟨rfl, rfl, rfl, rfl⟩)
theorem lowerRate_keeps (s : State) : s.keeps (lowerRate s) := by
  unfold lowerRate
  dsimp only
  split
  · exact State.keeps_refl _
  · exact (setDie_sameMem ..).keeps
theorem execPowerCapClockChange_keeps (down : Bool) (s : State) : Out.keeps s (execPowerCapClockChange down s) := by
  unfold execPowerCapClockChange
  dsimp only
  split
  · split
    · exact notEnabled_keeps _ _
    refine ((State.keeps.trans ?_ (lowerRate_keeps _)).trans (note_sameMem ..).keeps).next
    exact State.sameMem.keeps ⟨rfl, rfl, rfl, rfl⟩
  · split
    · exact notEnabled_keeps _ _
    refine (State.keeps.trans ?_ (note_sameMem ..).keeps).next
    exact State.sameMem.keeps ⟨rfl, rfl, rfl, rfl⟩
theorem execD0Idle_keeps (s : State) : Out.keeps s (execD0Idle s) := by
  unfold execD0Idle
  split
  · exact State.keeps.next (State.sameMem.keeps ⟨rfl, rfl, rfl, rfl⟩)
  · exact notEnabled_keeps _ _
theorem flushAll_keeps (s : State) : s.flushAll.keeps s := by
  unfold State.flushAll
  exact flushLines_keeps _ _
theorem execD3hot_keeps (s : State) : Out.keeps s (execD3hot s) := by
  unfold execD3hot
  split
  · split
    · rename_i t _ h
      have hf := (flushAll_keeps _).ok h
      refine State.keeps.next (hf.trans ?_)
      exact State.sameMem.keeps ⟨rfl, rfl, rfl, rfl⟩
    · exact ((flushAll_keeps _).wait ‹_›).ifAsked
    · exact notEnabled_keeps _ _
  · exact notEnabled_keeps _ _
/-- A loss of power empties device memory and leaves the host's. -/
theorem keeps_of_lost {s t : State} (hd : t.dmem = []) (hh : t.hmem = s.hmem) (hp : t.poison = []) (he : t.ecc = []) :
    s.keeps t := by
  intro h
  rw [memOk_iff] at h ⊢
  rw [hd, hh, hp, he]
  exact ⟨rfl, h.2.1, rfl, rfl⟩
theorem execD3cold_keeps (s : State) : Out.keeps s (execD3cold s) := by
  unfold execD3cold
  split
  · exact notEnabled_keeps _ _
  · exact State.keeps.next (keeps_of_lost rfl rfl rfl rfl)
theorem execReturnToD0_keeps (s : State) : Out.keeps s (execReturnToD0 s) := by
  unfold execReturnToD0
  split
  · exact State.keeps.next (State.sameMem.keeps ⟨rfl, rfl, rfl, rfl⟩)
  · exact notEnabled_keeps _ _
theorem execColdReset_keeps (s : State) : Out.keeps s (execColdReset s) :=
  State.keeps.next (keeps_of_lost rfl rfl rfl rfl)
theorem execFunctionLevelReset_keeps (s : State) : Out.keeps s (execFunctionLevelReset s) := by
  unfold execFunctionLevelReset
  split
  · exact notEnabled_keeps _ _
  split
  · split
    · rename_i t _ h
      refine State.keeps.next (((flushAll_keeps _).ok h).trans ?_)
      exact State.sameMem.keeps ⟨rfl, rfl, rfl, rfl⟩
    · exact ((flushAll_keeps _).wait ‹_›).ifAsked
    · exact notEnabled_keeps _ _
  split
  · exact notEnabled_keeps _ _
  · refine State.keeps.next ?_
    exact State.sameMem.keeps ⟨rfl, rfl, rfl, rfl⟩
theorem execFirmwareUpdate_keeps (req : List Byte) (s : State) : Out.keeps s (execFirmwareUpdate req s) := by
  unfold execFirmwareUpdate
  split
  · exact notEnabled_keeps _ _
  split
  · exact State.keeps.next (State.sameMem.keeps ⟨rfl, rfl, rfl, rfl⟩)
  · exact (State.keeps_refl _).next
theorem spdm_keeps (s : State) (m : String) (need step : Nat) (r : Reply) : Out.keeps s (spdm s m need step r) := by
  unfold spdm
  split
  · exact notEnabled_keeps _ _
  split
  · exact State.keeps.next (State.sameMem.keeps ⟨rfl, rfl, rfl, rfl⟩)
  · exact State.keeps.next (State.sameMem.keeps ⟨rfl, rfl, rfl, rfl⟩)

/-! ### Machine/Integer -/

theorem divide_keeps (s : State) (e : Env) (i : Instr) (x : XOps) (f : ℤ → ℤ → ℤ) : Out.keeps s (divide s e i x f) := by
  unfold divide
  split
  · exact trapAt_keeps _ _ _ _ _
  split
  · exact skip_keeps _ _
  · exact completeLater_keeps _ _ _ _

/-! ### Machine/Moment -/

theorem momFixed_keeps (s : State) (e : Env) (x : XOps) (srcs : List (Nat × (Nat → Nat))) (f : Nat → MomRes) :
    Out.keeps s (momFixed s e x srcs f) := by
  unfold momFixed
  dsimp only
  split
  · exact trapAt_keeps _ _ _ _ _
  split
  · exact trapAt_keeps _ _ _ _ _
  · exact complete_keeps _ _ _
theorem momLater_keeps (s : State) (e : Env) (i : Instr) (x : XOps) (srcs : List (Nat × (Nat → Nat)))
    (f : Nat → MomRes) (wr : Nat → Mom → List Wr) :
    Out.keeps s (momLater s e i x srcs f wr) := by
  unfold momLater
  dsimp only
  split
  · exact trapAt_keeps _ _ _ _ _
  · exact completeLater_keeps _ _ _ _
theorem momTwo_keeps (s : State) (e : Env) (x : XOps) (f : Mom → Mom → Flt → Mom) : Out.keeps s (momTwo s e x f) := by
  unfold momTwo
  exact momFixed_keeps _ _ _ _ _
theorem momUn_keeps (s : State) (e : Env) (i : Instr) (x : XOps) (f : Mom → Mom) : Out.keeps s (momUn s e i x f) := by
  unfold momUn
  exact momLater_keeps _ _ _ _ _ _ _

/-! ### Every instruction and event -/

/-- Every instruction and every event keeps the canonical form of the memories. -/
theorem exec_keeps (i : Instr) (s : State) : Out.keeps s (exec i s) := by
  unfold exec
  cases i
  case mov16 | iadd16 | isub16 | iaddi16 | and16 | or16 | xor16 | shli16 | shri16 | sari16 | fadd16 | fsub16 |
      fmul16 | fmax16 | fmin16 | movi16 | iaddR2 | isubR2 | andR2 | orR2 | xorR2 | andnR2 | shlR2 | shrR2 | sarR2 |
      rotlR2 | iaddI8 | shlI6 | shrI6 | sarI6 | rotlI6 | movi | pand | por | pxor | pnot | nop | iaddX | isubX |
      shlX | shrX | sarX | rotlX | andX | orX | xorX | andnX | imul | imulh | imad | lea | imin | imax | iabs |
      notX | popc | clz | brev | bfx | bfi | icmp | sel | mov | p2v | v2p | movl | fadd | fsub | fmul | ffma |
      fmin | fmax | fcmp | fclass | frnd | f2f | f2i | i2f | qscl | qpk | qupk | lut4 | mclamp | mmov | rctr |
      runi | rmask | vote | shfl | cred | cscan =>
    exact issue_keeps (fun _ _ => complete_keeps _ _ _) _ _
  case bra | brx => exact issue_keeps (fun _ _ => goTo_keeps _ _ _ _) _ _
  case call => exact execCall_keeps _ _
  case ret => exact execRet_keeps _ _
  case exit => exact execExit_keeps _ _
  case trigger => exact execTrigger_keeps _ _
  case regsGrow => exact execRegsGrow_keeps _ _
  case regsShrink => exact execRegsShrink_keeps _ _
  case csrr => exact execCsrr_keeps _ _
  case csrw => exact execCsrw_keeps _ _
  case trap => exact issue_keeps (fun _ _ => perCrew_keeps _ _ (completeThenRaise_keeps _ _ _ _).next) _ _
  case tret => exact execTret_keeps _ _
  case bkpt => exact execBkpt_keeps _ _
  case idiv | irem => exact issue_keeps (fun _ _ => divide_keeps _ _ _ _ _) _ _
  case fdiv | fsqrt | frcp | frsq | fexp2 | flog2 | fexp | flog | fsin | fcos | ftanh | fsigm | ferf =>
    exact issue_keeps (fun _ _ => laterUnless_keeps _ _ _ _ _) _ _
  case ctabW => exact execCtabW_keeps _ _
  case ctabSwap => exact execCtabSwap_keeps _ _
  case madd | msub | mmul => exact issue_keeps (fun _ _ => momTwo_keeps _ _ _ _) _ _
  case mfma | mscale | mset => exact issue_keeps (fun _ _ => momFixed_keeps _ _ _ _ _) _ _
  case mrelu | msigm | mtanh | mexp => exact issue_keeps (fun _ _ => momUn_keeps _ _ _ _ _) _ _
  case mcoll => exact issue_keeps (fun _ _ => momLater_keeps _ _ _ _ _ _ _) _ _
  case mld => exact execMld_keeps _ _
  case mst | st => exact issue_keeps (fun _ _ => addressed_keeps _ _ _ _ (queueStores_keeps _ _ _)) _ _
  case rseed => exact execRseed_keeps _ _
  case rnext => exact execRnext_keeps _ _
  case ld => exact execLd_keeps _ _
  case lds => exact execLds_keeps _ _
  case atom => exact execAtom_keeps _ _
  case tbinit => exact execTbinit_keeps _ _
  case tbarr => exact execTbarr_keeps _ _
  case tbwait => exact execTbwait_keeps _ _
  case srput | srget => exact ringWait_keeps _ _ _ _ _
  case srputCommit | srrel => exact ringQueue_keeps _ _ _ _
  case join => exact execJoin_keeps _ _
  case leave => exact execLeave_keeps _ _
  case bar => exact execBar_keeps _ _
  case barBlk => exact issue_keeps (fun _ _ => perCrew_keeps _ _ (arriveAt_keeps _ _ _ _)) _ _
  case fence => exact execFence_keeps _ _
  case rcfence => exact execRcfence_keeps _ _
  case layout => exact execLayout_keeps _ _
  case mxw | mxa | mxg | mxm | mxtl | mxts | accz | accld | accst | accdr | mxprog => exact matrixIssue_keeps _ _
  case cpg | cps | cphIn | cphOut => exact copyIssue_keeps _ _ _ _ _
  case ctok => exact execCtok_keeps _ _
  case cwait => exact execCwait_keeps _ _
  case pref => exact execPref_keeps _ _
  case fatom => exact execFatom_keeps _ _
  case fwait => exact execFwait_keeps _ _
  case l2lck => exact execL2lck_keeps _ _
  case l2ulk => exact execL2ulk_keeps _ _
  case publ => exact execPubl_keeps _ _
  case compact => exact execCompact_keeps _ _
  case envrst => exact execEnvrst_keeps _ _
  case bpsort => exact execBpsort_keeps _ _
  case bvht => exact execBvht_keeps _ _
  case qpush => exact execQpush_keeps _ _
  case qpushRound => exact execQpushRound_keeps _ _
  case qpop => exact execQpop_keeps _ _
  case sfact | ssolve | sadj => exact solIssue_keeps _ _ _ _ _
  case slsq => exact execSlsq_keeps _ _
  case sstat => exact execSstat_keeps _ _
  case optsub => exact execOptsub_keeps _ _
  case optwait => exact issue_keeps (fun _ _ => perCrew_keeps _ _ (jobIssue_keeps _ _ _ _)) _ _
  case coll => exact execColl_keeps _ _
  case csend => exact execCsend_keeps _ _
  case csendRwd => exact execCsendRwd_keeps _ _
  case crecv => exact execCrecv_keeps _ _
  case rjopen => exact execRjopen_keeps _ _
  case rjtick => exact fabIssue_keeps _ _ (fun _ _ => (addTableEvent_keeps _ _ _).out (complete_keeps _ _ _))
  case rjpop => exact fabIssue_keeps _ _ (fun _ _ => jobIssue_keeps _ _ _ _)
  case rjstat => exact execRjstat_keeps _ _
  case rjstatCfg => exact execRjstatCfg_keeps _ _
  case resultReturn => exact execResultReturn_keeps _ _ _ _
  case unpark => exact execUnpark_keeps _ _ _
  case regsGrant => exact execRegsGrant_keeps _ _ _
  case trapEntry => exact execTrapEntry_keeps _ _ _
  case crewDrainComplete => exact execCrewDrainComplete_keeps _ _ _
  case storeQueueWrite | atomPerform | tbinitPerform | tbarrPerform | envrstPerform => exact headEvent_keeps _ _ _ _ _
  case tbwaitComplete => exact execTbwaitComplete_keeps _ _ _
  case srputWake => exact execSrputWake_keeps _ _ _
  case srgetWake => exact execSrgetWake_keeps _ _ _
  case barrierRelease => exact execBarrierRelease_keeps _ _ _
  case fenceComplete => exact execFenceComplete_keeps _ _ _
  case mxwTurn => exact execMxwTurn_keeps _ _
  case streamCommandTurn => exact execStreamCommandTurn_keeps _ _
  case streamStep => exact execStreamStep_keeps _ _
  case mxtlTurn => exact execMxtlTurn_keeps _ _
  case mxtsTurn => exact execMxtsTurn_keeps _ _
  case acczTurn => exact execAcczTurn_keeps _ _
  case accldTurn => exact execAccldTurn_keeps _ _
  case accstTurn => exact execAccstTurn_keeps _ _
  case accdrTurn => exact execAccdrTurn_keeps _ _
  case mxprogTurn => exact execMxprogTurn_keeps _ _
  case latchedCommandTurn => exact execLatchedCommandTurn_keeps _ _
  case streamerChunk => exact execStreamerChunk_keeps _ _ _
  case streamerCopyComplete => exact execStreamerCopyComplete_keeps _ _ _
  case cwaitComplete => exact execCwaitComplete_keeps _ _ _
  case farAtomicPerform => exact execFarAtomicPerform_keeps _ _ _ _
  case chainedAtomicRelease => exact execChainedAtomicRelease_keeps _ _ _ _
  case fwaitSatisfied => exact execFwaitSatisfied_keeps _ _ _
  case l2lckComplete => exact execL2lckComplete_keeps _ _ _
  case publFlip => exact execPublFlip_keeps _ _ _
  case lineFill => exact execLineFill_keeps _ _ _
  case translationWalk => exact execTranslationWalk_keeps _ _ _
  case rdcEviction => exact execRdcEviction_keeps _ _ _
  case writeThroughAck => exact execWriteThroughAck_keeps _ _
  case dieToDieTransfer => exact execDieToDieTransfer_keeps _ _
  case dieToDieTransferFailed => exact execDieToDieTransferFailed_keeps _ _
  case swap => exact execSwap_keeps _ _ _
  case epochHalving => exact execEpochHalving_keeps _ _
  case sweeperStep => exact execSweeperStep_keeps _ _
  case activationCounterSaturated => exact ((setDie_sameMem ..).keeps.trans (noteMem_sameMem ..).keeps).next
  case retrainingStart => exact execRetrainingStart_keeps _ _ _
  case retrainingComplete => exact execRetrainingComplete_keeps _ _ _
  case hostSnoop => exact execHostSnoop_keeps _ _ _ _
  case hostCompletion => exact execHostCompletion_keeps _ _ _ _
  case hostCompletionTimeout => exact execHostCompletionTimeout_keeps _ _
  case launch => exact execLaunch_keeps _ _ _
  case headLaunchCheck => exact execHeadLaunchCheck_keeps _ _
  case ctxCreate => exact execCtxCreate_keeps _ _
  case ctxEnd => exact execCtxEnd_keeps _ _
  case ctxReclaim => exact commands_keeps _ _ _ _ _ (fun _ => (discard_keeps _ _).trans (setCtx_sameMem ..).keeps)
  case sqCreate | ptRoot | l2Quota => exact commands_keeps _ _ _ _ _ (fun _ => (setCtx_sameMem ..).keeps)
  case oqBind | oqUnbind | tierUnpin | hbmRate => exact commands_keeps _ _ _ _ _ (fun _ => (setDie_sameMem ..).keeps)
  case resolveResume => exact execResolveResume_keeps _ _
  case resolveRetry => exact execResolveRetry_keeps _ _
  case resolveKill => exact execResolveKill_keeps _ _
  case setAge | tierCtl | sweepStop =>
    exact commands_keeps _ _ _ _ _ (fun _ => State.sameMem.keeps ⟨rfl, rfl, rfl, rfl⟩)
  case inval => exact commands_keeps _ _ _ _ _ (fun _ => dropTlb_keeps _ _ _ _)
  case invalFlush => exact control_keeps _ _ _ _ _ (fun _ => flushed_keeps _ _ _ (fun _ => dropTlb_keeps _ _ _ _))
  case asidFlush => exact execAsidFlush_keeps _ _
  case tierPin => exact execTierPin_keeps _ _
  case sweep => exact execSweep_keeps _ _
  case cqdb => exact execCqdb_keeps _ _
  case sqdb => exact execSqdb_keeps _ _ _
  case pcapWrite => exact execPcapWrite_keeps _ _
  case evtailRead => exact execEvtailRead_keeps _ _
  case unsupportedRequest => exact execUnsupportedRequest_keeps _ _ _ _
  case dispatchDecision => exact execDispatchDecision_keeps _ _
  case ageingInterval => exact execAgeingInterval_keeps _ _
  case stagingComplete => exact execStagingComplete_keeps _ _
  case drainComplete => exact execDrainComplete_keeps _ _
  case launchCompletion => exact execLaunchCompletion_keeps _ _
  case blockAbort => exact execBlockAbort_keeps _ _
  case blockSave => exact execBlockSave_keeps _ _
  case saveDeadlineExceeded => exact execSaveDeadlineExceeded_keeps _ _
  case contextStopComplete => exact execContextStopComplete_keeps _ _
  case holdRecordWrite => exact execHoldRecordWrite_keeps _ _
  case compactComplete => exact execCompactComplete_keeps _ _
  case bpsortJob => exact execBpsortJob_keeps _ _ _
  case bvhtJob => exact execBvhtJob_keeps _ _ _
  case qpushPlace => exact execQpushPlace_keeps _ _ _
  case qpopTake => exact execQpopTake_keeps _ _ _
  case sfactComplete => exact execSfactComplete_keeps _ _ _
  case ssolveComplete => exact execSsolveComplete_keeps _ _ _
  case sadjComplete => exact execSadjComplete_keeps _ _ _
  case slsqCheckpoint => exact execSlsqCheckpoint_keeps _ _
  case slsqComplete => exact execSlsqComplete_keeps _ _
  case sstatComplete => exact execSstatComplete_keeps _ _ _
  case optsubAccept => exact execOptsubAccept_keeps _ _ _
  case optimiserCheckpoint => exact execOptimiserCheckpoint_keeps _ _
  case optimiserJobComplete => exact execOptimiserJobComplete_keeps _ _
  case optwaitComplete => exact execOptwaitComplete_keeps _ _ _
  case collChunk => exact execCollChunk_keeps _ _
  case collComplete => exact execCollComplete_keeps _ _
  case sendMatch => exact execSendMatch_keeps _ _ _
  case rewardRecord => exact execRewardRecord_keeps _ _
  case rjopenEvent => exact execRjopenEvent_keeps _ _ _
  case rjtickEvent => exact execRjtickEvent_keeps _ _ _
  case rjstatCfgEvent => exact execRjstatCfgEvent_keeps _ _ _
  case rjstatEvent => exact execRjstatEvent_keeps _ _ _
  case joinTimeout => exact execJoinTimeout_keeps _ _ _
  case rjpopComplete => exact execRjpopComplete_keeps _ _ _
  case flitReceive => exact execFlitReceive_keeps _ _ _
  case flitResend => exact execFlitResend_keeps _ _
  case portDown => exact execPortDown_keeps _ _
  case destinationUnreachable => exact execDestinationUnreachable_keeps _ _
  case powerCapClockChange => exact execPowerCapClockChange_keeps _ _
  case d0Idle => exact execD0Idle_keeps _
  case d3hot => exact execD3hot_keeps _
  case d3cold => exact execD3cold_keeps _
  case coldReset => exact execColdReset_keeps _
  case functionLevelReset => exact execFunctionLevelReset_keeps _
  case firmwareUpdate => exact execFirmwareUpdate_keeps _ _
  case getVersion | getCapabilities | negotiateAlgorithms | getDigests | getCertificate | challenge |
      getMeasurements =>
    exact spdm_keeps _ _ _ _ _
  case illegalEncoding => exact execIllegalEncoding_keeps _ _ _
  case fetchOutsideImage => exact execFetchOutsideImage_keeps _ _ _
  case cxlMemRequest => exact execCxlMemRequest_keeps _ _ _ _
  case returnToD0 => exact execReturnToD0_keeps _
  case dieToDieRetrainingComplete => exact execDieToDieRetrainingComplete_keeps _
  case msiXUnmask => exact execMsiXUnmask_keeps _ _

/-! ### The agents of a step -/

/-- Whatever the state, the canonical form carries over to the state in which an agent's move goes on. -/
def Agent.keeps (f : Agent) : Prop := ∀ s, Out.keeps s (f s)

theorem issueAt_keeps (b c : Nat) : Agent.keeps (issueAt b c) := by
  intro s
  unfold issueAt
  split
  · exact notEnabled_keeps _ _
  have hf := fetchLines_keeps b c
  split
  · refine State.keeps.out (((hf _ _ _).ok ‹_›).trans ?_) (exec_keeps _ _)
    exact State.sameMem.keeps ⟨rfl, rfl, rfl, rfl⟩
  · exact ((hf _ _ _).ok ‹_›).out (exec_keeps (.illegalEncoding b c) _)
  · exact ((hf _ _ _).ok ‹_›).out (exec_keeps (.fetchOutsideImage b c) _)
  · exact notEnabled_keeps _ _
  · exact ((hf _ _ _).wait ‹_›).ifAsked
  · exact (((hf _ _ _).fail ‹_›).trans (fatalBlock_sameMem ..).keeps).next

/-- The event of an instruction's constructor, as an agent. -/
theorem event_keeps (i : Instr) : Agent.keeps (exec i) := exec_keeps i

/-- Every agent of a list keeps the form. -/
def AllKeep (l : List Agent) : Prop := ∀ f ∈ l, f.keeps

theorem AllKeep.append {l m : List Agent} (h : AllKeep l) (k : AllKeep m) : AllKeep (l ++ m) :=
  List.forall_mem_append.2 ⟨h, k⟩
theorem AllKeep.flatMap {α : Type} {l : List α} {g : α → List Agent} (h : ∀ x, AllKeep (g x)) : AllKeep (l.flatMap g) :=
  List.forall_mem_flatMap.2 fun x _ => h x
theorem AllKeep.map {α : Type} {l : List α} {g : α → Agent} (h : ∀ x, (g x).keeps) : AllKeep (l.map g) :=
  List.forall_mem_map.2 fun x _ => h x
theorem AllKeep.nil : AllKeep [] := fun _ h => nomatch h
/-- The events of a list of constructors. -/
theorem AllKeep.events (is : List Instr) : AllKeep (is.map exec) := AllKeep.map event_keeps

theorem crewAgents_keep (b c : Nat) (w : Crew) : AllKeep (crewAgents b c w) :=
  .append
    (.events
      [.unpark b c, .regsGrant b c, .trapEntry b c, .crewDrainComplete b c, .storeQueueWrite b c,
       .atomPerform b c, .tbinitPerform b c, .tbarrPerform b c, .tbwaitComplete b c, .srputWake b c,
       .srgetWake b c, .envrstPerform b c, .fenceComplete b c, .cwaitComplete b c, .fwaitSatisfied b c,
       .l2lckComplete b c, .publFlip b c, .bpsortJob b c, .bvhtJob b c, .qpushPlace b c, .qpopTake b c,
       .sfactComplete b c, .ssolveComplete b c, .sadjComplete b c, .sstatComplete b c, .optsubAccept b c,
       .optwaitComplete b c, .rjopenEvent b c, .rjtickEvent b c, .rjstatCfgEvent b c, .rjstatEvent b c,
       .rjpopComplete b c])
    (.map fun p => event_keeps (.resultReturn b c p.order))

theorem blockAgents_keep (b : Nat) (x : Block) : AllKeep (blockAgents b x) :=
  .append
    (.append
      (.events
        [.stagingComplete b, .drainComplete b, .blockAbort b, .blockSave b, .saveDeadlineExceeded b,
         .compactComplete b, .mxwTurn b, .streamCommandTurn b, .streamStep b, .mxtlTurn b, .mxtsTurn b,
         .acczTurn b, .accldTurn b, .accstTurn b, .accdrTurn b, .mxprogTurn b, .latchedCommandTurn b])
      (.map fun k => event_keeps (.barrierRelease b k)))
    (.flatMap fun p => crewAgents_keep b p.1 p.2)

theorem dieAgents_keep (s : State) (die : Nat) : AllKeep (dieAgents s die) :=
  .append (.append (.append (.append (.append
    (.events [.dispatchDecision die, .epochHalving die, .sweeperStep die, .rewardRecord die])
    (.flatMap fun p => .events [.translationWalk die p.1, .lineFill die p.1]))
    (.map fun p => event_keeps (.swap die p.1)))
    (.map fun l => event_keeps (.rdcEviction die l.va)))
    (.map fun p => event_keeps (.activationCounterSaturated die (p.1 / 4294967296) (p.1 % 4294967296))))
    (.flatMap fun k => .events [.retrainingStart die (4 * die + k), .retrainingComplete die (4 * die + k)])

theorem objectAgents_keep (s : State) : AllKeep (objectAgents s) :=
  .append (.append (.append (.append (.append (.append (.append (.append (.append (.append
    (.flatMap fun p => .events [.streamerChunk p.2.blk p.1, .streamerCopyComplete p.2.blk p.1])
    (.flatMap fun p => .events [.farAtomicPerform p.2.blk p.2.crew p.1, .chainedAtomicRelease p.2.blk p.2.crew p.1]))
    (.flatMap fun p => .events [.dieToDieTransfer p.1, .writeThroughAck p.1]))
    (.flatMap fun p => .events [.slsqCheckpoint p.1, .slsqComplete p.1]))
    (.flatMap fun p => .events [.optimiserCheckpoint p.1, .optimiserJobComplete p.1]))
    (.flatMap fun p => .events [.collChunk p.1, .collComplete p.1]))
    (.flatMap fun p => .map fun q => event_keeps (.sendMatch p.1 q.1)))
    (.flatMap fun p => .map fun q => event_keeps (.sendMatch p.1 q.1)))
    (.map fun p => event_keeps (.destinationUnreachable p.1)))
    (.map fun p => event_keeps (.hostCompletionTimeout p.1)))
    (.flatMap fun p => .events [.ageingInterval p.1, .launchCompletion p.1])

theorem ctxAgents_keep (s : State) (slot : Nat) (x : Ctx) : AllKeep (ctxAgents s slot x) :=
  .append
    (.events [.contextStopComplete slot, .holdRecordWrite slot, .joinTimeout 0 slot, .joinTimeout 1 slot])
    (.flatMap fun p => .events [.launch (8 * slot + p.1) (peekLaunch s slot p.1), .headLaunchCheck (8 * slot + p.1)])

theorem commandAgent_keeps (x : Cmd) : Agent.keeps (commandAgent x) := by
  unfold commandAgent
  split
  · exact event_keeps (.ctxCreate x)
  · exact event_keeps (.ctxEnd x)
  · exact event_keeps (.ctxReclaim x)
  · exact event_keeps (.sqCreate x)
  · exact event_keeps (.oqBind x)
  · exact event_keeps (.oqUnbind x)
  · exact event_keeps (.resolveResume x)
  · exact event_keeps (.resolveRetry x)
  · exact event_keeps (.resolveKill x)
  · exact event_keeps (.setAge x)
  · exact event_keeps (.ptRoot x)
  · exact event_keeps (.inval x)
  · exact event_keeps (.invalFlush x)
  · exact event_keeps (.asidFlush x)
  · exact event_keeps (.l2Quota x)
  · exact event_keeps (.tierCtl x)
  · exact event_keeps (.tierPin x)
  · exact event_keeps (.tierUnpin x)
  · exact event_keeps (.sweep x)
  · exact event_keeps (.sweepStop x)
  · exact event_keeps (.hbmRate x)
  · exact refuseHead_keeps

theorem issueAgents_keep (s : State) : AllKeep (issueAgents s) := by
  refine AllKeep.flatMap fun k f hf => ?_
  obtain ⟨q, -, hq⟩ := List.mem_filterMap.1 hf
  obtain ⟨p, -, rfl⟩ := Option.map_eq_some_iff.1 hq
  exact issueAt_keeps _ _

theorem agents_keep (s : State) : AllKeep (agents s) := by
  have hcmd : AllKeep (s.cqCmd.map commandAgent).toList := by
    cases s.cqCmd with
    | none => exact .nil
    | some x => exact List.forall_mem_singleton.2 (commandAgent_keeps x)
  have hrefuse : AllKeep (if s.cqSound then [] else [refuseHead]) := by
    split
    · exact .nil
    · exact List.forall_mem_singleton.2 refuseHead_keeps
  have hflr : AllKeep (if s.host.flr then [execFunctionLevelReset] else []) := by
    split
    · exact .events [.functionLevelReset]
    · exact .nil
  exact .append (.append (.append (.append (.append (.append (.append (.append (.append
    (issueAgents_keep s) (.flatMap fun p => blockAgents_keep p.1 p.2)) (dieAgents_keep s 0)) (dieAgents_keep s 1))
    (objectAgents_keep s)) (.flatMap fun p => ctxAgents_keep s p.1 p.2)) hcmd) hrefuse)
    (.events [.d0Idle, .dieToDieRetrainingComplete])) hflr

/-! ### A step -/

theorem takeTurn_keeps (t : Turn) : Agent.keeps (takeTurn t) := by
  intro s
  cases t with
  | issue b c => exact issueAt_keeps b c s
  | event i =>
    refine State.keeps.out ?_ (exec_keeps i { s with cur := none })
    exact State.sameMem.keeps ⟨rfl, rfl, rfl, rfl⟩
  | refuse => exact refuseHead_keeps s
  | mask v => exact maskVector_keeps v s

theorem tick_keeps (s : State) : s.keeps s.tick := State.sameMem.keeps ⟨rfl, rfl, rfl, rfl⟩

theorem ticked_keeps {s : State} {o : Out} (h : Out.keeps s o) : Out.keeps s (ticked o) := by
  cases o with
  | next t => exact ((h t rfl).trans (tick_keeps t)).next
  | fault r => exact Out.keeps_fault _ _
  | refused r => exact Out.keeps_refused _ _

theorem movers_keep (s : State) : AllKeep (movers s) := fun f hf => agents_keep s f (List.mem_of_mem_filter hf)

theorem step_keeps (s : State) : Out.keeps s (step s) := by
  have hm := movers_keep s
  unfold step
  split
  · rename_i t rest _
    refine ticked_keeps (State.keeps.out ?_ (takeTurn_keeps t { s with turns := rest }))
    exact State.sameMem.keeps ⟨rfl, rfl, rfl, rfl⟩
  split
  · exact (tick_keeps s).next
  · rename_i f h
    exact ticked_keeps (hm f (by simp [h]) s)
  · rename_i f fs _ h
    refine ticked_keeps (hm _ ?_ s)
    rw [h, List.getD_eq_getElem _ _ (by simpa using Nat.mod_lt _ (Nat.succ_pos _))]
    exact List.getElem_mem _

/-- Settles O56: every operation keeps the canonical form of the memories, so every agent does, and a step is the move of
an agent or of a turn. -/
theorem everyStepKeepsMemory : Obligations.EveryStepKeepsMemory := fun s t hs hstep => step_keeps s t hstep hs

end Sys2Proof.Machine
end

section
/-! The copy commands, CTOK, CWAIT and PREF at their issue (R385 to R389, R394, R396), and the obligation about them. -/

namespace Sys2Proof.Machine

/-! ### The copy commands at their issue -/

/-- A copy command means its issue in the streamer (R386). -/
theorem exec_copyCommand {x : StreamOps} {i : Instr} {kind : CopyKind} {d : Option Nat} (hi : (i, kind, d) ∈ copyCommands x)
    (s : State) : exec i s = copyIssue s i x kind d := by
  simp only [copyCommands, List.mem_cons, Prod.mk.injEq, List.not_mem_nil, or_false] at hi
  obtain ⟨rfl, rfl, rfl⟩ | ⟨rfl, rfl, rfl⟩ | ⟨rfl, rfl, rfl⟩ | ⟨rfl, rfl, rfl⟩ := hi <;> rfl

/-- What a copy command does at the streamer, its layout as read: its checks, then its entry. -/
def copyChecked (x : StreamOps) (kind : CopyKind) (d : Option Nat) (s : State) (e : Env) (l : Layout) : Out :=
  let m := (e.cw.rs x.m).toNat
  let k := copyOf e x kind l
  let fo := if x.mx then followOf e.blk e.c e.cw.issues m (readBytes e.blk.share m 48) else none
  match copyReason e.blk k (x.mx && (fo.isNone || decide (e.blk.r.lmem < m + 48))) with
  | some r => trapAt s e 0x44 r e.act
  | none => copyEnter s e { k with follow := fo } d

section
variable {x : StreamOps} {s : State} {e : Env} {i : Instr} (h : Ready s i e) (hp : e.part ≠ 0) (hq : e.cw.queue = [])
  (kind : CopyKind) (d : Option Nat)
include h hp hq

/-- A copy command waits while the streamer of its core is full (R385). -/
theorem copyIssue_full (hload : 64 ≤ coreLoad s e.blk) : copyIssue s i x kind d = .next s := by
  rw [copyIssue, issue_ready h, perCrew_participating hp, afterQueue_empty hq, if_pos hload]

variable (hload : coreLoad s e.blk < 64) {s1 : State}
include hload

/-- A copy command whose layout is invalid raises cause 0x1A. -/
theorem copyIssue_invalid (hl : s.layoutOf e.blk (e.cw.group x.b) (crewOwner e.b e.c) = .ok s1 none) :
    copyIssue s i x kind d = .next ((served s1 e).raiseAt e 0x1A 0 e.act) := by
  rw [copyIssue, issue_ready h, perCrew_participating hp, afterQueue_empty hq, if_neg (Nat.not_le.mpr hload), hl]
  rfl

/-- A copy command whose layout is valid goes on to its checks. -/
theorem copyIssue_checks {l : Layout} (hl : s.layoutOf e.blk (e.cw.group x.b) (crewOwner e.b e.c) = .ok s1 (some l))
    (he : (e.refresh (served s1 e)).blk.errs = []) :
    copyIssue s i x kind d = copyChecked x kind d (served s1 e) (e.refresh (served s1 e)) l := by
  rw [copyIssue, issue_ready h, perCrew_participating hp, afterQueue_empty hq, if_neg (Nat.not_le.mpr hload), hl]
  simp only [gotAt, copyChecked, meetRead_refresh he, refresh_cw, ite_self, Bool.false_eq_true, if_false] <;> rfl

end

/-! ### The streamer takes a command -/

section
variable (s : State) (e : Env) (k : Copy) {r : Nat}

/-- A command without a token enters the streamer and is complete (R386). -/
theorem copyEnter_plain : copyEnter s e k none = .next
    (settled { s with fresh := s.fresh + 1, copies := put s.copies s.fresh k } e [] 0 false) :=
  complete_noFlags { s with fresh := s.fresh + 1, copies := put s.copies s.fresh k } e {} rfl rfl rfl

/-- A command whose token is still live raises cause 0x45 with reason 2. -/
theorem copyEnter_live {t : Token} (ht : s.liveToken e.b e.c (nextToken e) = some t) :
    copyEnter s e k (some r) = .next ({ s with fresh := s.fresh + 1 }.raiseAt e 0x45 2 e.act) := by
  have ht' : { s with fresh := s.fresh + 1 }.liveToken e.b e.c (nextToken e) = some t := ht
  show (if (State.liveToken _ e.b e.c (nextToken e)).isSome then _ else _) = _
  rw [ht']
  rfl

/-- A command with a token enters the streamer, and its crew takes the token, pending (R386, R394). -/
theorem copyEnter_token (ht : s.liveToken e.b e.c (nextToken e) = none) : copyEnter s e k (some r) = .next
    (movedOn { s with
        fresh := s.fresh + 1, copies := put s.copies s.fresh { k with token := some (nextToken e) },
        tokens := s.tokens ++ [⟨e.b, e.c, nextToken e, false, none⟩] } e e.blk
      { ((e.advance s e.cw).write [.s r (BitVec.ofNat 32 (nextToken e))]).setPending (.s r) with
        tokc := (e.cw.tokc + 1) % 1024 }) := by
  have ht' : { s with fresh := s.fresh + 1 }.liveToken e.b e.c (nextToken e) = none := ht
  show (if (State.liveToken _ e.b e.c (nextToken e)).isSome then _ else _) = _
  rw [ht']
  rfl

end

/-- R385 to R389, R394: the checks of a copy command decide between its cause and its entry. -/
theorem copyCommandsAtIssue : Claim.CopyCommands := by
  intro x s e i kind d hi h hp hq
  rw [exec_copyCommand hi]
  refine ⟨copyIssue_full h hp hq kind d, fun hload s1 hl => copyIssue_invalid h hp hq kind d hload hl,
    fun hload s1 l hl => ?_⟩
  intro s2 e2 k m fo s3 he
  rw [copyIssue_checks h hp hq kind d hload hl he]
  have hchecked : copyChecked x kind d s2 e2 l = match copyReason e2.blk k (x.mx && (fo.isNone || decide (e2.blk.r.lmem < m + 48))) with
      | some r => trapAt s2 e2 0x44 r e2.act
      | none => copyEnter s2 e2 { k with follow := fo } d := rfl
  rw [hchecked]
  refine ⟨fun r hr => by rw [hr]; rfl, fun hr => ?_⟩
  rw [hr]
  refine ⟨?_, ?_, ?_⟩
  · rintro rfl
    exact copyEnter_plain s2 e2 _
  · rintro r t rfl ht
    exact copyEnter_live s2 e2 _ ht
  · rintro r rfl ht
    exact copyEnter_token s2 e2 _ ht

/-! ### Tokens -/

/-- The PC after an instruction that stands at issue lies behind its words. -/
theorem Ready.next_eq {s : State} {i : Instr} {e : Env} (h : Ready s i e) : e.next = e.ipc + BitVec.ofNat 32 (lenOf i) := by
  obtain ⟨-, -, -, -, -, -, -, -, -, -, -, hlen, -⟩ := envOf_eq h.env
  rw [Env.next, hlen]

section
variable {x : StreamOps} {s : State} {e : Env} (hp : e.part ≠ 0)
include hp

/-- CTOK reads the state of a live token (R394). -/
theorem exec_ctok_live (h : Ready s (.ctok x) e) {t : Token} (ht : s.liveToken e.b e.c (e.cw.rs x.a).toNat = some t) :
    exec (.ctok x) s = .next (movedOn s e e.blk
      (((e.advance s e.cw).write [.s x.d (BitVec.ofNat 32 (match t.done, t.fault with
        | false, _ => 0
        | true, none => 1
        | true, some f => 1 + 256 * errCode f.code))]).setPending (.s x.d))) := by
  refine (issue_ready h _).trans ?_
  rw [perCrew_participating hp, ht]
  cases hd : t.done <;> cases hf : t.fault <;> simp [hd, hf, movedOn]

/-- A CWAIT of a live token ends at once where its command is done, with the fault that the token holds (R394). -/
theorem exec_cwait_live (h : Ready s (.cwait x) e) {t : Token} (ht : s.liveToken e.b e.c (e.cw.rs x.a).toNat = some t) :
    let s' := s.setBlock e.b (e.blk.setCrew e.c (waitingAt s e (.cwait x)))
    let gone : State :=
      { s' with tokens := s.tokens.filter (fun k => !(k.blk = e.b && k.crew = e.c && k.tok = t.tok)),
                olds := s.olds.filter fun o => !(o.blk = e.b && o.crew = e.c && o.tok = t.tok) }
    exec (.cwait x) s = .next (match t.done, t.fault with
      | false, _ => s'
      | true, none => gone.resume e.b e.c (.cwait x) e.ipc e.act []
      | true, some f => faultAfter gone e (waitingAt s e (.cwait x)) f) := by
  intro s' gone
  have hcrew : gone.crew e.b e.c = some (waitingAt s e (.cwait x)) := waitAt_crew s e (.cwait x)
  have hexec : exec (.cwait x) s = .next (if t.done then cwaitEnd s' e.b e.c (.cwait x) e.ipc e.act t else s') := by
    refine (issue_ready h _).trans ?_
    rw [perCrew_participating hp, ht]
    rfl
  rw [hexec]
  cases hd : t.done with
  | false => rfl
  | true =>
    cases hf : t.fault with
    | none =>
      simp only [cwaitEnd, hf, if_true]
      rfl
    | some f =>
      simp only [cwaitEnd, hf, if_true]
      split
      next hnone => exact absurd (hcrew.symm.trans hnone) nofun
      next w hw =>
        obtain rfl : waitingAt s e (.cwait x) = w := Option.some.inj (hcrew.symm.trans hw)
        rw [← h.next_eq]
        rfl

/-- CTOK and CWAIT of a token that is not live raise cause 0x45. -/
theorem exec_deadToken {i : Instr} (hi : i ∈ [Instr.ctok x, .cwait x]) (h : Ready s i e)
    (ht : s.liveToken e.b e.c (e.cw.rs x.a).toNat = none) : exec i s = .next (s.raiseAt e 0x45 1 e.act) := by
  simp only [List.mem_cons, List.not_mem_nil, or_false] at hi
  obtain rfl | rfl := hi
  all_goals
    refine (issue_ready h _).trans ?_
    rw [perCrew_participating hp, ht]
    rfl

/-- What PREF does once its crew takes part (R396). -/
theorem exec_pref_ready (h : Ready s (.pref x) e) : exec (.pref x) s =
    if !e.blk.r.res then trapAt s e 0x44 1 e.act
    else if (e.cw.rs x.b).toNat = 0 ∨ 2 ^ 30 < (e.cw.rs x.b).toNat then trapAt s e 0x44 8 e.act
    else if 64 ≤ coreLoad s e.blk then .next s
    else
      let va := e.cw.rs2 x.a
      let last := va + (e.cw.rs x.b).toNat - 1
      let m : Miss := ⟨e.blk.slot, e.blk.coreNo, va / 128, last / 128 + 1 - va / 128, false⟩
      let d := s.die e.blk.die
      .next (settled ({ s with fresh := s.fresh + 1 }.setDie e.blk.die { d with misses := put d.misses s.fresh m }) e [] 0
        false) := by
  refine (issue_ready h _).trans ?_
  rw [perCrew_participating hp]
  refine ite_congr rfl (fun _ => rfl) fun _ => ite_congr rfl (fun _ => rfl) fun _ => ite_congr rfl (fun _ => rfl) fun _ => ?_
  exact complete_noFlags _ _ {} rfl rfl rfl

end

/-- R394 to R396: the tokens and PREF. -/
theorem tokenInstructions : Claim.TokenInstructions := by
  intro x s e hp
  refine ⟨fun h t ht => exec_ctok_live hp h ht, fun h t ht => exec_cwait_live hp h ht,
    fun i hi h ht => exec_deadToken hp hi h ht, fun h hr => ?_, fun h hr hn => ?_, fun h hr h0 hmax hload => ?_,
    fun h hr h0 hmax hload => ?_⟩
  all_goals rw [exec_pref_ready hp h, hr]
  · rfl
  · exact if_pos hn
  · have hn : ¬((e.cw.rs x.b).toNat = 0 ∨ 2 ^ 30 < (e.cw.rs x.b).toNat) := by omega
    rw [if_neg hn, if_pos hload]
    rfl
  · have hn : ¬((e.cw.rs x.b).toNat = 0 ∨ 2 ^ 30 < (e.cw.rs x.b).toNat) := by omega
    rw [if_neg hn, if_neg (Nat.not_le.mpr hload)]
    rfl

/-- Settles O29: the copy commands, then CTOK, CWAIT and PREF. -/
theorem streamerCommands : Obligations.StreamerCommands := ⟨copyCommandsAtIssue, tokenInstructions⟩

end Sys2Proof.Machine
end

section
/-! FATOM, FWAIT, L2LCK, L2ULK and PUBL at their issue (R380, R399, R402 to R405), and the obligation about them. -/

namespace Sys2Proof.Machine

/-! ### A job at its issue -/

theorem foldl_setPending_jobs (l : List Reg) (w : Crew) : (l.foldl Crew.setPending w).jobs = w.jobs :=
  foldl_observed_unchanged Crew.jobs (fun w r _ => Crew.setPending_jobs w r) w

/-- The block with the crew whose result an engine will fill. -/
theorem defer_block (s : State) (e : Env) (i : Instr) :
    (defer s e i {} false).block e.b = some (e.blk.setCrew e.c (pendingCrew s e i)) := State.setBlock_block_self ..

/-- The jobs of a crew do not change as it issues. -/
theorem pendingCrew_jobs (s : State) (e : Env) (i : Instr) : (pendingCrew s e i).jobs = e.cw.jobs :=
  foldl_setPending_jobs _ _

/-- A job that is issued is handed to its unit (R271). -/
theorem jobIssue_handed (s : State) (e : Env) (i : Instr) (bytes : Option (List (List Byte))) :
    jobIssue s e i bytes = .next (handed s e i bytes) := by
  have hcrew : (defer s e i {} false).crew e.b e.c = some (pendingCrew s e i) :=
    crew_of_block (defer_block s e i) (Block.setCrew_self ..)
  have hset (w : Crew) : (defer s e i {} false).setCrew e.b e.c w = s.setBlock e.b (e.blk.setCrew e.c w) := by
    rw [setCrew_of_block (defer_block s e i), Block.setCrew_setCrew]
    exact State.setBlock_setBlock ..
  simp only [jobIssue, hcrew, hset, pendingCrew_jobs, handed, movedOn]

/-! ### The instructions of far memory at their issue -/

section
variable {x : FarOps} {s : State} {e : Env} (hp : e.part ≠ 0)
include hp

/-- Every one of them raises cause 0x44 with reason 1 in a block that is not resident. -/
theorem exec_far_notResident {i : Instr} (hi : i ∈ [Instr.fatom x, .fwait x, .l2lck x, .l2ulk x, .publ x]) (h : Ready s i e)
    (hr : e.blk.r.res = false) : exec i s = .next (s.raiseAt e 0x44 1 e.act) := by
  simp only [List.mem_cons, List.not_mem_nil, or_false] at hi
  obtain rfl | rfl | rfl | rfl | rfl := hi
  all_goals
    refine (issue_ready h _).trans ?_
    rw [perCrew_participating hp, hr]
    rfl

variable (hr : e.blk.r.res = true)
include hr

/-- FATOM of FADD raises cause 0x15 in a deterministic grid. -/
theorem exec_fatom_deterministic (h : Ready s (.fatom x) e) (hop : x.op = 8) (hd : e.blk.r.det = true) :
    exec (.fatom x) s = .next (s.raiseAt e 0x15 0 e.part) := by
  refine (issue_ready h _).trans ?_
  rw [perCrew_participating hp, hr, if_neg nofun, if_pos ⟨hop, hd⟩]
  rfl

/-- FATOM at a misaligned address raises cause 0x44 with reason 5 (R403). -/
theorem exec_fatom_misaligned (h : Ready s (.fatom x) e) (hop : ¬(x.op = 8 ∧ e.blk.r.det = true)) (hbad : farBad e x ≠ 0) :
    exec (.fatom x) s = .next (s.raiseAt e 0x44 5 (farBad e x)) := by
  refine (issue_ready h _).trans ?_
  rw [perCrew_participating hp, hr, if_neg nofun, if_neg hop, if_pos hbad]
  rfl

/-- FATOM sends its operations to their homes once their chained regions are known (R402, R404). -/
theorem exec_fatom_sends (h : Ready s (.fatom x) e) (hop : ¬(x.op = 8 ∧ e.blk.r.det = true)) (hbad : farBad e x = 0)
    {s1 : State} {fs : List Far} (hf : farAll e x (farLanes e x) s = .ok s1 fs) :
    exec (.fatom x) s = .next (if x.ret then
        finishIssue ((defer (served s1 e) (e.refresh (served s1 e)) (.fatom x) {} false).addFars fs)
          (e.refresh (served s1 e))
      else settled ((served s1 e).addFars fs) (e.refresh (served s1 e)) [] 0 false) := by
  refine (issue_ready h _).trans ?_
  rw [perCrew_participating hp, hr, if_neg nofun, if_neg hop, if_neg (not_not_intro hbad), hf]
  simp only [gotAt]
  split
  · rfl
  · exact complete_noFlags _ _ {} rfl rfl rfl

/-- FWAIT makes its crew wait, at an address that is a multiple of the width (R405). -/
theorem exec_fwait_ready (h : Ready s (.fwait x) e) : exec (.fwait x) s = .next (if e.cw.rs2 x.a % farBytes x.t = 0 then
    s.setBlock e.b (e.blk.setCrew e.c (waitingAt s e (.fwait x))) else s.raiseAt e 0x44 5 e.act) := by
  refine (issue_ready h _).trans ?_
  rw [perCrew_participating hp, hr, if_neg nofun]
  by_cases hm : e.cw.rs2 x.a % farBytes x.t = 0
  · rw [if_neg (not_not_intro hm), if_pos hm]
    rfl
  · rw [if_pos hm, if_neg hm]
    rfl

/-- L2LCK and L2ULK of a range that they do not take raise cause 0xA7 with its reason (R380). -/
theorem exec_lock_refused {i : Instr} (hi : i ∈ [Instr.l2lck x, .l2ulk x]) (h : Ready s i e) {r : Nat}
    (hl : lockReason (e.cw.rs2 x.a) (e.cw.rs x.b).toNat = some r) : exec i s = .next (s.raiseAt e 0xA7 r e.act) := by
  simp only [List.mem_cons, List.not_mem_nil, or_false] at hi
  obtain rfl | rfl := hi
  all_goals
    refine (issue_ready h _).trans ?_
    rw [perCrew_participating hp, hr, if_neg nofun, hl]
    rfl

omit hp hr in
/-- The crew of L2LCK: its result register is pending. -/
theorem pendingCrew_l2lck (s : State) (e : Env) (x : FarOps) : pendingCrew s e (.l2lck x) =
    (let w := e.advance s e.cw
     Crew.setPending { w with outs := w.outs ++ [{ order := e.cw.issues, ready := false }] } (.s x.d)) := by
  have hflags (w : Crew) : { w with fpcp := w.fpcp || false } = w := by rw [Bool.or_false]
  exact hflags _

/-- L2LCK hands its range over, its result outstanding (R380). -/
theorem exec_l2lck_handed (h : Ready s (.l2lck x) e) (hl : lockReason (e.cw.rs2 x.a) (e.cw.rs x.b).toNat = none) :
    exec (.l2lck x) s = .next (handed s e (.l2lck x)) := by
  refine (issue_ready h _).trans ?_
  rw [perCrew_participating hp, hr, if_neg nofun, hl]
  exact jobIssue_handed s e (.l2lck x) none

/-- L2ULK unlocks the lines that it may, and holds the fault of the others (R380). -/
theorem exec_l2ulk_unlocks (h : Ready s (.l2ulk x) e) (hl : lockReason (e.cw.rs2 x.a) (e.cw.rs x.b).toNat = none)
    {s1 : State} {ps : List Spot} {f : Option Trap}
    (hu : unlockable { accOf e.blk (crewOwner e.b e.c) with use := .forbid }
      (linesFrom (e.cw.rs2 x.a) (e.cw.rs x.b).toNat) s = .ok s1 (ps, f)) :
    exec (.l2ulk x) s = .next (settled (unlockLines s1 (s1.ctx e.blk.slot).asid ps)
      { e with cw := { e.cw with
        hfaults := e.cw.hfaults ++ (f.toList.map fun t => ⟨e.cw.issues, { t with pc := 0, lanes := 0 }⟩) } } [] 0 false) := by
  refine (issue_ready h _).trans ?_
  rw [perCrew_participating hp, hr, if_neg nofun, hl]
  simp only [hu]
  exact complete_noFlags _ _ {} rfl rfl rfl

/-- What PUBL does behind stores alone: its check, then its wait (R399). -/
theorem exec_publ_ready (h : Ready s (.publ x) e) (hq : onlyStores e) : exec (.publ x) s =
    match publReason e.blk e.cw (e.cw.rs x.a).toNat (e.cw.rs x.b).toNat with
    | some r => trapAt s e 0xA6 r e.act
    | none => .next (waitAt s { e with cw := { e.cw with
        publ := publList e.blk e.cw (e.cw.rs x.a).toNat (e.cw.rs x.b).toNat } } (.publ x)) := by
  have hb := h.block
  refine (issue_ready h _).trans ?_
  rw [perCrew_participating hp, hr, if_neg nofun, beforeRead_onlyStores hq]
  simp only [meetRead_clean hb h.clean, refresh_same hb]
  rfl

end

/-! ### The operations of a FATOM -/

/-- The lanes of a FATOM are those of its form (R402). -/
theorem farLanes_eq (e : Env) (x : FarOps) : farLanes e x = formLanes x.y e.part := by
  unfold farLanes formLanes
  split
  · rfl
  · exact List.take_of_length_le (length_lanesOf_le _)

/-- Outside a deterministic grid no location is chained (R404). -/
theorem farAll_undetermined {e : Env} (hd : e.blk.r.det = false) (x : FarOps) (l : List Nat) (s : State) :
    farAll e x l s = .ok s (l.map fun l => farOf e x l []) := by
  induction l with
  | nil => rfl
  | cons k l ih => simp [farAll, hd, Got.bind, ih]

/-- The regions of a location are chained regions of the launch. -/
theorem chainedRegions_chain {x : Block} {loc n owner : Nat} {l : List (Nat × Region)} {s s1 : State} {js : List Nat}
    (h : chainedRegions x loc n owner l s = .ok s1 js) : ∀ j ∈ js, ∃ r, (j, r) ∈ l ∧ r.chain = true := by
  have later {p : Nat × Region} {l : List (Nat × Region)} {js : List Nat} (h : ∀ j ∈ js, ∃ r, (j, r) ∈ l ∧ r.chain = true) :
      ∀ j ∈ js, ∃ r, (j, r) ∈ p :: l ∧ r.chain = true := fun j hj =>
    let ⟨r, hr, hc⟩ := h j hj
    ⟨r, List.mem_cons_of_mem _ hr, hc⟩
  induction l generalizing s s1 js with
  | nil =>
    cases h
    nofun
  | cons p l ih =>
    obtain ⟨j, r⟩ := p
    unfold chainedRegions at h
    split at h
    next => exact later (ih h)
    next hc =>
      obtain ⟨t, bs, -, h⟩ := Got.bind_eq_ok h
      obtain ⟨u, ks, hk, h⟩ := Got.bind_eq_ok h
      cases h
      split
      · rintro k (_ | ⟨_, hk'⟩)
        · exact ⟨r, List.mem_cons_self, by simpa using hc⟩
        · exact later (ih hk) k hk'
      · exact later (ih hk)

/-- Every operation of a FATOM is that of its lane, with the chained regions of its location. -/
theorem farAll_ok {e : Env} {x : FarOps} {l : List Nat} {s s1 : State} {fs : List Far} (h : farAll e x l s = .ok s1 fs) :
    fs.map (·.lane) = l ∧ ∀ f ∈ fs, ∃ k js, f = farOf e x k js ∧
      ∀ j ∈ js, ∃ r, (j, r) ∈ numbered e.blk.r.regions ∧ r.chain = true := by
  induction l generalizing s s1 fs with
  | nil =>
    cases h
    exact ⟨rfl, nofun⟩
  | cons k l ih =>
    obtain ⟨t, js, hjs, h⟩ := Got.bind_eq_ok h
    obtain ⟨u, gs, hgs, h⟩ := Got.bind_eq_ok h
    cases h
    obtain ⟨hlanes, hall⟩ := ih hgs
    refine ⟨by rw [List.map_cons, hlanes]; rfl, ?_⟩
    rintro f (_ | ⟨_, hf⟩)
    · refine ⟨k, js, rfl, ?_⟩
      split at hjs
      · exact chainedRegions_chain hjs
      · cases hjs
        nofun
    · exact hall f hf

/-- A numbered member stands at its number. -/
theorem getElem?_of_mem_numbered {α : Type} {l : List α} {j : Nat} {a : α} (h : (j, a) ∈ numbered l) : l[j]? = some a := by
  obtain ⟨k, hk, he⟩ := List.getElem_of_mem h
  simp only [numbered, List.getElem_zip, List.getElem_range, Prod.mk.injEq] at he
  obtain ⟨rfl, rfl⟩ := he
  exact List.getElem?_eq_getElem _

/-- Settles O30: the checks of an instruction decide between its cause and its effect. -/
theorem farInstructions : Obligations.FarInstructions := by
  intro x s e hp
  refine ⟨fun i hi h hr => exec_far_notResident hp hi h hr, fun hr => ?_⟩
  intro sent
  refine ⟨exec_fatom_deterministic hp hr, exec_fatom_misaligned hp hr, fun h hd hbad => ?_, fun h hd hop hbad s1 fs hf => ?_,
    exec_fwait_ready hp hr, fun i hi h r hl => exec_lock_refused hp hr hi h hl, fun h hl => ?_,
    fun h hl s1 ps f hu => exec_l2ulk_unlocks hp hr h hl hu, fun h hq r hr' => ?_, fun h hq hr' => ?_⟩
  · have hop : ¬(x.op = 8 ∧ e.blk.r.det = true) := fun h => by simp [hd] at h
    rw [← farLanes_eq]
    exact exec_fatom_sends hp hr h hop hbad (farAll_undetermined hd x _ s)
  · have hop' : ¬(x.op = 8 ∧ e.blk.r.det = true) := fun h => hop h.1
    obtain ⟨hlanes, hall⟩ := farAll_ok hf
    refine ⟨exec_fatom_sends hp hr h hop' hbad hf, hlanes.trans (farLanes_eq e x), fun f hf => ?_⟩
    obtain ⟨k, js, rfl, hjs⟩ := hall f hf
    refine ⟨rfl, fun j hj => ?_⟩
    obtain ⟨r, hr, hc⟩ := hjs j hj
    exact ⟨r, getElem?_of_mem_numbered hr, hc⟩
  · rw [exec_l2lck_handed hp hr h hl, handed, pendingCrew_l2lck]
    rfl
  · rw [exec_publ_ready hp hr h hq, hr']
    rfl
  · rw [exec_publ_ready hp hr h hq, hr']
    rfl

end Sys2Proof.Machine
end

section
/-! The solver's and the optimiser's instructions at their issue (R289 to R295, R301, R304, R313 to R315), and the obligation about them. -/

namespace Sys2Proof.Machine

/-! ### The solver's instructions -/

/-- A routine is read from the share alone (R311). -/
theorem routineFrom_setCrew (x : Block) (c : Nat) (w : Crew) (a n k : Nat) :
    routineFrom (x.setCrew c w) a n k = routineFrom x a n k := by
  induction n generalizing k with
  | zero => rfl
  | succ n ih =>
    unfold routineFrom
    rw [ih]
    rfl

/-- The check of a job card reads the share and the launch, not the crews (R314). -/
theorem optCheck_setCrew (x : Block) (k : Nat) (w : Crew) (b c off : Nat) :
    optCheck (x.setCrew k w) b c off = optCheck x b c off := by
  have hr (a : Nat) : routineOf (x.setCrew k w) a = routineOf x a := by
    unfold routineOf
    rw [routineFrom_setCrew]
  unfold optCheck
  simp only [hr]
  rfl

section
variable {s : State} {e : Env} (hp : e.part ≠ 0)
include hp

section
variable (hq : e.cw.queue = [])
include hq

/-- A solver instruction whose operands pass their checks is handed to the solver; a failed check raises cause 0x86
(R289, R290, R301). -/
theorem solIssue_ready {i : Instr} (h : Ready s i e) (x : SolOps) (rhs : Bool) (n : Nat) :
    solIssue s i x rhs n = .next (match solReason e.blk.r.lmem (solRanges e.cw x rhs) n with
      | none => handed s e i
      | some r => s.raiseAt e 0x86 r e.act) := by
  rw [solIssue, issue_ready h, perCrew_participating hp, afterQueue_empty hq]
  split
  next r hr => rw [hr]; rfl
  next hr => rw [hr]; exact jobIssue_handed s e i none

/-- SSTAT is handed to its unit, or raises cause 0x86 (R304). -/
theorem exec_sstat_ready {x : SolOps} (h : Ready s (.sstat x) e) : exec (.sstat x) s =
    .next (match solReason e.blk.r.lmem [((e.cw.rs x.a).toNat, 128, 64)] 0 with
      | none => handed s e (.sstat x)
      | some r => s.raiseAt e 0x86 r e.act) := by
  refine (issue_ready h _).trans ?_
  rw [perCrew_participating hp, afterQueue_empty hq]
  split
  next r hr => rw [hr]; rfl
  next hr => rw [hr]; exact jobIssue_handed s e (.sstat x) none

/-- SLSQ joins the queue of its unit, if its record is not there and fewer than eight of its block are (R301). -/
theorem exec_slsq_joins {x : SolOps} (h : Ready s (.slsq x) e)
    (hr : solReason e.blk.r.lmem [((e.cw.rs x.a).toNat, 128, 64)] 0 = none)
    (hnew : ∀ k j, (k, j) ∈ s.slsqs → j.blk = e.b → j.record ≠ (e.cw.rs x.a).toNat)
    (hroom : (s.slsqs.filter fun p => p.2.blk = e.b).length < 8) :
    exec (.slsq x) s = .next (settled { s with
      fresh := s.fresh + 1,
      slsqs := put s.slsqs s.fresh ⟨e.b, e.c, (e.cw.rs x.a).toNat, 1#64 <<< e.c, [], s.steps, 0, none⟩ } e [] 0 false) := by
  have hfree : ((s.slsqs.filter fun p => p.2.blk = e.b).any fun p => p.2.record = (e.cw.rs x.a).toNat) = false := by
    rw [List.any_eq_false]
    rintro ⟨k, j⟩ hj
    obtain ⟨hmem, hblk⟩ := List.mem_filter.1 hj
    simpa using hnew k j hmem (by simpa using hblk)
  refine (issue_ready h _).trans ?_
  rw [perCrew_participating hp, afterQueue_empty hq]
  simp only [hr, hfree, Bool.false_eq_true, if_false, if_neg (Nat.not_le.mpr hroom)]
  exact complete_noFlags _ _ {} rfl rfl rfl

end

/-- OPTSUB makes its crew wait, then tries to be accepted at once (R313). -/
theorem exec_optsub_ready {y : OptOps} (h : Ready s (.optsub y) e) : exec (.optsub y) s =
    .next ((optAccept (waitAt s e (.optsub y)) e.b e.c (.optsub y) e.ipc e.act y.a).getD (waitAt s e (.optsub y))) := by
  refine (issue_ready h _).trans ?_
  rw [perCrew_participating hp]

omit hp in
/-- A job of the optimiser has no room, or stands behind stores of its crew (R313). -/
theorem optAccept_waits (i : Instr) (pc act : Word) (a : Nat)
    (h : e.cw.queue ≠ [] ∨ 16 ≤ (openJobs s e.b).length) : optAccept (waitAt s e i) e.b e.c i pc act a = none := by
  have hopen : openJobs (waitAt s e i) e.b = openJobs s e.b := rfl
  have hc : (!(waitingAt s e i).queue.isEmpty || decide (16 ≤ (openJobs s e.b).length)) = true := by
    simpa using h
  rw [optAccept, waitAt_block]
  simp only [Block.setCrew_self, hopen, hc, if_true]

omit hp in
/-- A job of the optimiser with room enough is checked: it joins the list, or fails with the cause of its check (R314). -/
theorem optAccept_checked (he : e.blk.errs = []) (hq : e.cw.queue = []) (hroom : (openJobs s e.b).length < 16) (i : Instr)
    (pc act : Word) (a : Nat) :
    optAccept (waitAt s e i) e.b e.c i pc act a = some (match optCheck e.blk e.b e.c (e.cw.rs a).toNat with
      | .inr (code, info) => (waitAt s e i).failWait e.b e.c i pc act code info
      | .inl j => { waitAt s e i with fresh := s.fresh + 1, opts := put s.opts s.fresh { j with arrived := s.steps } }.resume
          e.b e.c i pc act []) := by
  have hopen : openJobs (waitAt s e i) e.b = openJobs s e.b := rfl
  have hc : (!(waitingAt s e i).queue.isEmpty || decide (16 ≤ (openJobs s e.b).length)) = false := by
    simpa [hq] using hroom
  have hrs : (waitingAt s e i).rs a = e.cw.rs a := rfl
  have herrs : (e.blk.setCrew e.c (waitingAt s e i)).errs = [] := he
  rw [optAccept, waitAt_block]
  simp only [Block.setCrew_self, hopen, hc, meetRead_clean (waitAt_block s e i) herrs, optCheck_setCrew, hrs,
    Bool.false_eq_true, if_false]
  cases optCheck e.blk e.b e.c (e.cw.rs a).toNat <;> rfl

end

/-- Settles O37: each instruction's check, then its hand-over. -/
theorem solverInstructions : Obligations.SolverInstructions := by
  intro x s e hp
  refine ⟨fun y h hq => ?behind, fun hq => ?free⟩
  case behind =>
    rw [exec_optsub_ready hp h, optAccept_waits _ _ _ _ (.inl hq)]
    rfl
  case free =>
    intro a
    refine ⟨fun i rhs n hi h => ?solver, exec_sstat_ready hp hq, exec_slsq_joins hp hq, fun y h => ?wait, fun y h => ?optsub⟩
    case solver =>
      simp only [List.mem_cons, Prod.mk.injEq, List.not_mem_nil, or_false] at hi
      obtain ⟨rfl, rfl, rfl⟩ | ⟨rfl, rfl, rfl⟩ | ⟨rfl, rfl, rfl⟩ := hi
      all_goals exact solIssue_ready hp hq h x _ _
    case wait =>
      refine (issue_ready h _).trans ?_
      rw [perCrew_participating hp]
      exact jobIssue_handed s e (.optwait y) none
    case optsub =>
      intro s'
      rw [exec_optsub_ready hp h]
      refine ⟨fun hfull => ?_, fun hroom j hj => ?_, fun hroom code info hc => ?_⟩
      · rw [optAccept_waits _ _ _ _ (.inr hfull)]
        rfl
      · rw [optAccept_checked h.clean hq hroom, hj]
        rfl
      · rw [optAccept_checked h.clean hq hroom, hc]
        rfl

end Sys2Proof.Machine
end

section
/-! COLL, CSEND, CRECV and the join-table instructions at their issue (R448 to R451, R456, R457, R460, R462, R465), and the obligation about them. -/

namespace Sys2Proof.Machine

/-! ### The commands of the fabric at their issue -/

section
variable {s : State} {e : Env} (hp : e.part ≠ 0)
include hp

/-- A command of the fabric raises cause 0xAB with reason 1 in a task grid. -/
theorem fabIssue_notResident {i : Instr} (h : Ready s i e) (hr : e.blk.r.res = false) (k : State → Env → Out) :
    fabIssue s i k = .next (s.raiseAt e 0xAB 1 e.act) := by
  rw [fabIssue, issue_ready h, perCrew_participating hp, hr]
  rfl

/-- A command of the fabric in a resident block follows at once after an empty queue. -/
theorem fabIssue_ready {i : Instr} (h : Ready s i e) (hr : e.blk.r.res = true) (hq : e.cw.queue = [])
    (k : State → Env → Out) : fabIssue s i k = k s e := by
  rw [fabIssue, issue_ready h, perCrew_participating hp, hr, afterQueue_empty hq]
  rfl

end

/-- Every command of the fabric and of the join table is an issue in the fabric. -/
theorem exec_fabric_notResident {s : State} {e : Env} (hp : e.part ≠ 0) {x : FabOps} {i : Instr}
    (hi : i ∈ [Instr.coll x, .csend x, .csendRwd x, .crecv x, .rjopen x, .rjtick x, .rjpop x, .rjstat x, .rjstatCfg x])
    (h : Ready s i e) (hr : e.blk.r.res = false) : exec i s = .next (s.raiseAt e 0xAB 1 e.act) := by
  simp only [List.mem_cons, List.not_mem_nil, or_false] at hi
  obtain rfl | rfl | rfl | rfl | rfl | rfl | rfl | rfl | rfl := hi
  all_goals exact fabIssue_notResident hp h hr _

/-- A command reads its bytes in the share of its block, which stores no error. -/
theorem withShare_clean {s : State} {e : Env} (hb : s.block e.b = some e.blk) (he : e.blk.errs = []) (a n : Nat)
    (k : State → Env → List Byte → Out) : withShare s e a n k = k s e (readBytes e.blk.share a n) := by
  simp only [withShare, meetRead_clean hb he, hb, Bool.false_eq_true, if_false]

/-- A command whose token is not live gives it to its crew (R394). -/
theorem tokenEnter_free {s : State} {e : Env} (ht : s.liveToken e.b e.c (nextToken e) = none) (d : Nat) (f : State → State) :
    tokenEnter s e d f = .next (tokened (f s) e d) := by
  rw [tokenEnter, ht]
  rfl

@[simp] theorem sendOf_off (e : Env) (x : FabOps) (recv reward : Bool) :
    (sendOf e x recv reward).off = (e.cw.rs x.a).toNat := rfl
@[simp] theorem sendOf_len (e : Env) (x : FabOps) (recv reward : Bool) :
    (sendOf e x recv reward).len = (e.cw.rs x.b).toNat := rfl

/-- A send or a receive is under way, and its bytes leave for another package (R456). -/
theorem addSend_eq (s : State) (k : Send) (bs : List Byte) : s.addSend k bs =
    if k.recv ∨ (s.dieOfEp k.ep).isSome then sendAdded s k
    else (sendAdded s k).sendFab k.die (s.ctx k.slot).asid k.ep (.data s.fresh k.tag bs) := rfl

section
variable {s : State} {e : Env} {x : FabOps} (hp : e.part ≠ 0) (hq : e.cw.queue = []) (hr : e.blk.r.res = true)
include hp hq hr

/-- COLL of descriptors that do not lie in the share raises cause 0xAB with reason 2. -/
theorem exec_coll_outside (h : Ready s (.coll x) e)
    (hbad : (shareBad e.blk (e.cw.rs x.a).toNat 64 64 || shareBad e.blk (e.cw.rs x.b).toNat 32 32) = true) :
    exec (.coll x) s = .next (s.raiseAt e 0xAB 2 e.act) := by
  refine (fabIssue_ready hp h hr hq _).trans ?_
  dsimp only
  rw [if_pos hbad]
  rfl

section
variable (h : Ready s (.coll x) e)
  (hin : ¬(shareBad e.blk (e.cw.rs x.a).toNat 64 64 || shareBad e.blk (e.cw.rs x.b).toNat 32 32) = true)
  {dom desc : List Byte} (hdom : dom = readBytes e.blk.share (e.cw.rs x.a).toNat 64)
  (hdesc : desc = readBytes e.blk.share (e.cw.rs x.b).toNat 32)
include h hin hdom hdesc

/-- COLL of descriptors that fail a check raises cause 0xAB with its reason (R449, R450). -/
theorem exec_coll_fails {r : Nat} (hc : collReason (collOf e x dom desc) dom desc = some r) :
    exec (.coll x) s = .next (s.raiseAt e 0xAB r e.act) := by
  subst hdom hdesc
  refine (fabIssue_ready hp h hr hq _).trans ?_
  dsimp only
  rw [if_neg hin, withShare_clean h.block h.clean, withShare_clean h.block h.clean, hc]
  rfl

/-- COLL that passes its checks joins the collectives of its domain (R451). -/
theorem exec_coll_joins (hc : collReason (collOf e x dom desc) dom desc = none)
    (ht : s.liveToken e.b e.c (nextToken e) = none) :
    exec (.coll x) s = .next (tokened (s.addColl (collOf e x dom desc)) e x.d) := by
  subst hdom hdesc
  refine (fabIssue_ready hp h hr hq _).trans ?_
  dsimp only
  rw [if_neg hin, withShare_clean h.block h.clean, withShare_clean h.block h.clean, hc]
  exact tokenEnter_free ht ..

end

/-- CSEND and CRECV of operands that fail a check raise cause 0xAB with its reason (R456). -/
theorem exec_send_fails {i : Instr} (hi : i = .csend x ∨ i = .crecv x) (h : Ready s i e) {r : Nat}
    (hc : sendReason e.blk (e.cw.rs x.a).toNat (e.cw.rs x.b).toNat 1 16 1048576 (e.cw.rs x.c).toNat 3 = some r) :
    exec i s = .next (s.raiseAt e 0xAB r e.act) := by
  obtain rfl | rfl := hi
  all_goals
    refine (fabIssue_ready hp h hr hq _).trans ?_
    simp only [sendOf_off, sendOf_len, hc]
    rfl

section
variable (ht : s.liveToken e.b e.c (nextToken e) = none)
include ht

/-- CSEND sends the bytes that it reads, and CRECV waits for its own (R456). -/
theorem exec_csend_sends (h : Ready s (.csend x) e)
    (hc : sendReason e.blk (e.cw.rs x.a).toNat (e.cw.rs x.b).toNat 1 16 1048576 (e.cw.rs x.c).toNat 3 = none) :
    exec (.csend x) s = .next (tokened (s.addSend (sendOf e x false false)
      (readBytes e.blk.share (e.cw.rs x.a).toNat (e.cw.rs x.b).toNat)) e x.d) := by
  refine (fabIssue_ready hp h hr hq _).trans ?_
  simp only [sendOf_off, sendOf_len, hc, withShare_clean h.block h.clean]
  exact tokenEnter_free ht ..

theorem exec_crecv_waits (h : Ready s (.crecv x) e)
    (hc : sendReason e.blk (e.cw.rs x.a).toNat (e.cw.rs x.b).toNat 1 16 1048576 (e.cw.rs x.c).toNat 3 = none) :
    exec (.crecv x) s = .next (tokened (s.addSend (sendOf e x true false) []) e x.d) := by
  refine (fabIssue_ready hp h hr hq _).trans ?_
  simp only [sendOf_off, sendOf_len, hc]
  exact tokenEnter_free ht ..

end

section
variable (h : Ready s (.csendRwd x) e)
include h

/-- CSEND.RWD of operands that fail a check raises cause 0xAB with its reason (R457). -/
theorem exec_csendRwd_fails {r : Nat}
    (hc : sendReason e.blk (e.cw.rs x.a).toNat (e.cw.rs x.b).toNat 16 1 4096 (e.cw.rs x.c).toNat 19 = some r) :
    exec (.csendRwd x) s = .next (s.raiseAt e 0xAB r e.act) := by
  refine (fabIssue_ready hp h hr hq _).trans ?_
  simp only [sendOf_off, sendOf_len, hc]
  rfl

section
variable (hc : sendReason e.blk (e.cw.rs x.a).toNat (e.cw.rs x.b).toNat 16 1 4096 (e.cw.rs x.c).toNat 19 = none)
  (ht : s.liveToken e.b e.c (nextToken e) = none)
include hc ht

/-- CSEND.RWD to a table of this package sends its records there (R457). -/
theorem exec_csendRwd_near {d : Nat} (hd : s.dieOfEp (sendOf e x false true).ep = some d) : exec (.csendRwd x) s =
    .next (tokened (eventAdded (sendAdded s (sendOf e x false true)) d ⟨e.blk.slot, e.b, e.c, .rewards s.fresh none
      (unpackWords 16 (e.cw.rs x.b).toNat (readBytes e.blk.share (e.cw.rs x.a).toNat (16 * (e.cw.rs x.b).toNat)))⟩) e x.d) := by
  have hd' : (sendAdded s (sendOf e x false true)).dieOfEp (sendOf e x false true).ep = some d := hd
  refine (fabIssue_ready hp h hr hq _).trans ?_
  simp only [sendOf_off, sendOf_len, hc, withShare_clean h.block h.clean]
  refine (tokenEnter_free ht ..).trans ?_
  split
  next d' hn =>
    obtain rfl : d' = d := Option.some.inj (hn.symm.trans hd')
    rfl
  next hn => cases hn.symm.trans hd'

/-- CSEND.RWD to a table of another package sends its records over the fabric (R457). -/
theorem exec_csendRwd_away (hd : s.dieOfEp (sendOf e x false true).ep = none) : exec (.csendRwd x) s =
    .next (tokened ((sendAdded s (sendOf e x false true)).sendFab e.blk.die (s.ctx e.blk.slot).asid
      (sendOf e x false true).ep (.reward s.fresh (unpackWords 16 (e.cw.rs x.b).toNat
        (readBytes e.blk.share (e.cw.rs x.a).toNat (16 * (e.cw.rs x.b).toNat))))) e x.d) := by
  have hd' : (sendAdded s (sendOf e x false true)).dieOfEp (sendOf e x false true).ep = none := hd
  refine (fabIssue_ready hp h hr hq _).trans ?_
  simp only [sendOf_off, sendOf_len, hc, withShare_clean h.block h.clean]
  refine (tokenEnter_free ht ..).trans ?_
  split
  next d hn => cases hn.symm.trans hd'
  next => rfl

end
end

section
variable (h : Ready s (.rjstatCfg x) e)
include h

/-- RJSTAT.CFG of a descriptor outside the share raises cause 0xAB with reason 2 (R465). -/
theorem exec_rjstatCfg_outside (hbad : shareBad e.blk (e.cw.rs x.a).toNat 32 32 = true) :
    exec (.rjstatCfg x) s = .next (s.raiseAt e 0xAB 2 e.act) := by
  refine (fabIssue_ready hp h hr hq _).trans ?_
  dsimp only
  rw [if_pos hbad]
  rfl

variable (hin : ¬shareBad e.blk (e.cw.rs x.a).toNat 32 32 = true) {bs : List Byte}
  (hbs : bs = readBytes e.blk.share (e.cw.rs x.a).toNat 32)
include hin hbs

/-- RJSTAT.CFG of a descriptor that fails a check raises cause 0xAB with its reason (R465). -/
theorem exec_rjstatCfg_fails {r : Nat} (hc : configReason bs = some r) :
    exec (.rjstatCfg x) s = .next (s.raiseAt e 0xAB r e.act) := by
  subst hbs
  refine (fabIssue_ready hp h hr hq _).trans ?_
  dsimp only
  rw [if_neg hin, withShare_clean h.block h.clean, hc]
  rfl

/-- RJSTAT.CFG that passes its checks sends the configuration to the join table (R465). -/
theorem exec_rjstatCfg_sends (hc : configReason bs = none) : exec (.rjstatCfg x) s =
    .next (settled (eventAdded s e.blk.die ⟨e.blk.slot, e.b, e.c,
      .config (sliceNat bs 0 4) (sliceNat bs 8 8) (sliceNat bs 16 4)⟩) e [] 0 false) := by
  subst hbs
  refine (fabIssue_ready hp h hr hq _).trans ?_
  dsimp only
  rw [if_neg hin, withShare_clean h.block h.clean, hc]
  exact complete_noFlags _ _ {} rfl rfl rfl

end
end

/-- An event on its way to a table leaves the step count alone. -/
theorem pendingCrew_eventAdded (s : State) (e : Env) (i : Instr) (die : Nat) (t : TableEvent) :
    pendingCrew (eventAdded s die t) e i = pendingCrew s e i := by
  simp only [pendingCrew, Env.advance, eventAdded, State.setDie_steps]

/-- A result that the join table answers is outstanding (R460, R465). -/
theorem defer_eventAdded (s : State) (e : Env) (i : Instr) (die : Nat) (t : TableEvent) :
    finishIssue (defer (eventAdded s die t) e i {} false) e =
      movedOn (eventAdded s die t) e e.blk (pendingCrew s e i) := by
  rw [← pendingCrew_eventAdded s e i die t]
  rfl

/-- RJOPEN asks the table of its die for a segment, or raises cause 0xAB with reason 4 (R460). -/
theorem exec_rjopen_ready {s : State} {e : Env} {x : FabOps} (hp : e.part ≠ 0) (hq : e.cw.queue = [])
    (hr : e.blk.r.res = true) (h : Ready s (.rjopen x) e) : exec (.rjopen x) s = .next
      (if e.cw.rs2 x.a % 64 ≠ 0 ∨ 2 ^ 57 < e.cw.rs2 x.a + 0x4140 then s.raiseAt e 0xAB 4 e.act
       else movedOn (eventAdded s e.blk.die ⟨e.blk.slot, e.b, e.c, .open_ (e.cw.rs2 x.a) e.cw.issues x.d⟩) e e.blk
         (pendingCrew s e (.rjopen x))) := by
  have hb (t : TableEvent) : (s.addTableEvent e.blk.die t).block e.b = some e.blk := (State.setDie_block ..).trans h.block
  have hd := defer_eventAdded s e (.rjopen x) e.blk.die ⟨e.blk.slot, e.b, e.c, .open_ (e.cw.rs2 x.a) e.cw.issues x.d⟩
  refine (fabIssue_ready hp h hr hq _).trans ?_
  by_cases hbad : e.cw.rs2 x.a % 64 ≠ 0 ∨ 2 ^ 57 < e.cw.rs2 x.a + 0x4140
  · rw [if_pos hbad]
    exact if_pos hbad
  · rw [if_neg hbad]
    refine (if_neg hbad).trans ?_
    rw [← hd]
    dsimp only
    rw [refresh_same (hb _)]
    rfl

/-- Settles O40: each command's checks, then what it hands over. -/
theorem fabricInstructions : Obligations.FabricInstructions := by
  intro s e hp hq
  refine ⟨fun x i hi h hr => exec_fabric_notResident hp hi h hr, fun hr x => ?_⟩
  intro a n word free
  refine ⟨fun h => ?coll, fun i k hi h => ?send, fun h => ?rewards, fun h => ?open_, fun h => ?tick, fun h => ?config,
    fun h => ?stat, fun h => ?pop⟩
  case coll =>
    intro dom desc k
    split
    next hbad => exact exec_coll_outside hp hq hr h hbad
    next hin =>
      split
      next r hc => exact exec_coll_fails hp hq hr h hin rfl rfl hc
      next hc => exact fun ht => exec_coll_joins hp hq hr h hin rfl rfl hc ht
  case send =>
    simp only [List.mem_cons, Prod.mk.injEq, List.not_mem_nil, or_false] at hi
    split
    next r hc => exact exec_send_fails hp hq hr (hi.imp And.left And.left) h hc
    next hc =>
      intro ht
      obtain ⟨rfl, rfl⟩ | ⟨rfl, rfl⟩ := hi
      · exact exec_csend_sends hp hq hr ht h hc
      · exact exec_crecv_waits hp hq hr ht h hc
  case rewards =>
    intro k recs
    split
    next r hc => exact exec_csendRwd_fails hp hq hr h hc
    next hc =>
      intro ht
      split
      next d hd => exact exec_csendRwd_near hp hq hr h hc ht hd
      next hd => exact exec_csendRwd_away hp hq hr h hc ht hd
  case open_ => exact exec_rjopen_ready hp hq hr h
  case tick => exact (fabIssue_ready hp h hr hq _).trans (complete_noFlags _ _ {} rfl rfl rfl)
  case config =>
    intro bs
    split
    next hbad => exact exec_rjstatCfg_outside hp hq hr h hbad
    next hin =>
      split
      next r hc => exact exec_rjstatCfg_fails hp hq hr h hin rfl hc
      next hc => exact exec_rjstatCfg_sends hp hq hr h hin rfl hc
  case stat => exact (fabIssue_ready hp h hr hq _).trans (congrArg _ (defer_eventAdded s e (.rjstat x) ..))
  case pop => exact (fabIssue_ready hp h hr hq _).trans (jobIssue_handed s e (.rjpop x) none)

end Sys2Proof.Machine
end

section
/-! The commands for translation and the tiers (R341, R418, R423), and the refutation of the obligation about them. -/

namespace Sys2Proof.Machine

/-- A TIER_CTL for both dies, inside the limits of its table. -/
def tierCtlBoth : Cmd := { op := 0x1C, seq := 0, rsv := 0, a0 := 7, a1 := 65535, a2 := 4096, a3 := 0 }

/-- The 64 bytes of that command as one number. -/
def tierCtlBytes : Nat := tierCtlBoth.op + 2 ^ 64 * tierCtlBoth.a0 + 2 ^ 128 * tierCtlBoth.a1 + 2 ^ 192 * tierCtlBoth.a2

/-- The device after its reset, with that command at the head of the control queue. -/
def tierCtlState : State :=
  { State.reset with dmem := writeLE [] Config.cqBase 64 tierCtlBytes, host := { State.reset.host with cqTail := 1 } }

/-- The command is at the head of the queue. -/
theorem tierCtlState_command : Command tierCtlState .tierCtl tierCtlBoth :=
  ⟨by decide +kernel, by decide, rfl, by decide⟩

/-- The effect of TIER_CTL: the registers of swapping on the dies that it names. -/
def setTiers (x : Cmd) (s : State) : State :=
  let f (d : Die) : Die :=
    { d with swapOn := bitOf x.a0 2, thr := bitsOf x.a1 0 8, minc := bitsOf x.a1 8 8, epoch := x.a2 }
  { s with die0 := if bitOf x.a0 0 then f s.die0 else s.die0, die1 := if bitOf x.a0 1 then f s.die1 else s.die1 }

/-- TIER_CTL sets the registers of swapping on the dies that it names (R418). -/
theorem carries_tierCtl (x : Cmd) : Carries (.tierCtl x) .tierCtl x (setTiers x) := by
  refine ⟨_, fun s => ⟨_, rfl, ?_⟩⟩
  simp only [Bool.or_eq_true, decide_eq_true_eq, above_iff, or_assoc]
  exact Iff.rfl

/-- The read of a command is an activation of its row of memory, which the counter of the row sees as the head of the queue
moves on (R423). -/
theorem cqNext_counts_row {s : State} (h : (s.die (dieOf s.cqAddr)).rowcnt = []) :
    getAt 0 (s.cqNext.die (dieOf s.cqAddr)).rowcnt (rowNo s s.cqAddr) = 1 := by
  show getAt 0 ((s.activate (dieOf s.cqAddr) [s.cqAddr]).die (dieOf s.cqAddr)).rowcnt (rowNo s s.cqAddr) = 1
  simp only [State.activate, State.setDie_die_self, activations, h, getAt_setAt_self]
  rfl

/-- TIER_CTL with the operands of `tierCtlBoth` is inside the limits of its table. -/
theorem tierCtlBoth_in_limits : ¬ breaks tierCtlState .tierCtl tierCtlBoth := by
  show ¬(8 ≤ 7 ∨ 2 ^ 16 ≤ 65535 ∨ 2 ^ 32 ≤ 4096 ∨ 4096 < 4096 ∨ 0 ≠ 0)
  decide

/-- No row of the device after its reset has a count of activations. -/
theorem reset_rowcnt (k : Nat) : (tierCtlState.die k).rowcnt = [] := by
  cases k <;> rfl

/-- TIER_CTL leaves the counts of activations. -/
theorem setTiers_rowcnt (x : Cmd) (s : State) (k : Nat) : ((setTiers x s).die k).rowcnt = (s.die k).rowcnt := by
  cases k with
  | zero => exact (apply_ite Die.rowcnt (bitOf x.a0 0 = true) ..).trans (ite_self _)
  | succ n => exact (apply_ite Die.rowcnt (bitOf x.a0 1 = true) ..).trans (ite_self _)

/-- Refutes O48: the clause of TIER_CTL keeps every field of a die but the four registers of swapping, but the move of the
head counts the activation of the row that holds the command (R423). The command TIER_CTL for both dies at the queue's first
entry leaves die 0 with a count of 1 for the row of that entry, and no row had a count. -/
theorem not_memoryCommands : ¬ Obligations.MemoryCommands := by
  intro h
  obtain ⟨-, -, htier, -⟩ := h tierCtlState tierCtlBoth
  obtain ⟨t, ht, hdies⟩ := htier tierCtlState_command (by decide) (by decide) (by decide) (by decide) rfl
  rw [(carries_tierCtl tierCtlBoth).done tierCtlState_command tierCtlBoth_in_limits] at ht
  cases ht
  let s := setTiers tierCtlBoth tierCtlState
  let k := dieOf s.cqAddr
  have hcounted : getAt 0 (s.cqNext.die k).rowcnt (rowNo s s.cqAddr) = 1 :=
    cqNext_counts_row ((setTiers_rowcnt _ _ _).trans (reset_rowcnt _))
  have hkept : (s.cqNext.die k).rowcnt = [] := by
    rw [hdies k (by simp only [k, dieOf]; split <;> decide)]
    exact (apply_ite Die.rowcnt ..).trans ((ite_self _).trans (reset_rowcnt k))
  rw [hkept] at hcounted
  exact absurd hcounted (by decide : (0 : Nat) ≠ 1)

end Sys2Proof.Machine
end

section
/-! Host memory, completions and CXL.mem (R428, R429, R432), and the obligation about them. -/

namespace Sys2Proof.Machine

/-! ### Host memory -/

/-- A line of host memory below the expander may be snooped (R428). -/
theorem exec_hostSnoop {line : Nat} (h : line < 2 ^ 39 - 2 ^ 34) (take : Bool) (bs : List (Nat × Byte)) (s : State) :
    exec (.hostSnoop line take bs) s = .next
      (let t := snoopDie (snoopDie s (2 ^ 41 + 128 * line) take 0) (2 ^ 41 + 128 * line) take 1
       if take then { t with hmem := bs.foldl (fun m p => setByte m (128 * line + p.1 % 128) p.2) t.hmem } else t) := by
  have hbelow : ¬ expanderBase ≤ hostBase + 128 * line := by
    simp only [expanderBase, hostBase]
    omega
  exact if_neg hbelow

section
variable {s : State} {k : Nat} {r : HostReq} (h : look s.hostReqs k = some r) (hopen : r.done = none)
include h hopen

/-- A successful completion answers its request (R429). -/
theorem exec_hostCompletion_success (bs : List Byte) :
    exec (.hostCompletion k 0 bs) s = .next (hostAnswer s k r bs) := by
  show execHostCompletion k 0 bs s = _
  simp only [execHostCompletion, h, hopen, Option.isSome_none, Bool.false_eq_true, if_false, if_true]

/-- A completion with another status ends the context that asked (R429). -/
theorem exec_hostCompletion_failure {status : Nat} (hs : status = 1 ∨ status = 2) (bs : List Byte) :
    exec (.hostCompletion k status bs) s = .next (hostFail s k r status) := by
  have hne : status ≠ 0 := by omega
  have hle : status ≤ 2 := by omega
  show execHostCompletion k status bs s = _
  simp only [execHostCompletion, h, hopen, Option.isSome_none, Bool.false_eq_true, if_false, if_neg hne, if_pos hle]

/-- A request that has waited for a millisecond times out (R429). -/
theorem exec_hostCompletionTimeout (hlate : r.since + 3600000 ≤ s.clock) :
    exec (.hostCompletionTimeout k) s = .next (hostFail s k r 3) := by
  show execHostCompletionTimeout k s = _
  simp only [execHostCompletionTimeout, h, hopen, Option.isSome_none, Bool.false_eq_true, false_or,
    if_neg (Nat.not_lt.mpr hlate)]

end

/-- A request that fails for an owner is cause 0xC6 of its context (R429). -/
theorem hostFail_owned {r : HostReq} (h : r.owner ≠ 0) (s : State) (k reason : Nat) :
    hostFail s k r reason = State.fatalDie { s with hostReqs := dropAt s.hostReqs k } r.die r.slot
      { code := 0xC6, info := reason, va := r.va - r.va % 128 } := if_neg h

/-- The answer to a read takes the bytes of host memory that the completion brings (R428). -/
theorem hostAnswer_read {r : HostReq} {n : Nat} (h : r.kind = .read n) (s : State) (k : Nat) (bs : List Byte) :
    (hostAnswer s k r bs).hmem = writeBytes s.hmem (hostAddr r.pa) (bs.take n) ∧
    look (hostAnswer s k r bs).hostReqs k =
      some { r with done := some (readBytes (hostAnswer s k r bs).hmem (hostAddr r.pa) n) } := by
  simp only [hostAnswer, h, look_put_self, and_self]

/-! ### CXL.mem -/

/-- A CXL.mem request of the device-memory range reads or writes its line, once what the device holds of it is home
(R432). -/
theorem exec_cxlMemRequest {s s1 : State} {addr : Nat} (hlo : s.host.hdmBase ≤ addr)
    (hhi : addr < s.host.hdmBase + s.host.hdmSize) (hdev : addr < 2 ^ 41)
    (hretrain : retrainingAt s (addr - addr % 128) = false) (hhot : s.power ≠ .d3hot) (hcold : s.power ≠ .d3cold)
    (hhome : backInvalidate s (addr - addr % 128) = .ok s1 ()) (write : Bool) (bs : List Byte) :
    exec (.cxlMemRequest addr write bs) s = .next
      (if write then cxlWrite s1 (addr - addr % 128) (cxlBytes addr bs) else cxlRead s1 (addr - addr % 128)) := by
  have henabled : ¬(addr < s.host.hdmBase ∨ s.host.hdmBase + s.host.hdmSize ≤ addr ∨ hostBase ≤ addr ∨
      retrainingAt s (addr - addr % 128) = true ∨ s.power = .d3hot ∨ s.power = .d3cold) := by
    simp only [hostBase, hretrain, hhot, hcold, Bool.false_eq_true, or_false]
    omega
  show execCxlMemRequest addr write bs s = _
  simp only [execCxlMemRequest, if_neg henabled, hhome]

/-- A read of a line of which the L2 has no copy reads memory (R432). -/
theorem cxlRead_memory {s s2 : State} {pa : Nat} {data : Sparse Byte} {poison : BitVec 4} (hnone : scLines s pa = [])
    (hread : dramRead s 65536 pa 0 = .ok s2 (data, poison)) :
    cxlRead s pa = { s2 with host := { s2.host with
      answer := some (pa, readBytes data 0 128, poison ≠ 0), copies := s2.host.copies.filter (· ≠ pa) ++ [pa] } } := by
  have hmet : meetCopies s pa = s := by rw [meetCopies, hnone, List.foldl_nil]
  unfold cxlRead
  simp only [hmet, hnone, List.head?_nil, contextless, hread]

/-- Settles O51: the host's turns by their laws above. -/
theorem hostEvents : Obligations.HostEvents := by
  intro s k
  refine ⟨fun take bs hk => exec_hostSnoop hk take bs s, fun r hr hopen => ⟨?_, ?_, ?_, ?_⟩, ?_⟩
  case _ => exact fun bs => exec_hostCompletion_success hr hopen bs
  case _ => exact fun bs n hkind => ⟨_, exec_hostCompletion_success hr hopen bs, hostAnswer_read hkind s k bs⟩
  case _ =>
    intro status bs hstatus howner
    rw [exec_hostCompletion_failure hr hopen hstatus, hostFail_owned howner]
  case _ =>
    intro hlate howner
    rw [exec_hostCompletionTimeout hr hopen hlate, hostFail_owned howner]
  case _ =>
    intro write bs s1 hlo hhi hdev hretrain hhot hcold hhome
    have hexec := exec_cxlMemRequest hlo hhi hdev hretrain hhot hcold hhome write bs
    refine ⟨hexec, ?_⟩
    intro hwrite hnone s2 data poison hread
    subst hwrite
    rw [hexec, if_neg Bool.false_ne_true, cxlRead_memory hnone hread]

end Sys2Proof.Machine
end

section
/-! The host window and the power states (R430, R431, R435, R436), and the obligation about them. -/

namespace Sys2Proof.Machine

/-! ### Notes and vectors -/

/-- A vector that is sent or held changes only what the host has seen and what it waits for (R431). -/
theorem sendVec_host (s : State) (vec : Nat) :
    ∃ sent pending, s.sendVec vec = { s with host := { s.host with sent := sent, pending := pending } } := by
  unfold State.sendVec
  split
  · exact ⟨_, _, rfl⟩
  · exact ⟨_, _, rfl⟩

/-- A note in the log of a die leaves the clock of the cores, the blocks and the memory (R179). -/
theorem note_frame (s : State) (die code loc asid info : Nat) :
    (s.note die code loc asid info).host.clock = s.host.clock ∧ (s.note die code loc asid info).blocks = s.blocks ∧
    (s.note die code loc asid info).dmem = s.dmem := by
  have hset (d : Die) (c : Bool) : (if c then (s.setDie die d).sendVec 0 else s.setDie die d).host.clock = s.host.clock ∧
      (if c then (s.setDie die d).sendVec 0 else s.setDie die d).blocks = s.blocks ∧
      (if c then (s.setDie die d).sendVec 0 else s.setDie die d).dmem = s.dmem := by
    obtain ⟨sent, pending, hsend⟩ := sendVec_host (s.setDie die d) 0
    rw [hsend]
    cases c
    · simp
    · simp
  exact hset _ _

/-- A stack that is asked to run slower leaves the clock of the cores, the blocks and the memory (R424, R436). -/
theorem lowerRate_frame (s : State) :
    (lowerRate s).host = s.host ∧ (lowerRate s).blocks = s.blocks ∧ (lowerRate s).dmem = s.dmem := by
  simp only [lowerRate]
  split
  · exact ⟨rfl, rfl, rfl⟩
  · simp

/-! ### The host window and the power states -/

section
variable {s : State} (h : s.awake = true)
include h

/-- PCAP takes a value between 800 and 2,600 and ignores others (R430). -/
theorem exec_pcapWrite (w : Nat) : exec (.pcapWrite w) s = .next
    (if 800 ≤ w % 65536 ∧ w % 65536 ≤ 2600 then { s with host := { s.host with pcap := w % 65536 } } else s) := by
  show execPcapWrite w s = _
  simp only [execPcapWrite, h, Bool.not_true, Bool.false_eq_true, if_false]
  by_cases hw : 800 ≤ w % 65536 ∧ w % 65536 ≤ 2600
  · rw [if_pos hw, if_neg (by omega)]
  · rw [if_neg hw, if_pos (by omega)]

/-- A read of EVTAIL marks the log of the die as read (R179, R430). -/
theorem exec_evtailRead {die : Nat} (hdie : die < 2) :
    exec (.evtailRead die) s = .next (s.setDie die { s.die die with evread := true }) := if_pos ⟨h, hdie⟩

/-- An access of another size or off its boundary has no effect (R430). -/
theorem exec_unsupportedRequest {off size : Nat} (hreq : (size ≠ 4 ∧ size ≠ 8) ∨ off % size ≠ 0) (w : Bool) :
    exec (.unsupportedRequest off size w) s = .next s := if_pos ⟨h, hreq⟩

/-- The clock goes up a step of 100 MHz, which is noted (R436). -/
theorem exec_clockUp (hmax : s.host.clock < 3600) : exec (.powerCapClockChange false) s = .next
    (State.note { s with host := { s.host with clock := s.host.clock + 100 } } 0 0xC7 (dieLoc 0) 65535
      (s.host.clock + 100)) := by
  show execPowerCapClockChange false s = _
  simp only [execPowerCapClockChange, h, Bool.not_true, Bool.false_eq_true, if_false, false_or,
    if_neg (Nat.not_le.mpr hmax), noAsid]

/-- The clock goes down a step of 100 MHz; blocks and memory stay (R436). -/
theorem exec_clockDown (hmin : 1200 < s.host.clock) : ∃ t, exec (.powerCapClockChange true) s = .next t ∧
    t.host.clock = s.host.clock - 100 ∧ t.blocks = s.blocks ∧ t.dmem = s.dmem := by
  let s' : State := { s with host := { s.host with clock := s.host.clock - 100 } }
  refine ⟨(lowerRate s').note 0 0xC7 (dieLoc 0) noAsid (s.host.clock - 100), ?_, ?_⟩
  · show execPowerCapClockChange true s = _
    simp only [execPowerCapClockChange, h, Bool.not_true, Bool.false_eq_true, if_true, false_or,
      if_neg (Nat.not_le.mpr hmin), s']
  · obtain ⟨hclock, hblocks, hmem⟩ := note_frame (lowerRate s') 0 0xC7 (dieLoc 0) noAsid (s.host.clock - 100)
    obtain ⟨lhost, lblocks, lmem⟩ := lowerRate_frame s'
    exact ⟨hclock.trans (congrArg _ lhost), hblocks.trans lblocks, hmem.trans lmem⟩

/-- D3hot, which every slot must be free for, keeps the memories, the remaps and the clock, and loses the rest (R435). -/
theorem exec_d3hot {o : State} (hfree : ∀ p ∈ s.ctxs, p.2.state = .free) (hflush : s.flushAll = .ok o ()) :
    exec .d3hot s = .next { s.afterLoss.keepMemory o with power := .d3hot } := by
  have hall : allFree s = true := List.all_eq_true.mpr fun p hp => decide_eq_true (hfree p hp)
  show execD3hot s = _
  simp only [execD3hot, h, hall, and_self, if_true, hflush]

end

/-- The unmasking of a vector sends what it held (R431). -/
theorem exec_msiXUnmask {s : State} {vec : Nat} (hvec : vec < 256) (hcold : s.power ≠ .d3cold) :
    ∃ t, exec (.msiXUnmask vec) s = .next t ∧ getAt false t.host.unmasked vec = true ∧
      getAt false t.host.pending vec = false ∧
      t.host.sent = s.host.sent ++ (if getAt false s.host.pending vec then [vec] else []) := by
  let s' : State := { s with host := { s.host with unmasked := setAt false s.host.unmasked vec true,
                                                   pending := setAt false s.host.pending vec false } }
  have hexec : exec (.msiXUnmask vec) s = .next (if getAt false s.host.pending vec then s'.sendVec vec else s') :=
    if_neg (by simp only [hcold, false_or]; omega)
  have hopen : getAt false s'.host.unmasked vec = true := getAt_setAt_self false s.host.unmasked vec true
  have hnone : getAt false s'.host.pending vec = false := getAt_setAt_self false s.host.pending vec false
  cases hheld : getAt false s.host.pending vec with
  | false => exact ⟨s', by rw [hexec, hheld]; rfl, hopen, hnone, (List.append_nil _).symm⟩
  | true =>
    have hsend : s'.sendVec vec = { s' with host := { s'.host with sent := s'.host.sent ++ [vec] } } := if_pos hopen
    exact ⟨s'.sendVec vec, by rw [hexec, hheld]; rfl, by rw [hsend]; exact hopen, by rw [hsend]; exact hnone,
      by rw [hsend]; rfl⟩

/-- The turn that masks a vector sends nothing (R431). -/
theorem step_mask {s : State} {vec : Nat} {rest : List Turn} (hvec : vec < 256) (hcold : s.power ≠ .d3cold)
    (hturns : s.turns = .mask vec :: rest) :
    ∃ t, step s = .next t ∧ getAt false t.host.unmasked vec = false ∧ t.host.sent = s.host.sent := by
  let s' : State := { s with turns := rest, host := { s.host with unmasked := setAt false s.host.unmasked vec false } }
  have hmask : maskVector vec { s with turns := rest } = .next s' :=
    if_neg (by simp only [hcold, false_or]; omega)
  refine ⟨s'.tick, ?_, getAt_setAt_self false s.host.unmasked vec false, rfl⟩
  simp only [step, hturns, takeTurn, hmask, ticked]

/-- D0-idle is entered where no context is LIVE (R435). -/
theorem exec_d0Idle {s : State} (hactive : s.power = .d0Active) (hidle : ∀ p ∈ s.ctxs, p.2.state ≠ .live) :
    exec .d0Idle s = .next { s with power := .d0Idle } := by
  have hnone : (s.ctxs.any fun p => p.2.state = .live) = false :=
    List.any_eq_false.mpr fun p hp => by simpa using hidle p hp
  exact if_pos ⟨hactive, by rw [hnone]; rfl⟩

/-- Settles O52: each register and each power state by its law above. -/
theorem windowAndPower : Obligations.WindowAndPower := by
  intro s
  refine ⟨fun h => ⟨exec_pcapWrite h, fun die => exec_evtailRead h, fun off size w hreq => exec_unsupportedRequest h hreq w,
      exec_clockUp h, exec_clockDown h, ?_⟩, fun vec => exec_msiXUnmask, fun vec rest => step_mask, exec_d0Idle, ?_, ?_⟩
  case _ =>
    intro hfree o hflush
    exact ⟨_, exec_d3hot h hfree hflush, rfl, rfl, rfl, rfl, rfl, rfl, rfl⟩
  case _ =>
    intro hcold
    exact ⟨_, if_neg hcold, rfl, rfl, rfl, rfl⟩
  case _ =>
    intro hhot
    exact if_pos hhot

end Sys2Proof.Machine
end

section
/-! Resets and the management controller (R433, R434, R437), and the obligation about them. -/

namespace Sys2Proof.Machine

/-! ### Resets -/

/-- A LIVE context begins to end at a function-level reset, and others stay as they are (R434). -/
def endedByFlr (c : Ctx) : Ctx := if c.state = .live then { c with state := .ending, first := none, more := 0 } else c

/-- The state of a context after a function-level reset has begun. -/
theorem endedByFlr_state (c : Ctx) : (endedByFlr c).state = if c.state = .live then .ending else c.state := by
  unfold endedByFlr
  split
  · rfl
  · rfl

/-- A function-level reset first ends the LIVE contexts (R434). -/
theorem exec_flr_begins {s : State} (hhot : s.power ≠ .d3hot) (hcold : s.power ≠ .d3cold) (hflr : s.host.flr = false)
    (hrun : ∃ p ∈ s.ctxs, p.2.state = .live ∨ p.2.state = .ending) :
    exec .functionLevelReset s = .next { s with
      host := { s.host with flr := true }, ctxs := s.ctxs.map fun p => (p.1, endedByFlr p.2) } := by
  obtain ⟨p, hp, hstate⟩ := hrun
  have hstopped : allStopped s = false := List.all_eq_false.mpr ⟨p, hp, by rcases hstate with h | h <;> simp [h]⟩
  show execFunctionLevelReset s = _
  simp only [execFunctionLevelReset, hhot, hcold, or_self, if_false, hstopped, Bool.false_eq_true, hflr]
  rfl

/-- The context of a slot after a function-level reset has begun. -/
theorem ctx_endedByFlr (s : State) (host : HostRegs) (slot : Nat) :
    (State.ctx { s with host := host, ctxs := s.ctxs.map fun p => (p.1, endedByFlr p.2) } slot) =
      endedByFlr (s.ctx slot) := by
  have hmap : look (s.ctxs.map fun p => (p.1, endedByFlr p.2)) slot = (look s.ctxs slot).map endedByFlr :=
    look_map (fun _ => endedByFlr) s.ctxs slot
  simp only [State.ctx, hmap]
  cases look s.ctxs slot with
  | none => rfl
  | some c => rfl

/-- A function-level reset keeps the memories once the contexts have ended (R434). -/
theorem exec_flr_ends {s o : State} (hhot : s.power ≠ .d3hot) (hcold : s.power ≠ .d3cold)
    (hstopped : ∀ p ∈ s.ctxs, p.2.state = .free ∨ p.2.state = .ended) (hflush : s.flushAll = .ok o ()) :
    exec .functionLevelReset s = .next { s.afterLoss.keepMemory o with mgmt := s.mgmt, power := .d0Active } := by
  have hall : allStopped s = true := List.all_eq_true.mpr fun p hp => by simpa using hstopped p hp
  show execFunctionLevelReset s = _
  simp only [execFunctionLevelReset, hhot, hcold, or_self, if_false, hall, if_true, hflush]

/-! ### The management controller -/

/-- A verified image of an update is staged, and another one is ignored (R433). -/
theorem exec_firmwareUpdate {s : State} (hcold : s.power ≠ .d3cold) (req : List Byte) :
    exec (.firmwareUpdate req) s = .next
      (if Config.imageSigned req ∧ s.mgmt.minVersion ≤ Config.imageVersion req then
        { s with mgmt := { s.mgmt with staged := some req } } else s) := by
  show execFirmwareUpdate req s = _
  simp only [execFirmwareUpdate, if_neg hcold, Mgmt.verifies, Bool.and_eq_true, decide_eq_true_eq]
  split
  · rfl
  · rfl

/-- A request of an SPDM exchange is answered in its place of the order, and with an error before it (R433). -/
theorem spdm_answers {s : State} (hcold : s.power ≠ .d3cold) (hrecov : s.mgmt.recov = false) (m : String)
    (need step : Nat) (r : Reply) :
    spdm s m need step r = .next { s with mgmt :=
      if s.mgmt.spdm < need then { s.mgmt with replies := s.mgmt.replies ++ [.error] }
      else { s.mgmt with spdm := step, replies := s.mgmt.replies ++ [r] } } := by
  simp only [spdm, hcold, hrecov, Bool.false_eq_true, or_self, if_false]
  split
  · rfl
  · rfl

/-- Settles O53: the resets and the controller by their laws above. -/
theorem resetAndManagement : Obligations.ResetAndManagement := by
  intro s req
  refine ⟨⟨_, rfl, rfl, rfl, rfl, rfl, rfl, rfl, rfl, rfl, rfl, rfl, rfl, rfl⟩, ?_, ?_, ?_, ?_⟩
  case _ =>
    intro hhot hcold hflr hrun
    refine ⟨_, exec_flr_begins hhot hcold hflr hrun, rfl, rfl, fun slot => ?_⟩
    rw [ctx_endedByFlr, endedByFlr_state]
  case _ =>
    intro hhot hcold hstopped o hflush
    exact ⟨_, exec_flr_ends hhot hcold hstopped hflush, rfl, rfl, rfl⟩
  case _ => exact fun hcold => exec_firmwareUpdate hcold req
  case _ =>
    intro hcold hrecov
    have h := spdm_answers hcold hrecov
    exact ⟨h .., h .., h .., h .., h .., h .., h ..⟩

end Sys2Proof.Machine
end

section
/-! The tree of a reduction, the owner of a granule and the scan (R453, R454, R464), and the obligation about them. -/

namespace Sys2Proof.Machine

/-! ### The tree of a reduction -/

/-- The greatest power of two below `n` among those of exponent below `m`, unless all of them are below `n`. -/
theorem foldl_half {n : Nat} (hn : 2 ≤ n) (m : Nat) : ∃ k, k ≤ m ∧
    (List.range (m + 1)).foldl (fun h k => if 2 ^ k < n then 2 ^ k else h) 1 = 2 ^ k ∧ 2 ^ k < n ∧
    (n ≤ 2 ^ (k + 1) ∨ k = m) := by
  induction m with
  | zero => exact ⟨0, le_rfl, by simp, by omega, .inr rfl⟩
  | succ m ih =>
    obtain ⟨k, hkm, hfold, hlt, htop⟩ := ih
    rw [List.range_succ, List.foldl_append, hfold, List.foldl_cons, List.foldl_nil]
    split
    · next h => exact ⟨m + 1, le_rfl, rfl, h, .inr rfl⟩
    · next h =>
      refine ⟨k, by omega, rfl, hlt, .inl ?_⟩
      rcases htop with htop | rfl
      · exact htop
      · omega

/-- A reduction splits its ranks at the greatest power of two below their number (R453). -/
theorem halfOf_spec {n : Nat} (hn : 2 ≤ n) (hmax : n ≤ 8192) : ∃ k, halfOf n = 2 ^ k ∧ 2 ^ k < n ∧ n ≤ 2 ^ (k + 1) := by
  obtain ⟨k, -, hfold, hlt, htop⟩ := foldl_half hn 12
  refine ⟨k, hfold, hlt, ?_⟩
  rcases htop with htop | rfl
  · exact htop
  · exact hmax

/-- A tree of one rank is its contribution. -/
theorem tree_one (c : Nat → Nat) (d lo : Nat) {n : Nat} (hn : n ≤ 1) : tree c d lo n = c lo := by
  cases d with
  | zero => rfl
  | succ d => exact if_pos hn

/-- A tree of two ranks or more adds those of its parts. -/
theorem tree_split (c : Nat → Nat) (d lo : Nat) {n : Nat} (hn : 2 ≤ n) : tree c (d + 1) lo n =
    (fAdd .f32 .rn (tree c d lo (halfOf n)) (tree c d (lo + halfOf n) (n - halfOf n))).1 := if_neg (by omega)

/-- A depth that suffices for the ranks gives the tree of every greater depth. -/
theorem tree_depth (c : Nat → Nat) (e : Nat) : ∀ (d lo n : Nat), n ≤ 2 ^ d → n ≤ 8192 →
    tree c (d + e) lo n = tree c d lo n := by
  intro d
  induction d with
  | zero =>
    intro lo n hn _
    rw [tree_one c _ lo hn, tree_one c _ lo hn]
  | succ d ih =>
    intro lo n hn hmax
    rcases Nat.lt_or_ge 1 n with hge | hone
    · obtain ⟨k, hhalf, hlt, htop⟩ := halfOf_spec hge hmax
      have hkd : 2 ^ k ≤ 2 ^ d :=
        Nat.pow_le_pow_right (by decide) (Nat.lt_succ_iff.mp ((Nat.pow_lt_pow_iff_right (by decide)).mp (hlt.trans_le hn)))
      have hrest : n - 2 ^ k ≤ 2 ^ d := by
        rw [Nat.pow_succ] at htop
        omega
      rw [Nat.succ_add_eq_add_succ, Nat.add_succ, tree_split c _ lo hge, tree_split c _ lo hge, hhalf,
        ih lo _ hkd (by omega), ih _ _ hrest (by omega)]
    · rw [tree_one c _ lo hone, tree_one c _ lo hone]

/-- The tree that a collective computes is the sum of those of the two parts of its ranks (R453). -/
theorem tree_ranks (c : Nat → Nat) (lo : Nat) {n : Nat} (hn : 2 ≤ n) (hmax : n ≤ 8192) : ∃ k, 2 ^ k < n ∧ n ≤ 2 ^ (k + 1) ∧
    tree c 14 lo n = (fAdd .f32 .rn (tree c 14 lo (2 ^ k)) (tree c 14 (lo + 2 ^ k) (n - 2 ^ k))).1 := by
  obtain ⟨k, hhalf, hlt, htop⟩ := halfOf_spec hn hmax
  have hdeep (lo m : Nat) (hm : m ≤ 8192) : tree c 14 lo m = tree c 13 lo m := tree_depth c 1 13 lo m hm hm
  refine ⟨k, hlt, htop, ?_⟩
  rw [tree_split c 13 lo hn, hhalf, hdeep lo _ (by omega), hdeep _ _ (by omega)]

/-! ### The owner of a granule -/

/-- The owner of a granule folds the three parts of its address above the granule (R454). -/
theorem shardOwner_eq {va : Nat} (h : va < 2 ^ 57) (n : Nat) :
    shardOwner va n = ((va / 2 ^ 16 % 2 ^ 16) ^^^ (va / 2 ^ 32 % 2 ^ 16) ^^^ (va / 2 ^ 48)) % n := by
  have htop : va / 2 ^ 48 % 2 ^ 9 = va / 2 ^ 48 := Nat.mod_eq_of_lt (by omega)
  simp only [shardOwner, foldVa, bitsOf, htop]

/-! ### The scan of a segment -/

/-- The advantage of step `t` where that of step `t` + 1 is `a` (R464). -/
def advantageStep (gamma gl vboot len done miss : Nat) (v r : List Byte) (t a : Nat) : Nat :=
  let f2 (g : Fmt → Rnd → Nat → Nat → Nat × Flags) (x y : Nat) : Nat := (g .f32 .rn x y).1
  let vn := if t + 1 = len then vboot else wordAt v (t + 1)
  let rt := if bitOf miss t then 0 else wordAt r t
  let delta := f2 fSub (f2 fAdd rt (if bitOf done t then 0 else f2 fMul gamma vn)) (wordAt v t)
  f2 fAdd delta (if bitOf done t then 0 else f2 fMul gl a)

/-- The advantages that a step function gives, by the number of steps from the end. -/
def advantageBack (f : Nat → Nat → Nat) (len : Nat) : Nat → Nat
  | 0 => 0
  | j + 1 => f (len - (j + 1)) (advantageBack f len j)

/-- Each advantage comes from that of the next step. -/
theorem advantageBack_step (f : Nat → Nat → Nat) {len t : Nat} (ht : t < len) :
    advantageBack f len (len - t) = f t (advantageBack f len (len - (t + 1))) := by
  have hsteps : len - t = (len - (t + 1)) + 1 := by omega
  have hself : len - ((len - (t + 1)) + 1) = t := by omega
  rw [hsteps, advantageBack, hself]

/-- The scan writes the pairs of the steps before `k` in their order, where `adv` is the sequence of the advantages. -/
theorem scanFrom_eq {gamma gl vboot len done miss : Nat} {v r : List Byte} {adv : Nat → Nat} (k : Nat)
    (hadv : ∀ t < k, adv t = advantageStep gamma gl vboot len done miss v r t (adv (t + 1))) (out : List (Nat × Nat)) :
    scanFrom gamma gl vboot len done miss v r k (adv k) out =
      (List.range k).map (fun t => (adv t, (fAdd .f32 .rn (adv t) (wordAt v t)).1)) ++ out := by
  induction k generalizing out with
  | zero => rfl
  | succ k ih =>
    have hstep : scanFrom gamma gl vboot len done miss v r (k + 1) (adv (k + 1)) out =
        scanFrom gamma gl vboot len done miss v r k (adv k) ((adv k, (fAdd .f32 .rn (adv k) (wordAt v k)).1) :: out) := by
      rw [hadv k k.lt_succ_self]
      rfl
    rw [hstep, ih fun t ht => hadv t (ht.trans k.lt_succ_self), List.range_succ, List.map_append, List.append_assoc]
    rfl

/-- The pairs of a segment follow the recurrence of the scan from its last step down (R464). -/
theorem scan_spec (hd v r : List Byte) (len miss : Nat) :
    let gamma := sliceNat hd 0x10 4
    let gl := (fMul .f32 .rn gamma (sliceNat hd 0x14 4)).1
    (scan hd v r len miss).length = len ∧ ∃ adv : Nat → Nat, adv len = 0 ∧ ∀ t, t < len →
      adv t = advantageStep gamma gl (sliceNat hd 0x18 4) len (sliceNat hd 0x40 128) miss v r t (adv (t + 1)) ∧
      (scan hd v r len miss)[t]? = some (adv t, (fAdd .f32 .rn (adv t) (wordAt v t)).1) := by
  intro gamma gl
  let f := advantageStep gamma gl (sliceNat hd 0x18 4) len (sliceNat hd 0x40 128) miss v r
  let adv (t : Nat) : Nat := advantageBack f len (len - t)
  have hend : adv len = 0 := by simp only [adv, Nat.sub_self, advantageBack]
  have hadv : ∀ t < len, adv t = f t (adv (t + 1)) := fun t ht => advantageBack_step f ht
  have hscan : scan hd v r len miss = (List.range len).map fun t => (adv t, (fAdd .f32 .rn (adv t) (wordAt v t)).1) := by
    have h := scanFrom_eq len hadv []
    rw [hend, List.append_nil] at h
    exact h
  refine ⟨by rw [hscan, List.length_map, List.length_range], adv, hend, fun t ht => ⟨hadv t ht, ?_⟩⟩
  rw [hscan, List.getElem?_map, List.getElem?_range ht, Option.map_some]

/-- Settles O42: the tree, the owner and the scan by their laws above. -/
theorem fabricArithmetic : Obligations.FabricArithmetic :=
  ⟨fun c lo => tree_one c 14 lo le_rfl, fun c lo _ hn hmax => tree_ranks c lo hn hmax, fun _ n hva => shardOwner_eq hva n,
    fun hd v r len miss => scan_spec hd v r len miss⟩

end Sys2Proof.Machine
end

section
/-! States up to notes and counters of activations, and what sound device memory answers (R421, R423, R424). -/

open Sys2Proof Sys2Proof.Machine

namespace Sys2Proof.Machine

/-! ### States up to what the logs and the counters of activations say

An access to device memory counts the activation of a row, and may note a refresh in the die's log (R423). -/

/-- A die without its log and its counters of activations. -/
def Die.unnoted (d : Die) : Die := { d with log := [], evtail := 0, evread := false, rowcnt := [] }

/-- A state without logs, messages for the host and counters of activations. -/
def State.unnoted (s : State) : State :=
  { s with die0 := s.die0.unnoted, die1 := s.die1.unnoted, host := { s.host with sent := [], pending := [] } }

/-- A die of a state without its notes. -/
theorem unnoted_die (s : State) (k : Nat) : s.unnoted.die k = (s.die k).unnoted := by
  cases k <;> rfl

/-- A die that is replaced in a state without its notes. -/
theorem unnoted_setDie (s : State) (k : Nat) (d : Die) : (s.setDie k d).unnoted = s.unnoted.setDie k d.unnoted := by
  cases k <;> rfl

/-- An activation changes nothing but notes. -/
theorem activate_unnoted (s : State) (die : Nat) (pas : List Nat) : (s.activate die pas).unnoted = s.unnoted := by
  cases die <;> rfl

/-- A vector changes nothing but the messages for the host. -/
theorem sendVec_unnoted (s : State) (vec : Nat) : (s.sendVec vec).unnoted = s.unnoted := by
  unfold State.sendVec
  split
  · rfl
  · rfl

/-- Either of two dies that differ from a third in notes. -/
theorem unnoted_ite {c : Prop} [Decidable c] {d a b : Die} (ha : a.unnoted = d.unnoted) (hb : b.unnoted = d.unnoted) :
    (if c then a else b).unnoted = d.unnoted := by
  split
  · exact ha
  · exact hb

/-- A note changes nothing but notes. -/
theorem note_unnoted (s : State) (die code loc asid info : Nat) :
    (s.note die code loc asid info).unnoted = s.unnoted := by
  unfold State.note
  extract_lets d same d' s'
  have hd : d'.unnoted = d.unnoted := unnoted_ite (by simp only [Die.unnoted]) (by simp only [Die.unnoted])
  have hs : s'.unnoted = s.unnoted := by
    rw [unnoted_setDie, hd]
    cases die <;> rfl
  clear_value s'
  split
  · exact (sendVec_unnoted _ _).trans hs
  · exact hs

/-- Every field but the notes of a die is the same in two states that differ in notes. -/
theorem die_of_unnoted {s t : State} (h : t.unnoted = s.unnoted) (k : Nat) : (t.die k).unnoted = (s.die k).unnoted := by
  rw [← unnoted_die, ← unnoted_die, h]

/-- Device memory is the same in two states that differ in notes. -/
theorem dmem_of_unnoted {s t : State} (h : t.unnoted = s.unnoted) : t.dmem = s.dmem := (congrArg State.dmem h :)

/-- Notes do not make device memory less sound. -/
theorem Sound.of_unnoted {s t : State} (hs : Sound s) (h : t.unnoted = s.unnoted) : Sound t where
  poison := (congrArg State.poison h).trans hs.poison
  ecc := (congrArg State.ecc h).trans hs.ecc
  remap k := (congrArg Die.rerr (die_of_unnoted h k)).trans (hs.remap k)
  rates k := (congrArg Die.retraining (die_of_unnoted h k)).trans (hs.rates k)

/-! ### Sound device memory -/

section
variable {s : State} (hs : Sound s)
include hs

/-- No stack retrains. -/
theorem Sound.retrainingAt (pa : Nat) : retrainingAt s pa = false := by
  simp only [Machine.retrainingAt, hs.rates, getAt, Bool.and_false]

/-- The word of the remap table has no error. -/
theorem Sound.remapCheck (asid pa va : Nat) : remapCheck s asid pa va = .ok s () := by
  unfold Machine.remapCheck
  dsimp only
  rw [hs.remap]
  rfl

/-- There is no error to correct. -/
theorem Sound.eccClean (asid w n : Nat) : eccClean s asid w n = s := by
  have hnone : ((List.range n).filter fun i => getAt false s.ecc (w + i)) = [] := by
    simp only [hs.ecc, getAt, List.filter_false]
  simp only [Machine.eccClean, hnone, List.isEmpty_nil, if_true]

/-- A read by physical address returns the number that stands there. -/
theorem Sound.physRead (asid pa va n : Nat) :
    physRead s asid pa va n = .ok (s.activate (dieOf pa) [pa]) (readLE s.dmem pa n) := by
  have ha := hs.of_unnoted (activate_unnoted s (dieOf pa) [pa])
  have hpoison : getAt false (s.activate (dieOf pa) [pa]).poison (pa / 32) = false := by rw [ha.poison]; rfl
  have hmem : (s.activate (dieOf pa) [pa]).dmem = s.dmem := dmem_of_unnoted (activate_unnoted ..)
  simp only [Machine.physRead, hs.retrainingAt, Bool.false_eq_true, if_false, hs.remapCheck, Got.bind, hpoison,
    ha.eccClean, hmem]

/-- The bytes of a list of places that lie in word `w` of a line. -/
theorem Sound.dramWord (asid pa va : Nat) (bs : List (Nat × Byte)) (w : Nat) : dramWord s asid pa va bs w =
    { s with dmem := (bs.filter fun p => p.1 / 32 = w).foldl (fun m p => setByte m (pa + p.1) p.2) s.dmem } := by
  have hpoison : s.poison = [] := hs.poison
  have hecc : s.ecc = [] := hs.ecc
  unfold Machine.dramWord
  dsimp only
  split
  · next h =>
    rw [List.isEmpty_iff.mp h, List.foldl_nil]
  · split
    · simp only [hpoison, hecc]
      obtain ⟨⟩ := s
      simp only at hpoison hecc
      subst hpoison hecc
      rfl
    · rw [if_neg (by rw [hpoison]; exact Bool.false_ne_true), hs.eccClean]

end

/-! ### Bytes of lists of places -/

/-- The value at an address after bytes at places of a line are written, one after another, each the byte that `g` gives for
its place. -/
theorem getByte_foldl_setByte {pa : Nat} {g : Nat → Byte} (bs : List (Nat × Byte)) (hg : ∀ p ∈ bs, p.2 = g p.1)
    (m : Sparse Byte) (b : Nat) : getByte (bs.foldl (fun m p => setByte m (pa + p.1) p.2) m) b =
      if ∃ p ∈ bs, pa + p.1 = b then g (b - pa) else getByte m b := by
  induction bs generalizing m with
  | nil => simp
  | cons q bs ih =>
    rw [List.foldl_cons, ih fun p hp => hg p (.tail _ hp), getByte_setByte, hg q (.head _)]
    by_cases hrest : ∃ p ∈ bs, pa + p.1 = b
    · obtain ⟨p, hp, hb⟩ := hrest
      rw [if_pos ⟨p, hp, hb⟩, if_pos ⟨p, .tail _ hp, hb⟩]
    · rw [if_neg hrest]
      by_cases hq : b = pa + q.1
      · rw [if_pos hq, if_pos ⟨q, .head _, hq.symm⟩, hq, Nat.add_sub_cancel_left]
      · rw [if_neg hq, if_neg]
        rintro ⟨p, hp, hb⟩
        rcases List.mem_cons.mp hp with rfl | hp
        · exact hq hb.symm
        · exact hrest ⟨p, hp, hb⟩

/-- The bytes of a write to a line, word by word (R421). -/
def wordsWritten (pa : Nat) (bs : List (Nat × Byte)) (ws : List Nat) (m : Sparse Byte) : Sparse Byte :=
  ws.foldl (fun m w => (bs.filter fun p => p.1 / 32 = w).foldl (fun m p => setByte m (pa + p.1) p.2) m) m

/-- Word by word, the bytes of a line are written as they are listed. -/
theorem getByte_wordsWritten {pa : Nat} {g : Nat → Byte} {bs : List (Nat × Byte)} (hg : ∀ p ∈ bs, p.2 = g p.1)
    (hline : ∀ p ∈ bs, p.1 < 128) (m : Sparse Byte) (b : Nat) : getByte (wordsWritten pa bs [0, 1, 2, 3] m) b =
      if ∃ p ∈ bs, pa + p.1 = b then g (b - pa) else getByte m b := by
  have hword (w : Nat) (m : Sparse Byte) := getByte_foldl_setByte (pa := pa) (bs.filter fun p => p.1 / 32 = w)
    (fun p hp => hg p (List.mem_filter.mp hp).1) m b
  simp only [wordsWritten, List.foldl_cons, List.foldl_nil, hword]
  by_cases hex : ∃ p ∈ bs, pa + p.1 = b
  · obtain ⟨p, hp, hb⟩ := hex
    have hlt := hline p hp
    have hwords : p.1 / 32 = 0 ∨ p.1 / 32 = 1 ∨ p.1 / 32 = 2 ∨ p.1 / 32 = 3 := by omega
    rw [if_pos (c := ∃ p ∈ bs, pa + p.1 = b) ⟨p, hp, hb⟩]
    split
    · rfl
    · next h3 =>
      split
      · rfl
      · next h2 =>
        split
        · rfl
        · next h1 =>
          split
          · rfl
          · next h0 =>
            rcases hwords with hw | hw | hw | hw
            · exact absurd ⟨p, List.mem_filter.mpr ⟨hp, decide_eq_true hw⟩, hb⟩ h0
            · exact absurd ⟨p, List.mem_filter.mpr ⟨hp, decide_eq_true hw⟩, hb⟩ h1
            · exact absurd ⟨p, List.mem_filter.mpr ⟨hp, decide_eq_true hw⟩, hb⟩ h2
            · exact absurd ⟨p, List.mem_filter.mpr ⟨hp, decide_eq_true hw⟩, hb⟩ h3
  · have hnone (w : Nat) : ¬∃ p ∈ bs.filter fun p => p.1 / 32 = w, pa + p.1 = b := by
      rintro ⟨p, hp, hb⟩
      exact hex ⟨p, (List.mem_filter.mp hp).1, hb⟩
    rw [if_neg hex, if_neg (hnone 3), if_neg (hnone 2), if_neg (hnone 1), if_neg (hnone 0)]

/-- A memory write to sound memory writes the bytes and counts the activation. -/
theorem Sound.dramWrite {s : State} (hs : Sound s) (asid pa va : Nat) (bs : List (Nat × Byte)) :
    dramWrite s asid pa va bs =
      { s.activate (dieOf pa) [pa] with dmem := wordsWritten pa bs [0, 1, 2, 3] s.dmem } := by
  let t := s.activate (dieOf pa) [pa]
  have ht : Sound t := hs.of_unnoted (activate_unnoted s (dieOf pa) [pa])
  have hwith (m : Sparse Byte) : Sound { t with dmem := m } := ⟨ht.poison, ht.ecc, ht.remap, ht.rates⟩
  have hmem : t.dmem = s.dmem := dmem_of_unnoted (activate_unnoted ..)
  have hstep (m : Sparse Byte) (w : Nat) : Machine.dramWord { t with dmem := m } asid pa va bs w =
      { t with dmem := (bs.filter fun p => p.1 / 32 = w).foldl (fun m p => setByte m (pa + p.1) p.2) m } :=
    (hwith m).dramWord asid pa va bs w
  have hfold (ws : List Nat) (m : Sparse Byte) :
      ws.foldl (fun s w => Machine.dramWord s asid pa va bs w) { t with dmem := m } =
        { t with dmem := wordsWritten pa bs ws m } := by
    induction ws generalizing m with
    | nil => rfl
    | cons w ws ih => rw [List.foldl_cons, hstep, ih]; rfl
  have hstart : ({ t with dmem := s.dmem } : State) = t := by rw [← hmem]
  unfold Machine.dramWrite
  rw [hs.remapCheck]
  have h := hfold [0, 1, 2, 3] s.dmem
  rw [hstart] at h
  exact h

end Sys2Proof.Machine
end

section
/-! Bytes written by physical address and the tier engine (R416 to R420, R423, R424), and the obligation about them. -/

open Sys2Proof Sys2Proof.Machine

namespace Sys2Proof.Machine

/-! ### Bytes written by physical address -/

/-- State `t` is `s` with the bytes `bs` in device memory from `pa` on, but for notes. -/
structure Stored (s : State) (pa : Nat) (bs : List Byte) (t : State) : Prop where
  rest : t.unnoted = ({ s with dmem := t.dmem } : State).unnoted
  inside : ∀ i < bs.length, getByte t.dmem (pa + i) = bs.getD i 0
  outside : ∀ b, b < pa ∨ pa + bs.length ≤ b → getByte t.dmem b = getByte s.dmem b

/-- A range inside one line is one piece. -/
theorem pieces_line {pa n : Nat} {bs : List Byte} (hn : n ≠ 0) (hline : pa % 128 + n ≤ 128) :
    pieces pa n bs = [⟨pa, n, bs.take n⟩] := by
  have hmin : min n (128 - pa % 128) = n := by omega
  simp only [pieces, piecesOf, if_neg hn, hmin, Nat.sub_self, if_true]

/-- The bytes of a piece with their places in the line. -/
def placed (off : Nat) (bs : List Byte) : List (Nat × Byte) :=
  ((List.range bs.length).zip bs).map fun p => (off + p.1, p.2)

/-- A place of a piece holds the byte of its index. -/
theorem mem_placed {off : Nat} {bs : List Byte} {p : Nat × Byte} :
    p ∈ placed off bs ↔ ∃ i < bs.length, p = (off + i, bs.getD i 0) := by
  simp only [placed, List.mem_map]
  constructor
  · rintro ⟨q, hq, rfl⟩
    obtain ⟨i, hi, hget⟩ := List.mem_iff_getElem.mp hq
    simp only [List.length_zip, List.length_range, Nat.min_self] at hi
    rw [List.getElem_zip, List.getElem_range] at hget
    exact ⟨i, hi, by rw [← hget, List.getD_eq_getElem _ _ hi]⟩
  · rintro ⟨i, hi, rfl⟩
    refine ⟨(i, bs.getD i 0), List.mem_iff_getElem.mpr ⟨i, by simpa using hi, ?_⟩, rfl⟩
    rw [List.getElem_zip, List.getElem_range, List.getD_eq_getElem _ _ hi]

/-- Bytes inside one line of sound memory are stored. -/
theorem Sound.physWrite {s : State} (hs : Sound s) {pa : Nat} {bs : List Byte} (hbs : bs.length ≠ 0)
    (hline : pa % 128 + bs.length ≤ 128) : Stored s pa bs (physWrite s pa bs) := by
  have hwrite : Machine.physWrite s pa bs = Machine.dramWrite s contextless (pa - pa % 128) 0 (placed (pa % 128) bs) := by
    simp only [Machine.physWrite, pieces_line hbs hline, List.foldl_cons, List.foldl_nil, List.take_length, placed]
  have hplaces : ∀ p ∈ placed (pa % 128) bs, p.2 = bs.getD (p.1 - pa % 128) 0 ∧ p.1 < 128 := by
    intro p hp
    obtain ⟨i, hi, rfl⟩ := mem_placed.mp hp
    exact ⟨by rw [Nat.add_sub_cancel_left], by simp only; omega⟩
  have hbyte (b : Nat) := getByte_wordsWritten (pa := pa - pa % 128) (g := fun j => bs.getD (j - pa % 128) 0)
    (fun p hp => (hplaces p hp).1) (fun p hp => (hplaces p hp).2) s.dmem b
  have hmod : pa % 128 ≤ pa := Nat.mod_le ..
  rw [hwrite, hs.dramWrite]
  refine ⟨?_, fun i hi => ?_, fun b hb => ?_⟩
  · have h := activate_unnoted s (dieOf (pa - pa % 128)) [pa - pa % 128]
    exact congrArg (fun t : State => { t with dmem := wordsWritten (pa - pa % 128) (placed (pa % 128) bs) [0, 1, 2, 3] s.dmem }) h
  · refine (hbyte _).trans ((if_pos ⟨_, mem_placed.mpr ⟨i, hi, rfl⟩, by simp only; omega⟩).trans ?_)
    rw [show pa + i - (pa - pa % 128) - pa % 128 = i by omega]
  · refine (hbyte _).trans (if_neg ?_)
    rintro ⟨p, hp, rfl⟩
    obtain ⟨i, hi, rfl⟩ := mem_placed.mp hp
    simp only at hb
    omega

/-- Two memories with the same bytes at a range hold the same number there. -/
theorem readLE_congr {m m' : Sparse Byte} {a a' : Nat} (n : Nat)
    (h : ∀ i < n, getByte m (a + i) = getByte m' (a' + i)) : readLE m a n = readLE m' a' n := by
  induction n generalizing a a' with
  | zero => rfl
  | succ n ih =>
    have hrest : readLE m (a + 1) n = readLE m' (a' + 1) n := ih fun i hi => by
      have hnext := h (i + 1) (by omega)
      rwa [← Nat.add_assoc, Nat.add_right_comm, ← Nat.add_assoc, Nat.add_right_comm a'] at hnext
    have hfirst : getByte m a = getByte m' a' := h 0 (Nat.succ_pos n)
    rw [readLE, readLE, hrest, hfirst]

/-- A memory that holds the bytes of a number holds the number. -/
theorem readLE_of_bytes {m : Sparse Byte} {a n x : Nat} (h : ∀ i < n, getByte m (a + i) = (natToBytes n x).getD i 0)
    (hx : x < 256 ^ n) : readLE m a n = x := by
  have hsame : readLE m a n = readLE (writeBytes [] a (natToBytes n x)) a n := readLE_congr n fun i hi => by
    rw [h i hi, getByte_writeBytes_in _ _ _ _ (by rwa [length_natToBytes])]
  have hwritten : readBytes (writeBytes [] a (natToBytes n x)) a n = natToBytes n x := by
    have hread := readBytes_writeBytes [] a (natToBytes n x)
    rwa [length_natToBytes] at hread
  rw [hsame, readLE_eq, hwritten, bytesToNat_natToBytes, Nat.mod_eq_of_lt hx]

section
variable {s t : State} {pa : Nat} {bs : List Byte} (h : Stored s pa bs t)
include h

/-- The dies stay as they were, but for notes. -/
theorem Stored.die (k : Nat) : (t.die k).unnoted = (s.die k).unnoted := by
  rw [← unnoted_die, h.rest, unnoted_die]
  rfl

/-- Memory stays sound. -/
theorem Stored.sound (hs : Sound s) : Sound t := by
  have hs' : Sound { s with dmem := t.dmem } := ⟨hs.poison, hs.ecc, hs.remap, hs.rates⟩
  exact hs'.of_unnoted h.rest

/-- A number that is stored reads back. -/
theorem Stored.readLE {n x : Nat} (hbs : bs = natToBytes n x) (hx : x < 256 ^ n) : readLE t.dmem pa n = x := by
  subst hbs
  exact readLE_of_bytes (fun i hi => h.inside i (by rwa [length_natToBytes])) hx

/-- A number elsewhere stays. -/
theorem Stored.readLE_outside {a n : Nat} (ha : a + n ≤ pa ∨ pa + bs.length ≤ a) : Machine.readLE t.dmem a n = Machine.readLE s.dmem a n :=
  readLE_congr n fun i hi => h.outside (a + i) (by omega)

end

/-! ### Swaps (R416, R418) -/

/-- A note leaves device memory, its poison and the blocks. -/
theorem noteMem_unnoted (s : State) (die code asid info : Nat) : (s.noteMem die code asid info).unnoted = s.unnoted :=
  note_unnoted ..

/-- A fold of notes leaves everything but notes. -/
theorem foldl_unnoted {α : Type} {f : State → α → State} (hf : ∀ s x, (f s x).unnoted = s.unnoted) (l : List α) (s : State) :
    (l.foldl f s).unnoted = s.unnoted := by
  induction l generalizing s with
  | nil => rfl
  | cons x l ih => exact (ih _).trans (hf s x)

/-- The correction of a frame's errors changes the marks of errors and notes. -/
theorem cleanFrame_unnoted (s : State) (die f : Nat) :
    ∃ ecc, (cleanFrame s die f).unnoted = ({ s with ecc := ecc } : State).unnoted :=
  ⟨_, foldl_unnoted (fun _ _ => noteMem_unnoted ..) _ _⟩

/-- The placements of the frames of a group before and after a swap (R416). -/
theorem swapped_spec : ∀ r < 24, ∀ f < 4, (permOf (swapped r f)).getD f 9 = 0 ∧
    (permOf (swapped r f)).getD ((permOf r).idxOf 0) 9 = (permOf r).getD f 9 := by
  decide

/-- A swap with neither a retraining stack nor an error in the remap table moves its frame into the fast slot and leaves every
byte of memory (R418). -/
theorem exec_swap {s : State} {die k : Nat} {j : SwapJob} (hjob : look (s.die die).swaps k = some j)
    (hretrain : getAt false (s.die die).retraining (stackOf j.group) = false)
    (hremap : getAt 0 (s.die die).rerr (j.group / 2 / 12) = 0) : ∃ t, exec (.swap die k) s = .next t ∧ t.dmem = s.dmem ∧
      t.poison = s.poison ∧ t.blocks = s.blocks ∧ (t.die die).remap =
        setAt 0 (s.die die).remap j.group (swapped (getAt 0 (s.die die).remap j.group) j.frame) := by
  let f := frameOf j.group j.frame
  let g := frameOf j.group (fastFrame (s.die die) j.group)
  let lines := frameLines f ++ frameLines g
  let s1 := (cleanFrame (cleanFrame s die f) die g).activate die lines
  let d : Die := { s1.die die with
    swaps := dropAt (s1.die die).swaps k,
    remap := setAt 0 (s1.die die).remap j.group (swapped (getAt 0 (s1.die die).remap j.group) j.frame),
    pin := if j.pin then setAt false (s1.die die).pin j.group true else (s1.die die).pin }
  have hexec : exec (.swap die k) s = .next ((s1.setDie die d).activate die lines) := by
    show execSwap die k s = _
    unfold execSwap
    simp only [hjob, hretrain, hremap, Bool.false_eq_true, if_false, Nat.zero_ne_one, ne_eq, not_true_eq_false]
    rfl
  obtain ⟨ecc, hclean⟩ := cleanFrame_unnoted s die f
  obtain ⟨ecc', hclean'⟩ := cleanFrame_unnoted (cleanFrame s die f) die g
  have h1 : s1.unnoted = ({ s with ecc := ecc' } : State).unnoted := by
    rw [activate_unnoted, hclean']
    exact congrArg (fun t : State => ({ t with ecc := ecc' } : State)) hclean
  have hremap1 : (s1.die die).remap = (s.die die).remap :=
    (congrArg Die.remap (die_of_unnoted h1 die) :)
  have h2 : ((s1.setDie die d).activate die lines).unnoted = s1.unnoted.setDie die d.unnoted := by
    rw [activate_unnoted, unnoted_setDie]
  have hmem : (s1.unnoted.setDie die d.unnoted).dmem = s1.unnoted.dmem := State.setDie_dmem ..
  have hpoison : (s1.unnoted.setDie die d.unnoted).poison = s1.unnoted.poison := State.setDie_poison ..
  have hblocks : (s1.unnoted.setDie die d.unnoted).blocks = s1.unnoted.blocks := State.setDie_blocks ..
  refine ⟨_, hexec, ?_, ?_, ?_, ?_⟩
  · exact ((congrArg State.dmem h2 :).trans hmem).trans (congrArg State.dmem h1 :)
  · exact ((congrArg State.poison h2 :).trans hpoison).trans (congrArg State.poison h1 :)
  · exact ((congrArg State.blocks h2 :).trans hblocks).trans (congrArg State.blocks h1 :)
  · have hdie : (((s1.setDie die d).activate die lines).die die).unnoted = d.unnoted := by
      rw [← unnoted_die, h2, State.setDie_die_self]
    refine (congrArg Die.remap hdie :).trans ?_
    simp only [Die.unnoted, d, hremap1]

/-! ### Epochs (R417) -/

/-- A table reads as its default at a key that it does not list. -/
theorem getAt_of_not_listed {α : Type} (d : α) (m : Sparse α) (k : Nat) (h : ∀ e ∈ m, e.1 ≠ k) : getAt d m k = d := by
  induction m with
  | nil => rfl
  | cons e m ih => rw [getAt, if_neg (h e (.head _)), ih fun e he => h e (.tail _ he)]

/-- A counter after its halving. -/
theorem getAt_halved {m : Sparse Nat} (hm : m.Pairwise fun a b => a.1 < b.1) (k : Nat) :
    getAt 0 ((m.map fun p => (p.1, p.2 / 2)).filter fun p => p.2 ≠ 0) k = getAt 0 m k / 2 := by
  induction m with
  | nil => simp [getAt]
  | cons e m ih =>
    obtain ⟨hhead, hrest⟩ := List.pairwise_cons.mp hm
    rw [List.map_cons, List.filter_cons, getAt]
    by_cases hk : e.1 = k
    · rw [if_pos hk]
      split
      · rw [getAt, if_pos hk]
      · next hzero =>
        have hnone : getAt 0 m k = 0 := getAt_of_not_listed 0 m k fun p hp h => by
          have := hhead p hp
          omega
        have hval : e.2 / 2 = 0 := by simpa using hzero
        rw [ih hrest, hnone, hval]
    · rw [if_neg hk]
      split
      · rw [getAt, if_neg hk, ih hrest]
      · exact ih hrest

/-- At the end of an epoch every access counter of the die is halved (R417). -/
theorem exec_epochHalving {s : State} {die : Nat} (h : (s.die die).epochAt + (s.die die).epoch ≤ s.clock) :
    ∃ t, exec (.epochHalving die) s = .next t ∧ (tableWf 0 (s.die die).cnt = true →
      ∀ f, getAt 0 (t.die die).cnt f = getAt 0 (s.die die).cnt f / 2) := by
  refine ⟨_, if_neg (Nat.not_lt.mpr h), fun hwf f => ?_⟩
  rw [State.setDie_die_self]
  exact getAt_halved ((tableWf_iff 0 _).mp hwf).1 f

/-! ### The sweeper (R419, R420) -/

/-- The sweeper `w` of the die goes on at entry `hand`, which its ring shows. -/
def moveHand (s : State) (die : Nat) (w : Sweeper) (hand : Nat) : State :=
  physWrite (s.setDie die { s.die die with sweep := { w with hand := hand } }) (w.ring + 8) (natToBytes 4 hand)

/-- A frame-table entry that is skipped. -/
theorem sweepEntry_skipped {e : Nat} (h : entrySkipped e = true) (s : State) (die : Nat) (w : Sweeper) :
    sweepEntry s die w (some e) = moveHand s die { w with idle := w.idle + 1 } ((w.hand + 1) % w.entries) :=
  if_pos h

/-- The accessed bit of a frame is cleared. -/
def clearAccessed (s : State) (f : Nat) : State :=
  let home := dieOf (65536 * f)
  s.setDie home { s.die home with abit := setAt false (s.die home).abit f false }

/-- A frame-table entry whose frame has been accessed. -/
theorem sweepEntry_accessed {e : Nat} (h : entrySkipped e = false) {s : State}
    (ha : getAt false (s.die (dieOf (65536 * bitsOf e 16 25))).abit (bitsOf e 16 25) = true) (die : Nat) (w : Sweeper) :
    sweepEntry s die w (some e) =
      moveHand (clearAccessed s (bitsOf e 16 25)) die { w with idle := w.idle + 1 } ((w.hand + 1) % w.entries) :=
  (if_neg (by rw [h]; exact Bool.false_ne_true)).trans (if_pos ha)

/-- A frame-table entry is pushed to the ring, which shows the new tail. -/
def pushEntry (s : State) (w : Sweeper) : State :=
  physWrite (physWrite s (w.ring + 0x40 + 4 * w.tail) (natToBytes 4 w.hand)) (w.ring + 4)
    (natToBytes 4 ((w.tail + 1) % w.size))

/-- A frame-table entry whose frame has not been accessed. -/
theorem sweepEntry_pushed {e : Nat} (h : entrySkipped e = false) {s : State}
    (ha : getAt false (s.die (dieOf (65536 * bitsOf e 16 25))).abit (bitsOf e 16 25) ≠ true) (die : Nat) (w : Sweeper) :
    sweepEntry s die w (some e) =
      moveHand (pushEntry s w) die { w with tail := (w.tail + 1) % w.size, idle := 0 } ((w.hand + 1) % w.entries) :=
  (if_neg (by rw [h]; exact Bool.false_ne_true)).trans (if_neg ha)

/-- The entries that are skipped (R419, R420). -/
theorem entrySkipped_iff (e : Nat) :
    entrySkipped e = true ↔ bitOf e 0 = false ∨ bitsOf e 1 15 ≠ 0 ∨ bitsOf e 41 23 ≠ 0 := by
  simp only [entrySkipped, Bool.or_eq_true, Bool.not_eq_true', decide_eq_true_eq, or_assoc]

/-- A read of the sweeper finds the number in sound memory. -/
theorem Sound.sweepRead {s : State} (hs : Sound s) (pa n : Nat) :
    sweepRead s pa n = .ok (s.activate (dieOf pa) [pa]) (some (readLE s.dmem pa n)) := by
  simp only [Machine.sweepRead, hs.physRead]

/-- What the move of the hand leaves in a state: the sweeper, the number in the ring, the other bytes and the accessed bits. -/
structure HandMoved (s : State) (die : Nat) (w : Sweeper) (hand : Nat) (t : State) : Prop where
  sweep : (t.die die).sweep = { w with hand := hand }
  shown : readLE t.dmem (w.ring + 8) 4 = hand
  bytes : ∀ b, (b < w.ring + 8 ∨ w.ring + 12 ≤ b) → getByte t.dmem b = getByte s.dmem b
  abit : ∀ k, (t.die k).abit = (s.die k).abit

/-- A part of the dies stays where the die that is replaced keeps it. -/
theorem setDie_part {α : Type} {s : State} {die : Nat} {d : Die} (g : Die → α) (h : g d = g (s.die die)) (k : Nat) :
    g ((s.setDie die d).die k) = g (s.die k) := by
  by_cases hk : (die = 0) = (k = 0)
  · have hold : s.die k = s.die die := by simp only [State.die, hk]
    have hnew : (s.setDie die d).die k = (s.setDie die d).die die := by simp only [State.die, hk]
    rw [hnew, State.setDie_die_self, h, hold]
  · rw [State.setDie_die_ne _ _ _ _ hk]

/-- A die that keeps the marks of its remap table and of its stacks leaves sound memory sound. -/
theorem Sound.setDie {s : State} (hs : Sound s) {die : Nat} {d : Die} (hrerr : d.rerr = (s.die die).rerr)
    (hrates : d.retraining = (s.die die).retraining) : Sound (s.setDie die d) where
  poison := (State.setDie_poison ..).trans hs.poison
  ecc := (State.setDie_ecc ..).trans hs.ecc
  remap k := (setDie_part Die.rerr hrerr k).trans (hs.remap k)
  rates k := (setDie_part Die.retraining hrates k).trans (hs.rates k)

/-- The hand moves. -/
theorem moveHand_moved {s : State} (hs : Sound s) (die : Nat) {w : Sweeper} {hand : Nat} (hring : w.ring % 4096 = 0)
    (hhand : hand < 2 ^ 32) : HandMoved s die w hand (moveHand s die w hand) := by
  have hset : Sound (s.setDie die { s.die die with sweep := { w with hand := hand } }) := hs.setDie rfl rfl
  have hstored : Stored _ _ _ (moveHand s die w hand) :=
    hset.physWrite (pa := w.ring + 8) (bs := natToBytes 4 hand)
      (by rw [length_natToBytes]; decide) (by rw [length_natToBytes]; omega)
  refine ⟨?_, hstored.readLE rfl hhand, fun b hb => ?_, fun k => ?_⟩
  · exact (congrArg Die.sweep (hstored.die die) :).trans (by rw [State.setDie_die_self]; rfl)
  · rw [hstored.outside b (by rw [length_natToBytes]; omega), State.setDie_dmem]
  · have hkept : ((s.setDie die { s.die die with sweep := { w with hand := hand } }).die k).abit = (s.die k).abit :=
      setDie_part Die.abit (by rfl) k
    exact (congrArg Die.abit (hstored.die k) :).trans hkept

/-- What a push leaves: sound memory, the dies but for notes, and the tail and the entry in the ring. -/
theorem pushEntry_stored {s : State} (hs : Sound s) {w : Sweeper} (hring : w.ring % 4096 = 0) (hhand : w.hand < 2 ^ 32)
    (hsize : w.size ≤ 2 ^ 32) (hpos : 0 < w.size) : Sound (pushEntry s w) ∧
    (∀ k, ((pushEntry s w).die k).unnoted = (s.die k).unnoted) ∧
    readLE (pushEntry s w).dmem (w.ring + 4) 4 = (w.tail + 1) % w.size ∧
    readLE (pushEntry s w).dmem (w.ring + 0x40 + 4 * w.tail) 4 = w.hand := by
  have h1 : Stored s _ _ (physWrite s (w.ring + 0x40 + 4 * w.tail) (natToBytes 4 w.hand)) :=
    hs.physWrite (by rw [length_natToBytes]; decide) (by rw [length_natToBytes]; omega)
  have h2 : Stored _ _ _ (pushEntry s w) := (h1.sound hs).physWrite (pa := w.ring + 4)
    (bs := natToBytes 4 ((w.tail + 1) % w.size)) (by rw [length_natToBytes]; decide) (by rw [length_natToBytes]; omega)
  have htail : (w.tail + 1) % w.size < 256 ^ 4 := (Nat.mod_lt _ hpos).trans_le hsize
  refine ⟨h2.sound (h1.sound hs), fun k => (h2.die k).trans (h1.die k), h2.readLE rfl htail, ?_⟩
  rw [h2.readLE_outside (by rw [length_natToBytes]; omega)]
  exact h1.readLE rfl hhand

/-- A die number is 0 or 1. -/
theorem dieOf_lt_two (pa : Nat) : dieOf pa < 2 := by
  unfold dieOf
  split
  · decide
  · decide

/-- The accessed bit of a frame is cleared, and others stay. -/
theorem clearAccessed_abit (s : State) (f : Nat) {k : Nat} (hk : k < 2) (g : Nat) :
    getAt false ((clearAccessed s f).die k).abit g =
      if k = dieOf (65536 * f) ∧ g = f then false else getAt false (s.die k).abit g := by
  have hhome := dieOf_lt_two (65536 * f)
  unfold clearAccessed
  dsimp only
  by_cases hdie : k = dieOf (65536 * f)
  · subst hdie
    rw [State.setDie_die_self, getAt_setAt]
    simp only [true_and]
  · have hne : (dieOf (65536 * f) = 0) ≠ (k = 0) := by
      intro h
      have : dieOf (65536 * f) = 0 ↔ k = 0 := iff_of_eq h
      omega
    rw [State.setDie_die_ne _ _ _ _ hne, if_neg (fun h => hdie h.1)]

/-- A step of the sweeper examines the entry at its hand. -/
theorem exec_sweeperStep {s : State} (hs : Sound s) {die : Nat} {w : Sweeper}
    (hw : w = (s.die die).sweep.see (readLE s.dmem (s.die die).sweep.ring 4)) (hon : w.on = true) (hidle : w.idle < w.entries)
    (hroom : (w.tail + w.size - w.head % w.size) % w.size < w.mark) :
    ∃ t, t.unnoted = s.unnoted ∧ exec (.sweeperStep die) s =
      .next (sweepEntry t die w (some (readLE s.dmem (w.table + 8 * w.hand) 8))) := by
  let ring := (s.die die).sweep.ring
  let s1 := s.activate (dieOf ring) [ring]
  have h1 : s1.unnoted = s.unnoted := activate_unnoted ..
  have hs1 : Sound s1 := hs.of_unnoted h1
  have hsweep : (s1.die die).sweep = (s.die die).sweep := (congrArg Die.sweep (die_of_unnoted h1 die) :)
  let entry := w.table + 8 * w.hand
  refine ⟨s1.activate (dieOf entry) [entry], (activate_unnoted ..).trans h1, ?_⟩
  have hready : ¬((!w.on) = true ∨ w.mark ≤ (w.tail + w.size - w.head % w.size) % w.size ∨ w.entries ≤ w.idle ∨
      retrainingAt s1 (w.ring + 0x40 + 4 * w.tail) = true) := by
    rw [hs1.retrainingAt]
    simp only [hon, Bool.not_true, Bool.false_eq_true, false_or, or_false]
    omega
  show execSweeperStep die s = _
  unfold execSweeperStep
  rw [hs.sweepRead]
  dsimp only
  rw [Option.getD_some, hsweep, ← hw, if_neg hready, hs1.sweepRead, dmem_of_unnoted h1]

/-- A step of the sweeper whose memory is sound: what it leaves of the sweeper, of its ring and of the accessed bits. -/
theorem sweepEntry_spec {s : State} (hs : Sound s) {die : Nat} {w : Sweeper} (hring : w.ring % 4096 = 0)
    (hentries : w.entries ≤ 2 ^ 25) (hhand : w.hand < w.entries) (hlog : w.log ≤ 6) (e : Nat) :
    let f := bitsOf e 16 25
    let home := dieOf (65536 * f)
    let skipped : Prop := bitOf e 0 = false ∨ bitsOf e 1 15 ≠ 0 ∨ bitsOf e 41 23 ≠ 0
    let accessed : Prop := getAt false (s.die home).abit f = true
    let t := sweepEntry s die w (some e)
    (t.die die).sweep.hand = (w.hand + 1) % w.entries ∧
    readLE t.dmem (w.ring + 8) 4 = (w.hand + 1) % w.entries ∧
    (skipped ∨ accessed → (t.die die).sweep.tail = w.tail ∧ (t.die die).sweep.idle = w.idle + 1 ∧
      ∀ b, (∀ i < 4, b ≠ w.ring + 8 + i) → getByte t.dmem b = getByte s.dmem b) ∧
    (¬skipped → accessed → getAt false (t.die home).abit f = false) ∧
    (¬skipped → ¬accessed → let tail := (w.tail + 1) % 2 ^ (10 + w.log)
      (t.die die).sweep.tail = tail ∧ (t.die die).sweep.idle = 0 ∧ readLE t.dmem (w.ring + 4) 4 = tail ∧
      readLE t.dmem (w.ring + 0x40 + 4 * w.tail) 4 = w.hand) ∧
    (∀ k g, ¬(¬skipped ∧ accessed ∧ k = home ∧ g = f) → k < 2 →
      getAt false (t.die k).abit g = getAt false (s.die k).abit g) := by
  intro f home skipped accessed t
  have hhand' : (w.hand + 1) % w.entries < 2 ^ 32 :=
    (Nat.mod_lt _ (Nat.zero_lt_of_lt hhand)).trans_le (hentries.trans (by decide))
  have hafar {b : Nat} (hb : ∀ i < 4, b ≠ w.ring + 8 + i) : b < w.ring + 8 ∨ w.ring + 12 ≤ b := by
    have := hb (b - (w.ring + 8))
    omega
  by_cases hskip : entrySkipped e = true
  · have hskipped : skipped := (entrySkipped_iff e).mp hskip
    have hmoved : HandMoved s die { w with idle := w.idle + 1 } ((w.hand + 1) % w.entries) t := by
      have h := moveHand_moved hs die (w := { w with idle := w.idle + 1 }) hring hhand'
      rwa [← sweepEntry_skipped hskip] at h
    refine ⟨by rw [hmoved.sweep], hmoved.shown, fun _ => ⟨by rw [hmoved.sweep], by rw [hmoved.sweep],
      fun b hb => hmoved.bytes b (hafar hb)⟩, fun h => absurd hskipped h, fun h => absurd hskipped h,
      fun k g _ _ => by rw [hmoved.abit]⟩
  · have hnot : ¬skipped := fun h => hskip ((entrySkipped_iff e).mpr h)
    have hskip' : entrySkipped e = false := Bool.eq_false_iff.mpr hskip
    by_cases hacc : getAt false (s.die home).abit f = true
    · have hclear : Sound (clearAccessed s f) := hs.setDie rfl rfl
      have hmem : (clearAccessed s f).dmem = s.dmem := State.setDie_dmem ..
      have hmoved : HandMoved (clearAccessed s f) die { w with idle := w.idle + 1 } ((w.hand + 1) % w.entries) t := by
        have h := moveHand_moved hclear die (w := { w with idle := w.idle + 1 }) hring hhand'
        rwa [← sweepEntry_accessed hskip' hacc] at h
      refine ⟨by rw [hmoved.sweep], hmoved.shown, fun _ => ⟨by rw [hmoved.sweep], by rw [hmoved.sweep],
        fun b hb => by rw [hmoved.bytes b (hafar hb), hmem]⟩, fun _ _ => ?_, fun _ h => absurd hacc h, fun k g hne hk => ?_⟩
      · rw [hmoved.abit, clearAccessed_abit _ _ (dieOf_lt_two _), if_pos ⟨rfl, rfl⟩]
      · rw [hmoved.abit, clearAccessed_abit _ _ hk, if_neg fun h => hne ⟨hnot, hacc, h.1, h.2⟩]
    · have hsize : w.size ≤ 2 ^ 16 := Nat.pow_le_pow_right (by decide) (by omega)
      obtain ⟨hpush, hdies, htail, hslot⟩ := pushEntry_stored hs hring (by omega) (hsize.trans (by decide))
        (Nat.two_pow_pos (10 + w.log))
      have hmoved : HandMoved (pushEntry s w) die { w with tail := (w.tail + 1) % w.size, idle := 0 }
          ((w.hand + 1) % w.entries) t := by
        have h := moveHand_moved hpush die (w := { w with tail := (w.tail + 1) % w.size, idle := 0 }) hring hhand'
        rwa [← sweepEntry_pushed hskip' hacc] at h
      refine ⟨by rw [hmoved.sweep], hmoved.shown, fun h => absurd h (not_or.mpr ⟨hnot, hacc⟩), fun _ h => absurd h hacc,
        fun _ _ => ⟨by rw [hmoved.sweep]; rfl, by rw [hmoved.sweep], ?_, ?_⟩, fun k g _ _ => ?_⟩
      · refine Eq.trans ?_ htail
        exact readLE_congr 4 fun i hi => hmoved.bytes _ (.inl (by simp only; omega))
      · refine Eq.trans ?_ hslot
        exact readLE_congr 4 fun i hi => hmoved.bytes _ (.inr (by simp only; omega))
      · have habit : ((pushEntry s w).die k).abit = (s.die k).abit := (congrArg Die.abit (hdies k) :)
        rw [hmoved.abit, habit]

/-! ### Retraining (R424) -/

/-- A stack that is asked to retrain does so, or notes that a save is in progress. -/
theorem exec_retrainingStart {s : State} {die k : Nat} (hask : getAt 0 (s.die die).retrain k ≠ 0)
    (hidle : getAt false (s.die die).retraining k = false) : exec (.retrainingStart die k) s = .next
    (if savingOn s die then s.note die 0xC5 (dieLoc die) 65535 k
     else s.setDie die { s.die die with
       retrain := setAt 0 (s.die die).retrain k 0,
       rates := setAt 0 (s.die die).rates k (getAt 0 (s.die die).retrain k - 1),
       retraining := setAt false (s.die die).retraining k true }) := by
  show execRetrainingStart die k s = _
  unfold execRetrainingStart
  dsimp only
  rw [if_neg (by rw [hidle]; simp [hask])]
  split
  · rfl
  · rfl

/-- Settles O50: the events of the tier engine by their laws above. -/
theorem tierEvents : Obligations.TierEvents := by
  intro s die k
  refine ⟨?_, ?_, ?_, fun stack row => rfl, exec_retrainingStart, fun h => if_pos h⟩
  case _ =>
    intro _ j hjob hretrain hremap hframe
    obtain ⟨t, hexec, hmem, hpoison, hblocks, hplace⟩ := exec_swap hjob hretrain hremap
    exact ⟨t, hexec, hmem, hpoison, hblocks, hplace, fun hr => swapped_spec _ hr _ hframe⟩
  case _ =>
    intro h
    obtain ⟨t, hexec, hhalved⟩ := exec_epochHalving h
    exact ⟨t, hexec, fun hwf => hhalved hwf.2⟩
  case _ =>
    intro w hw hon hidle hroom hpoison hecc hmarks _ hring hentries hhand _ hlog
    have hs : Sound s := ⟨hpoison, hecc, fun k => (hmarks k).1, fun k => (hmarks k).2⟩
    obtain ⟨t, hnotes, hexec⟩ := exec_sweeperStep hs hw hon hidle hroom
    have hspec := sweepEntry_spec (hs.of_unnoted hnotes) (die := die) hring hentries hhand hlog
      (readLE s.dmem (w.table + 8 * w.hand) 8)
    have habit (k : Nat) : (t.die k).abit = (s.die k).abit := (congrArg Die.abit (die_of_unnoted hnotes k) :)
    simp only [habit, dmem_of_unnoted hnotes] at hspec
    exact ⟨_, hexec, hspec⟩

end Sys2Proof.Machine
end

section
/-! A launch of a task grid with a save area (R342), and the refutation of the obligation about launches. -/

open Sys2Proof Sys2Proof.Machine

namespace Sys2Proof.Machine

/-! ### A task grid with a save area -/

/-- A launch of a grid whose blocks are not resident, with a save area, which such a grid may not have (R342). -/
def taskWithSaveArea : Grid :=
  { slot := 0, sq := 0, seq := 0, va := 0, saveBase := 4096, saveStride := 0, dieMask := 1, irq := false, compl := 8 }

/-- A line of the page at 0 in the L2 of its home. -/
def recordLine (k : Nat) (bytes : List Byte) : Line :=
  { asid := 0, va := k, side := false, pa := 128 * k, bytes := writeBytes [] 0 bytes, dirty := 0, poison := 0, cc := 2,
    locked := true, err := 0 }

/-- The grid record of that launch: one block, no flags, its block record at 256, its code of 128 bytes at 0. -/
def taskGridRecord : List Byte :=
  natToBytes 4 1 ++ natToBytes 4 0 ++ natToBytes 8 256 ++ natToBytes 8 0 ++ natToBytes 8 128 ++ natToBytes 4 0xFFFFFFFF

/-- The state in which that launch heads its queue; page 0 is mapped, and the L2 holds the lines of its records. -/
def taskState : State :=
  { State.reset with
    ctxs := [(0, { state := .live })]
    grids := [(1, taskWithSaveArea)]
    die0 := { State.reset.die0 with
      tlb := [{ asid := 0, va := 0, size := 65536, pa := 0, cc := 2, sh := false, pti := 0, pr := true, pw := true, px := true, err := 0 }]
      l2 := [recordLine 0 taskGridRecord, recordLine 2 (natToBytes 4 0x00010001), recordLine 3 []] } }

/-- The records of the launch read without a fault. -/
theorem taskState_reads : ∃ s1 r ds, readLaunch taskState taskWithSaveArea = .ok s1 (r, ds) := by
  have hok : (match readLaunch taskState taskWithSaveArea with | .ok _ _ => true | _ => false) = true := by decide +kernel
  cases hread : readLaunch taskState taskWithSaveArea with
  | ok s1 rd => exact ⟨s1, rd.1, rd.2, rfl⟩
  | wait s1 => simp [hread] at hok
  | fail s1 t => simp [hread] at hok

/-- The check of the launch refuses it, and its grid is gone (R342). -/
theorem taskState_refuses :
    (match exec (.headLaunchCheck 0) taskState with | .next t => (t.grid 1).isSome | _ => false) = false := by
  decide +kernel

/-- The grids stay when their dependences are settled. -/
theorem grid_settleDeps (s : State) (k : Nat) : ∃ settle, s.settleDeps.grid k = (s.grid k).map settle := by
  let settle (g : Grid) : Grid :=
    { g with deps := g.deps.map fun d => { d with met := d.met || depHolds s g.slot d } }
  exact ⟨settle, look_map (fun _ => settle) s.grids k⟩

/-- A grid that is set stands, with its dependences settled. -/
theorem setGrid_settleDeps_isSome (s : State) (k : Nat) (g : Grid) : ((s.setGrid k g).settleDeps.grid k).isSome = true := by
  obtain ⟨settle, hlook⟩ := grid_settleDeps (s.setGrid k g) k
  have hset : (s.setGrid k g).grid k = some g := look_put_self ..
  rw [hlook, hset, Option.map_some, Option.isSome_some]

/-- Refutes O46: a head launch whose records read is said to be checked and to stay, but one of a grid that is not resident
and names a save area is refused (R342). The launch of `taskState` has such a grid: its records read, and the check takes the
grid away instead of marking it as checked. -/
theorem not_launchEvents : ¬ Obligations.LaunchEvents := by
  intro h
  obtain ⟨-, hcheck, -⟩ := h taskState
  obtain ⟨s1, r, ds, hread⟩ := taskState_reads
  have hexec := (hcheck 0 1 taskWithSaveArea rfl rfl rfl).1 s1 r ds hread
  have hgone := taskState_refuses
  rw [hexec] at hgone
  exact Bool.false_ne_true (hgone.symm.trans (setGrid_settleDeps_isSome ..))

end Sys2Proof.Machine
end

section
/-! Join tables: Release, opens and rewards (R460, R461, R463). -/

open Sys2Proof Sys2Proof.Machine

namespace Sys2Proof.Machine

/-! ### Configurations and notes of a join table -/

/-- The configuration of a join table is not part of a context's address space. -/
theorem setJoin_asid (s : State) (die slot : Nat) (j : JoinCfg) : ((s.setJoin die slot j).ctx slot).asid = (s.ctx slot).asid := by
  unfold State.setJoin
  rw [State.setCtx_ctx_self]
  split
  · rfl
  · rfl

/-- A cause noted at a table whose configuration has changed. -/
theorem noteJoin_setJoin (s : State) (die slot code : Nat) (j : JoinCfg) : (s.setJoin die slot j).noteJoin die slot code =
    (s.setJoin die slot j).note die code (dieLoc die) (s.ctx slot).asid := by
  rw [State.noteJoin, setJoin_asid]

/-! ### Release (R463) -/

/-- The head segment is open, its version is closed, and no other such segment comes before it. -/
theorem headSeg_least {s : State} {die slot : Nat} {g : Segment} (h : headSeg s die slot = some g) :
    g ∈ segsOf s die slot ∧ g.ver < (s.join die slot).cb ∧ ∀ h ∈ segsOf s die slot, h.ver < (s.join die slot).cb →
      ¬(h.ver < g.ver ∨ h.ver = g.ver ∧ h.key < g.key) := by
  have hmem := List.mem_of_find?_eq_some h
  have hleast := List.find?_some h
  obtain ⟨hopen, hclosed⟩ := List.mem_filter.mp hmem
  refine ⟨hopen, of_decide_eq_true hclosed, fun k hk hkcb => ?_⟩
  have hbefore := List.all_eq_true.mp hleast k (List.mem_filter.mpr ⟨hk, decide_eq_true hkcb⟩)
  simp only [Segment.before, Bool.not_eq_true', Bool.or_eq_false_iff, Bool.and_eq_false_iff, decide_eq_false_iff_not] at hbefore
  tauto

/-- The segments that may be released. -/
theorem releasable_iff (s : State) (die slot : Nat) (g : Segment) : releasable s die slot g = true ↔
    (s.join die slot).learner.length < 65536 ∧
      (g.miss = 0 ∨ g.tmo ≠ 0 ∧ g.tmo ≤ (s.join die slot).ticks - g.opened) := by
  refine Bool.and_eq_true_iff.trans (and_congr decide_eq_true_iff ?_)
  simp only [Bool.or_eq_true, Bool.and_eq_true, decide_eq_true_eq]

/-- Release ends where no head may be released. -/
theorem release_none {s : State} {die slot : Nat}
    (h : ∀ g, headSeg s die slot = some g → releasable s die slot g = false) : release s die slot = .ok s () := by
  unfold release
  generalize (segsOf s die slot).length = n
  cases n with
  | zero => rfl
  | succ n =>
    unfold releaseFrom
    cases hhead : headSeg s die slot with
    | none => rfl
    | some g => exact if_neg (by rw [h g hhead]; exact Bool.false_ne_true)

section
variable {s s1 : State} {die slot : Nat} (who : Option (Nat × Nat))

/-- A release that comes to its end owes nothing. -/
theorem releaseOn_ok (h : release s die slot = .ok s1 ()) : releaseOn s die slot who = .ok (s1.setOwed die slot []) () := by
  simp only [releaseOn, h]

/-- A release that memory holds up is owed to the crew of its event. -/
theorem releaseOn_wait (h : release s die slot = .wait s1) :
    releaseOn s die slot who = .ok (s1.setOwed die slot ((s1.join die slot).owed ++ who.toList)) () := by
  simp only [releaseOn, h]

end

/-- A crew to which a release is owed has accesses outstanding. -/
theorem outstanding_of_owed {s : State} {b c die slot : Nat} {x : Block} (hb : s.block b = some x) (hslot : x.slot = slot)
    (h : (b, c) ∈ (s.join die slot).owed) : s.writesOut b c = true ∧ s.readsOut b c = true := by
  have howed : s.tableWork b c = true := by
    have hlist : (b, c) ∈ (s.ctx x.slot).j0.owed ++ (s.ctx x.slot).j1.owed := by
      subst hslot
      unfold State.join at h
      split at h
      · exact List.mem_append_left _ h
      · exact List.mem_append_right _ h
    have hrelease : s.releaseOwed b c = true := by
      simp only [State.releaseOwed, hb]
      exact List.contains_iff_mem.mpr hlist
    rw [State.tableWork, hrelease, Bool.or_true]
  simp only [State.writesOut, State.readsOut, howed, Bool.or_true, and_self]

/-- The head segment that is released: its results are written, its entry is freed, and the learner queue takes it. -/
theorem releaseFrom_head {s s1 s2 : State} {die slot : Nat} {g : Segment} {bs : List Byte} {a a2 : Acc} (n : Nat)
    (hhead : headSeg s die slot = some g) (hrel : releasable s die slot g = true)
    (hread : s.greadAll (joinAcc die slot false) [(g.va, 0x140), (g.va + 0x140, 4 * g.len), (g.va + 0x1140, 4 * g.len)] =
      .ok s1 (bs, a)) :
    let out := scan (bs.take 0x140) (slice bs 0x140 (4 * g.len)) (bs.drop (0x140 + 4 * g.len)) g.len g.miss
    let late : Bool := g.miss ≠ 0
    s1.gwriteAll (joinAcc die slot true) [(g.va + 0x2140, packWords 4 (out.map (·.1))),
      (g.va + 0x3140, packWords 4 (out.map (·.2))), (g.va + 0xC0, natToBytes 128 g.miss),
      (g.va + 0x20, packWords 4 [if late then 3 else 1, missing g.miss g.len])] = .ok s2 a2 →
    let s3 := (s2.forget (joinAcc die slot false).owner).mapSeg die slot g.key fun _ => none
    let j3 := s3.join die slot
    let s4 := s3.setJoin die slot { j3 with
      learner := j3.learner ++ [(g.va, late)], touts := if late then min 65535 (j3.touts + 1) else j3.touts }
    releaseFrom die slot (n + 1) s = releaseFrom die slot n (if late then
      (s4.setCtx slot { s4.ctx slot with texp := true }).note die 0xE7 (dieLoc die) (s4.ctx slot).asid else s4) := by
  intro out late hwrite s3 j3 s4
  have hnote : (s4.setCtx slot { s4.ctx slot with texp := true }).noteJoin die slot 0xE7 =
      (s4.setCtx slot { s4.ctx slot with texp := true }).note die 0xE7 (dieLoc die) (s4.ctx slot).asid := by
    rw [State.noteJoin, State.setCtx_ctx_self]
  have hreleased : releaseHead s die slot g = .ok (if late then
      (s4.setCtx slot { s4.ctx slot with texp := true }).note die 0xE7 (dieLoc die) (s4.ctx slot).asid else s4) () := by
    rw [← hnote]
    unfold releaseHead
    dsimp only
    rw [hread, Got.bind_ok]
    dsimp only
    rw [hwrite, Got.bind_ok]
  rw [releaseFrom, hhead]
  dsimp only
  rw [if_pos hrel, hreleased, Got.bind_ok]

/-! ### Opens (R460) -/

section
variable {s s1 : State} {die slot va : Nat} {who : Nat × Nat} {hd : List Byte} {a : Acc}
  (hread : s.greadAll { joinAcc die slot false with use := .forbid } [(va, 0x140), (va + 0x413F, 1)] = .ok s1 (hd, a))
include hread

/-- The table has read the head of the record that an open names. -/
theorem openSegment_read : openSegment s die slot va who =
    (let s2 := s1.forget (joinAcc die slot false).owner
     if segBad hd va die then .ok s2 (.inr { code := 0xAB, info := 6 })
     else if sliceNat hd 0xC 4 < (s2.join die slot).cb then .ok s2 (.inl 1)
     else if (segsOf s2 die slot).any fun g => g.key = sliceNat hd 0 8 then .ok s2 (.inr { code := 0xAA })
     else if 65536 ≤ (s2.die die).segs.length then .ok s2 (.inr { code := 0xA9 })
     else (s2.gwrite (joinAcc die slot true) (va + 0x20) (natToBytes 4 0)).bind fun s _ =>
       (releaseOn (s.setDie die { s.die die with segs := (s.die die).segs ++ [
         ⟨slot, va, sliceNat hd 0 8, sliceNat hd 0xC 4, sliceNat hd 8 4, sliceNat hd 0xC0 128, sliceNat hd 0x1C 4,
           (s2.join die slot).ticks⟩] }) die slot (some who)).bind fun s _ => .ok s (.inl 0)) := by
  have hlast : va + segBytes - 1 = va + 0x413F := rfl
  unfold openSegment
  rw [hlast]
  dsimp only
  rw [hread, Got.bind_ok]
  rfl

/-- A malformed record is turned away. -/
theorem openSegment_malformed (hbad : segBad hd va die = true) : openSegment s die slot va who =
    .ok (s1.forget (joinAcc die slot false).owner) (.inr { code := 0xAB, info := 6 }) := by
  rw [openSegment_read hread]
  exact if_pos hbad

variable (hgood : segBad hd va die = false)
include hgood

/-- A record of a closed version is answered CLOSED. -/
theorem openSegment_closed (hcb : sliceNat hd 0xC 4 < ((s1.forget (joinAcc die slot false).owner).join die slot).cb) :
    openSegment s die slot va who = .ok (s1.forget (joinAcc die slot false).owner) (.inl 1) := by
  rw [openSegment_read hread, hgood]
  exact if_pos hcb

variable (hcb : ((s1.forget (joinAcc die slot false).owner).join die slot).cb ≤ sliceNat hd 0xC 4)
include hcb

/-- A record of an open key is turned away. -/
theorem openSegment_taken
    (htaken : ((segsOf (s1.forget (joinAcc die slot false).owner) die slot).any fun g => g.key = sliceNat hd 0 8) = true) :
    openSegment s die slot va who = .ok (s1.forget (joinAcc die slot false).owner) (.inr { code := 0xAA }) := by
  rw [openSegment_read hread, hgood]
  exact (if_neg (Nat.not_lt.mpr hcb)).trans (if_pos htaken)

variable (hnew : ((segsOf (s1.forget (joinAcc die slot false).owner) die slot).any fun g => g.key = sliceNat hd 0 8) = false)
include hnew

/-- A full table turns a record away. -/
theorem openSegment_full (hfull : 65536 ≤ ((s1.forget (joinAcc die slot false).owner).die die).segs.length) :
    openSegment s die slot va who = .ok (s1.forget (joinAcc die slot false).owner) (.inr { code := 0xA9 }) := by
  rw [openSegment_read hread, hgood]
  dsimp only
  rw [hnew]
  exact (if_neg (Nat.not_lt.mpr hcb)).trans (if_pos hfull)

/-- A segment opens, and Release runs. -/
theorem openSegment_opens (hroom : ((s1.forget (joinAcc die slot false).owner).die die).segs.length < 65536) {s3 s4 : State}
    {a3 : Acc} (hwrite : (s1.forget (joinAcc die slot false).owner).gwrite (joinAcc die slot true) (va + 0x20)
      (natToBytes 4 0) = .ok s3 a3)
    (hrelease : release (s3.setDie die { s3.die die with segs := (s3.die die).segs ++ [
      ⟨slot, va, sliceNat hd 0 8, sliceNat hd 0xC 4, sliceNat hd 8 4, sliceNat hd 0xC0 128, sliceNat hd 0x1C 4,
        ((s1.forget (joinAcc die slot false).owner).join die slot).ticks⟩] }) die slot = .ok s4 ()) :
    openSegment s die slot va who = .ok (s4.setOwed die slot []) (.inl 0) := by
  rw [openSegment_read hread, hgood]
  dsimp only
  rw [hnew, hwrite, Got.bind_ok, releaseOn_ok _ hrelease, Got.bind_ok]
  exact (if_neg (Nat.not_lt.mpr hcb)).trans (if_neg (Nat.not_le.mpr hroom))

end

/-! ### Rewards (R461) -/

section
variable {s : State} {die slot rec : Nat} {who : Option (Nat × Nat)}

/-- An orphan of a table without an orphan ring is counted and noted. -/
theorem orphan_counted (h : (s.join die slot).oring = 0) (reason : Nat) : orphan s die slot rec reason = .ok
    ((s.setJoin die slot { s.join die slot with orphans := min 4294967295 ((s.join die slot).orphans + 1) }).note die 0xE5
      (dieLoc die) (s.ctx slot).asid) () := by
  unfold orphan
  dsimp only
  rw [if_pos h, State.countOrphan, noteJoin_setJoin]

/-- An orphan waits while the memory of its ring holds it up. -/
theorem orphan_waits {s1 : State} (h : (s.join die slot).oring ≠ 0)
    (hwait : s.gread (joinAcc die slot false) (s.join die slot).oring 8 = .wait s1) (reason : Nat) :
    orphan s die slot rec reason = .wait s1 := by
  unfold orphan
  dsimp only
  rw [if_neg h, hwait]
  rfl

/-- A record with a reserved bit is an orphan. -/
theorem reward_reserved (h : bitsOf rec 74 6 ≠ 0) : reward s die slot rec who = orphan s die slot rec 4 := if_pos h

variable (hplain : bitsOf rec 74 6 = 0)
include hplain

/-- A record of a version that has been closed for longer than the lag is stale. -/
theorem reward_stale (hlag : bitsOf rec 80 16 + (s.join die slot).lag < (s.join die slot).cb) :
    reward s die slot rec who = .ok
      ((s.setJoin die slot { s.join die slot with stale := min 4294967295 ((s.join die slot).stale + 1) }).note die 0xE6
        (dieLoc die) (s.ctx slot).asid) () := by
  rw [← noteJoin_setJoin]
  exact (if_neg (fun h => h hplain)).trans (if_pos hlag)

variable (hlag : (s.join die slot).cb ≤ bitsOf rec 80 16 + (s.join die slot).lag)
include hlag

/-- A record of no open segment is an orphan. -/
theorem reward_unknown (hnone : (segsOf s die slot).find? (fun g => g.key = bitsOf rec 0 64) = none) :
    reward s die slot rec who = orphan s die slot rec 1 := by
  unfold reward
  dsimp only
  rw [if_neg (fun h => h hplain), if_neg (Nat.not_lt.mpr hlag), hnone]

variable {g : Segment} (hseg : (segsOf s die slot).find? (fun g => g.key = bitsOf rec 0 64) = some g)
include hseg

/-- A record of a step past its segment, or of one that has its reward, is an orphan. -/
theorem reward_unfit (h : g.len ≤ bitsOf rec 64 10 ∨ bitOf g.miss (bitsOf rec 64 10) = false) :
    ∃ reason, reward s die slot rec who = orphan s die slot rec reason := by
  unfold reward rwdStep
  dsimp only
  rw [if_neg (fun h => h hplain), if_neg (Nat.not_lt.mpr hlag), hseg]
  by_cases hlen : g.len ≤ bitsOf rec 64 10
  · exact ⟨2, if_pos hlen⟩
  · have hmiss := h.resolve_left hlen
    exact ⟨3, (if_neg hlen).trans (if_pos (by rw [hmiss]; rfl))⟩

/-- A record that fits writes its reward and clears its bit of MISS, and Release runs. -/
theorem reward_fits (hlen : bitsOf rec 64 10 < g.len) (hmiss : bitOf g.miss (bitsOf rec 64 10) = true) {s1 : State} {a : Acc}
    (hwrite : s.gwrite (joinAcc die slot true) (g.va + 0x1140 + 4 * bitsOf rec 64 10) (natToBytes 4 (bitsOf rec 96 32)) =
      .ok s1 a) : reward s die slot rec who =
      releaseOn (s1.mapSeg die slot (bitsOf rec 0 64) fun g => some { g with miss := g.miss - 2 ^ bitsOf rec 64 10 })
        die slot who := by
  unfold reward rwdStep
  dsimp only
  rw [if_neg (fun h => h hplain), if_neg (Nat.not_lt.mpr hlag), hseg]
  dsimp only
  rw [if_neg (Nat.not_le.mpr hlen), hmiss, hwrite]
  rfl

end

/-- What the join table does with segments and rewards, by the laws above (R460, R461, R463). -/
theorem joinTableLaws : Claim.JoinTableLaws := by
  intro s die slot
  refine ⟨?_, ?_, fun g => headSeg_least, releasable_iff s die slot, release_none,
    fun s1 who => ⟨releaseOn_ok who, releaseOn_wait who⟩, fun b c x => outstanding_of_owed, ?_⟩
  case _ =>
    intro va who s1 hd a acc hread
    refine ⟨openSegment_malformed hread, openSegment_closed hread, fun hgood hcb => ⟨openSegment_taken hread hgood hcb,
      openSegment_full hread hgood hcb, ?_⟩⟩
    intro hnew hroom s3 a3 s4 hwrite hrelease
    exact openSegment_opens hread hgood hcb hnew hroom hwrite hrelease
  case _ =>
    intro rec who key step counted
    refine ⟨fun hring hres => ?_, fun hring hres s1 hwait => ?_, reward_stale, fun hplain hlag => ⟨fun hnone hring => ?_,
      fun g hseg => ⟨fun hunfit hring => ?_, fun hlen hmiss s1 a => reward_fits hplain hlag hseg hlen hmiss⟩⟩⟩
    · rw [reward_reserved hres]
      exact orphan_counted hring 4
    · rw [reward_reserved hres]
      exact orphan_waits hring hwait 4
    · rw [reward_unknown hplain hlag hnone]
      exact orphan_counted hring 1
    · obtain ⟨reason, hreward⟩ := reward_unfit (who := who) hplain hlag hseg hunfit
      rw [hreward]
      exact orphan_counted hring reason
  case _ =>
    intro g n s1 bs a s2 a2 hhead hrel hread
    exact releaseFrom_head n hhead hrel hread

end Sys2Proof.Machine
end

section
/-! The events of a join table (R458, R460 to R463, R465), and the obligation about them. -/

open Sys2Proof Sys2Proof.Machine

namespace Sys2Proof.Machine

/-! ### The turn of an event at its table (R458) -/

/-- The event of a crew that a table takes next. -/
theorem crewEvent_eq_some {s : State} {b c slot die : Nat} {t : TableEvent} (h : crewEvent s b c slot die = some t) :
    nextTableEvent s die slot = some t ∧ t.blk = b ∧ t.crew = c ∧ releasing s die slot = false := by
  obtain ⟨hnext, hmine⟩ := Option.filter_eq_some_iff.mp h
  simp only [Bool.and_eq_true, decide_eq_true_eq, Bool.not_eq_true'] at hmine
  obtain ⟨⟨⟨hblk, hcrew⟩, -⟩, hfree⟩ := hmine
  exact ⟨hnext, hblk, hcrew, hfree⟩

/-- An event stays at the table of a die of its block's package, and none of a context is taken while Release is held up. -/
theorem tableTurn_eq_some {s : State} {b c slot dt : Nat} {t : TableEvent} (h : tableTurn s b c = some (slot, dt, t)) :
    ∃ y, s.block b = some y ∧ slot = y.slot ∧ (s.ctx slot).state = .live ∧ (dt = y.die ∨ dt = 1 - y.die) ∧
      nextTableEvent s dt slot = some t ∧ t.blk = b ∧ t.crew = c ∧ releasing s dt slot = false := by
  unfold tableTurn at h
  cases hb : s.block b with
  | none => simp [hb] at h
  | some y =>
    simp only [hb] at h
    split at h
    · cases h
    · next hlive =>
      obtain ⟨d, hd, hevent⟩ := List.exists_of_findSome?_eq_some h
      obtain ⟨u, hcrew, heq⟩ := Option.map_eq_some_iff.mp hevent
      obtain ⟨rfl, rfl, rfl⟩ : y.slot = slot ∧ d = dt ∧ u = t := by simpa using heq
      have hdie : d = 1 - y.die ∨ d = y.die := by simpa using hd
      obtain ⟨hnext, hblk, hcrew', hfree⟩ := crewEvent_eq_some hcrew
      exact ⟨y, rfl, rfl, not_not.mp hlive, hdie.symm, hnext, hblk, hcrew', hfree⟩

section
variable {s : State} {b c slot dt : Nat} {t : TableEvent} (h : tableTurn s b c = some (slot, dt, t))
include h

/-- An open is answered (R460). -/
theorem exec_rjopenEvent {va order d : Nat} (hop : t.op = .open_ va order d) {s1 : State} {r : Nat ⊕ Trap}
    (hopen : openSegment s dt slot va (b, c) = .ok s1 r) :
    exec (.rjopenEvent b c) s = .next (answerOpen (s1.dropTableEvent dt t) b c order d r) := by
  show execRjopenEvent b c s = _
  simp only [execRjopenEvent, h, hop, hopen]

/-- A tick raises the close bound, and Release runs (R465). -/
theorem exec_rjtickEvent {cb : Nat} (hop : t.op = .tick cb) {s1 : State}
    (hrelease : release ((s.dropTableEvent dt t).setJoin dt slot
      { s.join dt slot with cb := max (s.join dt slot).cb cb, ticks := (s.join dt slot).ticks + 1 }) dt slot = .ok s1 ()) :
    exec (.rjtickEvent b c) s = .next (s1.setOwed dt slot []) := by
  show execRjtickEvent b c s = _
  simp only [execRjtickEvent, h, hop, releaseOn_ok _ hrelease, tableOut]

/-- A configuration is installed (R462). -/
theorem exec_rjstatCfgEvent {lag ring log : Nat} (hop : t.op = .config lag ring log) :
    exec (.rjstatCfgEvent b c) s = .next ((s.dropTableEvent dt t).setJoin dt slot
      { s.join dt slot with lag := lag, oring := ring, orlog := log }) := by
  show execRjstatCfgEvent b c s = _
  simp only [execRjstatCfgEvent, h, hop]

/-- The counts of a table are reported (R462). -/
theorem exec_rjstatEvent {order d : Nat} (hop : t.op = .stat order d) : exec (.rjstatEvent b c) s = .next
    ((s.dropTableEvent dt t).fillCrew b c order fun p => { p with ready := true, writes :=
      [.s d (BitVec.ofNat 32 (segsOf s dt slot).length), .s (d + 1) (BitVec.ofNat 32 (s.join dt slot).orphans),
       .s (d + 2) (BitVec.ofNat 32 (s.join dt slot).stale),
       .s (d + 3) (BitVec.ofNat 32 ((s.join dt slot).touts + 65536 * (s.join dt slot).overflows))] }) := by
  show execRjstatEvent b c s = _
  simp only [execRjstatEvent, h, hop]
  rfl

end

/-! ### Rewards, time-outs and pops (R457, R461, R463, R465) -/

/-- A reward record that its table processes; the last one completes its command. -/
theorem exec_rewardRecord {s s1 : State} {die key rec : Nat} {u : TableEvent} {g : List TableEvent} {ep : Option Nat}
    {rest : List Nat} (hturn : rewardTurns s die = u :: g) (hop : u.op = .rewards key ep (rec :: rest))
    (hreward : reward s die u.slot rec (if ep.isSome then none else some (u.blk, u.crew)) = .ok s1 ()) :
    exec (.rewardRecord die) s = .next (if rest = [] then rewardsDone (s1.dropTableEvent die u) die u.slot key ep
      else s1.setDie die { s1.die die with tevents := (s1.die die).tevents.map fun v =>
        if v = u then { u with op := .rewards key ep rest } else v }) := by
  have hstep : rewardStep s die u = .ok (if rest = [] then rewardsDone (s1.dropTableEvent die u) die u.slot key ep
      else s1.setDie die { s1.die die with tevents := (s1.die die).tevents.map fun v =>
        if v = u then { u with op := .rewards key ep rest } else v }) () := by
    simp only [rewardStep, hop, hreward, Got.bind_ok, List.isEmpty_iff]
    split
    · rfl
    · rfl
  show execRewardRecord die s = _
  simp only [execRewardRecord, hturn, hstep, tableOut]

/-- Release runs on its own once a head may be released (R463). -/
theorem exec_joinTimeout {s s1 : State} {die slot : Nat} {g : Segment} (hhead : headSeg s die slot = some g)
    (hrel : releasable s die slot g = true) (hlive : (s.ctx slot).state = .live)
    (hrelease : release s die slot = .ok s1 ()) : exec (.joinTimeout die slot) s = .next (s1.setOwed die slot []) := by
  have hready : releasing s die slot = true := by rw [releasing, hhead]; exact hrel
  show execJoinTimeout die slot s = _
  simp only [execJoinTimeout, hready, hlive, Bool.true_and, decide_true, if_true, hrelease, Got.bind_ok, tableOut]

/-- The unit of a crew turns to its job. -/
theorem Working.withJob {s : State} {b c : Nat} {x : Block} {w : Crew} {j : Job} (h : Working s b c x w j) (m : String)
    {kind : Instr → Bool} (hkind : kind j.i = true) (k : Block → Crew → Job → Out) :
    withJob s b c m kind k = k x w j := by
  have hjob : w.jobOf kind = some j := by
    simp only [Crew.jobOf, h.job, List.find?_cons, hkind]
  have hruns : s.runs x = true := by
    simp only [State.runs, h.runs, h.live, decide_true, Bool.and_self]
  simp only [Machine.withJob, h.block, h.crew, hjob, hruns, if_true]

section
variable {s : State} {b c : Nat} {x : Block} {w : Crew} {j : Job} {p : FabOps} (h : Working s b c x w j) (hi : j.i = .rjpop p)
include h hi

/-- A pop takes the head of the learner queue, and Release runs (R465). -/
theorem exec_rjpop_takes {va : Nat} {late : Bool} {rest : List (Nat × Bool)} {s1 : State}
    (hqueue : (s.join x.die x.slot).learner = (va, late) :: rest)
    (hrelease : release (s.setJoin x.die x.slot { s.join x.die x.slot with learner := rest }) x.die x.slot = .ok s1 ()) :
    exec (.rjpopComplete b c) s = .next (endsWith (s1.setOwed x.die x.slot []) b c j
      [.s p.d (BitVec.ofNat 32 (va % 2 ^ 32)), .s (p.d + 1) (BitVec.ofNat 32 (va / 2 ^ 32)),
       .s (p.d + 2) (BitVec.ofNat 32 (if late then 2 else 0))]) := by
  show execRjpopComplete b c s = _
  rw [execRjpopComplete, h.withJob _ (by rw [hi])]
  simp only [hi, hqueue, releaseOn_ok _ hrelease, Got.bind_ok, tableOut]

/-- A pop with NB of an empty queue is answered once no event of the context is on its way (R465). -/
theorem exec_rjpop_empty (hqueue : (s.join x.die x.slot).learner = []) (hnb : p.nb = true)
    (hnone : nextTableEvent s x.die x.slot = none) (hfree : releasing s x.die x.slot = false) :
    exec (.rjpopComplete b c) s = .next (endsWith s b c j
      [.s p.d (BitVec.ofNat 32 0), .s (p.d + 1) (BitVec.ofNat 32 0), .s (p.d + 2) (BitVec.ofNat 32 1)]) := by
  show execRjpopComplete b c s = _
  rw [execRjpopComplete, h.withJob _ (by rw [hi])]
  simp only [hi, hqueue, hnb, hnone, hfree, Bool.not_false, and_self, if_true]

end

/-- What each event of a join table does, by the laws above (R458, R460 to R463, R465). -/
theorem tableEvents : Claim.TableEvents := by
  intro s b c x slot dt t
  refine ⟨tableTurn_eq_some, fun hturn => ⟨fun va order d s1 r hop => exec_rjopenEvent hturn hop,
    fun cb s1 hop => exec_rjtickEvent hturn hop, fun lag ring log => exec_rjstatCfgEvent hturn,
    fun order d => exec_rjstatEvent hturn⟩, fun die u g key ep rec rest s1 => exec_rewardRecord,
    fun die k g s1 => exec_joinTimeout, fun w j p h hi => ⟨fun va late rest s1 => exec_rjpop_takes h hi,
    exec_rjpop_empty h hi⟩⟩

/-- Settles O41: the join table's laws and the laws of its events. -/
theorem joinTableEvents : Obligations.JoinTableEvents := ⟨joinTableLaws, tableEvents⟩

end Sys2Proof.Machine
end

section
/-! The steps of a collective (R451 to R455). -/

open Sys2Proof Sys2Proof.Machine

namespace Sys2Proof.Machine

/-! ### Contributions (R452) -/

/-- The contribution of an element, with the scale of its block of 32 elements. -/
theorem contributions_get (dt n : Nat) (xs : List Nat) (i : Nat) (hi : i < xs.length) (hn : xs.length ≤ 32 * n) :
    (contributions dt n xs)[i]? = (xs[i]?).map fun x =>
      contribution dt x (if dt = 2 then fp8Scale .e4m3 ((xs.drop (32 * (i / 32))).take 32) else 0) := by
  induction n generalizing xs i with
  | zero => omega
  | succ n ih =>
    have hne : xs.isEmpty = false := by
      cases xs with
      | nil => exact absurd hi (Nat.not_lt_zero i)
      | cons x xs => rfl
    rw [contributions, hne]
    simp only [Bool.false_eq_true, if_false]
    have hlen : ((xs.take 32).map fun x => contribution dt x (if dt = 2 then fp8Scale .e4m3 (xs.take 32) else 0)).length =
        min 32 xs.length := by rw [List.length_map, List.length_take]
    rcases Nat.lt_or_ge i 32 with hblock | hlater
    · have hzero : i / 32 = 0 := Nat.div_eq_of_lt hblock
      rw [List.getElem?_append_left (by rw [hlen]; omega), List.getElem?_map, List.getElem?_take_of_lt hblock, hzero,
        Nat.mul_zero, List.drop_zero]
    · have hnext : i / 32 = (i - 32) / 32 + 1 := by omega
      have hfull : min 32 xs.length = 32 := by omega
      rw [List.getElem?_append_right (by rw [hlen]; omega), hlen, hfull,
        ih (xs.drop 32) (i - 32) (by rw [List.length_drop]; omega) (by rw [List.length_drop]; omega),
        List.getElem?_drop, List.drop_drop, Nat.add_sub_cancel' hlater, hnext, Nat.mul_add_one, Nat.add_comm 32]

/-! ### The steps of a joined collective (R451, R453, R455) -/

section
variable {s : State} {key : Nat} {k : Coll} (hjoined : k.joined = true)
include hjoined

/-- A list that differs from a member's ends the context. -/
theorem collStep_differs (h : digestsDiffer s k = true) :
    collStep s key k = some (.ok s (s.fatalDie k.die k.slot { code := 0xE3, info := k.dkey })) := by
  simp only [collStep, hjoined, h, Bool.not_true, Bool.false_eq_true, if_false, if_true, mismatch]

variable (hsame : digestsDiffer s k = false)
include hsame

/-- A collective waits for the digests of its members. -/
theorem collStep_waits (h : digestsIn s k = false) : collStep s key k = none := by
  simp only [collStep, hjoined, hsame, h, Bool.not_true, Bool.not_false, Bool.false_eq_true, if_false, if_true]

variable (hin : digestsIn s k = true)
include hin

/-- A collective moves its source before it is formed. -/
theorem collStep_source (h : k.formed = false) : collStep s key k = some (sourceChunk s key k) := by
  simp only [collStep, hjoined, hsame, hin, h, Bool.not_true, Bool.not_false, Bool.false_eq_true, if_false, if_true]

variable (hformed : k.formed = true)
include hformed

/-- Members that disagree end the context. -/
theorem collStep_disagrees (h : disagree k (s.contribsOf k) = true) :
    collStep s key k = some (.ok s (s.fatalDie k.die k.slot { code := 0xE3, info := k.dkey })) := by
  simp only [collStep, hjoined, hsame, hin, hformed, h, Bool.not_true, Bool.false_eq_true, if_false, if_true, mismatch]

variable (hagree : disagree k (s.contribsOf k) = false)
include hagree

/-- A collective waits for the contributions of its members. -/
theorem collStep_awaits (h : (s.contribsOf k).length < k.nmem) : collStep s key k = none := by
  simp only [collStep, hjoined, hsame, hin, hformed, hagree, h, Bool.not_true, Bool.false_eq_true, if_false, true_or, if_true]

/-- A collective writes its result once every contribution has come. -/
theorem collStep_result (hall : k.nmem ≤ (s.contribsOf k).length) (hmore : k.outChunk < k.chunksOf k.outs) :
    collStep s key k = some (resultChunk s key k (s.contribsOf k)) := by
  have hdone : ¬((s.contribsOf k).length < k.nmem ∨ k.chunksOf k.outs ≤ k.outChunk) := by omega
  simp only [collStep, hjoined, hsame, hin, hformed, hagree, hdone, Bool.not_true, Bool.false_eq_true, if_false]

end

/-- A chunk of the source of AR and RS without residuals becomes the rank's contribution (R452). -/
theorem sourceChunk_reduces {s s1 : State} {key : Nat} {k : Coll} (hkind : k.k.kind ≠ 1) (hres : k.k.res = false)
    {bs : List Byte} {a : Acc} : let lo := k.chunks * k.perChunk
    let n := min k.perChunk (k.k.count - lo)
    s.greadAll (k.acc key false) [(k.src + 4 * lo, 4 * n)] = .ok s1 (bs, a) →
    let k1 : Coll := { k with
      vals := k.vals ++ ((List.range n).map (lo + ·)).zip
        ((contributions k.k.dt (n / 32 + 1) (unpackWords 4 n bs)).map (·.1)), chunks := k.chunks + 1 }
    let s2 := s1.forget (2 * key)
    sourceChunk s key k = .ok s2 (if k1.chunks < k.chunksOf k.k.count then
        { s2 with colls := put s2.colls key k1 }
      else publish { s2 with colls := put s2.colls key { k1 with formed := true } } k1) := by
  intro lo n hread k1 s2
  have hreduce : reduceChunk s key k = .ok s1 { k with
      vals := k.vals ++ ((List.range n).map (lo + ·)).zip
        ((contributions k.k.dt (n / 32 + 1) (unpackWords 4 n bs)).map (·.1)) } := by
    unfold reduceChunk
    simp only [Coll.srcChunk, hres, Bool.false_eq_true, if_false]
    rw [hread, Got.bind_ok]
    simp only [hres, Bool.not_false, true_or, if_true, Bool.false_eq_true, if_false]
    rfl
  unfold sourceChunk
  rw [if_neg hkind, hreduce, Got.bind_ok]
  rfl

/-- Element `i` of what a rank writes without SH: the contributions side by side, or their tree (R453). -/
def resultValue (s : State) (k : Coll) (i : Nat) : Nat :=
  if k.k.kind = 1 then contribAt (s.contribsOf k) (i / k.k.count) (i % k.k.count)
  else tree (fun r => contribAt (s.contribsOf k) r (if k.k.kind = 2 then k.rank * (k.k.count / k.nmem) + i else i)) 14 0 k.nmem

/-- Without SH every element of the result has a value. -/
theorem resultAt_eq {s : State} {k : Coll} (hsh : k.k.sh = false) (i : Nat) :
    resultAt k (s.contribsOf k) i = some (resultValue s k i) := by
  unfold resultAt resultValue
  rw [hsh]
  simp only [Bool.false_eq_true, if_false]
  split
  · rfl
  · rfl

/-- A chunk of the result without SH is written (R453, R455). -/
theorem resultChunk_writes {s s1 : State} {key : Nat} {k : Coll} (hsh : k.k.sh = false) {a : Acc} :
    let lo := k.outChunk * k.perChunk
    let n := min k.perChunk (k.outs - lo)
    s.gwrite (k.acc key true) (k.dst + lo * k.width)
      (packWords k.width ((List.range n).map fun i => resultValue s k (lo + i))) = .ok s1 a →
    let s2 := s1.forget (2 * key)
    resultChunk s key k (s.contribsOf k) = .ok s2 { s2 with
      colls := put s2.colls key { k with chunks := k.chunks + 1, sides := a.sides } } := by
  intro lo n hwrite s2
  have hvalues : ((List.range n).map fun i => resultAt k (s.contribsOf k) (lo + i)) =
      (List.range n).map fun i => some (resultValue s k (lo + i)) :=
    List.map_congr_left fun i _ => resultAt_eq hsh (lo + i)
  have hsome : (((List.range n).map fun i => some (resultValue s k (lo + i))).any Option.isNone) = false := by
    simp
  have hbytes : (((List.range n).map fun i => some (resultValue s k (lo + i))).map fun x => x.getD 0) =
      (List.range n).map fun i => resultValue s k (lo + i) := by
    rw [List.map_map]
    rfl
  unfold resultChunk
  dsimp only
  rw [hvalues, hsome, hbytes, hwrite]
  rfl

/-- What a step of a joined collective does, by the laws above (R451 to R455). -/
theorem collectiveLaws : Claim.CollectiveLaws := by
  refine ⟨fun s key k hjoined => ⟨collStep_differs hjoined, collStep_waits hjoined, fun hsame hin => ⟨?_,
    collStep_disagrees hjoined hsame hin, collStep_awaits hjoined hsame hin, ?_⟩⟩, contributions_get, fun dt x sc => rfl⟩
  case _ =>
    intro hformed hkind hres s1 bs a lo n hread k1 s2
    rw [collStep_source hjoined hsame hin hformed, sourceChunk_reduces hkind hres hread]
  case _ =>
    intro hformed hagree hall hsh hmore s1 a lo n at_ value hwrite s2
    rw [collStep_result hjoined hsame hin hformed hagree hall hmore, resultChunk_writes hsh hwrite]

end Sys2Proof.Machine
end

section
/-! The messages of the fabric (R447, R451, R455, R456), and the obligation about the fabric's events. -/

open Sys2Proof Sys2Proof.Machine

namespace Sys2Proof.Machine

/-! ### The engine of collectives (R451, R455) -/

section
variable {s : State} {k : Nat} {c : Coll} (h : look s.colls k = some c) (hlive : (s.ctx c.slot).state = .live)
include h hlive

/-- The engine takes the next step of a collective. -/
theorem exec_collChunk {s1 s2 : State} (hstep : collStep s k c = some (.ok s1 s2)) : exec (.collChunk k) s = .next s2 := by
  show execCollChunk k s = _
  simp only [execCollChunk, h, hlive, ne_eq, not_true_eq_false, if_false, hstep]

/-- A collective ends once its rank has written its part. -/
theorem exec_collComplete (hjoined : c.joined = true) (hformed : c.formed = true) (hall : c.chunksOf c.outs ≤ c.outChunk) :
    exec (.collComplete k) s = .next (s.endColl k c c.fault) ∧ look (s.endColl k c c.fault).colls k = none := by
  refine ⟨?_, (look_dropAt _ _ _).trans (if_pos rfl)⟩
  show execCollComplete k s = _
  simp only [execCollComplete, h, hlive, hjoined, hformed, hall, and_self, if_true]

end

/-! ### Sends and receives (R456) -/

/-- A receive whose block is free of errors takes bytes of its length, and fails with others. -/
theorem receive_clean {s : State} {j : Nat} {r : Send} {y : Block} (hy : s.block r.blk = some y) (hclean : y.errs = [])
    (bs : List Byte) : s.receive j r bs = if bs.length = r.len then
      (s.setBlock r.blk { y with share := writeBytes y.share r.off bs }).endSend j r true else s.endSend j r false := by
  rw [State.receive, storeShare_clean hy hclean]

/-- A send meets the oldest receive of its pair and tag: with equal lengths the bytes move, with others both end with a
fault. -/
theorem exec_sendMatch {s : State} {k j : Nat} {r c : Send} {x y : Block} (hr : look s.sends j = some r)
    (hc : look s.sends k = some c) (hrruns : s.sendRuns r = true) (hcruns : s.sendRuns c = true)
    (hrecv : firstRecv s r.slot r.die r.ep r.tag = some j) (hdie : s.dieOfEp r.ep = some c.die)
    (hep : c.ep = s.endpoint r.die) (hsend : firstSend s r.slot c.die c.ep r.tag = some k) (hx : s.block c.blk = some x)
    (hxclean : x.errs = []) (hy : s.block r.blk = some y) (hyclean : y.errs = []) :
    exec (.sendMatch k j) s = .next
      (if c.len = r.len then
        ((s.setBlock r.blk { y with share := writeBytes y.share r.off (readBytes x.share c.off c.len) }).endSend j r
          true).endSend k c true
       else (s.endSend j r false).endSend k c false) := by
  have hready : ¬(firstRecv s r.slot r.die r.ep r.tag ≠ some j ∨ (!s.sendRuns r) = true) := by simp [hrecv, hrruns]
  have hmeets : s.sendRuns c = true ∧ s.dieOfEp r.ep = some c.die ∧ c.ep = s.endpoint r.die ∧
      firstSend s r.slot c.die c.ep r.tag = some k := ⟨hcruns, hdie, hep, hsend⟩
  have hreceived := receive_clean (j := j) hy hyclean (readBytes x.share c.off c.len)
  rw [length_readBytes] at hreceived
  show execSendMatch k j s = _
  unfold execSendMatch
  simp only [hr, hc]
  rw [if_neg hready, if_pos hmeets]
  simp only [hx, meetRead_clean hx hxclean, Bool.false_eq_true, if_false, hreceived]
  by_cases hlen : c.len = r.len
  · simp only [hlen, if_true, decide_true]
  · simp only [hlen, if_false, decide_false]

/-! ### Ports (R447) -/

/-- A context-fatal cause leaves the fabric. -/
theorem fatal_fab (s : State) (slot : Nat) (r : FaultRec) : (s.fatal slot r).fab = s.fab := by
  unfold State.fatal
  dsimp only
  split
  · rfl
  · rfl
  · rfl

/-- Causes of several contexts leave the fabric. -/
theorem foldl_fatalDie_fab (die : Nat) (t : Trap) (slots : List Nat) (s : State) :
    (slots.foldl (fun s k => s.fatalDie die k t) s).fab = s.fab := by
  induction slots generalizing s with
  | nil => rfl
  | cons k slots ih => exact (ih _).trans (fatal_fab ..)

/-- A table holds what it answers. -/
theorem mem_of_look {α : Type} {t : List (Nat × α)} {k : Nat} {x : α} (h : look t k = some x) : (k, x) ∈ t := by
  induction t with
  | nil => cases h
  | cons e t ih =>
    rw [look] at h
    split at h
    · next hk =>
      cases h
      subst hk
      exact .head _
    · exact .tail _ (ih h)

/-- A port that is taken down is down. -/
theorem getLsbD_port_down (up : BitVec 16) (port : Nat) : (up &&& ~~~(1#16 <<< port)).getLsbD port = false := by
  simp

/-- A message that has been sent 64 times takes its port down: its routes and its messages go. -/
theorem exec_portDown {s : State} {k : Nat} {o : Outgoing} (h : look s.fab.leaving k = some o) (htries : 63 ≤ o.tries)
    (hup : s.portUp o.port = true) : ∃ t, exec (.portDown o.port) s = .next t ∧ t.portUp o.port = false ∧
      (∀ p ∈ t.fab.leaving, p ∈ s.fab.leaving ∧ p.2.port ≠ o.port) ∧ (∀ r ∈ t.fab.routes, o.port ∉ r.2) := by
  have hmine : (k, o) ∈ s.fab.leaving.filter fun p => p.2.port = o.port :=
    List.mem_filter.mpr ⟨mem_of_look h, decide_eq_true rfl⟩
  have hfail : (s.portUp o.port && (s.fab.leaving.filter fun p => p.2.port = o.port).any fun p => decide (63 ≤ p.2.tries)) =
      true := by
    rw [hup, Bool.true_and]
    exact List.any_eq_true.mpr ⟨_, hmine, decide_eq_true htries⟩
  refine ⟨_, if_pos hfail, ?_, ?_, ?_⟩
  · simp only [State.portUp, foldl_fatalDie_fab, getLsbD_port_down, Bool.and_false]
  · intro p hp
    rw [foldl_fatalDie_fab] at hp
    obtain ⟨hmem, hport⟩ := List.mem_filter.mp hp
    exact ⟨hmem, of_decide_eq_true hport⟩
  · intro r hr
    rw [foldl_fatalDie_fab] at hr
    obtain ⟨hmem, -⟩ := List.mem_filter.mp hr
    obtain ⟨q, -, rfl⟩ := List.mem_map.mp hmem
    intro hport
    exact of_decide_eq_true (List.mem_filter.mp hport).2 rfl

/-- A message is sent again, which is noted, up to 63 times. -/
theorem exec_flitResend {s : State} {k : Nat} {o : Outgoing} (h : look s.fab.leaving k = some o) (htries : o.tries < 63) :
    exec (.flitResend k) s = .next
      ({ s with fab := { s.fab with leaving := put s.fab.leaving k { o with tries := o.tries + 1 } } }.note (o.port / 8)
        0xE0 (dieLoc (o.port / 8)) o.flit.asid o.port) := by
  show execFlitResend k s = _
  simp only [execFlitResend, h, if_neg (Nat.not_le.mpr htries), portDie]

section
variable {s : State} {k : Nat} {f : Flit} (hup : s.portUp k = true) (hpower : s.power ≠ .d3cold)
include hup hpower

/-- A message whose check code fails is not taken. -/
theorem exec_flitReceive_bad (hbad : f.good = false) : exec (.flitReceive k f) s = .next s := by
  show execFlitReceive k f s = _
  simp only [execFlitReceive, hup, hpower, hbad, Bool.not_true, Bool.not_false, Bool.false_eq_true, or_self, if_false,
    if_true]

variable (hgood : f.good = true)
include hgood

/-- An acknowledgement ends the resends of what it names. -/
theorem exec_flitReceive_ack {id : Nat} (hmsg : f.msg = .ack id) : exec (.flitReceive k f) s = .next { s with
    fab := { s.fab with leaving := s.fab.leaving.filter fun p => !(p.1 = id && p.2.port = k) } } := by
  show execFlitReceive k f s = _
  simp only [execFlitReceive, hup, hpower, hgood, hmsg, Bool.not_true, Bool.false_eq_true, or_self, if_false]

variable (hmsg : ∀ id, f.msg ≠ .ack id)
include hmsg

/-- Another message is acknowledged, and taken unless it was taken before. -/
theorem exec_flitReceive_good : exec (.flitReceive k f) s = .next
    (if s.fab.acked.any fun a => a.2.1 = f.src && a.2.2 = f.seq then s.acknowledge k f
     else (s.acknowledge k f).takeFlit f) := by
  show execFlitReceive k f s = _
  unfold execFlitReceive
  rw [if_neg (by simp [hup, hpower]), if_neg (by simp [hgood])]
  split
  · next id hack => exact absurd hack (hmsg id)
  · rfl

end

/-- The messages that have been acknowledged before. -/
theorem seenBefore_iff (s : State) (f : Flit) :
    (s.fab.acked.any fun a => a.2.1 = f.src && a.2.2 = f.seq) = true ↔ seenBefore s f := by
  simp only [List.any_eq_true, Bool.and_eq_true, decide_eq_true_eq, seenBefore]

/-- What the fabric does with messages, by the laws above (R447, R451, R455, R456). -/
theorem fabricMessages : Claim.FabricMessages := by
  intro s k
  refine ⟨fun c s1 s2 h hlive => exec_collChunk h hlive, fun c => exec_collComplete, fun j r c x y => exec_sendMatch,
    fun o h => ⟨exec_flitResend h, exec_portDown h⟩, ?_, fun f hup hpower => ⟨exec_flitReceive_bad hup hpower,
      fun hgood id => exec_flitReceive_ack hup hpower hgood, ?_⟩⟩
  case _ =>
    intro die asid ep h
    show execDestinationUnreachable k s = _
    simp only [execDestinationUnreachable, h]
  case _ =>
    intro hgood hmsg got
    have hexec := exec_flitReceive_good hup hpower hgood hmsg
    refine ⟨fun hseen => ?_, fun hnew die slot hdie hslot => ?_, fun hnew die hdie hnone hwork => ?_⟩
    · rw [hexec, if_pos ((seenBefore_iff s f).mpr hseen)]
      rfl
    · have hdie' : (s.acknowledge k f).dieOfEp f.dst = some die := hdie
      have hslot' : (s.acknowledge k f).liveSlot f.asid = some slot := hslot
      rw [hexec, if_neg (mt (seenBefore_iff s f).mp hnew)]
      simp only [State.takeFlit, hdie', hslot']
      refine ⟨fun id tag bs hdata => ?_, fun dkey num rank ms kind vals hcontrib => ?_, fun id recs hreward => ?_⟩
      · simp only [State.arrive, hdata]
        rfl
      · simp only [State.arrive, hcontrib]
        rfl
      · simp only [State.arrive, hreward]
        rfl
    · have hdie' : (s.acknowledge k f).dieOfEp f.dst = some die := hdie
      have hnone' : (s.acknowledge k f).liveSlot f.asid = none := hnone
      rw [hexec, if_neg (mt (seenBefore_iff s f).mp hnew)]
      simp only [State.takeFlit, hdie', hnone', hwork, if_true]
      rfl

/-- Settles O43: the laws of collectives and of the fabric's messages. -/
theorem fabricEvents : Obligations.FabricEvents := ⟨collectiveLaws, fabricMessages⟩

end Sys2Proof.Machine
end

section
/-! The events of the solver and of the optimiser (R289, R296 to R304, R310, R314, R315, R319, R320), and the obligation about them. -/

open Sys2Proof Sys2Proof.Machine

namespace Sys2Proof.Machine

/-! ### Units without errors -/

/-- A unit whose storage has no error goes on. -/
theorem unitCheck_clean {s : State} {die : Nat} (h : (s.die die).uerr = []) (x : Block) (unit : Nat) (k : State → State) :
    unitCheck s x die unit k = k s := by
  simp only [unitCheck, h, List.filter_nil, List.isEmpty_nil, if_true]

/-- Storage of units that is clean on both dies is clean on each. -/
theorem uerr_clean {s : State} (h0 : s.die0.uerr = []) (h1 : s.die1.uerr = []) (die : Nat) : (s.die die).uerr = [] := by
  cases die with
  | zero => exact h0
  | succ n => exact h1

section
variable {s : State} {b c : Nat} {x : Block} {w : Crew} {j : Job} (h : Working s b c x w j)
include h

/-- The storage of the units is clean. -/
theorem Working.uerr (die : Nat) : (s.die die).uerr = [] := uerr_clean h.units0 h.units1 die

/-- The reads of a unit meet no error. -/
theorem Working.meetRead (crew : Nat) (place : Place) (rs : List (Nat × Nat)) : s.meetRead b crew place rs = (s, false) :=
  meetRead_clean h.block h.clean

/-! ### The solver's jobs (R289, R296 to R300) -/

/-- The solver does the job that stands first in its queue. -/
theorem Working.solJob (hfirst : solverFirst s x (x.r.prio, j.since, b, c) = true) (o : SolOps) (rhs : Bool)
    (run : Trap ⊕ (Nat × (State → State))) : solJob s b c x w j o rhs run = .next (match run with
      | .inl t => s.endJob b c j fun p => { p with late := some t }
      | .inr (st, f) => endsWith (f s) b c j [.s o.d (BitVec.ofNat 32 st)]) := by
  unfold Machine.solJob
  rw [hfirst, h.meetRead]
  exact congrArg Host.Outcome.next (unitCheck_clean (h.uerr _) x 4 _)

/-- SSTAT returns the status of its record, once the jobs of the record before it are done (R304). -/
theorem exec_sstatComplete {y : SolOps} (hi : j.i = .sstat y)
    (hdone : ∀ p ∈ s.slsqs, ¬(p.2.blk = b ∧ p.2.record = (w.rs y.a).toNat ∧ p.2.known.getLsbD c = true ∧
      p.2.arrived < j.since)) :
    let st := readLE x.share ((w.rs y.a).toNat + 0x4C) 4
    exec (.sstatComplete b c) s = .next (s.endJob b c j fun p => { p with
      writes := [.s y.d (BitVec.ofNat 32 st),
                 .s (y.d + 1) (BitVec.ofNat 32 (readLE x.share ((w.rs y.a).toNat + 0x48) 4))],
      late := if st % 16 = 4 then some { code := 0x86, info := (bitsOf st 8 4 + 8) % 16 } else none }) := by
  intro st
  have hnone : (s.slsqs.any fun p => p.2.blk = b && p.2.record = (w.rs y.a).toNat && p.2.known.getLsbD c &&
      decide (p.2.arrived < j.since)) = false := by
    refine List.any_eq_false.mpr fun p hp hany => hdone p hp ?_
    simpa [and_assoc] using hany
  show execSstatComplete b c s = _
  rw [execSstatComplete, h.withJob _ (by rw [hi])]
  simp only [hi, hnone, Bool.false_eq_true, if_false, h.meetRead]
  rfl

/-! ### OPTWAIT (R310, R315) -/

/-- The jobs of the optimiser for the card that an OPTWAIT names, which its crew comes after. -/
def awaited (s : State) (b c : Nat) (w : Crew) (j : Job) (o : OptOps) : List (Nat × OptJob) :=
  s.opts.filter fun p => p.2.blk = b && p.2.off = (w.rs o.a).toNat && p.2.known.getLsbD c && decide (p.2.arrived < j.since)

variable {o : OptOps} (hi : j.i = .optwait o)
include hi

/-- OPTWAIT of a card without such a job returns 0x8000_0000. -/
theorem exec_optwaitComplete_none (hnone : awaited s b c w j o = []) :
    exec (.optwaitComplete b c) s = .next (endsWith s b c j [.s o.d 0x80000000]) := by
  unfold awaited at hnone
  show execOptwaitComplete b c s = _
  rw [execOptwaitComplete, h.withJob _ (by rw [hi])]
  simp only [hi, hnone, List.getLast?_nil]

variable {p : Nat × OptJob} (hlast : (awaited s b c w j o).getLast? = some p)
include hlast

/-- OPTWAIT ends with the status of the newest job that it waits for. -/
theorem exec_optwaitComplete_done (hdone : p.2.done = true) :
    exec (.optwaitComplete b c) s = .next (endsWith s b c j [.s o.d p.2.status]) := by
  unfold awaited at hlast
  show execOptwaitComplete b c s = _
  rw [execOptwaitComplete, h.withJob _ (by rw [hi])]
  simp only [hi, hlast, hdone, if_true]

/-- OPTWAIT waits for the newest job. -/
theorem exec_optwaitComplete_open (hopen : p.2.done = false) (t : State) : exec (.optwaitComplete b c) s ≠ .next t := by
  unfold awaited at hlast
  show execOptwaitComplete b c s ≠ _
  rw [execOptwaitComplete, h.withJob _ (by rw [hi])]
  simp only [hi, hlast, hopen, Bool.false_eq_true, if_false]
  exact fun heq => nomatch heq

end

/-! ### SLSQ (R301 to R303) -/

/-- The bytes of a work area are stores to its block. -/
theorem scribble_clean {s : State} {b : Nat} {x : Block} (hx : s.block b = some x) (hclean : x.errs = []) (c a work n : Nat) :
    ∃ share, s.scribble b c a work n = s.setBlock b { x with share := share } := by
  unfold State.scribble
  dsimp only
  rw [storeShare_clean hx hclean, storeShare_clean (b := b) (x := { x with share := writeBytes x.share (a + 0x60) _ })
    (State.setBlock_block_self ..) hclean, State.setBlock_setBlock]
  exact ⟨_, rfl⟩

/-- Block `b` is free of errors, and job `k` of the solver is gone. -/
structure JobGone (s : State) (b k : Nat) (x : Block) : Prop where
  block : s.block b = some x
  clean : x.errs = []
  gone : look s.slsqs k = none

/-- A store to the block leaves the job gone. -/
theorem JobGone.store {s : State} {b k : Nat} {x : Block} (h : JobGone s b k x) (c a : Nat) (bs : List Byte) :
    JobGone (s.storeShare b c a bs) b k { x with share := writeBytes x.share a bs } := by
  rw [storeShare_clean h.block h.clean]
  exact ⟨State.setBlock_block_self .., h.clean, h.gone⟩

section
variable {s : State} {k : Nat} {l : Slsq} {x : Block} (hl : look s.slsqs k = some l) (hx : s.block l.blk = some x)
  (hrun : x.phase = .running) (hlive : (s.ctx x.slot).state = .live)
  (hfirst : solverFirst s x (x.r.prio, l.arrived, l.blk, k) = true)
include hl hx hrun hlive hfirst

/-- The solver turns to the least-squares job that stands first in its queue. -/
theorem withSlsq_first (m : String) (f : Slsq → Block → Out) : withSlsq s k m f = f l x := by
  have hruns : s.runs x = true := by simp only [State.runs, hrun, hlive, decide_true, Bool.and_self]
  simp only [withSlsq, hl, hx, hruns, hfirst, Bool.and_self, if_true]

variable (hclean : x.errs = []) (huerr : (s.die x.die).uerr = [])
include hclean huerr

/-- The first step of a job whose record is invalid. -/
theorem exec_slsqCheckpoint_invalid (hnew : l.run = none) {n : Nat}
    (hreason : lsqReason x.share x.r.lmem l.record (lsqRecOf (readLE x.share l.record 128)) = some n) :
    exec (.slsqCheckpoint k) s = .next
      { s.setBlock l.blk { x with share := writeBytes x.share (l.record + 0x4C) (natToBytes 4 0) } with
        slsqs := put s.slsqs k { l with run := some (lsqInvalid n), since := s.clock } } := by
  show execSlsqCheckpoint k s = _
  rw [execSlsqCheckpoint, withSlsq_first hl hx hrun hlive hfirst]
  simp only [hnew, Option.any_none, Bool.false_eq_true, if_false, meetRead_clean hx hclean, unitCheck_clean huerr,
    storeShare_clean hx hclean, hreason]
  rfl

/-- The first step of a job whose record is valid. -/
theorem exec_slsqCheckpoint_starts (hnew : l.run = none)
    (hreason : lsqReason x.share x.r.lmem l.record (lsqRecOf (readLE x.share l.record 128)) = none) :
    let r := lsqRecOf (readLE x.share l.record 128)
    let s0 := s.setBlock l.blk { x with share := writeBytes x.share (l.record + 0x4C) (natToBytes 4 0) }
    exec (.slsqCheckpoint k) s = .next
      (let s1 := if r.cyc then s0.setCtx x.slot { s.ctx x.slot with texp := true } else s0
       let s2 := s1.scribble l.blk l.crew l.record r.work r.workLen
       { s2 with slsqs := put s.slsqs k { l with run := some (lsqStart x.share r), since := s.clock } }) := by
  intro r s0
  have hx0 : s0.block l.blk = some { x with share := writeBytes x.share (l.record + 0x4C) (natToBytes 4 0) } :=
    State.setBlock_block_self ..
  show execSlsqCheckpoint k s = _
  rw [execSlsqCheckpoint, withSlsq_first hl hx hrun hlive hfirst]
  simp only [hnew, Option.any_none, Bool.false_eq_true, if_false, meetRead_clean hx hclean, unitCheck_clean huerr,
    storeShare_clean hx hclean, hreason]
  rw [meetRead_clean hx0 hclean]
  simp only [Bool.false_eq_true, if_false]
  let s1 : State := if r.cyc then s0.setCtx x.slot { s.ctx x.slot with texp := true } else s0
  have hx1 : s1.block l.blk = some { x with share := writeBytes x.share (l.record + 0x4C) (natToBytes 4 0) } := by
    simp only [s1]
    split
    · exact hx0
    · exact hx0
  have hslsqs : s1.slsqs = s.slsqs := by
    simp only [s1]
    split
    · rfl
    · rfl
  have hclock : s1.clock = s.clock := by
    simp only [s1]
    split
    · rfl
    · rfl
  obtain ⟨share, hscribble⟩ := scribble_clean hx1 hclean l.crew l.record r.work r.workLen
  have hkept : (s1.scribble l.blk l.crew l.record r.work r.workLen).slsqs = s.slsqs := by
    rw [hscribble]
    exact hslsqs
  have hkeep : ({ s1.scribble l.blk l.crew l.record r.work r.workLen with
      slsqs := put (s1.scribble l.blk l.crew l.record r.work r.workLen).slsqs k
        { l with run := some (lsqStart x.share r), since := s1.clock } } : State) =
      { s1.scribble l.blk l.crew l.record r.work r.workLen with
        slsqs := put s.slsqs k { l with run := some (lsqStart x.share r), since := s.clock } } := by
    rw [hkept, hclock]
  exact congrArg Host.Outcome.next hkeep

/-- A step from one checkpoint to the next. -/
theorem exec_slsqCheckpoint_steps {u : SlsqRun} (hu : l.run = some u) (hgoes : u.stop = none) :
    let r := lsqRecOf (readLE x.share l.record 128)
    exec (.slsqCheckpoint k) s = .next
      (let s1 := s.scribble l.blk l.crew l.record r.work r.workLen
       { s1 with slsqs := put s1.slsqs k { l with run := some (lsqStep x.share r u (s.clock - l.since)) } }) := by
  intro r
  show execSlsqCheckpoint k s = _
  rw [execSlsqCheckpoint, withSlsq_first hl hx hrun hlive hfirst]
  simp only [hu, Option.any_some, hgoes, Option.isSome_none, Bool.false_eq_true, if_false, meetRead_clean hx hclean,
    unitCheck_clean huerr]
  rfl

omit huerr in
/-- What SLSQ leaves when it ends: its STATUS word, written last (R302, R303). -/
theorem exec_slsqComplete {u : SlsqRun} {code : Nat} (hu : l.run = some u) (hstop : u.stop = some code) :
    ∃ t z, exec (.slsqComplete k) s = .next t ∧ look t.slsqs k = none ∧ t.block l.blk = some z ∧
      readLE z.share (l.record + 0x4C) 4 = code % 2 ^ 32 := by
  let r := lsqRecOf (readLE x.share l.record 128)
  have hexec : exec (.slsqComplete k) s = .next (lsqOutputs l r u code { s with slsqs := dropAt s.slsqs k }) := by
    show execSlsqComplete k s = _
    rw [execSlsqComplete, withSlsq_first hl hx hrun hlive hfirst]
    simp only [hu, hstop]
    rfl
  have hstart : JobGone { s with slsqs := dropAt s.slsqs k } l.blk k x :=
    ⟨hx, hclean, (look_dropAt _ _ _).trans (if_pos rfl)⟩
  have hbefore : ∃ s1 z, JobGone s1 l.blk k z ∧ lsqOutputs l r u code { s with slsqs := dropAt s.slsqs k } =
      s1.storeShare l.blk l.crew (l.record + 0x4C) (natToBytes 4 code) := by
    unfold lsqOutputs
    dsimp only
    split
    · exact ⟨_, x, hstart, rfl⟩
    · exact ⟨_, _, ((((hstart.store ..).store ..).store ..).store ..), rfl⟩
  obtain ⟨s1, z, hgone, hlast⟩ := hbefore
  have hend := hgone.store l.crew (l.record + 0x4C) (natToBytes 4 code)
  rw [← hlast] at hend
  refine ⟨_, _, hexec, hend.gone, hend.block, ?_⟩
  have hread := readBytes_writeBytes z.share (l.record + 0x4C) (natToBytes 4 code)
  rw [length_natToBytes] at hread
  rw [readLE_eq, hread, bytesToNat_natToBytes, show 256 ^ 4 = 2 ^ 32 from rfl]

end

/-- What the events of the solver do, by the laws above (R289, R296 to R304). -/
theorem solverUnitEvents : Claim.SolverUnitEvents := by
  intro s b c x w j y
  refine ⟨fun h => ⟨fun hfirst rhs run ev hjob => ?_, fun hi hdone => exec_sstatComplete h hi hdone⟩, ?_⟩
  case _ =>
    simp only [List.mem_cons, Prod.mk.injEq, List.not_mem_nil, or_false] at hjob
    obtain ⟨hi, rfl, rfl, rfl⟩ | ⟨hi, rfl, rfl, rfl⟩ | ⟨hi, rfl, rfl, rfl⟩ := hjob
    · show execSfactComplete b c s = _
      rw [execSfactComplete, h.withJob _ (by rw [hi])]
      simp only [hi]
      exact h.solJob hfirst y false _
    · show execSsolveComplete b c s = _
      rw [execSsolveComplete, h.withJob _ (by rw [hi])]
      simp only [hi]
      exact h.solJob hfirst y true _
    · show execSadjComplete b c s = _
      rw [execSadjComplete, h.withJob _ (by rw [hi])]
      simp only [hi]
      exact h.solJob hfirst y true _
  case _ =>
    intro k l hl hx hrun hlive h0 h1 hclean hfirst r s0
    have huerr := uerr_clean h0 h1 x.die
    exact ⟨fun hnew n => exec_slsqCheckpoint_invalid hl hx hrun hlive hfirst hclean huerr hnew,
      exec_slsqCheckpoint_starts hl hx hrun hlive hfirst hclean huerr,
      fun u => exec_slsqCheckpoint_steps hl hx hrun hlive hfirst hclean huerr,
      fun u code => exec_slsqComplete hl hx hrun hlive hfirst hclean⟩

/-! ### The optimiser (R314, R319, R320) -/

/-- An OPTSUB that waits is accepted once there is room (R314). -/
theorem exec_optsubAccept {s : State} {b c : Nat} {x : Block} {w : Crew} {o : OptOps} {pc act part : Word} {z : OptJob}
    (hx : s.block b = some x) (hw : look x.crews c = some w) (hwait : w.wait = .waiting (.optsub o) pc act part)
    (hlive : (s.ctx x.slot).state = .live) (hqueue : w.queue = []) (hclean : x.errs = [])
    (hroom : (openJobs s b).length < 16) (hcheck : optCheck x b c (w.rs o.a).toNat = .inl z) :
    exec (.optsubAccept b c) s = .next ({ s with
      fresh := s.fresh + 1, opts := put s.opts s.fresh { z with arrived := s.steps } }.resume b c (.optsub o) pc act []) := by
  have hwaits : s.waitOf b c = some (.optsub o, pc, act, part) := by
    simp only [State.waitOf, hx, hw, Option.map_some, hwait, hlive, if_true]
  have hready : (!w.queue.isEmpty || decide (16 ≤ (openJobs s b).length)) = false := by
    rw [hqueue, decide_eq_false (Nat.not_le.mpr hroom)]
    rfl
  have haccept : optAccept s b c (.optsub o) pc act o.a = some ({ s with
      fresh := s.fresh + 1, opts := put s.opts s.fresh { z with arrived := s.steps } }.resume b c (.optsub o) pc act []) := by
    unfold optAccept
    simp only [hx, hw, hready, Bool.false_eq_true, if_false, meetRead_clean hx hclean, hcheck]
    rfl
  show execOptsubAccept b c s = _
  simp only [execOptsubAccept, hwaits, haccept]

/-- The engine of the optimiser moves a job on (R319). -/
theorem exec_optimiserCheckpoint {s s1 : State} {k : Nat} {o o1 : OptJob} {x : Block} (ho : look s.opts k = some o)
    (hx : s.block o.blk = some x) (htakes : engineTakes s k o x = true) (hrun : optRun x k s o = .ok s1 o1)
    (huerr : (s1.die o.die).uerr = []) :
    exec (.optimiserCheckpoint k) s = .next { s1 with opts := put s1.opts k o1 } := by
  have huerr' : (State.die { s1 with opts := put s1.opts k o1 } o.die).uerr = [] := huerr
  show execOptimiserCheckpoint k s = _
  simp only [execOptimiserCheckpoint, ho, hx, htakes, if_true, hrun, unitCheck_clean huerr', id]

/-- What the events of the optimiser do, by the laws above (R310, R314, R315, R319, R320). -/
theorem optimiserEvents : Claim.OptimiserEvents := by
  intro s b c x w
  refine ⟨fun j o h hi => ⟨exec_optwaitComplete_none h hi, fun p => exec_optwaitComplete_done h hi,
    fun p => exec_optwaitComplete_open h hi⟩, ?_, fun k o ho hopen => ⟨fun hfin => ?_,
    fun hx htakes s1 o1 => exec_optimiserCheckpoint ho hx htakes⟩⟩
  case _ =>
    intro o pc act part off z hx hw hwait hlive hqueue hclean hroom hoff hcheck
    subst hoff
    exact exec_optsubAccept hx hw hwait hlive hqueue hclean hroom hcheck
  case _ =>
    show execOptimiserJobComplete k s = _
    simp only [execOptimiserJobComplete, ho, hopen, hfin, Bool.not_false, Bool.and_self, if_true]

/-- Settles O39: the events of the solver and of the optimiser by their laws above. -/
theorem solverEvents : Obligations.SolverEvents := ⟨solverUnitEvents, optimiserEvents⟩

end Sys2Proof.Machine
end

section
/-! The events of the cluster units and the order in which a queue is popped (R268, R277, R278, R281, R282, R284, R285). -/

open Sys2Proof Sys2Proof.Machine

namespace Sys2Proof.Machine

/-! ### Insertion into sorted lists -/

/-- `ins` inserts into a list sorted by `lt`, a strict order whose negation is transitive. -/
structure Insertion {α : Type} (lt : α → α → Bool) (ins : α → List α → List α) : Prop where
  nil : ∀ a, ins a [] = [a]
  cons : ∀ a b l, ins a (b :: l) = if lt a b then a :: b :: l else b :: ins a l
  asymm : ∀ a b, lt a b = true → lt b a = false
  trans : ∀ a b c, lt b a = false → lt c b = false → lt c a = false

section
variable {α : Type} {lt : α → α → Bool} {ins : α → List α → List α} (h : Insertion lt ins)
include h

/-- An insertion adds its element. -/
theorem Insertion.perm (a : α) (l : List α) : (ins a l).Perm (a :: l) := by
  induction l with
  | nil => rw [h.nil]
  | cons b l ih =>
    rw [h.cons]
    split
    · exact .refl _
    · exact (ih.cons b).trans (.swap a b l)

/-- An insertion into a sorted list gives a sorted list. -/
theorem Insertion.sorted (a : α) {l : List α} (hl : l.Pairwise fun a b => lt b a = false) :
    (ins a l).Pairwise fun a b => lt b a = false := by
  induction l with
  | nil => rw [h.nil]; exact List.pairwise_singleton ..
  | cons b l ih =>
    obtain ⟨hb, hrest⟩ := List.pairwise_cons.mp hl
    rw [h.cons]
    split
    · next hab =>
      refine List.pairwise_cons.mpr ⟨fun c hc => ?_, hl⟩
      have hba := h.asymm a b hab
      rcases List.mem_cons.mp hc with rfl | hc
      · exact hba
      · exact h.trans a b c hba (hb c hc)
    · next hab =>
      refine List.pairwise_cons.mpr ⟨fun c hc => ?_, ih hrest⟩
      rcases List.mem_cons.mp ((h.perm a l).mem_iff.mp hc) with rfl | hc
      · exact Bool.eq_false_iff.mpr hab
      · exact hb c hc

/-- Elements inserted one after another. -/
theorem Insertion.foldl_perm (l t : List α) : (l.foldl (fun t a => ins a t) t).Perm (l ++ t) := by
  induction l generalizing t with
  | nil => exact .refl _
  | cons a l ih => exact (ih _).trans (((h.perm a t).append_left l).trans List.perm_middle)

/-- Elements inserted one after another into a sorted list stand sorted. -/
theorem Insertion.foldl_sorted (l : List α) {t : List α} (ht : t.Pairwise fun a b => lt b a = false) :
    (l.foldl (fun t a => ins a t) t).Pairwise fun a b => lt b a = false := by
  induction l generalizing t with
  | nil => exact ht
  | cons a l ih => exact ih (h.sorted a ht)

end

/-! ### The order of a pop (R284, R285) -/

/-- The order of entries: round, block, GTID, number (R285). -/
theorem before_entries (a b : OEntry) : a.before b = true ↔ a.round < b.round ∨ a.round = b.round ∧ (a.block < b.block ∨
    a.block = b.block ∧ (a.gtid < b.gtid ∨ a.gtid = b.gtid ∧ a.num < b.num)) := by
  simp only [OEntry.before, Bool.or_eq_true, Bool.and_eq_true, decide_eq_true_eq]

/-- The entries of a queue are sorted by insertion. -/
theorem insertion_entries : Insertion OEntry.before insertEntry where
  nil _ := rfl
  cons _ _ _ := rfl
  asymm a b h := by
    rw [← Bool.not_eq_true, before_entries]
    rw [before_entries] at h
    omega
  trans a b c h1 h2 := by
    rw [← Bool.not_eq_true, before_entries] at h1 h2 ⊢
    omega

/-- The entries that a deterministic pop may take: those of rounds below the frontier. -/
theorem mem_poppable {s : State} {q : OQueue} {e : OEntry} :
    e ∈ poppable s q true ↔ e ∈ q.entries ∧ ∀ f, frontier s q = some f → e.round < f := by
  have hperm := insertion_entries.foldl_perm (q.entries.filter fun e => match frontier s q with
    | none => true
    | some f => decide (e.round < f)) []
  rw [List.append_nil] at hperm
  refine hperm.mem_iff.trans (List.mem_filter.trans (and_congr_right fun _ => ?_))
  cases frontier s q with
  | none => simp
  | some f => simp

/-- The order in which a queue is popped (R284, R285). -/
theorem popOrder : Claim.PopOrder :=
  fun _ _ => ⟨rfl, fun _ => mem_poppable, insertion_entries.foldl_sorted _ .nil⟩

/-- A pop takes entries of its queue. -/
theorem mem_of_mem_poppable {s : State} {q : OQueue} {det : Bool} {e : OEntry} (h : e ∈ poppable s q det) :
    e ∈ q.entries := by
  cases det
  · exact h
  · exact (mem_poppable.mp h).1

/-! ### The sort and traversal units and the ordered queues (R268, R277 to R285) -/

section
variable {s : State} {b c : Nat} {x : Block} {w : Crew} {j : Job} {y : CluOps} (h : Working s b c x w j)
include h

/-- A unit does the job that stands first in its queue. -/
theorem Working.withFirst (m : String) {kind : Instr → Bool} (hkind : kind j.i = true)
    (hfirst : jobFirst s b c x j kind = true) (k : Block → Crew → Job → Out) : withFirst s b c m kind k = k x w j := by
  rw [Machine.withFirst, h.withJob m hkind, if_pos hfirst]

/-- The sort unit reads its record. -/
theorem Working.sortRecord (a : Nat) : sortRecord s b c x a = (s, some (sortRecOf (readLE x.share a 64))) := by
  unfold Machine.sortRecord
  rw [h.meetRead, ite_self]
  rfl

/-- A sort whose record fails a check has a late cause (R278). -/
theorem exec_bpsortJob_fails (hi : j.i = .bpsort y) (hfirst : jobFirst s b c x j (· matches .bpsort _) = true)
    (hearlier : bitOf (sortRecOf (readLE x.share (w.rs y.a).toNat 64)).flags 0 = true → s.readsOut b c = false) {k : Nat}
    (hreason : sortReason x (w.rs y.a).toNat (sortRecOf (readLE x.share (w.rs y.a).toNat 64)) = some k) :
    exec (.bpsortJob b c) s = .next (s.endJob b c j fun p => { p with late := some { code := 0x82, info := k } }) := by
  have hready : (bitOf (sortRecOf (readLE x.share (w.rs y.a).toNat 64)).flags 0 && s.readsOut b c) = false := by
    rw [Bool.and_eq_false_imp]
    exact hearlier
  show execBpsortJob b c s = _
  refine (h.withFirst "BPSORT_JOB" (by rw [hi]) hfirst _).trans ?_
  simp only [hi, h.sortRecord, hready, Bool.false_eq_true, if_false, hreason, unitCheck_clean (h.uerr _)]

/-- A sort writes its pairs and returns their number (R277). -/
theorem exec_bpsortJob_ends (hi : j.i = .bpsort y) (hfirst : jobFirst s b c x j (· matches .bpsort _) = true)
    (hearlier : bitOf (sortRecOf (readLE x.share (w.rs y.a).toNat 64)).flags 0 = true → s.readsOut b c = false)
    (hreason : sortReason x (w.rs y.a).toNat (sortRecOf (readLE x.share (w.rs y.a).toNat 64)) = none) {s1 : State}
    {n f : Nat} (hrun : sortRun s b c x (sortRecOf (readLE x.share (w.rs y.a).toNat 64)) y.opt = .ok s1 (some (n, f)))
    (huerr : (s1.die x.die).uerr = []) : exec (.bpsortJob b c) s = .next
      (endsWith (s1.forget (crewOwner b c)) b c j [.s y.d (BitVec.ofNat 32 n), .s (y.d + 1) (BitVec.ofNat 32 f)]) := by
  have hready : (bitOf (sortRecOf (readLE x.share (w.rs y.a).toNat 64)).flags 0 && s.readsOut b c) = false := by
    rw [Bool.and_eq_false_imp]
    exact hearlier
  have huerr' : ((s1.forget (crewOwner b c)).die x.die).uerr = [] := huerr
  show execBpsortJob b c s = _
  refine (h.withFirst "BPSORT_JOB" (by rw [hi]) hfirst _).trans ?_
  simp only [hi, h.sortRecord, hready, Bool.false_eq_true, if_false, hreason, hrun, jobGot, unitCheck_clean huerr']

/-- A traversal returns each lane's count, or a late cause (R281, R282). -/
theorem exec_bvhtJob (hi : j.i = .bvht y) (hfirst : jobFirst s b c x j (· matches .bvht _) = true) {s1 : State}
    {rs : List (Nat × Nat × Option (Nat × Nat))} (hrun : bvhtLanes b c x w y (lanesOf j.part) s = .ok s1 rs)
    (huerr : (s1.die x.die).uerr = []) (hgood : ∀ r ∈ rs, ∀ f, r.2.2 = some f → f.1 ≠ 0) :
    exec (.bvhtJob b c) s = .next (s1.forget (crewOwner b c) |>.endJob b c j fun p =>
      { p with writes := rs.map fun r => .v y.d r.1 (BitVec.ofNat 32 r.2.1), late := bvhtCause rs }) := by
  have huerr' : ((s1.forget (crewOwner b c)).die x.die).uerr = [] := huerr
  have hnone : (rs.any fun r => r.2.2.any fun f => f.1 = 0) = false := by
    refine List.any_eq_false.mpr fun r hr hbad => ?_
    cases hf : r.2.2 with
    | none => simp [hf] at hbad
    | some f => exact hgood r hr f hf (by simpa [hf] using hbad)
  show execBvhtJob b c s = _
  refine (h.withFirst "BVHT_JOB" (by rw [hi]) hfirst _).trans ?_
  simp only [hi, hrun, jobGot, unitCheck_clean huerr', hnone, Bool.false_eq_true, if_false]

variable {q : OQueue} (hq : s.oqueue (w.rs y.b).toNat = some q)
include hq

/-- A push reads its bytes once its crew's store queue is empty (R284). -/
theorem exec_qpushPlace_reads (hi : j.i = .qpush y) (hnew : j.bytes = none) (hqueue : w.queue = []) :
    exec (.qpushPlace b c) s = .next (s.setBlock b (x.setCrew c { w with
      jobs := [{ j with bytes := some ((lanesOf j.part).map fun l => readBytes x.share (w.rv y.a l).toNat q.es) }] })) := by
  have hcrew : s.crew b c = some w := by simp only [State.crew, h.block, Option.bind_some, h.crew]
  have hdrain : s.drainQueue b c = s := by
    simp only [State.drainQueue, hcrew, hqueue, List.length_nil, State.performMany]
  show execQpushPlace b c s = _
  rw [execQpushPlace, h.withJob _ (by rw [hi])]
  simp only [hi, hq, hnew, hdrain, h.meetRead, h.block, hcrew, State.setCrew, Crew.jobRead, h.job, List.map_cons,
    List.map_nil, if_true, pushBytes]

/-- A push enters the queue where there is room (R284). -/
theorem exec_qpushPlace_enters (hi : j.i = .qpush y) {bs : List (List Byte)} (hbytes : j.bytes = some bs)
    (hroom : q.entries.length + (lanesOf j.part).length ≤ q.cap) :
    exec (.qpushPlace b c) s = .next (endsWith (s.setQueue (w.rs y.b).toNat
      (((lanesOf j.part).zip bs).foldl (fun q p => q.push x w c p.1 p.2) q)) b c j
      ((lanesOf j.part).map fun l => .v y.d l 0)) := by
  show execQpushPlace b c s = _
  rw [execQpushPlace, h.withJob _ (by rw [hi])]
  simp only [hi, hq, hbytes, pushPlace, hroom, if_true]

/-- A push waits for room (R284). -/
theorem exec_qpushPlace_waits (hi : j.i = .qpush y) {bs : List (List Byte)} (hbytes : j.bytes = some bs)
    (hfull : q.cap < q.entries.length + (lanesOf j.part).length) (t : State) : exec (.qpushPlace b c) s ≠ .next t := by
  show execQpushPlace b c s ≠ _
  rw [execQpushPlace, h.withJob _ (by rw [hi])]
  simp only [hi, hq, hbytes, pushPlace, if_neg (Nat.not_le.mpr hfull)]
  exact fun heq => nomatch heq

/-- A pop takes the entries that stand first (R285). -/
theorem exec_qpopTake (hi : j.i = .qpop y) (hclean : ∀ o ∈ q.entries, o.err = 0)
    (hfill : (lanesOf j.part).length ≤ (poppable s q x.r.det).length) :
    let got := (lanesOf j.part).zip (poppable s q x.r.det)
    exec (.qpopTake b c) s = .next (endsWith
      (popInto (s.setQueue (w.rs y.b).toNat (q.take (got.map (·.2)))) b c w y.a got) b c j
      ((lanesOf j.part).map fun l => .v y.d l 0)) := by
  intro got
  have herr : ∀ e ∈ got.map (·.2), e.err = 0 := by
    intro e he
    obtain ⟨p, hp, rfl⟩ := List.mem_map.mp he
    exact hclean _ (mem_of_mem_poppable (List.of_mem_zip hp).2)
  have hhard : ((got.map (·.2)).any fun e => decide (2 ≤ e.err)) = false :=
    List.any_eq_false.mpr fun e he => by simp [herr e he]
  have hsoft : ((got.map (·.2)).filter fun e => e.err = 1) = [] :=
    List.filter_eq_nil_iff.mpr fun e he => by simp [herr e he]
  show execQpopTake b c s = _
  rw [execQpopTake, h.withJob _ (by rw [hi])]
  simp only [hi, hq, hfill, if_true, entryCheck]
  rw [hhard, hsoft]
  rfl

end

/-- What the events of the units and of the ordered queues do, by the laws above (R268, R277 to R285). -/
theorem unitEvents : Claim.UnitEvents := by
  intro s b c x w j y h
  refine ⟨fun hi hfirst => ?_,
    fun hi hfirst s1 rs => exec_bvhtJob h hi hfirst, fun hi q hq => ⟨exec_qpushPlace_reads h hq hi,
      fun bs => exec_qpushPlace_enters h hq hi, fun bs => exec_qpushPlace_waits h hq hi⟩,
    fun hi q hq => exec_qpopTake h hq hi⟩
  intro a r hearlier
  exact ⟨fun k => exec_bpsortJob_fails h hi hfirst hearlier,
    fun hreason s1 n f => exec_bpsortJob_ends h hi hfirst hearlier hreason⟩

end Sys2Proof.Machine
end

section
/-! The regrouping of a compaction (R268, R272, R273), and the obligation about the cluster units. -/

open Sys2Proof Sys2Proof.Machine

namespace Sys2Proof.Machine

/-! ### Tables that take entries of another table (R273) -/

section
variable {α : Type}

/-- The first entry of key `k` holds `x`, and every entry before it has a smaller key. -/
inductive Led (k : Nat) (x : α) : Sparse α → Prop
  | head (rest : Sparse α) : Led k x ((k, x) :: rest)
  | tail {i : Nat} {y : α} {rest : Sparse α} (hi : i < k) (h : Led k x rest) : Led k x ((i, y) :: rest)

/-- A led key reads as its first entry. -/
theorem Led.getAt {k : Nat} {x : α} {m : Sparse α} (h : Led k x m) (d : α) : getAt d m k = x := by
  induction h with
  | head rest => simp [Machine.getAt]
  | tail hi _ ih => rw [Machine.getAt, if_neg (Nat.ne_of_lt hi), ih]

/-- An insertion leaves a led key led. -/
theorem Led.insertAt {k : Nat} {x : α} {m : Sparse α} (h : Led k x m) (j : Nat) (y : α) : Led k x (insertAt m j y) := by
  induction h with
  | head rest =>
    rw [Machine.insertAt]
    split
    · next hj => exact .tail hj (.head rest)
    · exact .head _
  | tail hi h ih =>
    rw [Machine.insertAt]
    split
    · next hj => exact .tail (hj.trans hi) (.tail hi h)
    · exact .tail hi ih

/-- A key that a table does not list is led after its insertion. -/
theorem led_insertAt {k : Nat} {m : Sparse α} (hm : ∀ e ∈ m, e.1 ≠ k) (x : α) : Led k x (insertAt m k x) := by
  induction m with
  | nil => exact .head _
  | cons e m ih =>
    rw [insertAt]
    split
    · exact .head _
    · next hlt =>
      have hne : e.1 ≠ k := hm e (.head _)
      exact .tail (by omega) (ih fun e he => hm e (.tail _ he))

/-- The entries of a list, their keys moved from lane `a` to lane `l`, put into a table one after another. -/
def moveEntries (a l : Nat) (es m : Sparse α) : Sparse α := es.foldl (fun m p => insertAt m (p.1 - a + l) p.2) m

/-- A led key stays led. -/
theorem Led.moveEntries {k : Nat} {x : α} {m : Sparse α} (h : Led k x m) (a l : Nat) (es : Sparse α) :
    Led k x (moveEntries a l es m) := by
  induction es generalizing m with
  | nil => exact h
  | cons e es ih => exact ih (h.insertAt ..)

/-- A key of another lane keeps its value. -/
theorem getAt_moveEntries_ne {a l : Nat} {es : Sparse α} (hes : ∀ e ∈ es, e.1 % 32 = a) (hl : l < 32) (d : α) (m : Sparse α)
    {k : Nat} (hk : k % 32 ≠ l) : getAt d (moveEntries a l es m) k = getAt d m k := by
  induction es generalizing m with
  | nil => rfl
  | cons e es ih =>
    have he := hes e (.head _)
    refine (ih (fun e h => hes e (.tail _ h)) _).trans (getAt_insertAt _ _ _ _ _ fun h => ?_)
    omega

/-- A key of another lane stays unlisted. -/
theorem moveEntries_ne {a l : Nat} {es : Sparse α} (hes : ∀ e ∈ es, e.1 % 32 = a) (hl : l < 32) {m : Sparse α}
    {k : Nat} (hk : k % 32 ≠ l) (hm : ∀ e ∈ m, e.1 ≠ k) : ∀ e ∈ moveEntries a l es m, e.1 ≠ k := by
  induction es generalizing m with
  | nil => exact hm
  | cons e es ih =>
    have he := hes e (.head _)
    refine ih (fun e h => hes e (.tail _ h)) fun p hp => ?_
    rcases (mem_insertAt _ _ _ _).mp hp with rfl | hp
    · simp only
      omega
    · exact hm p hp

/-- A key of the lane reads, where the table did not list it, as the key of the source lane reads in the entries. -/
theorem getAt_moveEntries {a l : Nat} {es : Sparse α} (hes : ∀ e ∈ es, e.1 % 32 = a) (d : α) {m : Sparse α}
    (r : Nat) (hm : ∀ e ∈ m, e.1 ≠ 32 * r + l) : getAt d (moveEntries a l es m) (32 * r + l) = getAt d es (32 * r + a) := by
  induction es generalizing m with
  | nil => exact getAt_of_not_listed d m _ hm
  | cons e es ih =>
    have he := hes e (.head _)
    rw [getAt]
    by_cases hkey : e.1 = 32 * r + a
    · have hmoved : e.1 - a + l = 32 * r + l := by omega
      rw [if_pos hkey]
      refine Led.getAt ?_ d
      refine Led.moveEntries (m := insertAt m (e.1 - a + l) e.2) ?_ a l es
      rw [hmoved]
      exact led_insertAt hm e.2
    · rw [if_neg hkey]
      refine ih (fun e h => hes e (.tail _ h)) fun p hp => ?_
      rcases (mem_insertAt _ _ _ _).mp hp with rfl | hp
      · simp only
        omega
      · exact hm p hp

/-- The entries of one lane read as the whole table at its keys. -/
theorem getAt_lane (d : α) (m : Sparse α) (r : Nat) {a : Nat} (ha : a < 32) :
    getAt d (m.filter fun p => p.1 % 32 = a) (32 * r + a) = getAt d m (32 * r + a) := by
  induction m with
  | nil => rfl
  | cons e m ih =>
    rw [List.filter_cons, getAt]
    by_cases hkey : e.1 = 32 * r + a
    · rw [if_pos hkey, if_pos (decide_eq_true (by omega)), getAt, if_pos hkey]
    · rw [if_neg hkey]
      split
      · rw [getAt, if_neg hkey, ih]
      · exact ih

/-- The lanes that `from_` names take the entries of their sources, one lane after another. -/
def takeLanes (t : Crew → Sparse α) (x : Block) (from_ : List (Nat × LaneKey)) (m : Sparse α) : Sparse α :=
  from_.foldl (fun m q =>
    match look x.crews q.2.crew with
    | none => m
    | some v => moveEntries q.2.lane q.1 ((t v).filter fun p => p.1 % 32 = q.2.lane) m) m

/-- A regrouped table keeps the lanes that take nothing. -/
theorem regroupTable_eq (t : Crew → Sparse α) (x : Block) (w : Crew) (from_ : List (Nat × LaneKey)) :
    regroupTable t x w from_ = takeLanes t x from_ ((t w).filter fun p => !(from_.any fun q => q.1 = p.1 % 32)) := rfl

variable {t : Crew → Sparse α} {x : Block}

/-- A lane that takes its entries from a crew of the block. -/
theorem takeLanes_cons {q : Nat × LaneKey} {v : Crew} (hv : look x.crews q.2.crew = some v) (from_ : List (Nat × LaneKey))
    (m : Sparse α) : takeLanes t x (q :: from_) m =
      takeLanes t x from_ (moveEntries q.2.lane q.1 ((t v).filter fun p => p.1 % 32 = q.2.lane) m) := by
  rw [takeLanes, List.foldl_cons, hv]
  rfl

/-- The entries of a lane have keys of that lane. -/
theorem lane_of_mem_filter {m : Sparse α} {a : Nat} : ∀ e ∈ m.filter fun p => p.1 % 32 = a, e.1 % 32 = a :=
  fun _ he => of_decide_eq_true (List.mem_filter.mp he).2

variable {from_ : List (Nat × LaneKey)} (hsource : ∀ q ∈ from_, q.1 < 32 ∧ ∃ v, look x.crews q.2.crew = some v)
include hsource

/-- A key of no lane that takes entries keeps its value. -/
theorem getAt_takeLanes_ne (d : α) (m : Sparse α) {k : Nat} (hk : ∀ q ∈ from_, q.1 ≠ k % 32) :
    getAt d (takeLanes t x from_ m) k = getAt d m k := by
  induction from_ generalizing m with
  | nil => rfl
  | cons q from_ ih =>
    obtain ⟨hlane, v, hv⟩ := hsource q (.head _)
    rw [takeLanes_cons hv, ih (fun q h => hsource q (.tail _ h)) _ fun q h => hk q (.tail _ h)]
    exact getAt_moveEntries_ne lane_of_mem_filter hlane d m (hk q (.head _)).symm

/-- A lane holds what its source held. -/
theorem getAt_takeLanes (hnodup : (from_.map (·.1)).Nodup) (d : α) {m : Sparse α} {q : Nat × LaneKey} (hq : q ∈ from_)
    {v : Crew} (hv : look x.crews q.2.crew = some v) (hlane : q.2.lane < 32) (r : Nat) (hm : ∀ e ∈ m, e.1 % 32 ≠ q.1) :
    getAt d (takeLanes t x from_ m) (32 * r + q.1) = getAt d (t v) (32 * r + q.2.lane) := by
  induction from_ generalizing m with
  | nil => cases hq
  | cons p from_ ih =>
    obtain ⟨hfirst, hrest⟩ := List.nodup_cons.mp hnodup
    obtain ⟨hp, u, hu⟩ := hsource p (.head _)
    have hsource' := fun q h => hsource q (.tail p h)
    rw [takeLanes_cons hu]
    rcases List.mem_cons.mp hq with rfl | hq
    · have hmod : (32 * r + q.1) % 32 = q.1 := by omega
      cases hv.symm.trans hu
      rw [getAt_takeLanes_ne hsource' d _ fun p hp h => hfirst (List.mem_map.mpr ⟨p, hp, h.trans hmod⟩),
        getAt_moveEntries lane_of_mem_filter d r (fun e he h => hm e he (by omega)), getAt_lane d (t v) r hlane]
    · have hne : q.1 ≠ p.1 := fun h => hfirst (List.mem_map.mpr ⟨q, hq, h⟩)
      refine ih hsource' hrest hq fun e he hlane' => ?_
      exact moveEntries_ne lane_of_mem_filter hp (k := e.1) (by omega) (fun e' he' h => hm e' he' (by omega)) e he rfl

end

/-- A lane of a regrouped table holds what its source held (R273). -/
theorem getAt_regroupTable {α : Type} {t : Crew → Sparse α} {x : Block} {from_ : List (Nat × LaneKey)}
    (hsource : ∀ q ∈ from_, q.1 < 32 ∧ ∃ v, look x.crews q.2.crew = some v) (hnodup : (from_.map (·.1)).Nodup) (d : α)
    (w : Crew) {q : Nat × LaneKey} (hq : q ∈ from_) {v : Crew} (hv : look x.crews q.2.crew = some v) (hlane : q.2.lane < 32)
    (r : Nat) : getAt d (regroupTable t x w from_) (32 * r + q.1) = getAt d (t v) (32 * r + q.2.lane) := by
  rw [regroupTable_eq]
  refine getAt_takeLanes hsource hnodup d hq hv hlane r fun e he h => ?_
  have hkept := (List.mem_filter.mp he).2
  rw [Bool.not_eq_true', List.any_eq_false] at hkept
  exact hkept q hq (decide_eq_true h.symm)

/-! ### Tables of distinct keys -/

/-- A table of distinct keys reads as its members say. -/
theorem look_eq_of_mem {α : Type} {t : List (Nat × α)} (hkeys : (t.map (·.1)).Nodup) {p : Nat × α} (hp : p ∈ t) :
    look t p.1 = some p.2 := by
  induction t with
  | nil => cases hp
  | cons e t ih =>
    obtain ⟨hfirst, hrest⟩ := List.nodup_cons.mp hkeys
    rw [look]
    rcases List.mem_cons.mp hp with rfl | hp
    · rw [if_pos rfl]
    · rw [if_neg fun he => hfirst (List.mem_map.mpr ⟨p, hp, he.symm⟩), ih hrest hp]

/-- An insertion adds its entry. -/
theorem perm_insertAt {α : Type} (m : Sparse α) (k : Nat) (x : α) : (insertAt m k x).Perm ((k, x) :: m) := by
  induction m with
  | nil => exact .refl _
  | cons e m ih =>
    rw [insertAt]
    split
    · exact .refl _
    · exact (ih.cons e).trans (.swap (k, x) e m)

/-- A table keeps distinct keys when an entry is put into it. -/
theorem nodup_put {α : Type} {t : List (Nat × α)} (hkeys : (t.map (·.1)).Nodup) (k : Nat) (x : α) :
    ((put t k x).map (·.1)).Nodup := by
  refine ((perm_insertAt (dropAt t k) k x).map _).nodup_iff.mpr (List.nodup_cons.mpr ⟨fun hk => ?_, ?_⟩)
  · obtain ⟨e, he, hek⟩ := List.mem_map.mp hk
    exact dropAt_ne t k e he hek
  · exact hkeys.sublist (List.filter_sublist.map _)

/-! ### Counting the live lanes of a block -/

/-- The number of live lanes of the crews of a table. -/
def laneCount (t : List (Nat × Crew)) : Nat := (t.map fun p => (lanesOf p.2.live).length).sum

/-- A crew counted beside the others. -/
theorem laneCount_dropAt {t : List (Nat × Crew)} (hkeys : (t.map (·.1)).Nodup) {k : Nat} {w : Crew} (hw : look t k = some w) :
    laneCount (dropAt t k) + (lanesOf w.live).length = laneCount t := by
  induction t with
  | nil => cases hw
  | cons e t ih =>
    obtain ⟨hfirst, hrest⟩ := List.nodup_cons.mp hkeys
    rw [look] at hw
    rw [dropAt, List.filter_cons]
    by_cases hek : e.1 = k
    · rw [if_pos hek] at hw
      cases hw
      have hsame : (t.filter fun e => e.1 != k) = t :=
        List.filter_eq_self.mpr fun p hp => bne_iff_ne.mpr fun hpk => hfirst (List.mem_map.mpr ⟨p, hp, hpk.trans hek.symm⟩)
      rw [if_neg (by simpa using hek), hsame, laneCount, laneCount, List.map_cons, List.sum_cons, Nat.add_comm]
    · rw [if_neg hek] at hw
      have ih := ih hrest hw
      rw [if_pos (by simpa using hek)]
      simp only [laneCount, dropAt, List.map_cons, List.sum_cons] at ih ⊢
      omega

/-- Putting a crew in the place of another changes the count by the lanes of the two. -/
theorem laneCount_put {t : List (Nat × Crew)} (hkeys : (t.map (·.1)).Nodup) {k : Nat} {w : Crew} (hw : look t k = some w)
    (w' : Crew) : laneCount (put t k w') + (lanesOf w.live).length = laneCount t + (lanesOf w'.live).length := by
  have hins : laneCount (put t k w') = (lanesOf w'.live).length + laneCount (dropAt t k) :=
    ((perm_insertAt (dropAt t k) k w').map _).sum_eq
  have hdrop := laneCount_dropAt hkeys hw
  omega

/-- Crews without a live lane count nothing. -/
theorem laneCount_liveCrews (x : Block) : laneCount (liveCrews x) = laneCount x.crews := by
  rw [liveCrews]
  generalize x.crews = t
  induction t with
  | nil => rfl
  | cons e t ih =>
    rw [List.filter_cons]
    split
    · exact congrArg (_ + ·) ih
    · next hlive =>
      have hzero : e.2.live = 0 := by simpa using hlive
      have hnone : (lanesOf e.2.live).length = 0 := by
        rw [hzero]
        decide
      rw [ih, laneCount, laneCount, List.map_cons, List.sum_cons, hnone, Nat.zero_add]

/-- At most 32 live lanes to a crew. -/
theorem laneCount_le (t : List (Nat × Crew)) : laneCount t ≤ 32 * t.length := by
  induction t with
  | nil => exact Nat.zero_le _
  | cons e t ih =>
    have hle := length_lanesOf_le e.2.live
    simp only [laneCount, List.map_cons, List.sum_cons, List.length_cons] at ih ⊢
    omega

/-- `len` lanes dealt out to `n` crews, 32 to a crew. -/
theorem sum_min (n len : Nat) : ((List.range n).map fun i => min 32 (len - 32 * i)).sum = min (32 * n) len := by
  induction n with
  | zero => simp
  | succ n ih =>
    rw [List.range_succ, List.map_append, List.sum_append, ih, List.map_singleton, List.sum_singleton]
    omega

/-- A mask of the lanes below a number. -/
theorem length_lanesOf_below {m : Word} {n : Nat} (hm : ∀ l, l < 32 → (m.getLsbD l = true ↔ l < n)) :
    (lanesOf m).length = min 32 n := by
  have hlanes : lanesOf m = (List.range 32).filter fun l => decide (l < n) :=
    List.filter_congr fun l hl => Bool.eq_iff_iff.mpr ((hm l (List.mem_range.mp hl)).trans decide_eq_true_iff.symm)
  have hcount : ∀ k, ((List.range k).filter fun l => decide (l < n)).length = min k n := by
    intro k
    induction k with
    | zero => simp
    | succ k ih =>
      rw [List.range_succ, List.filter_append, List.length_append, ih]
      by_cases hk : k < n
      · simp [hk]; omega
      · simp [hk]; omega
  rw [hlanes, hcount]

/-! ### The order of the lanes (R273) -/

/-- The order of lanes: key, GTID. -/
theorem before_lanes (a b : LaneKey) : a.before b = true ↔ a.key < b.key ∨ a.key = b.key ∧ a.gtid < b.gtid := by
  simp only [LaneKey.before, Bool.or_eq_true, Bool.and_eq_true, decide_eq_true_eq]

/-- The lanes are sorted by insertion. -/
theorem insertion_lanes : Insertion LaneKey.before insertLane where
  nil _ := rfl
  cons _ _ _ := rfl
  asymm a b h := by
    rw [← Bool.not_eq_true, before_lanes]
    rw [before_lanes] at h
    omega
  trans a b c h1 h2 := by
    rw [← Bool.not_eq_true, before_lanes] at h1 h2 ⊢
    omega

/-- The lanes of the crews `ps`, each with its key of the register `va` of its crew. -/
def laneKeys (x : Block) (ps : List (Nat × Crew)) (va : Nat → Nat) : List LaneKey :=
  ps.flatMap fun p => (lanesOf p.2.live).map fun l =>
    { crew := p.1, lane := l, key := (p.2.rv (va p.1) l).toNat % 65536, gtid := gtidOf x p.2 l }

/-- The sorted lanes are the lanes. -/
theorem perm_sortedLanes (x : Block) (ps : List (Nat × Crew)) (va : Nat → Nat) : (sortedLanes x ps va).Perm (laneKeys x ps va) := by
  have hperm := insertion_lanes.foldl_perm (laneKeys x ps va) []
  rwa [List.append_nil] at hperm

/-- The sorted lanes stand in order. -/
theorem sorted_sortedLanes (x : Block) (ps : List (Nat × Crew)) (va : Nat → Nat) :
    (sortedLanes x ps va).Pairwise fun a b => b.before a = false :=
  insertion_lanes.foldl_sorted (laneKeys x ps va) .nil

/-- As many lanes as the crews hold. -/
theorem length_sortedLanes (x : Block) (ps : List (Nat × Crew)) (va : Nat → Nat) :
    (sortedLanes x ps va).length = laneCount ps := by
  rw [(perm_sortedLanes x ps va).length_eq, laneKeys, List.length_flatMap, laneCount]
  simp only [List.length_map]

/-- Which lanes there are, when the key register is the same for every crew. -/
theorem mem_sortedLanes {x : Block} {ps : List (Nat × Crew)} {va : Nat → Nat} {a : Nat} (hva : ∀ p ∈ ps, va p.1 = a) {k : LaneKey} :
    k ∈ sortedLanes x ps va ↔ ∃ p ∈ ps, ∃ l ∈ lanesOf p.2.live, k =
      { crew := p.1, lane := l, key := (p.2.rv a l).toNat % 65536, gtid := gtidOf x p.2 l } := by
  rw [(perm_sortedLanes x ps va).mem_iff, laneKeys, List.mem_flatMap]
  refine exists_congr fun p => and_congr_right fun hp => ?_
  rw [List.mem_map, hva p hp]
  exact exists_congr fun l => and_congr_right fun _ => eq_comm

/-! ### The lanes of one crew after the regrouping (R273) -/

/-- The lanes that the crew of number `i` takes, 32 to a crew. -/
def crewShare (ls : List LaneKey) (i : Nat) : List (Nat × LaneKey) :=
  (List.range 32).filterMap fun l => (ls[32 * i + l]?).map fun a => (l, a)

/-- Which lane takes which. -/
theorem mem_crewShare {ls : List LaneKey} {i : Nat} {q : Nat × LaneKey} :
    q ∈ crewShare ls i ↔ q.1 < 32 ∧ ls[32 * i + q.1]? = some q.2 := by
  obtain ⟨l, a⟩ := q
  rw [crewShare, List.mem_filterMap]
  constructor
  · rintro ⟨k, hk, he⟩
    obtain ⟨b, hb, he⟩ := Option.map_eq_some_iff.mp he
    cases he
    exact ⟨List.mem_range.mp hk, hb⟩
  · rintro ⟨hl, ha⟩
    exact ⟨l, List.mem_range.mpr hl, by rw [ha]; rfl⟩

/-- The lanes that take. -/
theorem fst_crewShare (ls : List LaneKey) (i : Nat) :
    (crewShare ls i).map (·.1) = (List.range 32).filter fun l => (ls[32 * i + l]?).isSome := by
  rw [crewShare]
  induction List.range 32 with
  | nil => rfl
  | cons l r ih =>
    rw [List.filterMap_cons, List.filter_cons]
    cases ls[32 * i + l]? with
    | none => exact ih
    | some a => exact congrArg (l :: ·) ih

/-- Each lane takes once. -/
theorem nodup_crewShare (ls : List LaneKey) (i : Nat) : ((crewShare ls i).map (·.1)).Nodup := by
  rw [fst_crewShare]
  exact List.nodup_range.filter _

/-- The live lanes of a regrouped crew: those that take. -/
theorem regroupCrew_live (x : Block) (w : Crew) (pc : Word) (ls : List LaneKey) (i l : Nat) (hl : l < 32) :
    (regroupCrew x w pc (crewShare ls i)).live.getLsbD l = true ↔ 32 * i + l < ls.length := by
  refine (getLsbD_maskOf ((crewShare ls i).map (·.1)) l).trans ?_
  rw [fst_crewShare, List.mem_filter, List.mem_range, Option.isSome_iff_exists]
  refine ⟨fun ⟨_, _, _, h⟩ => (List.getElem?_eq_some_iff.mp h).1, fun h => ⟨hl, hl, _, List.getElem?_eq_getElem h⟩⟩

/-- A table in which the keys of a list are set one after another. -/
theorem getAt_foldl_setAt {α : Type} [DecidableEq α] (d : α) (f : Nat → α) (ls : List Nat) (t : Sparse α) (l : Nat) :
    getAt d (ls.foldl (fun t l => setAt d t l (f l)) t) l = if l ∈ ls then f l else getAt d t l := by
  induction ls generalizing t with
  | nil => rw [if_neg List.not_mem_nil]; rfl
  | cons k ls ih =>
    rw [List.foldl_cons, ih, getAt_setAt]
    by_cases hl : l ∈ ls
    · rw [if_pos hl, if_pos (.tail _ hl)]
    · by_cases hk : l = k
      · cases hk
        rw [if_neg hl, if_pos rfl, if_pos (.head _)]
      · rw [if_neg hl, if_neg hk, if_neg fun h => (List.mem_cons.mp h).elim hk hl]

/-- The predicate bit `p` of the lane that a lane takes. -/
def takenPredBit (x : Block) (p : Nat) (q : Nat × LaneKey) : Bool :=
  ((look x.crews q.2.crew).map fun v => inMask (v.rp p) q.2.lane).getD false

/-- The lanes whose predicate bit `p` is taken as set. -/
def takenPred (x : Block) (from_ : List (Nat × LaneKey)) (p : Nat) : Word :=
  maskOf ((from_.filter (takenPredBit x p)).map (·.1))

section
variable {x : Block} {w v : Crew} {pc : Word} {ls : List LaneKey} {i l : Nat} {k : LaneKey} (hl : l < 32) (hk : ls[32 * i + l]? = some k)
include hl hk

/-- The lane goes on at the next instruction. -/
theorem regroupCrew_pcOf : (regroupCrew x w pc (crewShare ls i)).pcOf l = pc + 12 := by
  have hlive : (regroupCrew x w pc (crewShare ls i)).live.getLsbD l = true :=
    (regroupCrew_live x w pc ls i l hl).mpr (List.getElem?_eq_some_iff.mp hk).1
  refine (if_pos hlive).trans ((getAt_foldl_setAt 0 (fun _ => pc + 12) _ [] l).trans ?_)
  exact if_pos (mem_lanesOf.mpr hlive)

/-- The predicate bit of the lane is that of its source. -/
theorem regroupCrew_rp (hv : look x.crews k.crew = some v) (p : Nat) (hp : 0 < p) (hp8 : p < 8) :
    inMask ((regroupCrew x w pc (crewShare ls i)).rp p) l = inMask (v.rp p) k.lane := by
  have hmem : (l, k) ∈ crewShare ls i := mem_crewShare.mpr ⟨hl, hk⟩
  have hlive : (maskOf ((crewShare ls i).map (·.1))).getLsbD l = true :=
    (getLsbD_maskOf _ l).mpr ⟨hl, List.mem_map.mpr ⟨_, hmem, rfl⟩⟩
  have hpred : (regroupCrew x w pc (crewShare ls i)).rp p = takenPred x (crewShare ls i) p
      ||| (w.rp p &&& ~~~maskOf ((crewShare ls i).map (·.1))) := by
    refine (if_neg (by omega)).trans ((getAt_foldl_setAt 0 (fun p => takenPred x (crewShare ls i) p
      ||| (w.rp p &&& ~~~maskOf ((crewShare ls i).map (·.1)))) [1, 2, 3, 4, 5, 6, 7] [] p).trans (if_pos ?_))
    simp only [List.mem_cons, List.not_mem_nil]
    omega
  have htaken : (takenPred x (crewShare ls i) p).getLsbD l = true ↔ inMask (v.rp p) k.lane = true := by
    rw [takenPred, getLsbD_maskOf, List.mem_map]
    constructor
    · rintro ⟨-, ⟨l', k'⟩, hq, rfl⟩
      obtain ⟨hq, hset⟩ := List.mem_filter.mp hq
      cases hk.symm.trans (mem_crewShare.mp hq).2
      simpa [takenPredBit, hv] using hset
    · intro hset
      exact ⟨hl, (l, k), List.mem_filter.mpr ⟨hmem, by simpa [takenPredBit, hv] using hset⟩, rfl⟩
  rw [Bool.eq_iff_iff, hpred, ← htaken]
  simp only [inMask, BitVec.getLsbD_or, BitVec.getLsbD_and, BitVec.getLsbD_not, hlive, Bool.not_true, Bool.and_false,
    Bool.or_false]

/-- The lane holds the per-lane state of its source. -/
theorem sameLane_regroupCrew (hsource : ∀ k ∈ ls, ∃ v, look x.crews k.crew = some v) (hv : look x.crews k.crew = some v)
    (hlane : k.lane < 32) : sameLane (regroupCrew x w pc (crewShare ls i)) l v k.lane := by
  have hmem : (l, k) ∈ crewShare ls i := mem_crewShare.mpr ⟨hl, hk⟩
  have hsource' : ∀ q ∈ crewShare ls i, q.1 < 32 ∧ ∃ v, look x.crews q.2.crew = some v := fun q hq =>
    ⟨(mem_crewShare.mp hq).1, hsource q.2 (List.mem_of_getElem? (mem_crewShare.mp hq).2)⟩
  have htable {α : Type} (t : Crew → Sparse α) (d : α) (r : Nat) :
      getAt d (regroupTable t x w (crewShare ls i)) (32 * r + l) = getAt d (t v) (32 * r + k.lane) :=
    getAt_regroupTable hsource' (nodup_crewShare ls i) d w hmem hv hlane r
  refine ⟨htable Crew.v 0, htable Crew.m 0, regroupCrew_rp hl hk hv, ?_, ?_⟩
  · simpa only [Nat.mul_zero, Nat.zero_add, Crew.strmOf] using! htable Crew.strm 0 0
  · simpa only [Nat.mul_zero, Nat.zero_add, Crew.tidOf] using! htable Crew.tid 0 0

end

/-! ### The block after the regrouping (R273) -/

/-- Crews put into a table one after another. -/
def putAll {β : Type} (key : β → Nat) (f : β → Crew) (qs : List β) (t : List (Nat × Crew)) : List (Nat × Crew) :=
  qs.foldl (fun t q => put t (key q) (f q)) t

section
variable {β : Type} {key : β → Nat} (f : β → Crew) {qs : List β}

/-- Distinct keys stay distinct. -/
theorem nodup_putAll {t : List (Nat × Crew)} (hkeys : (t.map (·.1)).Nodup) : ((putAll key f qs t).map (·.1)).Nodup := by
  induction qs generalizing t with
  | nil => exact hkeys
  | cons q qs ih => exact ih (nodup_put hkeys _ _)

/-- A key that is not put keeps its crew. -/
theorem look_putAll_ne (t : List (Nat × Crew)) {c : Nat} (hc : ∀ q ∈ qs, key q ≠ c) : look (putAll key f qs t) c = look t c := by
  induction qs generalizing t with
  | nil => rfl
  | cons q qs ih => exact (ih _ fun q h => hc q (.tail _ h)).trans (look_put_ne _ _ _ _ (hc q (.head _)).symm)

variable (hqs : (qs.map key).Nodup)
include hqs

/-- Each crew that is put stands there. -/
theorem look_putAll (t : List (Nat × Crew)) {q : β} (hq : q ∈ qs) : look (putAll key f qs t) (key q) = some (f q) := by
  induction qs generalizing t with
  | nil => cases hq
  | cons p qs ih =>
    obtain ⟨hfirst, hrest⟩ := List.nodup_cons.mp hqs
    rcases List.mem_cons.mp hq with rfl | hq
    · exact (look_putAll_ne f _ fun p hp h => hfirst (List.mem_map.mpr ⟨p, hp, h⟩)).trans (look_put_self _ _ _)
    · exact ih hrest _ hq

/-- The count of the lanes of a block when crews take the places of others. -/
theorem laneCount_putAll {old : β → Crew} {t : List (Nat × Crew)} (hkeys : (t.map (·.1)).Nodup)
    (hold : ∀ q ∈ qs, look t (key q) = some (old q)) :
    laneCount (putAll key f qs t) + (qs.map fun q => (lanesOf (old q).live).length).sum =
      laneCount t + (qs.map fun q => (lanesOf (f q).live).length).sum := by
  induction qs generalizing t with
  | nil => rfl
  | cons p qs ih =>
    obtain ⟨hfirst, hrest⟩ := List.nodup_cons.mp hqs
    have hput := laneCount_put hkeys (hold p (.head _)) (f p)
    have ih := ih hrest (nodup_put hkeys (key p) (f p)) fun q hq => by
      rw [look_put_ne _ _ _ _ fun h => hfirst (List.mem_map.mpr ⟨q, hq, h⟩), hold q (.tail _ hq)]
    simp only [putAll, List.foldl_cons, List.map_cons, List.sum_cons] at ih ⊢
    omega

end

/-- The numbers of a numbered list. -/
theorem fst_numbered {α : Type} (l : List α) : (numbered l).map (·.1) = List.range l.length :=
  List.map_fst_zip (by rw [List.length_range])

/-- The members of a numbered list. -/
theorem snd_numbered {α : Type} (l : List α) : (numbered l).map (·.2) = l :=
  List.map_snd_zip (by rw [List.length_range])

/-- A member stands in the numbered list under its number. -/
theorem mem_numbered {α : Type} {l : List α} {i : Nat} {a : α} (h : l[i]? = some a) : (i, a) ∈ numbered l := by
  obtain ⟨hi, rfl⟩ := List.getElem?_eq_some_iff.mp h
  refine List.mem_iff_getElem.mpr ⟨i, ?_, ?_⟩
  · simpa [numbered] using hi
  · simp [numbered]

/-- A regrouping changes only crews. -/
theorem regroup_eq (x : Block) (ps : List (Nat × Crew)) (pc : Word) (ls : List LaneKey) : regroup x ps pc ls =
    { x with crews := putAll (fun q => q.2.1) (fun q => regroupCrew x q.2.2 pc (crewShare ls q.1)) (numbered ps) x.crews } := by
  have hfold : ∀ (qs : List (Nat × Nat × Crew)) (t : List (Nat × Crew)),
      qs.foldl (fun y q => y.setCrew q.2.1 (regroupCrew x q.2.2 pc (crewShare ls q.1))) { x with crews := t } =
        { x with crews := putAll (fun q => q.2.1) (fun q => regroupCrew x q.2.2 pc (crewShare ls q.1)) qs t } := by
    intro qs
    induction qs with
    | nil => exact fun t => rfl
    | cons q qs ih => exact fun t => ih _
  exact hfold (numbered ps) x.crews

section
variable {x : Block} {ps : List (Nat × Crew)} (hps : (ps.map (·.1)).Nodup)
include hps

/-- The keys of the numbered crews. -/
theorem nodup_numbered : ((numbered ps).map fun q => q.2.1).Nodup := by
  have hmap : (numbered ps).map (fun q => q.2.1) = ps.map (·.1) := by
    conv_rhs => rw [← snd_numbered ps, List.map_map]
    rfl
  rwa [hmap]

/-- Each crew takes its share of the lanes. -/
theorem look_regroup (pc : Word) (ls : List LaneKey) {i : Nat} {p : Nat × Crew} (hp : ps[i]? = some p) :
    look (regroup x ps pc ls).crews p.1 = some (regroupCrew x p.2 pc (crewShare ls i)) := by
  rw [regroup_eq]
  exact look_putAll (fun q : Nat × Nat × Crew => regroupCrew x q.2.2 pc (crewShare ls q.1)) (nodup_numbered hps) x.crews (mem_numbered hp)

omit hps in
/-- A regrouping keeps the crews' keys distinct. -/
theorem nodup_regroup (hkeys : (x.crews.map (·.1)).Nodup) (pc : Word) (ls : List LaneKey) :
    ((regroup x ps pc ls).crews.map (·.1)).Nodup := by
  rw [regroup_eq]
  exact nodup_putAll _ hkeys

/-- A regrouping keeps the number of live lanes. -/
theorem laneCount_regroup (hkeys : (x.crews.map (·.1)).Nodup) (hlook : ∀ p ∈ ps, look x.crews p.1 = some p.2) (pc : Word)
    {ls : List LaneKey} (hlen : ls.length = laneCount ps) : laneCount (regroup x ps pc ls).crews = laneCount x.crews := by
  have hcount := laneCount_putAll (fun q : Nat × Nat × Crew => regroupCrew x q.2.2 pc (crewShare ls q.1)) (nodup_numbered hps)
    (old := fun q => q.2.2) hkeys fun q hq => hlook q.2 (List.mem_of_getElem? (getElem?_of_mem_numbered hq))
  have hold : ((numbered ps).map fun q => (lanesOf q.2.2.live).length).sum = laneCount ps := by
    rw [laneCount]
    conv_rhs => rw [← snd_numbered ps, List.map_map]
    rfl
  have hnew : ((numbered ps).map fun q => (lanesOf (regroupCrew x q.2.2 pc (crewShare ls q.1)).live).length).sum = laneCount ps := by
    have hshare : ∀ q ∈ numbered ps, (lanesOf (regroupCrew x q.2.2 pc (crewShare ls q.1)).live).length = min 32 (ls.length - 32 * q.1) :=
      fun q _ => length_lanesOf_below fun l hl => (regroupCrew_live x q.2.2 pc ls q.1 l hl).trans (by omega)
    have hsum : (numbered ps).map (fun q => min 32 (ls.length - 32 * q.1)) = (List.range ps.length).map fun i => min 32 (ls.length - 32 * i) := by
      rw [← fst_numbered ps, List.map_map]
      rfl
    have hle := laneCount_le ps
    rw [List.map_congr_left hshare, hsum, sum_min]
    omega
  rw [regroup_eq]
  change laneCount (putAll _ _ _ _) = _
  omega

end

/-! ### The crews that drain after the regrouping (R273) -/

/-- Crew `c` of a block starts to drain. -/
def drainCrew (y : Block) (c : Nat) : Block :=
  match look y.crews c with
  | none => y
  | some w => (y.leaveTeams c).setCrew c { w with wait := .draining, inTrap := false }

/-- A crew starts to drain in the block it stands in. -/
theorem startDrain_block {s : State} {b : Nat} {y : Block} (h : s.block b = some y) (c : Nat) :
    (s.startDrain b c).block b = some (drainCrew y c) := by
  rw [State.startDrain, h, drainCrew]
  cases hw : look y.crews c with
  | none => simpa only [hw] using h
  | some w => simp only [hw, State.setBlock_block_self]

/-- Crews that start to drain one after another. -/
theorem foldl_startDrain_block {s : State} {b : Nat} {y : Block} (h : s.block b = some y) (ps : List (Nat × Crew)) :
    (ps.foldl (fun s p => s.startDrain b p.1) s).block b = some (ps.foldl (fun y p => drainCrew y p.1) y) := by
  induction ps generalizing s y with
  | nil => exact h
  | cons p ps ih => exact ih (startDrain_block h p.1)

/-- Block `z` is block `y` after the crews `cs` have started to drain. -/
structure Drained (y z : Block) (cs : List Nat) : Prop where
  share : z.share = y.share
  lanes : laneCount z.crews = laneCount y.crews
  other : ∀ c, c ∉ cs → look z.crews c = look y.crews c
  crew : ∀ c ∈ cs, ∀ w, look y.crews c = some w → look z.crews c = some { w with wait := .draining, inTrap := false }
  teams : ∀ m ∈ z.teams, ∃ m' ∈ y.teams, ∀ c, m.members.getLsbD c = true → m'.members.getLsbD c = true ∧ c ∉ cs

/-- A team that a crew leaves. -/
theorem getLsbD_leave (m : BitVec 64) (c k : Nat) :
    (m &&& ~~~(1#64 <<< c)).getLsbD k = true ↔ m.getLsbD k = true ∧ k ≠ c := by
  have hbit : (1#64 <<< c).getLsbD k = true ↔ k < 64 ∧ k = c := by
    simp only [BitVec.getLsbD_shiftLeft, BitVec.getLsbD_one, Bool.and_eq_true, decide_eq_true_eq, Bool.not_eq_true',
      decide_eq_false_iff_not]
    omega
  have hlt : m.getLsbD k = true → k < 64 := BitVec.lt_of_getLsbD
  rw [BitVec.getLsbD_and, BitVec.getLsbD_not, Bool.and_eq_true, Bool.and_eq_true, decide_eq_true_iff, Bool.not_eq_true',
    ← Bool.not_eq_true, hbit]
  exact ⟨fun h => ⟨h.1, fun hk => h.2.2 ⟨h.2.1, hk⟩⟩, fun h => ⟨h.1, hlt h.1, fun hk => h.2 hk.2⟩⟩

/-- One crew starts to drain. -/
theorem drained_drainCrew {y : Block} (hkeys : (y.crews.map (·.1)).Nodup) {c : Nat} {w : Crew} (hw : look y.crews c = some w) :
    Drained y (drainCrew y c) [c] := by
  have heq : drainCrew y c = (y.leaveTeams c).setCrew c { w with wait := .draining, inTrap := false } := by
    rw [drainCrew, hw]
  rw [heq]
  refine ⟨rfl, ?_, fun k hk => look_put_ne _ _ _ _ fun h => hk (List.mem_singleton.mpr h), ?_, ?_⟩
  · exact Nat.add_right_cancel (laneCount_put hkeys hw { w with wait := .draining, inTrap := false })
  · intro k hk v hv
    cases List.mem_singleton.mp hk
    cases hv.symm.trans hw
    exact look_put_self _ _ _
  · intro m hm
    obtain ⟨m', hm', rfl⟩ := List.mem_map.mp hm
    refine ⟨m', hm', fun k hk => ?_⟩
    obtain ⟨hk, hne⟩ := (getLsbD_leave _ _ _).mp hk
    exact ⟨hk, fun h => hne (List.mem_singleton.mp h)⟩

/-- Every crew of a list starts to drain. -/
theorem drained_foldl {y : Block} (hkeys : (y.crews.map (·.1)).Nodup) {ps : List (Nat × Crew)}
    (hlook : ∀ p ∈ ps, (look y.crews p.1).isSome) : Drained y (ps.foldl (fun y p => drainCrew y p.1) y) (ps.map (·.1)) := by
  induction ps generalizing y with
  | nil => exact ⟨rfl, rfl, fun _ _ => rfl, nofun, fun m hm => ⟨m, hm, fun c hc => ⟨hc, List.not_mem_nil⟩⟩⟩
  | cons p ps ih =>
    obtain ⟨w, hw⟩ := Option.isSome_iff_exists.mp (hlook p (.head _))
    have hfirst := drained_drainCrew hkeys hw
    have hkeys' : ((drainCrew y p.1).crews.map (·.1)).Nodup := by
      rw [drainCrew, hw]
      exact nodup_put hkeys _ _
    have hlook' : ∀ q ∈ ps, (look (drainCrew y p.1).crews q.1).isSome := fun q hq => by
      by_cases hqp : q.1 = p.1
      · rw [hqp, hfirst.crew p.1 (List.mem_singleton.mpr rfl) w hw]; rfl
      · rw [hfirst.other q.1 fun h => hqp (List.mem_singleton.mp h)]
        exact hlook q (.tail _ hq)
    have hrest := ih hkeys' hlook'
    refine ⟨hrest.share.trans hfirst.share, hrest.lanes.trans hfirst.lanes, fun c hc => ?_, fun c hc v hv => ?_, fun m hm => ?_⟩
    · rw [List.map_cons, List.mem_cons, not_or] at hc
      exact (hrest.other c hc.2).trans (hfirst.other c fun h => hc.1 (List.mem_singleton.mp h))
    · by_cases hmore : c ∈ ps.map (·.1)
      · by_cases hcp : c = p.1
        · cases hcp
          exact (hrest.crew p.1 hmore _ (hfirst.crew p.1 (List.mem_singleton.mpr rfl) v hv) :)
        · exact hrest.crew c hmore v ((hfirst.other c fun h => hcp (List.mem_singleton.mp h)).trans hv)
      · rcases List.mem_cons.mp hc with rfl | hc
        · exact (hrest.other p.1 hmore).trans (hfirst.crew p.1 (List.mem_singleton.mpr rfl) v hv)
        · exact absurd hc hmore
    · obtain ⟨m1, hm1, hsub1⟩ := hrest.teams m hm
      obtain ⟨m2, hm2, hsub2⟩ := hfirst.teams m1 hm1
      refine ⟨m2, hm2, fun c hc => ?_⟩
      obtain ⟨hc, hnot⟩ := hsub1 c hc
      obtain ⟨hc, hnp⟩ := hsub2 c hc
      refine ⟨hc, fun h => ?_⟩
      rcases List.mem_cons.mp h with rfl | h
      · exact hnp (List.mem_singleton.mpr rfl)
      · exact hnot h

/-! ### The regrouping of a block (R268, R272, R273) -/

/-- The register of the keys of the crew's COMPACT. -/
def groupKey (s : State) (b c : Nat) : Nat :=
  match s.waitOf b c with
  | some (.compact y, _, _, _) => y.a
  | _ => 0

/-- The PC that the crews of a regrouping stand at. -/
def groupPc : List (Nat × Crew) → Word
  | p :: _ => p.2.ipc
  | [] => 0

/-- The block with its lanes regrouped, before any crew drains. -/
def grouped (s : State) (b : Nat) (x : Block) : Block :=
  regroup x (liveCrews x) (groupPc (liveCrews x)) (sortedLanes x (liveCrews x) (groupKey s b))

/-- The crews that the regrouping leaves without a live lane. -/
def emptied (s : State) (b : Nat) (x : Block) : List (Nat × Crew) :=
  (liveCrews x).filter fun p => (look (grouped s b x).crews p.1).any fun w => w.live = 0

/-- The block after its regrouping: its lanes regrouped, the emptied crews draining. -/
theorem compacted_block (s : State) (b : Nat) (x : Block) : (compacted s b x (liveCrews x)).block b =
    some ((emptied s b x).foldl (fun y p => drainCrew y p.1) (grouped s b x)) := by
  refine foldl_startDrain_block (y := grouped s b x) ?_ (emptied s b x)
  exact (mapSeen_block _ _ _ _).trans (State.setBlock_block_self _ _ _)

section
variable {s : State} {b : Nat} {x : Block} {y : CluOps} {pc part : Nat → Word} (h : Compacting s b x y pc part)
include h

/-- The regrouping is due and comes next. -/
theorem Compacting.due : (compactDue s x && compactFirst s b x) = true := by
  have hempty : (liveCrews x).isEmpty = false := by
    rw [Bool.eq_false_iff, ne_eq, List.isEmpty_iff]
    exact h.some
  have hready : (liveCrews x).all (fun p => compactReady p.2) = true := List.all_eq_true.mpr fun p hp => by
    obtain ⟨hwait, hqueue⟩ := h.waits p hp
    simp [compactReady, hwait, hqueue]
  have hruns : s.runs x = true := by simp [State.runs, h.runs, h.live]
  rw [compactDue, hempty, hready, hruns, h.first]
  rfl

/-- A live crew is in the table of crews. -/
theorem Compacting.look_live {p : Nat × Crew} (hp : p ∈ liveCrews x) : look x.crews p.1 = some p.2 :=
  look_eq_of_mem h.keys (List.mem_filter.mp hp).1

/-- A failed regrouping fails in every crew. -/
theorem Compacting.fails {r : Nat} (hr : compactReason (liveCrews x) = some r) :
    exec (.compactComplete b) s = .next ((liveCrews x).foldl
      (fun s p => s.failWait b p.1 (.compact y) (pc p.1) p.2.live 0x80 r) s) := by
  have hfold : ∀ (ps : List (Nat × Crew)) (s : State), (∀ p ∈ ps, p ∈ liveCrews x) →
      ps.foldl (fun s p => match p.2.wait with
        | .waiting i pc act _ => s.failWait b p.1 i pc act 0x80 r
        | _ => s) s = ps.foldl (fun s p => s.failWait b p.1 (.compact y) (pc p.1) p.2.live 0x80 r) s := by
    intro ps
    induction ps with
    | nil => exact fun s _ => rfl
    | cons p ps ih =>
      intro s hps
      rw [List.foldl_cons, List.foldl_cons, (h.waits p (hps p (.head _))).1]
      exact ih _ fun q hq => hps q (.tail _ hq)
  refine (?_ : exec (.compactComplete b) s = execCompactComplete b s).trans ?_
  · rfl
  rw [execCompactComplete, h.block]
  simp only [h.due, if_true, unitCheck_clean (uerr_clean h.units0 h.units1 x.die), hr]
  exact congrArg _ (hfold _ s fun p hp => hp)

/-- A regrouping that no check fails takes place. -/
theorem Compacting.takesPlace (hr : compactReason (liveCrews x) = none) :
    exec (.compactComplete b) s = .next (compacted s b x (liveCrews x)) := by
  refine (?_ : exec (.compactComplete b) s = execCompactComplete b s).trans ?_
  · rfl
  rw [execCompactComplete, h.block]
  simp only [h.due, if_true, unitCheck_clean (uerr_clean h.units0 h.units1 x.die), hr, h.clean, List.filter_nil,
    State.meetStore, h.block, List.find?_nil, List.isEmpty_nil, Bool.false_eq_true, if_false, Option.getD_some]

/-- The key register of a live crew's COMPACT. -/
theorem Compacting.groupKey_eq {p : Nat × Crew} (hp : p ∈ liveCrews x) : groupKey s b p.1 = y.a := by
  obtain ⟨hwait, -⟩ := h.waits p hp
  simp only [groupKey, State.waitOf, h.block, h.look_live hp, Option.map_some, hwait, h.live, if_true]

end

/-- The crews that live keep distinct keys. -/
theorem nodup_liveCrews {x : Block} (hkeys : (x.crews.map (·.1)).Nodup) : ((liveCrews x).map (·.1)).Nodup :=
  hkeys.sublist (List.filter_sublist.map _)

/-- Crews that may regroup have one PC. -/
theorem ipc_of_compactReason {ps : List (Nat × Crew)} (h : compactReason ps = none) {p : Nat × Crew} (hp : p ∈ ps) :
    p.2.ipc = groupPc ps := by
  cases ps with
  | nil => cases hp
  | cons q ps =>
    rw [compactReason] at h
    split at h
    · cases h
    · next hsame =>
      rcases List.mem_cons.mp hp with rfl | hp
      · rfl
      · have hp := fun hne => hsame (List.any_eq_true.mpr ⟨p, hp, decide_eq_true hne⟩)
        exact not_not.mp hp

section
variable {s : State} {b : Nat} {x : Block} {y : CluOps} {pc part : Nat → Word} (h : Compacting s b x y pc part)
include h

/-- The block after its regrouping is the regrouped block after its emptied crews have started to drain. -/
theorem Compacting.drained : Drained (grouped s b x) ((emptied s b x).foldl (fun y p => drainCrew y p.1) (grouped s b x))
    ((emptied s b x).map (·.1)) :=
  drained_foldl (nodup_regroup h.keys _ _) fun _ hp => Option.isSome_of_any (List.mem_filter.mp hp).2

/-- Where the sorted lanes come from. -/
theorem Compacting.sources {k : LaneKey} (hk : k ∈ sortedLanes x (liveCrews x) (groupKey s b)) :
    (∃ v, look x.crews k.crew = some v) ∧ k.lane < 32 := by
  obtain ⟨p, hp, l, hl, rfl⟩ := (mem_sortedLanes fun p hp => h.groupKey_eq hp).mp hk
  exact ⟨⟨p.2, h.look_live hp⟩, List.mem_range.mp (List.mem_filter.mp hl).1⟩

/-- The crew of number `i` among the live crews in the regrouped block. -/
theorem Compacting.look_grouped {i : Nat} {p : Nat × Crew} (hp : (liveCrews x)[i]? = some p) : look (grouped s b x).crews p.1 =
    some (regroupCrew x p.2 (groupPc (liveCrews x)) (crewShare (sortedLanes x (liveCrews x) (groupKey s b)) i)) :=
  look_regroup (nodup_liveCrews h.keys) _ _ hp

/-- A live crew is emptied when the regrouping leaves it without a live lane. -/
theorem Compacting.mem_emptied {i : Nat} {p : Nat × Crew} (hp : (liveCrews x)[i]? = some p) :
    p.1 ∈ (emptied s b x).map (·.1) ↔
      (regroupCrew x p.2 (groupPc (liveCrews x)) (crewShare (sortedLanes x (liveCrews x) (groupKey s b)) i)).live = 0 := by
  have hlook := h.look_grouped hp
  rw [List.mem_map]
  constructor
  · rintro ⟨q, hq, hqp⟩
    have hq := (List.mem_filter.mp hq).2
    rw [hqp, hlook] at hq
    exact of_decide_eq_true hq
  · intro hlive
    refine ⟨p, List.mem_filter.mpr ⟨List.mem_of_getElem? hp, ?_⟩, rfl⟩
    rw [hlook]
    exact decide_eq_true hlive

/-- A live crew after the regrouping: its lanes, at the next instruction, ready; or draining and in no team, without a live
lane (R273). -/
theorem Compacting.crew_regrouped (hr : compactReason (liveCrews x) = none) {z : Block} (hz : Drained (grouped s b x) z ((emptied s b x).map (·.1)))
    {i : Nat} {p : Nat × Crew} (hp : (liveCrews x)[i]? = some p) :
    let ls := sortedLanes x (liveCrews x) (groupKey s b)
    ∃ w', look z.crews p.1 = some w' ∧
      (∀ l, l < 32 → (inMask w'.live l = true ↔ 32 * i + l < ls.length)) ∧
      (∀ l k, l < 32 → ls[32 * i + l]? = some k → ∃ w, look x.crews k.crew = some w ∧ sameLane w' l w k.lane ∧
        w'.pcOf l = p.2.ipc + 12) ∧
      (w'.live ≠ 0 → w'.wait = .ready) ∧
      (w'.live = 0 → w'.wait = .draining ∧ ∀ m ∈ z.teams, m.members.getLsbD p.1 = false) := by
  intro ls
  let v := regroupCrew x p.2 (groupPc (liveCrews x)) (crewShare ls i)
  have hlive (l : Nat) (hl : l < 32) : inMask v.live l = true ↔ 32 * i + l < ls.length := regroupCrew_live x p.2 _ ls i l hl
  by_cases hempty : v.live = 0
  · have hmem := (h.mem_emptied hp).mpr hempty
    have hnone (l : Nat) (hl : l < 32) : ¬32 * i + l < ls.length := fun hlt => by
      have hbit := (hlive l hl).mpr hlt
      rw [hempty] at hbit
      simp [inMask] at hbit
    refine ⟨_, hz.crew p.1 hmem v (h.look_grouped hp), hlive, fun l k hl hk => ?_, fun hne => absurd hempty hne,
      fun _ => ⟨rfl, fun m hm => ?_⟩⟩
    · exact absurd (List.getElem?_eq_some_iff.mp hk).1 (hnone l hl)
    · obtain ⟨_, _, hsub⟩ := hz.teams m hm
      exact Bool.eq_false_iff.mpr fun hbit => (hsub p.1 hbit).2 hmem
  · have hmem := mt (h.mem_emptied hp).mp hempty
    refine ⟨v, (hz.other p.1 hmem).trans (h.look_grouped hp), hlive, fun l k hl hk => ?_, fun _ => rfl, fun he => absurd he hempty⟩
    obtain ⟨⟨u, hu⟩, hlane⟩ := h.sources (List.mem_of_getElem? hk)
    refine ⟨u, hu, sameLane_regroupCrew hl hk (fun k hk => (h.sources hk).1) hu hlane, ?_⟩
    rw [ipc_of_compactReason hr (List.mem_of_getElem? hp)]
    exact regroupCrew_pcOf hl hk

end

/-- The regrouping of a block (R268, R272, R273). -/
theorem compactionRegroups : Claim.CompactionRegroups := by
  refine fun s b x y pc part h => ⟨fun r hr => h.fails hr, fun hr => ?_⟩
  have hdrained := h.drained
  have hlanes := length_sortedLanes x (liveCrews x) (groupKey s b)
  have hcount : laneCount (grouped s b x).crews = laneCount x.crews :=
    laneCount_regroup (nodup_liveCrews h.keys) h.keys (fun p hp => h.look_live hp) _ hlanes
  have hshare : (grouped s b x).share = x.share := by
    rw [grouped, regroup_eq]
  exact ⟨_, _, h.takesPlace hr, compacted_block s b x, hdrained.share.trans hshare, hdrained.lanes.trans hcount,
    sortedLanes x (liveCrews x) (groupKey s b), sorted_sortedLanes .., fun k => mem_sortedLanes fun p hp => h.groupKey_eq hp,
    hlanes.trans (laneCount_liveCrews x), fun i p hp => h.crew_regrouped hr hdrained hp⟩

/-- Settles O38: the events of the cluster units, the regrouping of a compaction, and the order in which a queue is popped. -/
theorem clusterUnitEvents : Obligations.ClusterUnitEvents := ⟨unitEvents, compactionRegroups, popOrder⟩

end Sys2Proof.Machine
end

section
/-! The walks of a translation and the checks of an access (R366 to R375, R384, R393, R399, R432). -/

open Sys2Proof Sys2Proof.Machine

namespace Sys2Proof.Machine

/-! ### Walks over sound device memory (R368 to R371) -/

/-- A walk for context `asid` has changed nothing of device memory `m`, and the walker of the die has cached entries of that
context only as they stand there. -/
structure Walks (m : Sparse Byte) (die asid : Nat) (s : State) : Prop where
  sound : Sound s
  mem : s.dmem = m
  cached : ∀ w ∈ (s.die die).walker, w.asid = asid → w.err = 0 ∧ w.bits = readLE m w.addr 8

section
variable {m : Sparse Byte} {die asid : Nat} {s : State}

/-- An activation does not disturb a walk. -/
theorem Walks.activate (h : Walks m die asid s) (d : Nat) (pas : List Nat) : Walks m die asid (s.activate d pas) := by
  have hsame := activate_unnoted s d pas
  have hwalker : ((s.activate d pas).die die).walker = (s.die die).walker := (congrArg Die.walker (die_of_unnoted hsame die) :)
  refine ⟨h.sound.of_unnoted hsame, (dmem_of_unnoted hsame).trans h.mem, fun w hw => h.cached w ?_⟩
  rwa [hwalker] at hw

/-- The walker caches an entry that it has read. -/
theorem Walks.cacheWalk (h : Walks m die asid s) (a : Nat) : Walks m die asid (s.cacheWalk die asid a (readLE m a 8)) := by
  unfold State.cacheWalk
  dsimp only
  split
  · exact h
  · refine ⟨h.sound.setDie rfl rfl, (State.setDie_dmem _ _ _).trans h.mem, fun w hw hasid => ?_⟩
    rw [State.setDie_die_self] at hw
    rcases List.mem_append.mp hw with hw | hw
    · exact h.cached w hw hasid
    · cases List.mem_singleton.mp hw
      exact ⟨rfl, rfl⟩

variable {va : Nat} (h : Walks m (homeDie va) asid s)
include h

/-- The walker reads the entry that stands in device memory. -/
theorem Walks.walkEntry (a : Nat) : ∃ t, walkEntry s asid a va = .ok t (readLE m a 8) ∧ Walks m (homeDie va) asid t := by
  unfold Machine.walkEntry walkCached
  dsimp only
  cases hfind : (s.die (homeDie va)).walker.find? fun e => e.asid = asid && e.addr = a with
  | none =>
    dsimp only
    exact ⟨_, (h.sound.physRead asid a va 8).trans (by rw [h.mem]), h.activate _ _⟩
  | some e =>
    have hkey := List.find?_some hfind
    simp only [Bool.and_eq_true, decide_eq_true_eq] at hkey
    obtain ⟨herr, hbits⟩ := h.cached e (List.mem_of_find?_eq_some hfind) hkey.1
    dsimp only
    rw [if_pos herr]
    dsimp only
    rw [hbits, hkey.2]
    exact ⟨s, rfl, h⟩

end

/-- The address of the table that a walk reads at a level. -/
def walkTable (m : Sparse Byte) (va root : Nat) : Nat → Nat
  | 0 => root
  | k + 1 => entryAddr (readLE m (walkTable m va root k + 8 * walkIndex va k) 8)

/-- The entry that a walk reads at a level. -/
theorem walkEntryAt_eq (s : State) (va root : Nat) (k : Nat) (hk : k < 5) :
    walkEntryAt s va root k = readLE s.dmem (walkTable s.dmem va root k + 8 * walkIndex va k) 8 := by
  induction k with
  | zero => rfl
  | succ k ih =>
    have ih := ih (by omega)
    have hindex : (if k = 3 then bitsOf va 16 5 else bitsOf va (39 - 9 * k) 9) = walkIndex va (k + 1) := by
      unfold walkIndex
      have hshift : 48 - 9 * (k + 1) = 39 - 9 * k := by omega
      simp only [hshift, Nat.reduceEqDiff]
    rw [walkEntryAt, hindex, ih]
    rfl

/-- An entry that names the table of the next level (R369). -/
def isTable (e lvl : Nat) : Prop :=
  lvl ≠ 4 ∧ bitsOf e 48 16 = 0 ∧ bitsOf e 2 6 = 0 ∧ (lvl < 3 → entryAddr e % 4096 = 0) ∧ entryAddr e < 2 ^ 41

/-- The check of a table entry. -/
theorem tableBad_iff (e lvl : Nat) : (lvl = 4 || bitsOf e 48 16 ≠ 0 || bitsOf e 2 6 ≠ 0 ||
    (lvl < 3 && entryAddr e % 4096 ≠ 0) || hostBase ≤ entryAddr e : Bool) = true ↔ ¬isTable e lvl := by
  have hbase : hostBase = 2 ^ 41 := by decide
  simp only [isTable, hbase, Bool.or_eq_true, Bool.and_eq_true, decide_eq_true_eq, not_and_or, Classical.not_imp, not_not,
    Nat.not_lt, or_assoc, ne_eq]

/-- The levels that a walk has yet to read from level `k`. -/
def levels (k : Nat) : List Nat := [0, 1, 2, 3, 4].drop k

/-- The levels from one level on. -/
theorem levels_eq {k : Nat} (hk : k < 5) : levels k = k :: levels (k + 1) := by
  match k, hk with
  | 0, _ | 1, _ | 2, _ | 3, _ | 4, _ => rfl

section
variable {s : State} {asid va root : Nat} {fetch : Bool} {m : Sparse Byte}

/-- The entry that a walk reads at a level. -/
def walkBits (m : Sparse Byte) (va root k : Nat) : Nat := readLE m (walkTable m va root k + 8 * walkIndex va k) 8

/-- One level of a walk. -/
theorem Walks.level {k : Nat} (h : Walks m (homeDie va) asid s) (hk : k < 5) : ∃ t, Walks m (homeDie va) asid t ∧
    walkFrom asid va fetch (levels k) (walkTable m va root k) s =
      (if !bitOf (walkBits m va root k) 0 then .fail t (walkFault va fetch 1 k)
      else if !bitOf (walkBits m va root k) 1 then
        if (k = 4 || bitsOf (walkBits m va root k) 48 16 ≠ 0 || bitsOf (walkBits m va root k) 2 6 ≠ 0 ||
            (k < 3 && entryAddr (walkBits m va root k) % 4096 ≠ 0) || hostBase ≤ entryAddr (walkBits m va root k) : Bool) then
          .fail t (walkFault va fetch 2 k)
        else walkFrom asid va fetch (levels (k + 1)) (walkTable m va root (k + 1))
          (t.cacheWalk (homeDie va) asid (walkTable m va root k + 8 * walkIndex va k) (walkBits m va root k))
      else if leafBad (walkBits m va root k) k va then .fail t (walkFault va fetch 2 k)
      else .ok t (leafEntry asid (walkBits m va root k) k va)) := by
  obtain ⟨t, ht, hwalks⟩ := h.walkEntry (walkTable m va root k + 8 * walkIndex va k)
  refine ⟨t, hwalks, ?_⟩
  rw [levels_eq hk, walkFrom, ht]
  rfl

/-- A walk comes to the first level whose entry names no table. -/
theorem Walks.reaches (h : Walks m (homeDie va) asid s) {lvl : Nat} (hlvl : lvl < 5)
    (htables : ∀ k, k < lvl → bitOf (walkBits m va root k) 0 = true ∧ bitOf (walkBits m va root k) 1 = false ∧
      isTable (walkBits m va root k) k) :
    ∃ t, Walks m (homeDie va) asid t ∧ walkFrom asid va fetch (levels 0) root s =
      walkFrom asid va fetch (levels lvl) (walkTable m va root lvl) t := by
  induction lvl with
  | zero => exact ⟨s, h, rfl⟩
  | succ k ih =>
    obtain ⟨t, ht, hwalk⟩ := ih (by omega) fun j hj => htables j (by omega)
    obtain ⟨h0, h1, htable⟩ := htables k (by omega)
    obtain ⟨u, hu, hlevel⟩ := ht.level (root := root) (fetch := fetch) (k := k) (by omega)
    refine ⟨_, hu.cacheWalk (walkTable m va root k + 8 * walkIndex va k), ?_⟩
    rw [hwalk, hlevel, if_neg (by simp [h0]), if_pos (by simp [h1]), if_neg fun hbad => (tableBad_iff _ _).mp hbad htable]
    rfl

end

/-- An entry that names the frame of the page of an address (R370, R371). -/
def isLeaf (e lvl va : Nat) : Prop :=
  2 ≤ lvl ∧ bitsOf e 58 6 = 0 ∧ (bitOf e 7 = false → bitsOf e 48 10 = 0) ∧
    entryAddr e % (if bitOf e 7 then 4 * pageSize lvl else pageSize lvl) = 0 ∧ bitsOf e 5 2 ≠ 3 ∧
    (bitsOf e 5 2 < 2 → entryAddr e < 2 ^ 41) ∧
    (entryAddr e < 2 ^ 41 → dieOf (entryAddr e + va % pageSize lvl) = homeDie va)

/-- The check of a leaf. -/
theorem leafBad_iff (e lvl va : Nat) : leafBad e lvl va = true ↔ ¬isLeaf e lvl va := by
  have hbase : hostBase = 2 ^ 41 := by decide
  simp only [leafBad, isLeaf, hbase, Bool.or_eq_true, Bool.and_eq_true, decide_eq_true_eq, not_and_or, Classical.not_imp,
    not_not, Nat.not_le, Nat.not_lt, or_assoc, ne_eq, Bool.not_eq_true']

/-! ### Translations (R366, R368) -/

section
variable {s : State} {slot va : Nat} {fetch : Bool}

/-- An address outside the 57 bits of a virtual address has no translation. -/
theorem translate_far (hva : 2 ^ 57 ≤ va) : translate s slot va fetch = .fail s (walkFault va fetch 4 0) := by
  unfold translate
  exact if_pos (Nat.pos_iff_ne_zero.mp (Nat.div_pos hva (by decide)))

/-- A translation that the TLB of the die lacks is walked for. -/
theorem translate_miss (hva : va < 2 ^ 57) (hmiss : ∀ t ∈ (s.die (homeDie va)).tlb, t.covers (s.ctx slot).asid va = false) :
    translate s slot va fetch = if (s.ctx slot).root = 0 then .fail s (walkFault va fetch 3 0)
      else (walkFrom (s.ctx slot).asid va fetch (levels 0) (s.ctx slot).root s).bind fun s e =>
        .ok (s.setDie (homeDie va) { s.die (homeDie va) with tlb := (s.die (homeDie va)).tlb ++ [e] }) e := by
  have hfind : (s.die (homeDie va)).tlb.find? (fun e => e.covers (s.ctx slot).asid va) = none :=
    List.find?_eq_none.mpr fun e he => by simp [hmiss e he]
  have hbad : (s.die (homeDie va)).tlb.filter (fun e => e.covers (s.ctx slot).asid va && e.err ≠ 0) = [] :=
    List.filter_eq_nil_iff.mpr fun e he => by simp [hmiss e he]
  unfold translate
  rw [if_neg (not_not_intro (Nat.div_eq_of_lt hva))]
  dsimp only
  rw [hbad]
  simp only [List.isEmpty_nil, if_true, hfind]
  rfl

end

section
variable {s : State} {a : Acc} {va : Nat}

/-- An access whose address has no translation fails as the translation does. -/
theorem resolve_fail {s1 : State} {t : Trap} (h : translate s a.slot va a.px = .fail s1 t) : resolve s a va = .fail s1 t := by
  rw [resolve, h]
  rfl

/-- The four ways a walk ends (R369 to R371). -/
theorem walk_ends (hva : va < 2 ^ 57)
    (hmiss : ∀ t ∈ (s.die (homeDie va)).tlb, t.covers (s.ctx a.slot).asid va = false) (hroot : (s.ctx a.slot).root ≠ 0)
    (hs : Sound s) (hwalker : ∀ w ∈ (s.die (homeDie va)).walker, w.asid ≠ (s.ctx a.slot).asid) {lvl : Nat} (hlvl : lvl < 5)
    (htables : ∀ k, k < lvl → bitOf (walkEntryAt s va (s.ctx a.slot).root k) 0 = true ∧
      bitOf (walkEntryAt s va (s.ctx a.slot).root k) 1 = false ∧ isTable (walkEntryAt s va (s.ctx a.slot).root k) k)
    {e : Nat} (he : walkEntryAt s va (s.ctx a.slot).root lvl = e) :
    (bitOf e 0 = false → ∃ s1, translate s a.slot va a.px = .fail s1 (walkFault va a.px 1 lvl)) ∧
    (bitOf e 0 = true → bitOf e 1 = false → ¬isTable e lvl → ∃ s1, translate s a.slot va a.px = .fail s1 (walkFault va a.px 2 lvl)) ∧
    (bitOf e 0 = true → bitOf e 1 = true → ¬isLeaf e lvl va → ∃ s1, translate s a.slot va a.px = .fail s1 (walkFault va a.px 2 lvl)) ∧
    (bitOf e 0 = true → bitOf e 1 = true → isLeaf e lvl va → ∃ s1, translate s a.slot va a.px = .ok s1
      (leafEntry (s.ctx a.slot).asid e lvl va)) := by
  have hstart : Walks s.dmem (homeDie va) (s.ctx a.slot).asid s := ⟨hs, rfl, fun w hw h => absurd h (hwalker w hw)⟩
  have hread (k : Nat) (hk : k < 5) : walkBits s.dmem va (s.ctx a.slot).root k = walkEntryAt s va (s.ctx a.slot).root k :=
    (walkEntryAt_eq s va _ k hk).symm
  obtain ⟨t, ht, hwalk⟩ := hstart.reaches (root := (s.ctx a.slot).root) (fetch := a.px) hlvl fun k hk => by
    rw [hread k (by omega)]
    exact htables k hk
  obtain ⟨u, hu, hlevel⟩ := ht.level (root := (s.ctx a.slot).root) (fetch := a.px) hlvl
  rw [hread lvl hlvl, he] at hlevel
  rw [translate_miss hva hmiss, if_neg hroot, hwalk, hlevel]
  refine ⟨fun h0 => ?_, fun h0 h1 htable => ?_, fun h0 h1 hleaf => ?_, fun h0 h1 hleaf => ?_⟩
  · rw [if_pos (by simp [h0])]
    exact ⟨u, rfl⟩
  · rw [if_neg (by simp [h0]), if_pos (by simp [h1]), if_pos ((tableBad_iff e lvl).mpr htable)]
    exact ⟨u, rfl⟩
  · rw [if_neg (by simp [h0]), if_neg (by simp [h1]), if_pos ((leafBad_iff e lvl va).mpr hleaf)]
    exact ⟨u, rfl⟩
  · rw [if_neg (by simp [h0]), if_neg (by simp [h1]), if_neg fun hbad => (leafBad_iff e lvl va).mp hbad hleaf]
    exact ⟨_, rfl⟩

end

/-! ### The checks of a translated access (R374, R375, R384, R393, R399, R432) -/

/-- A permission that the access needs and the page lacks (R374). -/
def Denied (a : Acc) (t : TlbEntry) : Prop :=
  (a.rd = true ∧ t.pr = false) ∨ (a.wr = true ∧ t.pw = false) ∨ (a.px = true ∧ t.px = false)

/-- Permissions denied give the access kinds. -/
theorem permFault_denied {a : Acc} {t : TlbEntry} (h : Denied a t) : permFault a t =
    (if a.rd then 1 else 0) + (if a.wr then 2 else 0) + (if a.px then 4 else 0) ∧ permFault a t ≠ 0 := by
  unfold Denied at h
  unfold permFault
  obtain ⟨hr, hp⟩ | ⟨hr, hp⟩ | ⟨hr, hp⟩ := h
  · simp [hr, hp]
  · simp [hr, hp]
  · simp [hr, hp]

/-- Permissions granted give no fault. -/
theorem permFault_granted {a : Acc} {t : TlbEntry} (h : ¬Denied a t) : permFault a t = 0 := by
  unfold permFault
  rw [if_neg fun hbad => h ?_]
  simpa only [Denied, Bool.or_eq_true, Bool.and_eq_true, Bool.not_eq_true', or_assoc] using hbad

/-- A scope that the class of a page permits (R375). -/
theorem scopeOk_iff (cc sc : Nat) : scopeOk cc sc = true ↔
    (cc = 0 → sc ≤ 5) ∧ (cc = 1 → sc ≤ 6 ∨ (9 ≤ sc ∧ sc ≤ 11)) := by
  match cc with
  | 0 => simp [scopeOk]
  | 1 => simp [scopeOk]
  | cc + 2 => simp [scopeOk]

/-- A scoped operation against the class of its page (R375). -/
def WrongScope (a : Acc) (cc : Nat) : Prop :=
  ∃ sc, a.scope = some sc ∧ (¬((cc = 0 → sc ≤ 5) ∧ (cc = 1 → sc ≤ 6 ∨ (9 ≤ sc ∧ sc ≤ 11))) ∨ (a.sc = true ∧ cc ≠ 2) ∨
    (a.dc = true ∧ cc ≠ 1))

/-- An operation that its place does not do (R384, R399). -/
def WrongKind (a : Acc) (cc pa : Nat) : Prop :=
  ∃ w op, a.scope.isSome = true ∧ a.atom = some (w, op) ∧
    ((cc = 2 ∧ w = 2) ∨ (2 ^ 46 ≤ pa ∧ pa < 2 ^ 47 ∧ op ≠ 0 ∧ op ≠ 6 ∧ op ≠ 7))

/-- A die-class operation at the other die (R393). -/
def WrongDie (a : Acc) (home cc : Nat) : Prop := a.scope.isSome = true ∧ a.atom.isSome = true ∧ cc = 0 ∧ home ≠ a.die

section
variable {a : Acc} {home cc pa : Nat}

/-- The first check of a scoped operation. -/
theorem scopeBad_iff (sc : Nat) : (!scopeOk cc sc || (a.sc && cc ≠ 2) || (a.dc && cc ≠ 1) : Bool) = true ↔
    ¬((cc = 0 → sc ≤ 5) ∧ (cc = 1 → sc ≤ 6 ∨ (9 ≤ sc ∧ sc ≤ 11))) ∨ (a.sc = true ∧ cc ≠ 2) ∨ (a.dc = true ∧ cc ≠ 1) := by
  rw [← scopeOk_iff]
  simp only [Bool.or_eq_true, Bool.and_eq_true, Bool.not_eq_true', decide_eq_true_eq, or_assoc, Bool.not_eq_true]

/-- The second check of a scoped operation. -/
theorem kindBad_iff (w op : Nat) : (cc = 2 && w = 2 || decide (expanderBase ≤ pa) && decide (pa < reservedBase) && !([0, 6, 7].contains op) : Bool)
    = true ↔ (cc = 2 ∧ w = 2) ∨ (2 ^ 46 ≤ pa ∧ pa < 2 ^ 47 ∧ op ≠ 0 ∧ op ≠ 6 ∧ op ≠ 7) := by
  have hbase : expanderBase = 2 ^ 46 := by decide
  have hend : reservedBase = 2 ^ 47 := by decide
  simp [hbase, hend, and_assoc]

/-- A scoped operation that is against the class fails with reason 1. -/
theorem classFault_scope (h : WrongScope a cc) : classFault a home cc pa = some 1 := by
  obtain ⟨sc, hsc, hbad⟩ := h
  simp only [classFault, hsc]
  exact if_pos ((scopeBad_iff sc).mpr hbad)

/-- A scoped operation that its place does not do fails with reason 2. -/
theorem classFault_kind (hsc : ¬WrongScope a cc) (h : WrongKind a cc pa) : classFault a home cc pa = some 2 := by
  obtain ⟨w, op, hsome, hatom, hbad⟩ := h
  obtain ⟨sc, hscope⟩ := Option.isSome_iff_exists.mp hsome
  simp only [classFault, hscope, hatom]
  rw [if_neg fun hb => hsc ⟨sc, hscope, (scopeBad_iff sc).mp hb⟩]
  exact if_pos ((kindBad_iff w op).mpr hbad)

/-- A die-class operation at the other die fails with reason 3. -/
theorem classFault_die (hsc : ¬WrongScope a cc) (hkind : ¬WrongKind a cc pa) (h : WrongDie a home cc) :
    classFault a home cc pa = some 3 := by
  obtain ⟨hsome, hatom, hcc, hhome⟩ := h
  obtain ⟨sc, hscope⟩ := Option.isSome_iff_exists.mp hsome
  obtain ⟨⟨w, op⟩, hatom⟩ := Option.isSome_iff_exists.mp hatom
  simp only [classFault, hscope, hatom]
  rw [if_neg fun hb => hsc ⟨sc, hscope, (scopeBad_iff sc).mp hb⟩,
    if_neg fun hb => hkind ⟨w, op, hsome, hatom, (kindBad_iff w op).mp hb⟩]
  exact if_pos (by simp [hcc, hhome])

/-- Any other operation passes. -/
theorem classFault_none (hsc : ¬WrongScope a cc) (hkind : ¬WrongKind a cc pa) (hdie : ¬WrongDie a home cc) :
    classFault a home cc pa = none := by
  cases hscope : a.scope with
  | none => simp only [classFault, hscope]
  | some sc =>
    have hsome : a.scope.isSome = true := by rw [hscope]; rfl
    simp only [classFault, hscope]
    rw [if_neg fun hb => hsc ⟨sc, hscope, (scopeBad_iff sc).mp hb⟩]
    cases hatom : a.atom with
    | none => rfl
    | some q =>
      obtain ⟨w, op⟩ := q
      dsimp only
      rw [if_neg fun hb => hkind ⟨w, op, hsome, hatom, (kindBad_iff w op).mp hb⟩]
      refine if_neg fun hb => hdie ⟨hsome, by rw [hatom]; rfl, ?_⟩
      simpa using hb

end

/-! ### What the home die answers (R366 to R375, R384, R393, R399, R432) -/

section
variable {s s1 : State} {a : Acc} {va : Nat} {t : TlbEntry} (h : translate s a.slot va a.px = .ok s1 t)
include h

/-- An access without a permission fails. -/
theorem resolve_denied (hdenied : Denied a t) : resolve s a va = .fail s1
    { code := 0xA4, info := (if a.rd then 1 else 0) + (if a.wr then 2 else 0) + (if a.px then 4 else 0), va := va } := by
  obtain ⟨hinfo, hne⟩ := permFault_denied hdenied
  rw [resolve, h, ← hinfo]
  exact if_pos hne

variable (hgranted : ¬Denied a t)
include hgranted

/-- An access that has its permissions goes on to the check of its class. -/
theorem resolve_granted : resolve s a va = match classFault a (homeDie va) t.cc (t.pa + (va - t.va)) with
    | some r => .fail s1 { code := 0xA5, info := r + 16 * t.cc, va := va }
    | none => match shadowFault a t with
      | some r => .fail s1 { code := 0xA6, info := r, va := va }
      | none => if reservedBase ≤ t.pa + (va - t.va) then .fail s1 { code := 0xC6, info := 4, va := va - va % 128 }
        else .ok s1 (⟨va, t.pa + (va - t.va) + (if (if t.sh then takeSide s1 a t.pti else (false, a)).1 then 3 * t.size else 0),
          homeDie va, t.cc, (if t.sh then takeSide s1 a t.pti else (false, a)).1, t.sh, t.pti⟩,
          (if t.sh then takeSide s1 a t.pti else (false, a)).2) := by
  rw [resolve, h, Got.bind_ok]
  dsimp only
  exact if_neg (not_not_intro (permFault_granted hgranted))

/-- An operation against the class of its page fails. -/
theorem resolve_class {r : Nat} (hr : classFault a (homeDie va) t.cc (t.pa + (va - t.va)) = some r) :
    resolve s a va = .fail s1 { code := 0xA5, info := r + 16 * t.cc, va := va } := by
  rw [resolve_granted h hgranted, hr]

variable (hclass : classFault a (homeDie va) t.cc (t.pa + (va - t.va)) = none)
include hclass

/-- An access against the shadowing rules fails. -/
theorem resolve_shadow {r : Nat} (hr : shadowFault a t = some r) :
    resolve s a va = .fail s1 { code := 0xA6, info := r, va := va } := by
  rw [resolve_granted h hgranted, hclass, hr]

variable (hshadow : shadowFault a t = none)
include hshadow

/-- An access to the reserved range fails. -/
theorem resolve_reserved (hpa : 2 ^ 47 ≤ t.pa + (va - t.va)) :
    resolve s a va = .fail s1 { code := 0xC6, info := 4, va := va - va % 128 } := by
  have hbase : reservedBase = 2 ^ 47 := by decide
  rw [resolve_granted h hgranted, hclass, hshadow]
  exact if_pos (hbase ▸ hpa)

/-- Any other access lands. -/
theorem resolve_lands (hpa : t.pa + (va - t.va) < 2 ^ 47) : resolve s a va = .ok s1 (⟨va,
    t.pa + (va - t.va) + (if (if t.sh then takeSide s1 a t.pti else (false, a)).1 then 3 * t.size else 0),
    homeDie va, t.cc, (if t.sh then takeSide s1 a t.pti else (false, a)).1, t.sh, t.pti⟩,
    (if t.sh then takeSide s1 a t.pti else (false, a)).2) := by
  have hbase : reservedBase = 2 ^ 47 := by decide
  rw [resolve_granted h hgranted, hclass, hshadow]
  exact if_neg (by omega)

end

/-- A look into a table at whose end an entry has been added. -/
theorem look_append {α : Type} {t : List (Nat × α)} {k : Nat} (h : look t k = none) (x : α) : look (t ++ [(k, x)]) k = some x := by
  induction t with
  | nil => exact if_pos rfl
  | cons e t ih =>
    rw [look] at h
    rw [List.cons_append, look]
    split at h
    · cases h
    · next hne => rw [if_neg hne, ih h]

/-- The side that an access of a task has taken before. -/
theorem takeSide_some {s : State} {a : Acc} {pti : Nat} {x : Bool} (h : look a.sides pti = some x) :
    takeSide s a pti = (x, a) := by
  rw [takeSide, h]

/-- The side that an access takes first. -/
theorem takeSide_none {s : State} {a : Acc} {pti : Nat} (h : look a.sides pti = none) :
    (takeSide s a pti).1 = ((a.use = .hidden || a.use = .mustHide) != getAt false (s.ctx a.slot).publ pti) ∧
    look (takeSide s a pti).2.sides pti = some (takeSide s a pti).1 := by
  rw [takeSide, h]
  refine ⟨?_, look_append h _⟩
  dsimp only
  split
  · next hu => simp [hu]
  · next hu => simp only [Bool.not_eq_true] at hu; simp [hu]

/-- A failed walk of a task block holds the block (R352). -/
theorem regionFault_walk {s : State} {b : Nat} {x : Block} (hb : s.block b = some x) (hres : x.r.res = false) (j info va : Nat) :
    regionFault s b j false { code := 0xA3, info := info, va := va } =
      s.holdBlock b none { code := 0xA2, info := j + info / 256 % 128 * 256, va := va } j := by
  unfold regionFault
  rw [hb]
  simp [hres]

/-- What the home die answers to an access. -/
theorem accessChecks : Claim.AccessChecks := by
  intro s a va asid root e addr size table leaf fails
  have hfails {reason lvl : Nat} (h : ∃ s1, translate s a.slot va a.px = .fail s1 (walkFault va a.px reason lvl)) :
      fails reason lvl := h.imp fun _ h => resolve_fail h
  refine ⟨fun hva => hfails ⟨s, translate_far hva⟩, fun hva hmiss => ⟨fun hroot => hfails ⟨s, ?_⟩,
    fun hroot hs hwalker lvl hlvl htables => ?_⟩, fun s1 t ht => ?_,
    fun b j x lvl reason hb hres => regionFault_walk hb hres j _ va⟩
  · rw [translate_miss hva hmiss, if_pos hroot]
  · obtain ⟨h1, h2, h3, h4⟩ := walk_ends hva hmiss hroot hs hwalker hlvl htables rfl
    exact ⟨fun h0 => hfails (h1 h0), fun h0 hp ht => hfails (h2 h0 hp ht), fun h0 hp hl => hfails (h3 h0 hp hl), h4⟩
  · intro home pa denied stays wrongScope wrongKind wrongDie gives
    refine ⟨fun hd => resolve_denied ht hd, fun hd hs => resolve_class ht hd (classFault_scope hs),
      fun hd hs hk => resolve_class ht hd (classFault_kind hs hk),
      fun hd hs hk hw => resolve_class ht hd (classFault_die hs hk hw), fun hd hs hk hw => ?_⟩
    have hclass := classFault_none (pa := pa) hs hk hw
    refine ⟨fun hsh hcc => resolve_shadow ht hd hclass ?_, fun hsh hcc huse => resolve_shadow ht hd hclass ?_,
      fun hsh huse => resolve_shadow ht hd hclass ?_, fun hshared hunshared => ?_⟩
    · simp [shadowFault, hsh, hcc]
    · simp [shadowFault, hsh, hcc, huse]
    · simp [shadowFault, hsh, huse]
    · have hshadow : shadowFault a t = none := by
        cases hsh : t.sh with
        | true =>
          obtain ⟨hcc, huse⟩ := hshared hsh
          simp [shadowFault, hsh, hcc, huse]
        | false =>
          have huse := hunshared hsh
          simp [shadowFault, hsh, huse]
      refine ⟨resolve_reserved ht hd hclass hshadow, fun hpa => ?_⟩
      have hlands := resolve_lands ht hd hclass hshadow hpa
      refine ⟨_, _, hlands, rfl, ?_, rfl, rfl, ?_, fun hsh => ?_, fun hsh side hside => ?_, fun hsh hside => ?_⟩
      · dsimp only [home]
      · rfl
      · simp [hsh]
      · rw [if_pos hsh, takeSide_some hside]
        exact ⟨rfl, rfl⟩
      · rw [if_pos hsh]
        exact takeSide_none hside

end Sys2Proof.Machine
end

section
/-! What the operations of the memory system leave: the parts of a state that a translation rests on, and the caches. -/

open Sys2Proof Sys2Proof.Machine

namespace Sys2Proof.Machine

/-! ### Caches and lines (R363, R365, R383)

A cache is a list of lines; the line that an access finds is the first of its tag. -/

section
variable (s : State) (die d : Nat) (rdc r : Bool) (ls : List Line)

/-- A cache that is set. -/
@[simp] theorem cache_setCache_self : (s.setCache die rdc ls).cache die rdc = ls := by
  cases rdc <;> simp [State.cache, State.setCache]

/-- The caches of one kind when a cache of the other kind is set. -/
theorem cache_setCache_kind (h : r ≠ rdc) : (s.setCache die rdc ls).cache d r = s.cache d r := by
  cases rdc <;> cases r
  case false.true => exact setDie_part (d := { s.die die with l2 := ls }) Die.rdc rfl d
  case true.false => exact setDie_part (d := { s.die die with rdc := ls }) Die.l2 rfl d
  all_goals exact absurd rfl h

/-- The caches of the other die. -/
theorem cache_setCache_die (h : (die = 0) ≠ (d = 0)) : (s.setCache die rdc ls).cache d r = s.cache d r := by
  unfold State.cache State.setCache
  rw [State.setDie_die_ne _ _ _ _ h]

end

/-- The parts of a state that a translation rests on, and the caches of the kinds that `kinds` names, are left. -/
structure Leaves (kinds : Bool → Prop) (s t : State) : Prop where
  asid : ∀ k, (t.ctx k).asid = (s.ctx k).asid
  publ : ∀ k, (t.ctx k).publ = (s.ctx k).publ
  tlb : ∀ d, (t.die d).tlb = (s.die d).tlb
  lines : ∀ r, kinds r → ∀ d, t.cache d r = s.cache d r

/-- Nothing that a translation or a look into a cache rests on changes. -/
abbrev LeavesAll : State → State → Prop := Leaves fun _ => True

/-- What a translation rests on is left. -/
abbrev LeavesPages : State → State → Prop := Leaves fun _ => False

section
variable {kinds : Bool → Prop} {s t u : State}

theorem Leaves.refl (s : State) : Leaves kinds s s := ⟨fun _ => rfl, fun _ => rfl, fun _ => rfl, fun _ _ _ => rfl⟩

theorem Leaves.trans (h : Leaves kinds s t) (g : Leaves kinds t u) : Leaves kinds s u where
  asid k := (g.asid k).trans (h.asid k)
  publ k := (g.publ k).trans (h.publ k)
  tlb d := (g.tlb d).trans (h.tlb d)
  lines r hr d := (g.lines r hr d).trans (h.lines r hr d)

theorem Leaves.mono {kinds' : Bool → Prop} (h : Leaves kinds s t) (hkinds : ∀ r, kinds' r → kinds r) : Leaves kinds' s t :=
  ⟨h.asid, h.publ, h.tlb, fun r hr => h.lines r (hkinds r hr)⟩

/-- Leaving every cache leaves those of any kind. -/
theorem Leaves.all (h : LeavesAll s t) : Leaves kinds s t := h.mono fun _ _ => trivial

/-- A state with the same contexts and dies. -/
theorem leaves_of_same (hctx : ∀ k, t.ctx k = s.ctx k) (hdie : ∀ d, t.die d = s.die d) : Leaves kinds s t where
  asid k := by rw [hctx]
  publ k := by rw [hctx]
  tlb d := by rw [hdie]
  lines r _ d := by simp only [State.cache, hdie]

/-- Notes leave everything. -/
theorem leaves_of_unnoted (h : t.unnoted = s.unnoted) : Leaves kinds s t where
  asid k := (congrArg (fun s : State => (s.ctx k).asid) h :)
  publ k := (congrArg (fun s : State => (s.ctx k).publ) h :)
  tlb d := (congrArg Die.tlb (die_of_unnoted h d) :)
  lines r _ d := by
    cases r
    · exact (congrArg Die.l2 (die_of_unnoted h d) :)
    · exact (congrArg Die.rdc (die_of_unnoted h d) :)

/-- A die that keeps its TLB and its caches. -/
theorem leaves_setDie {die : Nat} {d : Die} (htlb : d.tlb = (s.die die).tlb) (hl2 : d.l2 = (s.die die).l2)
    (hrdc : d.rdc = (s.die die).rdc) : Leaves kinds s (s.setDie die d) where
  asid k := by rw [State.setDie_ctx]
  publ k := by rw [State.setDie_ctx]
  tlb := setDie_part Die.tlb htlb
  lines r _ k := by
    cases r
    · exact setDie_part Die.l2 hl2 k
    · exact setDie_part Die.rdc hrdc k

/-- A fold of steps. -/
theorem foldl_leaves {β : Type} {f : State → β → State} (hf : ∀ s x, Leaves kinds s (f s x)) (l : List β) (s : State) :
    Leaves kinds s (l.foldl f s) := by
  induction l generalizing s with
  | nil => exact .refl s
  | cons x l ih => exact (hf s x).trans (ih _)

end

/-- An access leaves what `Leaves` says, however it ends. -/
def Got.leaves {α : Type} (kinds : Bool → Prop) (s : State) (g : Got α) : Prop := Leaves kinds s g.state

section
variable {α β : Type} {kinds : Bool → Prop} {s t : State} {g : Got α}

theorem Got.leaves_bind {f : State → α → Got β} (hg : g.leaves kinds s) (hf : ∀ t x, g = .ok t x → (f t x).leaves kinds t) :
    (g.bind f).leaves kinds s := by
  cases g with
  | ok t x => exact Leaves.trans (t := t) hg (hf t x rfl)
  | wait t => exact hg
  | fail t x => exact hg

theorem Got.leaves_trans (h : Leaves kinds s t) (hg : g.leaves kinds t) : g.leaves kinds s := Leaves.trans h hg

/-- What an access that succeeds leaves. -/
theorem Got.leaves.ok {x : α} (h : g.leaves kinds s) (e : g = .ok t x) : Leaves kinds s t := by
  rw [e] at h
  exact h

end

/-! ### What faults, notes and the memory controllers leave -/

section
variable {kinds : Bool → Prop} (s : State)

theorem leaves_fatal (slot : Nat) (r : FaultRec) : Leaves kinds s (s.fatal slot r) := by
  have hset (x : Ctx) (hasid : x.asid = (s.ctx slot).asid) (hpubl : x.publ = (s.ctx slot).publ) :
      Leaves kinds s (s.setCtx slot x) := by
    have hctx (k : Nat) : ((s.setCtx slot x).ctx k).asid = (s.ctx k).asid ∧ ((s.setCtx slot x).ctx k).publ = (s.ctx k).publ := by
      by_cases hk : k = slot
      · cases hk
        rw [State.setCtx_ctx_self]
        exact ⟨hasid, hpubl⟩
      · rw [State.setCtx_ctx_ne _ _ _ _ hk]
        exact ⟨rfl, rfl⟩
    exact ⟨fun k => (hctx k).1, fun k => (hctx k).2, fun _ => rfl, fun _ _ _ => rfl⟩
  unfold State.fatal
  dsimp only
  split
  · exact hset _ rfl rfl
  · exact hset _ rfl rfl
  · exact .refl s

theorem leaves_fatalAsid (die asid : Nat) (t : Trap) : Leaves kinds s (s.fatalAsid die asid t) := by
  unfold State.fatalAsid
  split
  · exact .refl s
  · exact leaves_fatal s _ _

theorem leaves_fatalAll (die : Nat) (t : Trap) : Leaves kinds s (s.fatalAll die t) :=
  foldl_leaves (fun s _ => leaves_fatal s _ _) _ _

theorem leaves_noteMem (die code asid info : Nat) : Leaves kinds s (s.noteMem die code asid info) :=
  leaves_of_unnoted (noteMem_unnoted ..)

theorem leaves_activate (die : Nat) (pas : List Nat) : Leaves kinds s (s.activate die pas) :=
  leaves_of_unnoted (activate_unnoted ..)

theorem leaves_touch (pa : Nat) (fill : Bool) : Leaves kinds s (s.touch pa fill) := by
  unfold State.touch
  dsimp only
  split
  · exact leaves_setDie rfl rfl rfl
  · exact leaves_setDie rfl rfl rfl

theorem leaves_remapCheck (asid pa va : Nat) : (remapCheck s asid pa va).leaves kinds s := by
  unfold remapCheck
  dsimp only
  split
  · exact Leaves.refl s
  · refine Leaves.trans ?_ (leaves_noteMem _ _ _ _ _)
    exact leaves_setDie rfl rfl rfl
  · exact Leaves.refl s

theorem leaves_eccClean (asid w n : Nat) : Leaves kinds s (eccClean s asid w n) := by
  unfold eccClean
  dsimp only
  split
  · exact .refl s
  · refine .trans ?_ (foldl_leaves (fun s i => leaves_noteMem s _ _ _ _) _ _)
    exact leaves_of_same (fun _ => rfl) fun _ => rfl

theorem leaves_dramRead (asid pa va : Nat) : (dramRead s asid pa va).leaves kinds s := by
  unfold dramRead
  split
  · exact Leaves.refl s
  · exact Got.leaves_bind (leaves_remapCheck s _ _ _) fun t _ _ =>
      (leaves_activate t _ _).trans (leaves_eccClean _ _ _ _)

theorem leaves_physRead (asid pa va n : Nat) : (physRead s asid pa va n).leaves kinds s := by
  unfold physRead
  split
  · exact Leaves.refl s
  · refine Got.leaves_bind (leaves_remapCheck s _ _ _) fun t _ _ => Got.leaves_trans (leaves_activate t (dieOf pa) [pa]) ?_
    generalize t.activate (dieOf pa) [pa] = u
    dsimp only
    split
    · exact Leaves.refl u
    · exact leaves_eccClean _ _ _ _

theorem leaves_dramWord (asid pa va : Nat) (bs : List (Nat × Byte)) (w : Nat) :
    Leaves kinds s (dramWord s asid pa va bs w) := by
  unfold dramWord
  dsimp only
  split
  · exact .refl s
  split
  · exact leaves_of_same (fun _ => rfl) fun _ => rfl
  split
  · exact leaves_fatalAsid s _ _ _
  · exact (leaves_eccClean s _ _ _).trans (leaves_of_same (fun _ => rfl) fun _ => rfl)

theorem leaves_dramWrite (asid pa va : Nat) (bs : List (Nat × Byte)) : Leaves kinds s (dramWrite s asid pa va bs) := by
  have h := leaves_remapCheck (kinds := kinds) s asid pa va
  unfold dramWrite
  split <;> rename_i hg <;> rw [hg] at h
  · exact (Leaves.trans h (leaves_activate _ (dieOf pa) [pa])).trans (foldl_leaves (fun s w => leaves_dramWord s _ _ _ _ w) _ _)
  · exact h
  · exact Leaves.trans h (leaves_fatalAsid _ _ _ _)

end

/-! ### What the operations on lines leave -/

section
variable (s : State)

theorem leaves_setCache (die : Nat) (rdc : Bool) (ls : List Line) : Leaves (· ≠ rdc) s (s.setCache die rdc ls) where
  asid k := by rw [State.setCache, State.setDie_ctx]
  publ k := by rw [State.setCache, State.setDie_ctx]
  tlb d := by
    cases rdc
    · exact setDie_part (d := { s.die die with l2 := ls }) Die.tlb rfl d
    · exact setDie_part (d := { s.die die with rdc := ls }) Die.tlb rfl d
  lines r hr d := cache_setCache_kind s die d rdc r ls hr

theorem leaves_dropLine (die : Nat) (rdc : Bool) (l : Line) : Leaves (· ≠ rdc) s (s.dropLine die rdc l) := leaves_setCache ..

theorem leaves_putLine (die : Nat) (rdc : Bool) (l : Line) : Leaves (· ≠ rdc) s (s.putLine die rdc l) := leaves_setCache ..

theorem leaves_meetLine (die : Nat) (rdc : Bool) (l : Line) : Leaves (· ≠ rdc) s (s.meetLine die rdc l).1 := by
  unfold State.meetLine
  dsimp only
  split
  · exact .refl s
  · exact (leaves_putLine s _ _ _).trans (leaves_noteMem _ _ _ _ _)
  · exact (leaves_putLine s _ _ _).trans (leaves_noteMem _ _ _ _ _)
  · split
    · exact (leaves_dropLine s _ _ _).trans (leaves_noteMem _ _ _ _ _)
    · exact (leaves_dropLine s _ _ _).trans (leaves_fatalAsid _ _ _ _)
  · exact (leaves_dropLine s _ _ _).trans (leaves_fatalAll _ _ _)

theorem leaves_lookLine (die : Nat) (rdc : Bool) (asid va : Nat) (side : Bool) :
    Leaves (· ≠ rdc) s (s.lookLine die rdc asid va side).1 := by
  unfold State.lookLine
  split
  · exact .refl s
  · exact leaves_meetLine s _ _ _

theorem leaves_writeBack {kinds : Bool → Prop} (l : Line) : Leaves kinds s (s.writeBack l) := by
  unfold State.writeBack
  split
  · exact .refl s
  split
  · exact leaves_of_same (fun _ => rfl) fun _ => rfl
  · exact (leaves_touch s _ _).trans (leaves_dramWrite _ _ _ _ _)

theorem leaves_sendThrough {kinds : Bool → Prop} (src : Nat) (l : Line) : Leaves kinds s (s.sendThrough src l) := by
  unfold State.sendThrough
  split
  · exact .refl s
  · exact leaves_of_same (fun _ => rfl) fun _ => rfl

theorem leaves_evict (die : Nat) (rdc : Bool) (l : Line) : (s.evict die rdc l).leaves (· ≠ rdc) s := by
  have h := leaves_meetLine s die rdc l
  unfold State.evict
  split <;> rename_i hl <;> rw [hl] at h
  · exact h
  split
  · exact h.trans ((leaves_sendThrough _ _ _).trans (leaves_dropLine _ _ _ _))
  split
  · exact h
  · exact h.trans ((leaves_writeBack _ _).trans (leaves_dropLine _ _ _ _))

theorem leaves_makeRoom (die : Nat) (rdc : Bool) (va : Nat) : (s.makeRoom die rdc va).leaves (· ≠ rdc) s := by
  unfold State.makeRoom
  extract_lets n mates
  clear_value mates
  split
  · exact Leaves.refl s
  split
  · exact Leaves.refl s
  · exact leaves_evict s _ _ _

theorem leaves_homeLine (asid va : Nat) (side : Bool) (pa cc : Nat) :
    (homeLine s asid va side pa cc).leaves (· ≠ false) s := by
  have h := leaves_lookLine s (dieOf pa) false asid va side
  unfold homeLine
  dsimp only
  split <;> rename_i hl <;> rw [hl] at h
  · exact h
  · refine Got.leaves_trans h (Got.leaves_bind (leaves_dramRead _ _ _ _) fun t d _ =>
      Got.leaves_trans (leaves_touch t _ _) (Got.leaves_bind (leaves_makeRoom _ _ _ _) fun u _ _ => ?_))
    refine Leaves.trans ?_ (leaves_putLine _ _ _ _)
    exact leaves_setDie rfl rfl rfl

theorem leaves_setHost {kinds : Bool → Prop} (x : HostRegs) : Leaves kinds s { s with host := x } :=
  leaves_of_same (fun _ => rfl) fun _ => rfl

theorem leaves_snoopCopies (pa : Nat) (bs : List (Nat × Byte)) : Leaves (· ≠ true) s (s.snoopCopies pa bs) := by
  unfold State.snoopCopies
  dsimp only
  refine Leaves.trans (foldl_leaves (fun s l => ?_) _ s) (leaves_setHost _ _)
  have h := leaves_meetLine s (1 - dieOf pa) true l
  split <;> rename_i hl <;> rw [hl] at h
  · exact h
  split
  · exact h.trans (leaves_dropLine _ _ _ _)
  · exact h.trans (leaves_putLine _ _ _ _)

theorem leaves_crossed {kinds : Bool → Prop} (a : Acc) (p : Spot) : (crossed s a p).leaves kinds s := by
  unfold crossed
  split
  · exact Leaves.refl s
  split
  · exact leaves_of_same (fun _ => rfl) fun _ => rfl
  split
  · exact Leaves.refl s
  split
  · exact Leaves.refl s
  · exact leaves_of_same (fun _ => rfl) fun _ => rfl

theorem leaves_syncLine (src asid va : Nat) (side : Bool) : (syncLine s src asid va side).leaves (· ≠ true) s := by
  have h := leaves_lookLine s src true asid va side
  unfold syncLine
  extract_lets u
  have hu : Leaves (· ≠ true) s u := by
    rcases hl : s.lookLine src true asid va side with ⟨v, _ | l⟩ <;> rw [hl] at h
    · simpa only [u, hl] using h
    · simpa only [u, hl] using h.trans ((leaves_sendThrough v src l).trans (leaves_dropLine _ _ _ _))
  clear_value u
  split <;> exact hu

theorem leaves_reachHome (a : Acc) (p : Spot) : (reachHome s a p).leaves (· ≠ true) s := by
  unfold reachHome
  split
  · exact Leaves.refl s
  · exact Got.leaves_bind (leaves_syncLine s _ _ _ _) fun _ _ _ => leaves_crossed _ _ _

theorem leaves_endAsk {kinds : Bool → Prop} (a : Acc) (p : Spot) : Leaves kinds s (s.endAsk a p) := by
  unfold State.endAsk
  split
  · exact .refl s
  · exact leaves_of_same (fun _ => rfl) fun _ => rfl

theorem leaves_askHost {kinds : Bool → Prop} (a : Acc) (va pa : Nat) (k : HostKind) : Leaves kinds s (askHost s a va pa k) := by
  unfold askHost
  split
  · exact .refl s
  · exact leaves_of_same (fun _ => rfl) fun _ => rfl

end

/-- Leaving some caches leaves what a translation rests on. -/
theorem Leaves.pages {kinds : Bool → Prop} {s t : State} (h : Leaves kinds s t) : LeavesPages s t := h.mono fun _ => False.elim

section
variable (s : State)

theorem leaves_homeWrite (asid va : Nat) (side : Bool) (pa cc : Nat) (bs : List (Nat × Byte)) :
    (homeWrite s asid va side pa cc bs).leaves (fun _ => False) s := by
  refine Got.leaves_bind (leaves_homeLine s _ _ _ _ _).pages fun t l _ => ?_
  extract_lets skip u v
  have hv : LeavesPages t v := by
    refine (leaves_putLine t _ _ _).pages.trans (t := u) ?_
    by_cases hc : cc = 2
    · rw [show v = _ from if_pos hc]
      exact (leaves_snoopCopies _ _ _).pages
    · rw [show v = u from if_neg hc]
      exact .refl u
  clear_value v
  show LeavesPages t _
  split
  · exact hv
  · exact hv.trans (leaves_fatalAsid _ _ _ _)

theorem leaves_readLine (a : Acc) (p : Spot) : (readLine s a p).leaves (fun _ => False) s := by
  have h := (leaves_lookLine s a.die true (s.ctx a.slot).asid (p.va / 128) p.side).pages
  unfold readLine
  dsimp only
  split
  · split <;> rename_i hl <;> rw [hl] at h
    · split
      · exact h.trans (leaves_askHost _ _ _ _ _)
      · exact h
    · exact h.trans (leaves_askHost _ _ _ _ _)
  split
  · exact Got.leaves_bind (leaves_reachHome s _ _).pages fun t _ _ => (leaves_homeLine t _ _ _ _ _).pages
  · split <;> rename_i hl <;> rw [hl] at h
    · exact h
    · exact Got.leaves_trans h (Got.leaves_bind (leaves_crossed _ _ _) fun t _ _ =>
        Got.leaves_bind (leaves_homeLine t _ _ _ _ _).pages fun u _ _ =>
          Got.leaves_bind (leaves_makeRoom u _ _ _).pages fun v _ _ =>
            (leaves_endAsk v _ _).trans (leaves_putLine _ _ _ _).pages)

theorem leaves_writeLine (a : Acc) (p : Spot) (bs : List Byte) : (writeLine s a p bs).leaves (fun _ => False) s := by
  unfold writeLine
  dsimp only
  split
  · exact Got.leaves_bind (leaves_reachHome s _ _).pages fun _ _ _ => leaves_homeWrite _ _ _ _ _ _ _
  · exact Got.leaves_bind (leaves_readLine s _ _) fun t _ _ => (leaves_putLine t _ _ _).pages

/-! ### What walks leave -/

variable {kinds : Bool → Prop}

theorem leaves_walkCached (die asid a : Nat) : Leaves kinds s (walkCached s die asid a).1 := by
  unfold walkCached
  extract_lets d mine
  split
  · exact .refl s
  split
  · exact .refl s
  · refine Leaves.trans ?_ (leaves_noteMem _ _ _ _ _)
    exact leaves_setDie rfl rfl rfl

theorem leaves_cacheWalk (die asid a e : Nat) : Leaves kinds s (s.cacheWalk die asid a e) := by
  unfold State.cacheWalk
  dsimp only
  split
  · exact .refl s
  · exact leaves_setDie rfl rfl rfl

theorem leaves_walkEntry (asid a va : Nat) : (walkEntry s asid a va).leaves kinds s := by
  have h := leaves_walkCached (kinds := kinds) s (homeDie va) asid a
  unfold walkEntry
  split <;> rename_i hw <;> rw [hw] at h
  · exact h
  · exact Got.leaves_trans h (leaves_physRead _ _ _ _ _)

theorem leaves_walkFrom (asid va : Nat) (fetch : Bool) (l : List Nat) (t : Nat) :
    (walkFrom asid va fetch l t s).leaves kinds s := by
  induction l generalizing t s with
  | nil => exact Leaves.refl s
  | cons lvl l ih =>
    rw [walkFrom]
    refine Got.leaves_bind (leaves_walkEntry s _ _ _) fun u e _ => ?_
    split
    · exact Leaves.refl u
    split
    · dsimp only
      split
      · exact Leaves.refl u
      · exact Got.leaves_trans (leaves_cacheWalk u _ _ _ _) (ih _ _)
    split <;> exact Leaves.refl u

end

end Sys2Proof.Machine
end

section
/-! The line that a cache holds for an access, and bytes written into it (R363, R365, R383, R417, R421). -/

open Sys2Proof Sys2Proof.Machine

namespace Sys2Proof.Machine

/-! ### The line that a cache holds of a tag (R363, R383) -/

/-- The first line of a tag in a cache is `l`, and its storage has no error. -/
structure Held (s : State) (die : Nat) (rdc : Bool) (asid va : Nat) (side : Bool) (l : Line) : Prop where
  find : (s.cache die rdc).find? (Line.tagged asid va side) = some l
  err : l.err = 0

/-- What a tag says. -/
theorem tagged_iff {asid va : Nat} {side : Bool} {l : Line} :
    Line.tagged asid va side l = true ↔ l.asid = asid ∧ l.va = va ∧ l.side = side := by
  simp only [Line.tagged, Bool.and_eq_true, decide_eq_true_eq, and_assoc]

/-- The only line of its tag, put at the end of a cache, is the first of its tag. -/
theorem find?_put {asid va : Nat} {side : Bool} {l : Line} (hl : Line.tagged asid va side l = true) (ls : List Line) :
    ((ls.filter fun k => !k.tagged l.asid l.va l.side) ++ [l]).find? (Line.tagged asid va side) = some l := by
  obtain ⟨rfl, rfl, rfl⟩ := tagged_iff.mp hl
  have hnone : (ls.filter fun k => !k.tagged l.asid l.va l.side).find? (Line.tagged l.asid l.va l.side) = none :=
    List.find?_eq_none.mpr fun k hk => by simpa using (List.mem_filter.mp hk).2
  rw [List.find?_append, hnone, Option.none_or, List.find?_singleton, if_pos hl]

section
variable {s t : State} {die : Nat} {rdc : Bool} {asid va : Nat} {side : Bool} {l : Line}

/-- The tag of a held line. -/
theorem Held.tag (h : Held s die rdc asid va side l) : l.asid = asid ∧ l.va = va ∧ l.side = side :=
  tagged_iff.mp (List.find?_some h.find)

/-- A line that is put is held. -/
theorem held_putLine (hl : Line.tagged asid va side l = true) (herr : l.err = 0) (s : State) (die : Nat) (rdc : Bool) :
    Held (s.putLine die rdc l) die rdc asid va side l := by
  refine ⟨?_, herr⟩
  rw [State.putLine, cache_setCache_self]
  exact find?_put hl _

/-- What leaves the caches of its kind leaves a held line. -/
theorem Held.leaves {kinds : Bool → Prop} (h : Held s die rdc asid va side l) (hleaves : Leaves kinds s t) (hrdc : kinds rdc) :
    Held t die rdc asid va side l := ⟨by rw [hleaves.lines rdc hrdc, h.find], h.err⟩

/-- A held line is found as it stands. -/
theorem Held.lookLine (h : Held s die rdc asid va side l) : s.lookLine die rdc asid va side = (s, some l) := by
  unfold State.lookLine
  rw [h.find]
  unfold State.meetLine
  dsimp only
  rw [h.err]
  rfl

/-- A line that is met without loss is held after it. -/
theorem held_meetLine (hfind : (s.cache die rdc).find? (Line.tagged asid va side) = some l) {k : Line}
    (h : s.meetLine die rdc l = (t, some k)) : Held t die rdc asid va side k := by
  have htag := List.find?_some hfind
  have hput (n m : Nat) : Held ((s.putLine die rdc { l with err := 0 }).noteMem die 0xAD l.asid n) die rdc asid va side
      { l with err := 0 } :=
    (held_putLine (l := { l with err := 0 }) htag rfl s die rdc).leaves (kinds := fun _ => True) (leaves_noteMem _ _ _ _ _) trivial
  unfold State.meetLine at h
  dsimp only at h
  split at h
  · next herr =>
    cases h
    exact ⟨hfind, herr⟩
  · cases h
    exact hput _ 0
  · cases h
    exact hput _ 0
  · split at h
    · cases h
    · cases h
  · cases h

/-- A line that is found is held after it. -/
theorem held_lookLine {k : Line} (h : s.lookLine die rdc asid va side = (t, some k)) : Held t die rdc asid va side k := by
  unfold State.lookLine at h
  split at h
  · cases h
  · next hfind => exact held_meetLine hfind h

variable {pa cc : Nat}

/-- The home L2 answers with the line that it holds. -/
theorem Held.homeLine (h : Held s (dieOf pa) false asid va side l) : homeLine s asid va side pa cc = .ok s l := by
  unfold Machine.homeLine
  dsimp only
  rw [h.lookLine]

/-- The line that the home L2 has answered with is held there. -/
theorem held_homeLine (h : homeLine s asid va side pa cc = .ok t l) : Held t (dieOf pa) false asid va side l := by
  unfold Machine.homeLine at h
  dsimp only at h
  split at h
  · next hlook =>
    cases h
    exact held_lookLine hlook
  · obtain ⟨u, d, -, h⟩ := Got.bind_eq_ok h
    obtain ⟨v, d', -, h⟩ := Got.bind_eq_ok h
    cases h
    exact held_putLine (tagged_iff.mpr ⟨rfl, rfl, rfl⟩) rfl _ _ _

end

/-! ### The line that an access finds (R363, R365) -/

/-- The cache that an access goes to: the L2 of the home of a location of device memory, or the RDC of its own die. -/
def place (a : Acc) (p : Spot) : Nat × Bool := if p.pa < hostBase && atHome a p then (dieOf p.pa, false) else (a.die, true)

/-- The cache that an access goes to holds the line `l` for it. -/
def HeldAt (s : State) (a : Acc) (p : Spot) (l : Line) : Prop :=
  Held s (place a p).1 (place a p).2 (s.ctx a.slot).asid (p.va / 128) p.side l

/-- The home of a line is that of its locations. -/
theorem dieOf_line (pa : Nat) : dieOf (pa - pa % 128) = dieOf pa := by
  have hdiv (i : Nat) : (pa - pa % 128) / 2 ^ (16 + i) = pa / 2 ^ (16 + i) := by
    rw [Nat.pow_add, ← Nat.div_div_eq_div_mul, ← Nat.div_div_eq_div_mul, show (pa - pa % 128) / 2 ^ 16 = pa / 2 ^ 16 by omega]
  have hparity : parityOf (pa - pa % 128) 16 25 = parityOf pa 16 25 := by simp only [parityOf, bitOf, hdiv]
  unfold dieOf
  rw [hparity]

section
variable {s t : State} {a : Acc} {p : Spot} {l : Line}

/-- What leaves the caches of its kind leaves the line of an access. -/
theorem HeldAt.leaves {kinds : Bool → Prop} (h : HeldAt s a p l) (hleaves : Leaves kinds s t) (hrdc : kinds (place a p).2) :
    HeldAt t a p l := by
  unfold HeldAt
  rw [hleaves.asid]
  exact Held.leaves h hleaves hrdc

/-- A location in the host's part of the address space is not at its home L2. -/
theorem place_host (h : hostBase ≤ p.pa) : place a p = (a.die, true) := by
  rw [place, if_neg (by simp [h])]

/-- A location of device memory at its home. -/
theorem place_home (h : p.pa < hostBase) (ha : atHome a p = true) : place a p = (dieOf p.pa, false) := by
  rw [place, if_pos (by simp [h, ha])]

/-- A location of device memory at the other die. -/
theorem place_away (ha : ¬atHome a p = true) : place a p = (a.die, true) := by
  rw [place, if_neg (by simp [ha])]

/-- The line that an access has read is held for it. -/
theorem heldAt_readLine (h : readLine s a p = .ok t l) : HeldAt t a p l := by
  have hasid : (t.ctx a.slot).asid = (s.ctx a.slot).asid := ((leaves_readLine s a p).ok h).asid a.slot
  unfold HeldAt
  rw [hasid]
  unfold readLine at h
  dsimp only at h
  split at h
  · next hhost =>
    rw [place_host hhost]
    split at h
    · next hlook =>
      split at h
      · cases h
      · cases h
        exact held_lookLine hlook
    · cases h
  · next hdev =>
    split at h
    · next hhome =>
      obtain ⟨u, x, -, h⟩ := Got.bind_eq_ok h
      rw [place_home (Nat.lt_of_not_le hdev) hhome]
      have hheld := held_homeLine h
      rwa [dieOf_line] at hheld
    · next hhome =>
      rw [place_away hhome]
      split at h
      · next hlook =>
        cases h
        exact held_lookLine hlook
      · obtain ⟨u, x, -, h⟩ := Got.bind_eq_ok h
        obtain ⟨v, k, hk, h⟩ := Got.bind_eq_ok h
        obtain ⟨w, y, -, h⟩ := Got.bind_eq_ok h
        cases h
        have hheld := held_homeLine hk
        exact held_putLine (l := { k with dirty := 0, locked := false }) (tagged_iff.mpr hheld.tag) hheld.err _ _ _

/-- An access reads the line that is held for it. -/
theorem HeldAt.readLine (h : HeldAt s a p l) {k : Line} (hread : readLine s a p = .ok t k) : k = l := by
  unfold HeldAt at h
  unfold Machine.readLine at hread
  dsimp only at hread
  split at hread
  · next hhost =>
    rw [place_host hhost] at h
    rw [h.lookLine] at hread
    dsimp only at hread
    split at hread
    · cases hread
    · cases hread
      rfl
  · next hdev =>
    split at hread
    · next hhome =>
      rw [place_home (Nat.lt_of_not_le hdev) hhome] at h
      obtain ⟨u, x, hu, hread⟩ := Got.bind_eq_ok hread
      have hheld := h.leaves ((leaves_reachHome s a p).ok hu) Bool.false_ne_true
      rw [← dieOf_line] at hheld
      rw [hheld.homeLine] at hread
      cases hread
      rfl
    · next hhome =>
      rw [place_away hhome] at h
      rw [h.lookLine] at hread
      cases hread
      rfl

end

/-! ### Bytes written into a line (R417, R421) -/

section
variable (l : Line) (w : List (Nat × Byte)) (skip : List Nat)

/-- The places of a write that its poisoned words do not keep out. -/
def taken : List (Nat × Byte) := w.filter fun p => !skip.contains (p.1 / 32)

/-- What a write of bytes leaves of a line. -/
theorem foldl_putByte_fields (w : List (Nat × Byte)) (l : Line) :
    Line.tagged l.asid l.va l.side (w.foldl Line.putByte l) = true ∧ (w.foldl Line.putByte l).err = l.err ∧
      (w.foldl Line.putByte l).poison = l.poison ∧
      (w.foldl Line.putByte l).bytes = w.foldl (fun m p => setByte m p.1 p.2) l.bytes := by
  induction w generalizing l with
  | nil => exact ⟨tagged_iff.mpr ⟨rfl, rfl, rfl⟩, rfl, rfl, rfl⟩
  | cons p w ih => exact ih (l.putByte p)

/-- A write keeps the tag of a line. -/
theorem put_tag : Line.tagged l.asid l.va l.side (l.put w skip) = true := (foldl_putByte_fields (taken w skip) l).1

/-- A write keeps the error mark of a line. -/
theorem put_err : (l.put w skip).err = l.err := (foldl_putByte_fields (taken w skip) l).2.1

/-- The bytes of a line after a write. -/
theorem put_bytes : (l.put w skip).bytes = (taken w skip).foldl (fun m p => setByte m p.1 p.2) l.bytes :=
  (foldl_putByte_fields (taken w skip) l).2.2.2

/-- A word that is not written whole stays poisoned. -/
theorem put_poison {k : Nat} (hk : l.poison.getLsbD k = true) (hpart : (w.filter fun p => p.1 / 32 = k).length ≠ 32) :
    (l.put w skip).poison.getLsbD k = true := by
  have hfold : ∀ (ws : List Nat) (m : BitVec 4), m.getLsbD k = true → (ws.foldl (fun m n =>
      if (w.filter fun p => p.1 / 32 = n).length = 32 then m &&& ~~~(1#4 <<< n) else m) m).getLsbD k = true := by
    intro ws
    induction ws with
    | nil => exact fun m hm => hm
    | cons n ws ih =>
      intro m hm
      refine ih _ ?_
      dsimp only
      split
      · next hwhole =>
        have hne : k ≠ n := fun he => hpart (he ▸ hwhole)
        have hlt : k < 4 := BitVec.lt_of_getLsbD hm
        simp only [BitVec.getLsbD_and, hm, BitVec.getLsbD_not, hlt, decide_true, Bool.true_and, BitVec.getLsbD_shiftLeft,
          BitVec.getLsbD_one, Bool.not_eq_true', Bool.and_eq_false_iff, Bool.not_eq_false', decide_eq_true_eq,
          decide_eq_false_iff_not]
        omega
      · exact hm
  exact hfold _ _ ((congrArg (·.getLsbD k) (foldl_putByte_fields (taken w skip) l).2.2.1).trans hk)

end

/-- A byte of a line after a write of a piece. -/
theorem getByte_put (l : Line) (off : Nat) (bs : List Byte) (skip : List Nat) (i : Nat) :
    getByte (l.put (placed off bs) skip).bytes i =
      if off ≤ i ∧ i < off + bs.length ∧ skip.contains (i / 32) = false then bs.getD (i - off) 0 else getByte l.bytes i := by
  have hplaces : ∀ p ∈ taken (placed off bs) skip, p.2 = bs.getD (p.1 - off) 0 := by
    intro p hp
    obtain ⟨j, -, rfl⟩ := mem_placed.mp (List.mem_filter.mp hp).1
    rw [Nat.add_sub_cancel_left]
  have hbyte := getByte_foldl_setByte (pa := 0) (g := fun j => bs.getD (j - off) 0) _ hplaces l.bytes i
  simp only [Nat.zero_add, Nat.sub_zero] at hbyte
  rw [put_bytes, hbyte]
  refine if_congr ⟨?_, ?_⟩ rfl rfl
  · rintro ⟨p, hp, rfl⟩
    obtain ⟨hp, hskip⟩ := List.mem_filter.mp hp
    obtain ⟨j, hj, rfl⟩ := mem_placed.mp hp
    exact ⟨Nat.le_add_right .., Nat.add_lt_add_left hj _, by simpa using hskip⟩
  · rintro ⟨hle, hlt, hskip⟩
    refine ⟨(i, bs.getD (i - off) 0), List.mem_filter.mpr ⟨mem_placed.mpr ⟨i - off, by omega, ?_⟩, ?_⟩, rfl⟩
    · rw [Nat.add_sub_cancel' hle]
    · rw [hskip]
      rfl

/-- A byte of a range. -/
theorem getElem_readBytes (m : Sparse Byte) (a n i : Nat) (hi : i < (readBytes m a n).length) :
    (readBytes m a n)[i] = getByte m (a + i) := by
  induction n generalizing a i with
  | zero => cases hi
  | succ n ih =>
    cases i with
    | zero => rfl
    | succ i => exact (ih (a + 1) i (Nat.lt_of_succ_lt_succ hi)).trans (by rw [Nat.add_right_comm, Nat.add_assoc])

/-- The words that a write skips: none, or the poisoned ones of which it writes a part. -/
def Skips (l : Line) (w : List (Nat × Byte)) (skip : List Nat) : Prop := skip = [] ∨ skip = l.partPoison w

section
variable {l : Line} {off : Nat} {bs : List Byte} {skip : List Nat}

/-- A range of which no word is skipped holds the bytes written. -/
theorem readBytes_put (hkept : ∀ i < bs.length, skip.contains ((off + i) / 32) = false) :
    readBytes (l.put (placed off bs) skip).bytes off bs.length = bs := by
  refine List.ext_getElem (length_readBytes _ _ _) fun i hi hlt => ?_
  have hbyte := getByte_put l off bs skip (off + i)
  rw [if_pos ⟨Nat.le_add_right .., Nat.add_lt_add_left hlt _, hkept i hlt⟩, Nat.add_sub_cancel_left,
    List.getD_eq_getElem _ _ hlt] at hbyte
  rw [getElem_readBytes, hbyte]

/-- A word of a range meets the range. -/
theorem rangesMeet_word {n i : Nat} (hi : i < n) : rangesMeet (32 * ((off + i) / 32)) 32 off n = true := by
  simp only [rangesMeet, Bool.and_eq_true, decide_eq_true_eq]
  omega

/-- A range that is not poisoned has no poisoned word. -/
theorem poison_of_not_poisoned {n w : Nat} (h : l.poisoned off n = false) (hw : w < 4)
    (hmeet : rangesMeet (32 * w) 32 off n = true) : l.poison.getLsbD w = false := by
  rw [Line.poisoned, List.any_eq_false] at h
  have hnot := h w (List.mem_range.mpr hw)
  rw [hmeet, Bool.and_true] at hnot
  exact Bool.eq_false_iff.mpr hnot

/-- A skipped word: it is poisoned, and only a part of it is written. -/
theorem mem_partPoison {w : List (Nat × Byte)} {k : Nat} (h : (l.partPoison w).contains k = true) :
    k < 4 ∧ l.poison.getLsbD k = true ∧ (w.filter fun p => p.1 / 32 = k).length ≠ 32 := by
  obtain ⟨hk, hbits⟩ := List.mem_filter.mp (List.contains_iff_mem.mp h)
  simp only [Bool.and_eq_true, decide_eq_true_eq] at hbits
  obtain ⟨⟨hpoison, -⟩, hpart⟩ := hbits
  exact ⟨List.mem_range.mp hk, hpoison, Nat.ne_of_lt hpart⟩

variable (hskip : Skips l (placed off bs) skip)
include hskip

/-- A range that is not poisoned after a write has been written whole. -/
theorem kept_of_safe_after (hsafe : (l.put (placed off bs) skip).poisoned off bs.length = false) :
    ∀ i < bs.length, skip.contains ((off + i) / 32) = false := by
  intro i hi
  refine Bool.eq_false_iff.mpr fun hc => ?_
  rcases hskip with rfl | rfl
  · cases hc
  · obtain ⟨hk, hpoison, hpart⟩ := mem_partPoison hc
    have hsafe := poison_of_not_poisoned hsafe hk (rangesMeet_word hi)
    rw [put_poison l _ _ hpoison hpart] at hsafe
    cases hsafe

/-- A range that is not poisoned before a write is written whole. -/
theorem kept_of_safe_before (hsafe : l.poisoned off bs.length = false) :
    ∀ i < bs.length, skip.contains ((off + i) / 32) = false := by
  intro i hi
  refine Bool.eq_false_iff.mpr fun hc => ?_
  rcases hskip with rfl | rfl
  · cases hc
  · obtain ⟨hk, hpoison, -⟩ := mem_partPoison hc
    rw [poison_of_not_poisoned hsafe hk (rangesMeet_word hi)] at hpoison
    cases hpoison

end

section
variable {s t : State} {a : Acc} {p : Spot} {l : Line} {bs : List Byte}

/-- A write at the home L2 changes the line that is held there. -/
theorem Held.homeWrite {asid va pa cc : Nat} {side : Bool} {w : List (Nat × Byte)} (h : Held s (dieOf pa) false asid va side l)
    (hwrite : homeWrite s asid va side pa cc w = .ok t ()) :
    Held t (dieOf pa) false asid va side (l.put w (l.partPoison w)) := by
  have htag : Line.tagged asid va side (l.put w (l.partPoison w)) = true := by
    obtain ⟨hasid, hva, hside⟩ := h.tag
    have hput := put_tag l w (l.partPoison w)
    rwa [hasid, hva, hside] at hput
  have hput := held_putLine htag ((put_err ..).trans h.err) s (dieOf pa) false
  unfold Machine.homeWrite at hwrite
  rw [h.homeLine, Got.bind_ok] at hwrite
  dsimp only at hwrite
  generalize hskip : l.partPoison w = skip at hwrite hput ⊢
  generalize s.putLine (dieOf pa) false (l.put w skip) = u at hwrite hput
  have hsnoop : Held (if cc = 2 then u.snoopCopies pa (w.filter fun p => !skip.contains (p.1 / 32)) else u) (dieOf pa) false asid va side
      (l.put w skip) := by
    split
    · exact hput.leaves (leaves_snoopCopies _ _ _) Bool.false_ne_true
    · exact hput
  generalize (if cc = 2 then u.snoopCopies pa (w.filter fun p => !skip.contains (p.1 / 32)) else u) = v at hwrite hsnoop
  cases hwrite
  split
  · exact hsnoop
  · exact hsnoop.leaves (kinds := fun _ => True) (leaves_fatalAsid _ _ _ _) trivial

/-- An access writes into the line that is held for it. -/
theorem HeldAt.writeLine (h : HeldAt s a p l) (hwrite : writeLine s a p bs = .ok t ()) :
    ∃ skip, Skips l (placed (p.va % 128) bs) skip ∧ HeldAt t a p (l.put (placed (p.va % 128) bs) skip) := by
  have hasid : (t.ctx a.slot).asid = (s.ctx a.slot).asid := ((leaves_writeLine s a p bs).ok hwrite).asid a.slot
  unfold HeldAt
  rw [hasid]
  unfold Machine.writeLine at hwrite
  dsimp only at hwrite
  split at hwrite
  · next hplace =>
    simp only [Bool.and_eq_true, decide_eq_true_eq] at hplace
    obtain ⟨hdev, hhome⟩ := hplace
    obtain ⟨u, x, hu, hwrite⟩ := Got.bind_eq_ok hwrite
    have hplace := place_home hdev hhome
    unfold HeldAt at h
    rw [hplace] at h ⊢
    have hheld := Held.leaves h ((leaves_reachHome s a p).ok hu) Bool.false_ne_true
    rw [← dieOf_line] at hheld
    refine ⟨_, .inr rfl, ?_⟩
    have hwritten := hheld.homeWrite hwrite
    rw [dieOf_line] at hwritten
    exact hwritten
  · next hplace =>
    obtain ⟨u, k, hk, hwrite⟩ := Got.bind_eq_ok hwrite
    cases h.readLine hk
    cases hwrite
    have hrdc : place a p = (a.die, true) := by
      unfold place
      exact if_neg hplace
    rw [hrdc]
    refine ⟨[], .inl rfl, ?_⟩
    have htag := Held.tag h
    have hput := put_tag l (placed (p.va % 128) bs) []
    rw [htag.1, htag.2.1, htag.2.2] at hput
    exact held_putLine hput ((put_err ..).trans (Held.err h)) _ _ _

end

end Sys2Proof.Machine
end

section
/-! Where accesses land, and what reads, writes and far atomics by virtual address do (R366, R375, R377, R403, R410). -/

open Sys2Proof Sys2Proof.Machine

namespace Sys2Proof.Machine

/-! ### Translations that a TLB holds (R366, R370) -/

/-- The TLB of the home die of an address translates it by `t`, without an error in any entry that covers it. -/
structure Hit (s : State) (asid va : Nat) (t : TlbEntry) : Prop where
  near : va / 2 ^ 57 = 0
  find : (s.die (homeDie va)).tlb.find? (fun e => e.covers asid va) = some t
  clean : ∀ e ∈ (s.die (homeDie va)).tlb, e.covers asid va = true → e.err = 0

section
variable {s s1 : State} {slot asid va : Nat} {fetch : Bool} {t : TlbEntry}

/-- What leaves the TLBs leaves a translation. -/
theorem Hit.leaves (h : Hit s asid va t) (hleaves : LeavesPages s s1) : Hit s1 asid va t := by
  refine ⟨h.near, ?_, fun e he => ?_⟩
  · rw [hleaves.tlb, h.find]
  · rw [hleaves.tlb] at he
    exact h.clean e he

/-- A translation that is there is found as it stands. -/
theorem Hit.translate (h : Hit s (s.ctx slot).asid va t) : translate s slot va fetch = .ok s t := by
  have hbad : (s.die (homeDie va)).tlb.filter (fun e => e.covers (s.ctx slot).asid va && e.err ≠ 0) = [] :=
    List.filter_eq_nil_iff.mpr fun e he => by
      cases hc : e.covers (s.ctx slot).asid va with
      | false => simp
      | true => simp [h.clean e he hc]
  unfold Machine.translate
  rw [if_neg (not_not_intro h.near)]
  dsimp only
  rw [hbad]
  simp only [List.isEmpty_nil, if_true, h.find]

/-- The page of a leaf covers the address that was walked for. -/
theorem covers_leafEntry (asid e lvl va : Nat) : (leafEntry asid e lvl va).covers asid va = true := by
  have hpos : 0 < pageSize lvl := by
    unfold pageSize
    split
    · decide
    · split <;> decide
  have hmod := Nat.mod_lt va hpos
  have hle := Nat.mod_le va (pageSize lvl)
  simp only [TlbEntry.covers, leafEntry, decide_true, Bool.true_and, Bool.and_eq_true]
  exact ⟨decide_eq_true (Nat.sub_le ..), decide_eq_true (by omega)⟩

/-- A walk that succeeds gives an entry for the address, without an error. -/
theorem walkFrom_ok {l : List Nat} {a : Nat} (h : walkFrom asid va fetch l a s = .ok s1 t) :
    t.covers asid va = true ∧ t.err = 0 := by
  induction l generalizing a s with
  | nil => cases h
  | cons lvl l ih =>
    rw [walkFrom] at h
    obtain ⟨u, e, -, h⟩ := Got.bind_eq_ok h
    split at h
    · cases h
    split at h
    · dsimp only at h
      split at h
      · cases h
      · exact ih h
    split at h
    · cases h
    · cases h
      exact ⟨covers_leafEntry _ _ _ _, rfl⟩

/-- The TLB of a die without the errors of the entries that cover an address: those of an uncorrectable error are dropped. -/
def cleaned (asid va : Nat) (tlb : List TlbEntry) : List TlbEntry :=
  (tlb.filter fun e => !(e.covers asid va && e.err = 2)).map fun e => if e.covers asid va then { e with err := 0 } else e

/-- No covering entry of a cleaned TLB has an error. -/
theorem err_of_mem_cleaned {tlb : List TlbEntry} {e : TlbEntry} (he : e ∈ cleaned asid va tlb)
    (hcovers : e.covers asid va = true) : e.err = 0 := by
  obtain ⟨f, -, rfl⟩ := List.mem_map.mp he
  split
  · rfl
  · next hnot =>
    rw [if_neg hnot] at hcovers
    exact absurd hcovers hnot

/-- The last step of a translation at a die, for a context: the entry that the TLB holds, or the one that the walk finds. -/
def lookup (die asid : Nat) (s : State) (slot va : Nat) (fetch : Bool) : Got TlbEntry :=
  match (s.die die).tlb.find? fun e => e.covers asid va with
  | some e => .ok s e
  | none =>
    if (s.ctx slot).root = 0 then .fail s (walkFault va fetch 3 0)
    else (walkFrom asid va fetch [0, 1, 2, 3, 4] (s.ctx slot).root s).bind fun s e =>
      .ok (s.setDie die { s.die die with tlb := (s.die die).tlb ++ [e] }) e

section
variable {die : Nat}

/-- The entry that the TLB holds. -/
theorem lookup_some (h : (s.die die).tlb.find? (fun e => e.covers asid va) = some t) :
    lookup die asid s slot va fetch = .ok s t := by
  rw [lookup, h]

/-- The entry that the walk finds. -/
theorem lookup_none (h : (s.die die).tlb.find? (fun e => e.covers asid va) = none) :
    lookup die asid s slot va fetch = if (s.ctx slot).root = 0 then .fail s (walkFault va fetch 3 0)
      else (walkFrom asid va fetch [0, 1, 2, 3, 4] (s.ctx slot).root s).bind fun s e =>
        .ok (s.setDie die { s.die die with tlb := (s.die die).tlb ++ [e] }) e := by
  rw [lookup, h]

/-- A look-up that succeeds is there after it. -/
theorem hit_lookup (h : lookup die asid s slot va fetch = .ok s1 t)
    (hclean : ∀ e ∈ (s.die die).tlb, e.covers asid va = true → e.err = 0) :
    (s1.die die).tlb.find? (fun e => e.covers asid va) = some t ∧
    (∀ e ∈ (s1.die die).tlb, e.covers asid va = true → e.err = 0) ∧ ∀ k, (s1.ctx k).asid = (s.ctx k).asid := by
  cases hfind : (s.die die).tlb.find? fun e => e.covers asid va with
  | some e =>
    rw [lookup_some hfind] at h
    cases h
    exact ⟨hfind, hclean, fun _ => rfl⟩
  | none =>
    rw [lookup_none hfind] at h
    split at h
    · cases h
    · obtain ⟨w, e, hw, h⟩ := Got.bind_eq_ok h
      cases h
      have hleaves := (leaves_walkFrom (kinds := fun _ => False) s _ va fetch _ _).ok hw
      obtain ⟨hcovers, herr⟩ := walkFrom_ok hw
      refine ⟨?_, fun f hf hc => ?_, fun k => by rw [State.setDie_ctx, hleaves.asid]⟩
      · rw [State.setDie_die_self]
        dsimp only
        rw [hleaves.tlb, List.find?_append, hfind, Option.none_or, List.find?_singleton, if_pos hcovers]
      · rw [State.setDie_die_self] at hf
        dsimp only at hf
        rcases List.mem_append.mp hf with hf | hf
        · rw [hleaves.tlb] at hf
          exact hclean f hf hc
        · cases List.mem_singleton.mp hf
          exact herr

end

/-- Notes change no context. -/
theorem ctx_noteMem (s : State) (die code asid info k : Nat) : (s.noteMem die code asid info).ctx k = s.ctx k :=
  (congrArg (fun s : State => s.ctx k) (noteMem_unnoted s die code asid info) :)

/-- A translation looks up the address once the covering entries have no error. -/
theorem translate_eq (hnear : va / 2 ^ 57 = 0) : ∃ u, translate s slot va fetch = lookup (homeDie va) (s.ctx slot).asid u slot va fetch ∧
    (∀ k, (u.ctx k).asid = (s.ctx k).asid) ∧
    ∀ e ∈ (u.die (homeDie va)).tlb, e.covers (s.ctx slot).asid va = true → e.err = 0 := by
  unfold translate
  rw [if_neg (not_not_intro hnear)]
  generalize homeDie va = die
  dsimp only
  by_cases hbad : ((s.die die).tlb.filter fun e => e.covers (s.ctx slot).asid va && e.err ≠ 0) = []
  · rw [if_pos (List.isEmpty_iff.mpr hbad)]
    refine ⟨s, ?_, fun _ => rfl, fun e he hc => ?_⟩
    · split
      · next e hfind => exact (lookup_some hfind).symm
      · next hfind => exact (lookup_none hfind).symm
    · have hnot := List.filter_eq_nil_iff.mp hbad e he
      simpa [hc] using hnot
  · rw [if_neg (mt List.isEmpty_iff.mp hbad)]
    refine ⟨(s.setDie die { s.die die with tlb := cleaned (s.ctx slot).asid va (s.die die).tlb }).noteMem die 0xAD
      (s.ctx slot).asid 4, ?_, fun k => by rw [ctx_noteMem, State.setDie_ctx], fun e he hc => ?_⟩
    · split
      · next e hfind => exact (lookup_some hfind).symm
      · next hfind => exact (lookup_none hfind).symm
    · rw [(leaves_noteMem (kinds := fun _ => False) _ die 0xAD (s.ctx slot).asid 4).tlb, State.setDie_die_self] at he
      exact err_of_mem_cleaned he hc

/-- A translation that succeeds is there after it. -/
theorem hit_translate (h : translate s slot va fetch = .ok s1 t) :
    Hit s1 (s1.ctx slot).asid va t ∧ ∀ k, (s1.ctx k).asid = (s.ctx k).asid := by
  by_cases hnear : va / 2 ^ 57 = 0
  case neg =>
    unfold translate at h
    rw [if_pos hnear] at h
    cases h
  obtain ⟨u, hu, hasid, hclean⟩ := translate_eq (s := s) (slot := slot) (fetch := fetch) hnear
  rw [hu] at h
  obtain ⟨hfind, hclean, hsame⟩ := hit_lookup h hclean
  have hkept (k : Nat) := (hsame k).trans (hasid k)
  rw [← hkept] at hfind hclean
  exact ⟨⟨hnear, hfind, hclean⟩, hkept⟩

end

/-! ### Where an access lands, and where a later one does (R375, R410) -/

/-- The side of a page that an access takes, and the access with the side noted. -/
def sideTaken (s : State) (a : Acc) (t : TlbEntry) : Bool × Acc := if t.sh then takeSide s a t.pti else (false, a)

/-- The place that an access with a translation lands at. -/
def spotOf (va : Nat) (t : TlbEntry) (side : Bool) : Spot :=
  ⟨va, t.pa + (va - t.va) + (if side then 3 * t.size else 0), homeDie va, t.cc, side, t.sh, t.pti⟩

/-- Taking a side changes only the sides of an access. -/
theorem sideTaken_acc (s : State) (a : Acc) (t : TlbEntry) : (sideTaken s a t).2.die = a.die ∧
    (sideTaken s a t).2.slot = a.slot ∧ (sideTaken s a t).2.pkg = a.pkg := by
  unfold sideTaken takeSide
  split
  · split
    · exact ⟨rfl, rfl, rfl⟩
    · exact ⟨rfl, rfl, rfl⟩
  · exact ⟨rfl, rfl, rfl⟩

/-- A later access that has the sides of an earlier one takes its side. -/
theorem sideTaken_again {s s1 : State} {a b : Acc} {t : TlbEntry} (hsides : b.sides = (sideTaken s a t).2.sides) :
    (sideTaken s1 b t).1 = (sideTaken s a t).1 := by
  cases hsh : t.sh with
  | false => simp [sideTaken, hsh]
  | true =>
    simp only [sideTaken, hsh, if_true] at hsides ⊢
    cases hlook : look a.sides t.pti with
    | some x =>
      rw [takeSide_some hlook] at hsides ⊢
      rw [takeSide_some (hsides ▸ hlook)]
    | none =>
      have hnoted := (takeSide_none (s := s) hlook).2
      rw [← hsides] at hnoted
      rw [takeSide_some hnoted]

section
variable {s s0 : State} {a a1 : Acc} {va : Nat} {p : Spot}

/-- An access that lands has a translation. -/
theorem resolve_ok (h : resolve s a va = .ok s0 (p, a1)) : ∃ t, translate s a.slot va a.px = .ok s0 t ∧
    p = spotOf va t (sideTaken s0 a t).1 ∧ a1 = (sideTaken s0 a t).2 := by
  unfold resolve at h
  obtain ⟨u, t, ht, h⟩ := Got.bind_eq_ok h
  dsimp only at h
  split at h
  · cases h
  split at h
  · cases h
  split at h
  · cases h
  split at h
  · cases h
  · obtain ⟨rfl, hp⟩ := Got.ok.inj h
    obtain ⟨rfl, rfl⟩ := Prod.mk.inj hp
    exact ⟨t, ht, rfl, rfl⟩

/-- The place of an access has its address. -/
theorem resolve_va (h : resolve s a va = .ok s0 (p, a1)) : p.va = va := by
  obtain ⟨t, -, rfl, -⟩ := resolve_ok h
  rfl

/-- An access that lands is of the same die, context and scope of homes. -/
theorem resolve_acc (h : resolve s a va = .ok s0 (p, a1)) : a1.die = a.die ∧ a1.slot = a.slot ∧ a1.pkg = a.pkg := by
  obtain ⟨t, -, -, rfl⟩ := resolve_ok h
  exact sideTaken_acc s0 a t

/-- A landing changes no context's number. -/
theorem resolve_asid (h : resolve s a va = .ok s0 (p, a1)) (k : Nat) : (s0.ctx k).asid = (s.ctx k).asid := by
  obtain ⟨t, ht, -, -⟩ := resolve_ok h
  exact (hit_translate ht).2 k

/-- A later access of the same view lands at the same place, and its landing changes nothing. -/
theorem resolve_again (h : resolve s a va = .ok s0 (p, a1)) {s1 s2 : State} (hpages : LeavesPages s0 s1) {b b1 : Acc}
    {q : Spot} (hview : sameView a b a1.sides) (hb : resolve s1 b va = .ok s2 (q, b1)) :
    s2 = s1 ∧ q = p ∧ b1.die = a1.die ∧ b1.slot = a1.slot ∧ b1.pkg = a1.pkg := by
  obtain ⟨t, ht, rfl, rfl⟩ := resolve_ok h
  obtain ⟨u, hu, rfl, rfl⟩ := resolve_ok hb
  obtain ⟨hdie, hslot, hpkg, -, hsides⟩ := hview
  have hhit := (hit_translate ht).1.leaves hpages
  rw [← hpages.asid, ← hslot] at hhit
  obtain ⟨rfl, rfl⟩ := Got.ok.inj (hu.symm.trans hhit.translate)
  obtain ⟨hdie1, hslot1, hpkg1⟩ := sideTaken_acc s0 a u
  obtain ⟨hdie2, hslot2, hpkg2⟩ := sideTaken_acc _ b u
  exact ⟨rfl, by rw [sideTaken_again hsides], by rw [hdie1, hdie2, hdie], by rw [hslot1, hslot2, hslot],
    by rw [hpkg1, hpkg2, hpkg]⟩

end

/-- Accesses of the same die, context and scope of homes go to the same line. -/
theorem heldAt_congr {s : State} {a b : Acc} (hdie : b.die = a.die) (hslot : b.slot = a.slot) (hpkg : b.pkg = a.pkg)
    (p : Spot) (l : Line) : HeldAt s b p l ↔ HeldAt s a p l := by
  have hplace : place b p = place a p := by
    unfold place atHome
    rw [hdie, hpkg]
  unfold HeldAt
  rw [hplace, hslot]

/-! ### Accesses inside one line (R377, R403) -/

section
variable {s s0 s1 : State} {a a1 a2 : Acc} {va : Nat} {p : Spot}

/-- Below the expander window an access goes to lines. -/
theorem not_expander (hpa : p.pa < 2 ^ 46) : p.expander = false := by
  have hbase : expanderBase = 2 ^ 46 := by decide
  unfold Spot.expander
  exact decide_eq_false (by omega)

/-- The one piece of an access inside a line is ready once its line has been read. -/
theorem readyAll_line {q : Piece} (hva : q.va = va) (hres : resolve s a va = .ok s0 (p, a1)) (hpa : p.pa < 2 ^ 46)
    {ps : List (Spot × Piece)} (h : readyAll [q] s a = .ok s1 (ps, a2, true)) :
    ∃ l, readLine s0 a1 p = .ok s1 l ∧ ps = [(p, q)] ∧ a2 = a1 := by
  unfold readyAll at h
  rw [hva, hres, Got.bind_ok] at h
  dsimp only at h
  obtain ⟨u, r, hr, h⟩ := Got.bind_eq_ok h
  obtain ⟨rfl, hresult⟩ := Got.ok.inj (h : Got.ok u ([(p, q)], a1, r && true) = Got.ok s1 (ps, a2, true))
  simp only [Prod.mk.injEq, Bool.and_true] at hresult
  obtain ⟨rfl, rfl, rfl⟩ := hresult
  unfold readyPart at hr
  rw [if_neg (by simp [not_expander hpa])] at hr
  split at hr
  · next hread =>
    cases hr
    exact ⟨_, hread, rfl, rfl⟩
  · cases hr
  · cases hr

/-- A write inside a line reads the line and writes into it. -/
theorem gwrite_line {bs : List Byte} (hbs : bs.length ≠ 0) (hline : va % 128 + bs.length ≤ 128)
    (hres : resolve s a va = .ok s0 (p, a1)) (hpa : p.pa < 2 ^ 46) (h : s.gwrite a va bs = .ok s1 a2) :
    ∃ u l, readLine s0 a1 p = .ok u l ∧ writeLine u a1 p bs = .ok s1 () := by
  unfold State.gwrite at h
  rw [pieces_line hbs hline] at h
  obtain ⟨u, ⟨ps, a3, ok⟩, hready, h⟩ := Got.bind_eq_ok h
  dsimp only at h
  cases ok with
  | false => cases h
  | true =>
    obtain ⟨l, hread, rfl, rfl⟩ := readyAll_line rfl hres hpa hready
    rw [if_pos rfl] at h
    obtain ⟨v, x, hwrite, h⟩ := Got.bind_eq_ok h
    cases h
    unfold writeParts at hwrite
    rw [if_neg (by simp [not_expander hpa]), List.take_length] at hwrite
    obtain ⟨w, y, hw, hwrite⟩ := Got.bind_eq_ok hwrite
    cases hwrite
    exact ⟨u, l, hread, hw⟩

/-- A read inside a line reads the line, and reads it again for the bytes. -/
theorem gread_line {n : Nat} (hn : n ≠ 0) (hline : va % 128 + n ≤ 128) {got : List Byte}
    (h : s.gread a va n = .ok s1 (got, a2)) : ∃ s0 p a1, resolve s a va = .ok s0 (p, a1) ∧ (p.pa < 2 ^ 46 →
      ∃ u l k, readLine s0 a1 p = .ok u l ∧ readLine u a1 p = .ok s1 k ∧ k.poisoned (p.va % 128) n = false ∧
        got = readBytes k.bytes (p.va % 128) n) := by
  unfold State.gread at h
  rw [pieces_line hn hline] at h
  obtain ⟨u, ⟨ps, a3, ok⟩, hready, h⟩ := Got.bind_eq_ok h
  have hres : ∃ s0 p a1, resolve s a va = .ok s0 (p, a1) := by
    unfold readyAll at hready
    obtain ⟨s0, ⟨p, a1⟩, hres, -⟩ := Got.bind_eq_ok hready
    exact ⟨s0, p, a1, hres⟩
  obtain ⟨s0, p, a1, hres⟩ := hres
  refine ⟨s0, p, a1, hres, fun hpa => ?_⟩
  dsimp only at h
  cases ok with
  | false => cases h
  | true =>
    obtain ⟨l, hread, rfl, rfl⟩ := readyAll_line rfl hres hpa hready
    rw [if_pos rfl] at h
    obtain ⟨v, bs, hparts, h⟩ := Got.bind_eq_ok h
    cases h
    unfold readParts at hparts
    obtain ⟨w, bs, hpart, hparts⟩ := Got.bind_eq_ok hparts
    obtain ⟨x, more, hmore, hparts⟩ := Got.bind_eq_ok hparts
    cases hmore
    cases hparts
    unfold readPart at hpart
    rw [if_neg (by simp [not_expander hpa])] at hpart
    obtain ⟨y, k, hk, hpart⟩ := Got.bind_eq_ok hpart
    split at hpart
    · cases hpart
    · next hsafe =>
      cases hpart
      exact ⟨u, l, k, hread, hk, Bool.eq_false_iff.mpr hsafe, List.append_nil _⟩

/-- A read of nothing gives nothing. -/
theorem gread_nothing {got : List Byte} (h : s.gread a va 0 = .ok s1 (got, a2)) : got = [] := by
  unfold State.gread at h
  obtain ⟨u, ⟨ps, a3, ok⟩, hready, h⟩ := Got.bind_eq_ok h
  have hps : ps = [] ∧ ok = true := by
    cases hready
    exact ⟨rfl, rfl⟩
  obtain ⟨rfl, rfl⟩ := hps
  dsimp only at h
  rw [if_pos rfl] at h
  cases h
  rfl

/-- A read inside a line returns the bytes of the line that is held for an earlier access of the same view. -/
theorem gread_held (hres : resolve s a va = .ok s0 (p, a1)) (hpa : p.pa < 2 ^ 46) (hpages : LeavesPages s0 s1) {l : Line}
    (hheld : HeldAt s1 a1 p l) {b a3 : Acc} (hview : sameView a b a1.sides) {n : Nat} (hn : n ≠ 0) (hline : va % 128 + n ≤ 128)
    {s2 : State} {got : List Byte} (h : s1.gread b va n = .ok s2 (got, a3)) :
    l.poisoned (va % 128) n = false ∧ got = readBytes l.bytes (va % 128) n := by
  obtain ⟨u, q, b1, hb, hread⟩ := gread_line hn hline h
  obtain ⟨rfl, rfl, hdie, hslot, hpkg⟩ := resolve_again hres hpages hview hb
  obtain ⟨v, k, m, hk, hm, hsafe, rfl⟩ := hread hpa
  have hfirst := ((heldAt_congr hdie hslot hpkg _ _).mpr hheld).readLine hk
  rw [hfirst] at hk
  have hsecond := (heldAt_readLine hk).readLine hm
  rw [hsecond, resolve_va hb] at hsafe ⊢
  exact ⟨hsafe, rfl⟩

end

/-! ### Reads after writes and far atomics (R377, R403, R410) -/

section
variable {s s0 s1 : State} {a a1 a2 : Acc} {va : Nat} {p : Spot} (hres : resolve s a va = .ok s0 (p, a1)) (hpa : p.pa < 2 ^ 46)
include hres hpa

/-- A read after a write there returns the bytes written. -/
theorem gread_gwrite {bs : List Byte} (hline : va % 128 + bs.length ≤ 128) (h : s.gwrite a va bs = .ok s1 a2) {b a3 : Acc}
    (hview : sameView a b a1.sides) {s2 : State} {got : List Byte} (hread : s1.gread b va bs.length = .ok s2 (got, a3)) :
    got = bs := by
  by_cases hbs : bs.length = 0
  · rw [hbs] at hread
    rw [gread_nothing hread, List.length_eq_zero_iff.mp hbs]
  · obtain ⟨u, l, hl, hwrite⟩ := gwrite_line hbs hline hres hpa h
    obtain ⟨skip, hskip, hheld⟩ := (heldAt_readLine hl).writeLine hwrite
    have hpages : LeavesPages s0 s1 := ((leaves_readLine s0 a1 p).ok hl).trans ((leaves_writeLine u a1 p bs).ok hwrite)
    obtain ⟨hsafe, rfl⟩ := gread_held hres hpa hpages hheld hview hbs hline hread
    rw [resolve_va hres] at hskip hsafe ⊢
    exact readBytes_put (kept_of_safe_after hskip hsafe)

variable {n op v c old : Nat} {f : Nat → Nat} (hline : va % 128 + n ≤ 128) (h : s.gatomic a va n op v c f = .ok s1 old)
include h

/-- A far atomic reads its line, marks the page as accessed, and writes the operation's value. -/
theorem gatomic_line : ∃ u w l, readLine s0 a1 p = .ok u l ∧ l.poisoned (va % 128) n = false ∧
    LeavesAll u w ∧ writeLine w a1 p (natToBytes n (f old)) = .ok s1 () ∧ old = readLE l.bytes (va % 128) n := by
  unfold State.gatomic at h
  rw [hres, Got.bind_ok] at h
  dsimp only at h
  rw [if_neg (by simp [not_expander hpa])] at h
  obtain ⟨u, l, hl, h⟩ := Got.bind_eq_ok h
  split at h
  · cases h
  · next hsafe =>
    obtain ⟨x, y, hwrite, h⟩ := Got.bind_eq_ok h
    cases h
    refine ⟨u, _, l, hl, Bool.eq_false_iff.mpr hsafe, ?_, hwrite, rfl⟩
    split
    · exact leaves_setDie rfl rfl rfl
    · exact .refl u

/-- A far atomic leaves its line with the operation's value. -/
theorem gatomic_held : ∃ k, LeavesPages s0 s1 ∧ HeldAt s1 a1 p k ∧ readBytes k.bytes (va % 128) n = natToBytes n (f old) := by
  obtain ⟨u, w, l, hl, hsafe, hleaves, hwrite, -⟩ := gatomic_line hres hpa h
  obtain ⟨skip, hskip, hheld⟩ := ((heldAt_readLine hl).leaves hleaves trivial).writeLine hwrite
  rw [resolve_va hres] at hskip hheld
  have hlength : (natToBytes n (f old)).length = n := by simp
  rw [← hlength] at hsafe
  have hbytes := readBytes_put (l := l) (kept_of_safe_before hskip hsafe)
  rw [hlength] at hbytes
  exact ⟨_, (((leaves_readLine s0 a1 p).ok hl).trans hleaves.pages).trans ((leaves_writeLine w a1 p _).ok hwrite), hheld, hbytes⟩

include hline

/-- A far atomic takes the value that a read would have returned. -/
theorem gatomic_takes {s2 : State} {got : List Byte} (hread : s.gread a va n = .ok s2 (got, a2)) : old = bytesToNat got := by
  obtain ⟨u, w, l, hl, -, -, -, rfl⟩ := gatomic_line hres hpa h
  rw [readLE_eq]
  by_cases hn : n = 0
  · subst hn
    rw [gread_nothing hread]
    rfl
  · obtain ⟨t, q, b1, hb, hlines⟩ := gread_line hn hline hread
    cases hres.symm.trans hb
    obtain ⟨x, k, m, hk, hm, -, rfl⟩ := hlines hpa
    cases hl.symm.trans hk
    rw [(heldAt_readLine hk).readLine hm, resolve_va hres]

/-- A read after a far atomic returns its operation's value. -/
theorem gread_gatomic {b a3 : Acc} (hview : sameView a b a1.sides) {s2 : State} {got : List Byte}
    (hread : s1.gread b va n = .ok s2 (got, a3)) : got = natToBytes n (f old) := by
  by_cases hn : n = 0
  · subst hn
    rw [gread_nothing hread]
    rfl
  · obtain ⟨k, hpages, hheld, hbytes⟩ := gatomic_held hres hpa h
    obtain ⟨-, rfl⟩ := gread_held hres hpa hpages hheld hview hn hline hread
    exact hbytes

omit hline in
/-- The value of a far atomic stands at the home L2 of a location of device memory. -/
theorem gatomic_home (hhome : p.home = a.die ∨ a.pkg = true) (hdev : p.pa < 2 ^ 41) : ∃ l ∈ s1.cache (dieOf p.pa) false,
    Line.tagged (s.ctx a.slot).asid (va / 128) p.side l = true ∧
    readBytes l.bytes (va % 128) n = natToBytes n (f old) := by
  obtain ⟨k, hpages, hheld, hbytes⟩ := gatomic_held hres hpa h
  obtain ⟨hdie, hslot, hpkg⟩ := resolve_acc hres
  have hbase : hostBase = 2 ^ 41 := by decide
  have hplace : place a1 p = (dieOf p.pa, false) := place_home (hbase ▸ hdev) (by
    rw [atHome, hdie, hpkg, Bool.or_eq_true, decide_eq_true_eq]
    exact hhome)
  unfold HeldAt at hheld
  rw [hplace, hslot, hpages.asid, resolve_asid hres, resolve_va hres] at hheld
  exact ⟨k, List.mem_of_find?_eq_some hheld.find, List.find?_some hheld.find, hbytes⟩

end

/-- What accesses by virtual address come to (R365, R375, R377, R400, R403, R410). -/
theorem globalAccesses : Claim.GlobalAccesses := by
  intro s a va s0 p a1 hres hpa
  refine ⟨fun bs s1 a2 b s2 got a3 hline hwrite hview hread => gread_gwrite hres hpa hline hwrite hview hread,
    fun n op v c f s1 old hline h => ⟨fun s2 got a2 hread => gatomic_takes hres hpa hline h hread,
      fun b s2 got a2 hview hread => gread_gatomic hres hpa hline h hview hread,
      fun hhome hdev => gatomic_home hres hpa h hhome hdev⟩⟩

end Sys2Proof.Machine
end

section
/-! Reads, writes, fills and write-backs of lines at their home (R363 to R365, R383, R417, R421). -/

open Sys2Proof Sys2Proof.Machine

namespace Sys2Proof.Machine

/-! ### Lines of device memory at their home (R363 to R365, R383, R417, R421) -/

section
variable {s : State} {a : Acc} {p : Spot} {l : Line}

/-- The line of an access at its own home. -/
theorem HomeLine.held (h : HomeLine s a p l) : Held s (dieOf (p.pa - p.pa % 128)) false (s.ctx a.slot).asid (p.va / 128) p.side l := by
  rw [dieOf_line]
  exact ⟨h.here, h.clean.1⟩

/-- An access at its own home reads what the home L2 answers. -/
theorem readLine_home (hhome : p.home = a.die) (hdev : p.pa < 2 ^ 41) :
    readLine s a p = homeLine s (s.ctx a.slot).asid (p.va / 128) p.side (p.pa - p.pa % 128) p.cc := by
  have hbase : hostBase = 2 ^ 41 := by decide
  have hat : atHome a p = true := by simp [atHome, hhome]
  unfold readLine reachHome
  dsimp only
  rw [if_neg (by omega), if_pos hat, if_pos hhome, Got.bind_ok]

/-- An access at its own home writes as the home L2 does. -/
theorem writeLine_home (hhome : p.home = a.die) (hdev : p.pa < 2 ^ 41) (bs : List Byte) : writeLine s a p bs =
    homeWrite s (s.ctx a.slot).asid (p.va / 128) p.side (p.pa - p.pa % 128) p.cc (placed (p.va % 128) bs) := by
  have hbase : hostBase = 2 ^ 41 := by decide
  have hat : atHome a p = true := by simp [atHome, hhome]
  unfold writeLine reachHome
  dsimp only
  rw [if_pos (by rw [Bool.and_eq_true, decide_eq_true_eq]; exact ⟨hbase ▸ hdev, hat⟩), if_pos hhome, Got.bind_ok]
  rfl

/-- A read at the home returns the line that the home L2 holds. -/
theorem HomeLine.readLine (h : HomeLine s a p l) : readLine s a p = .ok s l := by
  rw [readLine_home h.home h.dev, h.held.homeLine]

/-- The line after a write of bytes at the home. -/
def lineWritten (p : Spot) (l : Line) (bs : List Byte) : Line := l.put (placed (p.va % 128) bs) []

/-- A write at the home of a line without poison, of a class that copies do not follow, puts the line. -/
theorem HomeLine.writeLine (h : HomeLine s a p l) (hcc : p.cc ≠ 2) (bs : List Byte) :
    writeLine s a p bs = .ok (s.putLine (dieOf p.pa) false (lineWritten p l bs)) () := by
  have hskip : l.partPoison (placed (p.va % 128) bs) = [] :=
    List.filter_eq_nil_iff.mpr fun w _ => by simp [h.clean.2]
  rw [writeLine_home h.home h.dev, homeWrite, h.held.homeLine, Got.bind_ok]
  dsimp only
  rw [hskip, dieOf_line, if_neg hcc, if_pos List.isEmpty_nil, lineWritten]

/-- The line that has been written has the tag of the access. -/
theorem HomeLine.written_tag (h : HomeLine s a p l) (bs : List Byte) :
    Line.tagged (lineWritten p l bs).asid (lineWritten p l bs).va (lineWritten p l bs).side =
      Line.tagged (s.ctx a.slot).asid (p.va / 128) p.side := by
  obtain ⟨hasid, hva, hside⟩ := tagged_iff.mp (put_tag l (placed (p.va % 128) bs) [])
  obtain ⟨hasid', hva', hside'⟩ := tagged_iff.mp (List.find?_some h.here)
  rw [lineWritten, hasid, hva, hside, hasid', hva', hside']

/-- The line that has been written is at the home. -/
theorem HomeLine.written (h : HomeLine s a p l) (bs : List Byte) :
    HomeLine (s.putLine (dieOf p.pa) false (lineWritten p l bs)) a p (lineWritten p l bs) := by
  have htag := List.find?_some h.here
  have hput := put_tag l (placed (p.va % 128) bs) []
  rw [(tagged_iff.mp htag).1, (tagged_iff.mp htag).2.1, (tagged_iff.mp htag).2.2] at hput
  have hheld := held_putLine hput ((put_err ..).trans h.clean.1) s (dieOf p.pa) false
  have hasid := (leaves_putLine s (dieOf p.pa) false (lineWritten p l bs)).asid a.slot
  refine ⟨h.home, h.dev, ?_, hheld.err, ?_⟩
  · rw [hasid]
    exact hheld.find
  · have hclear : ∀ (ws : List Nat) (m : BitVec 4), m = 0 → (ws.foldl (fun m n =>
        if ((placed (p.va % 128) bs).filter fun q => q.1 / 32 = n).length = 32 then m &&& ~~~(1#4 <<< n) else m) m) = 0 := by
      intro ws
      induction ws with
      | nil => exact fun m hm => hm
      | cons n ws ih =>
        intro m hm
        refine ih _ ?_
        subst hm
        dsimp only
        split
        · exact BitVec.zero_and
        · rfl
    refine hclear _ _ ?_
    exact (foldl_putByte_fields (taken (placed (p.va % 128) bs) []) l).2.2.1.trans h.clean.2

/-- A line of a new tag is put at the end. -/
theorem cache_putLine_new {die : Nat} {rdc : Bool} (h : ∀ k ∈ s.cache die rdc, Line.tagged l.asid l.va l.side k = false) :
    (s.putLine die rdc l).cache die rdc = s.cache die rdc ++ [l] := by
  rw [State.putLine, cache_setCache_self, List.filter_eq_self.mpr fun k hk => by rw [h k hk]; rfl]

/-- The lines to be locked again are none of a cache. -/
theorem cache_setRelock (s : State) (die : Nat) (r : List (Nat × Nat × Bool)) (d : Nat) (rdc : Bool) :
    (s.setDie die { s.die die with relock := r }).cache d rdc = s.cache d rdc :=
  (leaves_setDie (kinds := fun _ => True) (d := { s.die die with relock := r }) rfl rfl rfl).lines rdc trivial d

/-- A put changes only its line. -/
theorem mem_cache_putLine {die : Nat} (hdie : die < 2) {d : Nat} (hd : d < 2) {rdc : Bool} {k : Line}
    (hk : ¬(d = die ∧ rdc = false ∧ Line.tagged l.asid l.va l.side k = true)) :
    k ∈ (s.putLine die false l).cache d rdc ↔ k ∈ s.cache d rdc := by
  unfold State.putLine
  cases rdc with
  | true => rw [cache_setCache_kind _ _ _ _ _ _ (by decide)]
  | false =>
    by_cases hsame : d = die
    · subst hsame
      have hother : Line.tagged l.asid l.va l.side k ≠ true := fun ht => hk ⟨rfl, rfl, ht⟩
      have hne : k ≠ l := fun he => hother (he ▸ tagged_iff.mpr ⟨rfl, rfl, rfl⟩)
      rw [cache_setCache_self, List.mem_append, List.mem_singleton, List.mem_filter]
      simp [hne, hother]
    · rw [cache_setCache_die]
      intro h
      refine hsame ?_
      rcases (show d = 0 ∨ d = 1 by omega) with rfl | rfl
      · exact (h.mpr rfl).symm
      · rcases (show die = 0 ∨ die = 1 by omega) with rfl | rfl
        · exact absurd (h.mp rfl) (by decide)
        · rfl

end

/-- The bytes of a line of device memory. -/
theorem getByte_lineBytes (m : Sparse Byte) (pa : Nat) {i : Nat} (hi : i < 128) : getByte (lineBytes m pa) i = getByte m (pa + i) := by
  have hlist : ∀ ls : List Nat, getByte (ls.filterMap fun i => let x := getByte m (pa + i); if x = 0 then none else some (i, x)) i =
      if i ∈ ls then getByte m (pa + i) else 0 := by
    intro ls
    induction ls with
    | nil => rfl
    | cons j ls ih =>
      rw [List.filterMap_cons]
      by_cases hzero : getByte m (pa + j) = 0
      · simp only [hzero, if_true, ih]
        by_cases hij : i = j
        · subst hij
          simp [hzero]
        · simp [hij]
      · simp only [hzero, if_false]
        rw [getByte, getAt]
        by_cases hij : j = i
        · subst hij
          simp
        · rw [if_neg hij]
          refine ih.trans (if_congr ?_ rfl rfl)
          rw [List.mem_cons]
          exact ⟨.inr, fun h => h.resolve_left fun he => hij he.symm⟩
  exact (hlist _).trans (if_pos (List.mem_range.mpr hi))

section
variable {s : State} (hs : Sound s)
include hs

/-- A line of sound memory has no poison. -/
theorem Sound.poisonAt (pa : Nat) : poisonAt s pa = 0 := by
  simp only [Machine.poisonAt, hs.poison, getAt, Bool.false_eq_true, if_false]
  rfl

/-- A read of a line of sound memory. -/
theorem Sound.dramRead (asid pa va : Nat) :
    dramRead s asid pa va = .ok (s.activate (dieOf pa) [pa]) (lineBytes s.dmem pa, 0) := by
  have ha := hs.of_unnoted (activate_unnoted s (dieOf pa) [pa])
  simp only [Machine.dramRead, hs.retrainingAt, Bool.false_eq_true, if_false, hs.remapCheck, Got.bind_ok, ha.eccClean, hs.poisonAt]

/-- Counting an access leaves sound memory sound. -/
theorem Sound.touch (pa : Nat) (fill : Bool) : Sound (s.touch pa fill) := by
  unfold State.touch
  dsimp only
  split
  · exact hs.setDie rfl rfl
  · exact hs.setDie rfl rfl

omit hs in
/-- Counting an access changes no memory. -/
theorem touch_dmem (pa : Nat) (fill : Bool) : (s.touch pa fill).dmem = s.dmem ∧ (s.touch pa fill).hmem = s.hmem :=
  ⟨State.setDie_dmem .., State.setDie_hmem ..⟩

/-- A line that the home L2 lacks and has room for is filled from sound memory. -/
theorem Sound.homeLine {asid va pa cc : Nat} {side : Bool}
    (hmiss : (s.cache (dieOf pa) false).find? (Line.tagged asid va side) = none)
    (hroom : ((s.cache (dieOf pa) false).filter fun l => Config.setOf l.va % 65536 = Config.setOf va % 65536).length < 16) :
    ∃ t l, homeLine s asid va side pa cc = .ok t l ∧ l.dirty = 0 ∧ l.poison = 0 ∧ t.dmem = s.dmem ∧
      t.cache (dieOf pa) false = s.cache (dieOf pa) false ++ [l] ∧ l.bytes = lineBytes s.dmem pa := by
  let u := (s.activate (dieOf pa) [pa]).touch pa true
  have hu : LeavesAll s u := (leaves_activate s _ _).trans (leaves_touch _ _ _)
  have hcache : u.cache (dieOf pa) false = s.cache (dieOf pa) false := hu.lines false trivial _
  have hmem : u.dmem = s.dmem := (touch_dmem ..).1.trans (dmem_of_unnoted (activate_unnoted ..))
  have hmake : u.makeRoom (dieOf pa) false va = .ok u () := by
    unfold State.makeRoom
    dsimp only
    rw [hcache]
    exact if_pos hroom
  have hlook : s.lookLine (dieOf pa) false asid va side = (s, none) := by
    rw [State.lookLine, hmiss]
  unfold Machine.homeLine
  dsimp only
  rw [hlook]
  dsimp only
  rw [hs.dramRead, Got.bind_ok]
  dsimp only
  rw [hmake, Got.bind_ok]
  refine ⟨_, _, rfl, rfl, rfl, ?_, ?_, rfl⟩
  · exact (State.setDie_dmem ..).trans ((State.setDie_dmem ..).trans hmem)
  · have hnone : ∀ k ∈ s.cache (dieOf pa) false, Line.tagged asid va side k = false := fun k hk =>
      Bool.eq_false_iff.mpr (List.find?_eq_none.mp hmiss k hk)
    refine (cache_putLine_new fun k hk => ?_).trans (by rw [cache_setRelock, hcache])
    rw [cache_setRelock, hcache] at hk
    exact hnone k hk

/-- The bytes of a line that is written back reach device memory, and no others. -/
theorem Sound.writeBack {l : Line} (hdev : l.pa < 2 ^ 41) (b : Nat) : getByte (s.writeBack l).dmem b =
    (if ∃ i < 128, l.dirty.getLsbD i = true ∧ l.pa + i = b then getByte l.bytes (b - l.pa) else getByte s.dmem b) ∧
    (s.writeBack l).hmem = s.hmem := by
  have hbase : hostBase = 2 ^ 41 := by decide
  have hplaces : ∀ p ∈ l.dirtyBytes, p.2 = getByte l.bytes p.1 ∧ p.1 < 128 := by
    intro p hp
    obtain ⟨i, hi, rfl⟩ := List.mem_map.mp hp
    exact ⟨rfl, List.mem_range.mp (List.mem_filter.mp hi).1⟩
  have hmem : (∃ p ∈ l.dirtyBytes, l.pa + p.1 = b) ↔ ∃ i < 128, l.dirty.getLsbD i = true ∧ l.pa + i = b := by
    constructor
    · rintro ⟨p, hp, hb⟩
      obtain ⟨i, hi, rfl⟩ := List.mem_map.mp hp
      obtain ⟨hi, hdirty⟩ := List.mem_filter.mp hi
      exact ⟨i, List.mem_range.mp hi, hdirty, hb⟩
    · rintro ⟨i, hi, hdirty, hb⟩
      exact ⟨(i, getByte l.bytes i), List.mem_map.mpr ⟨i, List.mem_filter.mpr ⟨List.mem_range.mpr hi, hdirty⟩, rfl⟩, hb⟩
  unfold State.writeBack
  split
  · next hclean =>
    refine ⟨(if_neg ?_).symm, rfl⟩
    rintro ⟨i, -, hdirty, -⟩
    simp [hclean] at hdirty
  · rw [if_neg (by omega), (hs.touch l.pa false).dramWrite]
    refine ⟨?_, ?_⟩
    · have hbyte := getByte_wordsWritten (pa := l.pa) (g := getByte l.bytes) (fun p hp => (hplaces p hp).1)
        (fun p hp => (hplaces p hp).2) (s.touch l.pa false).dmem b
      refine hbyte.trans ((if_congr hmem rfl rfl).trans ?_)
      rw [(touch_dmem ..).1]
    · exact (congrArg State.hmem (activate_unnoted ..) :).trans (touch_dmem ..).2

end

/-- What reads, writes, fills and write-backs of lines do (R363 to R365, R383, R417, R421). -/
theorem lineAccesses : Claim.LineAccesses := by
  intro s a p pa off
  refine ⟨fun l h => h.readLine, fun l bs h hcc hline => ?_, fun hs hhome hdev hmiss hroom => ?_, fun l hs hdev hline => ?_⟩
  · refine ⟨_, _, h.writeLine hcc bs, (h.written bs).readLine, fun i hi => ?_, State.setDie_dmem .., State.setDie_hmem ..,
      State.setDie_poison .., State.setDie_blocks .., State.setDie_ctxs .., fun d rdc k hd hk => ?_⟩
    · refine (getByte_put l off bs [] i).trans (if_congr ?_ rfl rfl)
      simp
    · refine mem_cache_putLine (dieOf_lt_two _) hd fun ⟨hdie, hrdc, htag⟩ => hk ⟨hdie, hrdc, ?_⟩
      rwa [h.written_tag] at htag
  · rw [readLine_home hhome hdev]
    rw [← dieOf_line] at hmiss hroom
    obtain ⟨t, l, hread, hdirty, hpoison, hmem, hcache, hbytes⟩ := hs.homeLine (cc := p.cc) hmiss hroom
    rw [dieOf_line] at hcache
    refine ⟨t, l, hread, hdirty, hpoison, hmem, hcache, fun i hi => ?_⟩
    rw [hbytes, getByte_lineBytes _ _ hi]
  · refine ⟨fun i hi => ?_, fun b hb => ?_, (hs.writeBack hdev 0).2⟩
    · rw [(hs.writeBack hdev _).1, Nat.add_sub_cancel_left]
      refine if_congr ⟨?_, fun h => ⟨i, hi, h, rfl⟩⟩ rfl rfl
      rintro ⟨j, -, hdirty, hj⟩
      rwa [Nat.add_left_cancel hj] at hdirty
    · refine (hs.writeBack hdev b).1.trans (if_neg ?_)
      rintro ⟨j, hj, -, rfl⟩
      omega

end Sys2Proof.Machine
end

section
/-! The events of the caches and of the link between the dies (R365, R383, R396, R407, R408), and the obligation about them. -/

open Sys2Proof Sys2Proof.Machine

namespace Sys2Proof.Machine

/-! ### Prefetched lines (R396) -/

section
variable {s s1 : State} {die k : Nat} {m : Miss} (hm : look (s.die die).misses k = some m) (hleft : m.left ≠ 0)
include hm hleft

/-- A line whose address has not been translated is translated. -/
theorem exec_translationWalk (hwalked : m.walked = false) : exec (.translationWalk die k) s =
    match resolve s (missAcc die m) (128 * m.line) with
    | .ok s _ => .next (s.setMiss die k { m with walked := true })
    | .wait _ => notEnabled "TRANSLATION_WALK"
    | .fail s _ => .next (s.setMiss die k m.step) := by
  refine (?_ : exec (.translationWalk die k) s = execTranslationWalk die k s).trans ?_
  · rfl
  unfold execTranslationWalk
  rw [hm]
  dsimp only
  exact if_neg (by simp [hwalked, hleft])

/-- A line whose address has been translated is filled. -/
theorem exec_lineFill (hwalked : m.walked = true) : exec (.lineFill die k) s =
    match resolve s (missAcc die m) (128 * m.line) with
    | .ok s (p, _) =>
      if p.expander then .next (s.setMiss die k m.step)
      else match readLine s (missAcc die m) p with
        | .ok s _ => .next ((s.endAsk (missAcc die m) p).setMiss die k m.step)
        | .wait s' => if hostBase ≤ p.pa then .next (s'.setMiss die k m.step) else ifAsked s s' "LINE_FILL"
        | .fail s _ => .next (s.setMiss die k m.step)
    | .wait _ => notEnabled "LINE_FILL"
    | .fail s _ => .next (s.setMiss die k m.step) := by
  refine (?_ : exec (.lineFill die k) s = execLineFill die k s).trans ?_
  · rfl
  unfold execLineFill
  rw [hm]
  dsimp only
  exact if_neg (by simp [hwalked, hleft])

end

/-! ### Evicted lines (R365, R383) -/

section
variable {s : State} {die k : Nat} {l : Line} (hl : (s.die die).rdc.find? (fun l => l.va = k) = some l)
include hl

/-- An evicted line leaves its RDC, its dirty bytes on their way. -/
theorem exec_rdcEviction (herr : l.err = 0) : exec (.rdcEviction die k) s = .next
    (State.dropLine (if l.pa < 2 ^ 41 then s.sendThrough die l else s.writeBack l) die true l) := by
  have hbase : hostBase = 2 ^ 41 := by decide
  have hmeet : s.meetLine die true l = (s, some l) := by
    unfold State.meetLine
    dsimp only
    rw [herr]
    rfl
  refine (?_ : exec (.rdcEviction die k) s = execRdcEviction die k s).trans ?_
  · rfl
  unfold execRdcEviction
  rw [show (s.cache die true).find? (fun l => l.va = k) = some l from hl]
  dsimp only
  unfold State.evict
  rw [hmeet]
  dsimp only
  by_cases hpa : l.pa < 2 ^ 41
  · rw [if_pos (by rw [Bool.true_and, decide_eq_true_eq]; omega), if_pos hpa]
  · rw [if_neg (by rw [Bool.true_and, decide_eq_true_eq]; omega), if_neg hpa]
    rfl

/-- A dirty line whose storage has failed leaves its RDC with its bytes lost. -/
theorem exec_rdcEviction_lost (herr : l.err = 2) (hdirty : l.dirty ≠ 0) : exec (.rdcEviction die k) s = .next
    ((s.dropLine die true l).fatalAsid die l.asid { code := 0xAC, info := 2, va := 128 * l.va }) := by
  have hmeet : s.meetLine die true l =
      ((s.dropLine die true l).fatalAsid die l.asid { code := 0xAC, info := 2, va := 128 * l.va }, none) := by
    unfold State.meetLine
    dsimp only
    rw [herr]
    exact if_neg (by rw [Bool.and_eq_true, decide_eq_true_eq]; exact fun h => hdirty h.1)
  refine (?_ : exec (.rdcEviction die k) s = execRdcEviction die k s).trans ?_
  · rfl
  unfold execRdcEviction
  rw [show (s.cache die true).find? (fun l => l.va = k) = some l from hl]
  dsimp only
  unfold State.evict
  rw [hmeet]

end

/-! ### Messages between the dies (R407, R408) -/

/-- Retries change nothing but notes. -/
theorem noteRetries_unnoted (s : State) (src asid n : Nat) : (s.noteRetries src asid n).unnoted = s.unnoted := by
  induction n generalizing s with
  | zero => rfl
  | succ n ih => exact (ih _).trans (note_unnoted ..)

/-- Fewer than 16 retries. -/
theorem retriesOf_lt (s : State) : retriesOf s < 16 := Nat.mod_lt _ (by decide)

section
variable {s : State} {k : Nat} {m : D2d} (hm : look s.d2d k = some m) (hup : s.d2dDown = false)
include hm hup

/-- A message that is under way arrives. -/
theorem exec_dieToDieTransfer (hacked : m.acked = false) (hnext : m.back = false → d2dBehind s k m = false) :
    exec (.dieToDieTransfer k) s = match arrive (s.noteRetries m.sender m.asid (retriesOf s)) k m with
      | .ok s _ => .next s
      | .wait _ => notEnabled "DIE_TO_DIE_TRANSFER"
      | .fail s t => .next (s.fatalAsid (dieOf m.pa) m.asid t) := by
  have hready : ¬(m.acked = true ∨ s.d2dDown = true ∨ (!m.back && d2dBehind s k m) = true) := by
    rw [hacked, hup]
    cases hback : m.back with
    | true => simp
    | false => simp [hnext hback]
  refine (?_ : exec (.dieToDieTransfer k) s = execDieToDieTransfer k s).trans ?_
  · rfl
  unfold execDieToDieTransfer
  rw [hm]
  dsimp only
  exact if_neg hready

omit hm hup in
/-- A write-through arrives at the home, to be acknowledged. -/
theorem arrive_write {s0 s1 : State} (hask : m.ask = false) (h : homeWrite s0 m.asid m.va m.side m.pa m.cc m.bytes = .ok s1 ()) :
    arrive s0 k m = .ok { s1 with d2d := put s1.d2d k { m with acked := true } } () := by
  unfold arrive deliver
  rw [if_neg (by simp [hask]), h]

omit hm hup in
/-- A request arrives at the home, and its line at the die that asked. -/
theorem arrive_ask (s0 : State) (hask : m.ask = true) : arrive s0 k m =
    .ok { s0 with d2d := put s0.d2d k (if m.back then { m with back := false, acked := true } else { m with back := true }) } () :=
  if_pos hask

/-- An acknowledgement arrives. -/
theorem exec_writeThroughAck (hacked : m.acked = true) (hask : m.ask = false) : exec (.writeThroughAck k) s =
    .next { s.noteRetries m.sender m.asid (retriesOf s) with d2d := dropAt s.d2d k } := by
  refine (?_ : exec (.writeThroughAck k) s = execWriteThroughAck k s).trans ?_
  · rfl
  unfold execWriteThroughAck
  rw [hm]
  dsimp only
  rw [if_pos (by simp [hacked, hask, hup])]

/-- A message that fails for good ends the contexts of the messages under way. -/
theorem exec_dieToDieTransferFailed (hflies : m.flies = true) : exec (.dieToDieTransferFailed k) s =
    .next { (flying s).foldl (fun s p => s.fatalAsid m.sender p.1 { code := 0xC9, info := m.sender, va := p.2 })
      (s.noteRetries m.sender m.asid 15) with d2d := dropAt s.d2d k, d2dDown := true } := by
  refine (?_ : exec (.dieToDieTransferFailed k) s = execDieToDieTransferFailed k s).trans ?_
  · rfl
  unfold execDieToDieTransferFailed
  rw [hm]
  dsimp only
  rw [if_neg (by simp [hflies, hup])]

end

/-! ### The contexts that a failed transfer ends (R408) -/

/-- The contexts of the messages under way, one entry each. -/
theorem flying_asids (s : State) (asid : Nat) : (∃ q ∈ flying s, q.1 = asid) ↔ ∃ p ∈ s.d2d, p.2.flies = true ∧ p.2.asid = asid := by
  have hfold : ∀ (l : List (Nat × D2d)) (t : List (Nat × Nat)), (∃ q ∈ l.foldl (fun t p =>
      if t.any fun q => q.1 = p.2.asid then t else t ++ [(p.2.asid, 128 * p.2.va)]) t, q.1 = asid) ↔
        (∃ q ∈ t, q.1 = asid) ∨ ∃ p ∈ l, p.2.asid = asid := by
    intro l
    induction l with
    | nil => simp
    | cons p l ih =>
      intro t
      refine (ih _).trans ?_
      dsimp only
      split
      · next hany =>
        obtain ⟨q, hq, hqp⟩ := List.any_eq_true.mp hany
        have hqp := of_decide_eq_true hqp
        constructor
        · rintro (h | ⟨r, hr, h⟩)
          · exact .inl h
          · exact .inr ⟨r, .tail _ hr, h⟩
        · rintro (h | ⟨r, hr, h⟩)
          · exact .inl h
          · rcases List.mem_cons.mp hr with rfl | hr
            · exact .inl ⟨q, hq, hqp.trans h⟩
            · exact .inr ⟨r, hr, h⟩
      · simp only [List.mem_append, List.mem_cons, List.not_mem_nil, or_false, or_and_right, exists_or, exists_eq_left, or_assoc]
  refine (hfold _ []).trans ?_
  simp only [List.not_mem_nil, false_and, exists_false, false_or, List.mem_filter, and_assoc]

/-- Context `slot` has ended by the failure of a transfer of the die `info`. -/
def Struck (s : State) (slot info : Nat) : Prop :=
  (s.ctx slot).state = .ending ∧ ∃ r, (s.ctx slot).first = some r ∧ r.cause = 0xC9 ∧ r.info = info

/-- Context `slot` is LIVE and the only one of number `asid`. -/
structure Exposed (s : State) (slot asid : Nat) : Prop where
  live : (s.ctx slot).state = .live
  number : (s.ctx slot).asid = asid
  sole : ∀ q ∈ s.ctxs, q.2.state ≠ .free → q.2.asid = asid → q.1 = slot

section
variable {s : State} {slot asid : Nat}

/-- A context that is not free stands in the table of contexts. -/
theorem mem_ctxs (h : (s.ctx slot).state ≠ .free) : (slot, s.ctx slot) ∈ s.ctxs := by
  unfold State.ctx at h ⊢
  cases hlook : look s.ctxs slot with
  | none =>
    rw [hlook] at h
    exact absurd rfl h
  | some x => exact mem_of_look hlook

/-- The context of a number that is exposed is found. -/
theorem Exposed.slotOfAsid (h : Exposed s slot asid) : s.slotOfAsid asid = some slot := by
  have hnotFree : (s.ctx slot).state ≠ .free := by rw [h.live]; decide
  unfold State.slotOfAsid
  cases hfind : s.ctxs.find? fun p => p.2.asid = asid && p.2.state ≠ .free with
  | none =>
    have hnot := List.find?_eq_none.mp hfind _ (mem_ctxs hnotFree)
    simp [h.number, hnotFree] at hnot
  | some q =>
    have hq := List.find?_some hfind
    simp only [Bool.and_eq_true, decide_eq_true_eq] at hq
    rw [Option.map_some, h.sole q (List.mem_of_find?_eq_some hfind) hq.2 hq.1]

variable {die info : Nat} {t : Trap} (hcode : t.code = 0xC9) (hinfo : t.info = info)

/-- A context that has been struck stays so. -/
theorem Struck.fatalAsid (h : Struck s slot info) (a : Nat) : Struck (s.fatalAsid die a t) slot info := by
  unfold State.fatalAsid
  split
  · exact h
  · next k hk =>
    unfold State.fatalDie State.fatal
    dsimp only
    by_cases hslot : slot = k
    · subst hslot
      rw [h.1]
      dsimp only
      unfold Struck
      rw [State.setCtx_ctx_self]
      exact ⟨rfl, h.2⟩
    · split
      · unfold Struck
        rw [State.setCtx_ctx_ne _ _ _ _ hslot]
        exact h
      · unfold Struck
        rw [State.setCtx_ctx_ne _ _ _ _ hslot]
        exact h
      · exact h

/-- A context whose entries are replaced by others that are not of the number keeps an exposed context exposed. -/
theorem Exposed.setCtx (h : Exposed s slot asid) {k : Nat} (hk : slot ≠ k) {x : Ctx} (hx : x.asid ≠ asid) :
    Exposed (s.setCtx k x) slot asid := by
  refine ⟨by rw [State.setCtx_ctx_ne _ _ _ _ hk, h.live], by rw [State.setCtx_ctx_ne _ _ _ _ hk, h.number], fun q hq hfree hasid => ?_⟩
  rcases (mem_insertAt _ _ _ _).mp hq with rfl | hq
  · exact absurd hasid hx
  · exact h.sole q (List.mem_filter.mp hq).1 hfree hasid

include hcode hinfo in
/-- A failure strikes an exposed context, or leaves it exposed, which it does not do to a context of its own number. -/
theorem Exposed.fatalAsid (h : Exposed s slot asid) (a : Nat) : Struck (s.fatalAsid die a t) slot info ∨
    a ≠ asid ∧ Exposed (s.fatalAsid die a t) slot asid := by
  unfold State.fatalAsid
  split
  · next hnone =>
    refine .inr ⟨fun ha => ?_, h⟩
    rw [ha, h.slotOfAsid] at hnone
    cases hnone
  · next k hk =>
    by_cases hslot : slot = k
    · subst hslot
      left
      unfold State.fatalDie State.fatal Struck
      dsimp only
      rw [h.live]
      dsimp only
      rw [State.setCtx_ctx_self]
      exact ⟨rfl, dieRec die t, rfl, hcode, hinfo⟩
    · refine .inr ⟨fun ha => ?_, ?_⟩
      · rw [ha, h.slotOfAsid] at hk
        exact hslot (Option.some.inj hk)
      · have hother (hfree : (s.ctx k).state ≠ .free) : (s.ctx k).asid ≠ asid := fun hasid =>
          hslot (h.sole _ (mem_ctxs hfree) hfree hasid).symm
        unfold State.fatalDie State.fatal
        dsimp only
        split
        · next hlive => exact h.setCtx hslot (hother (by rw [hlive]; decide))
        · next hending => exact h.setCtx hslot (hother (by rw [hending]; decide))
        · exact h

/-- No entry of context `slot` that is not free is of number `asid`. -/
def Quiet (s : State) (slot asid : Nat) : Prop := ∀ q ∈ s.ctxs, q.1 = slot → q.2.state ≠ .free → q.2.asid ≠ asid

/-- Another context that is set leaves the entries of a context. -/
theorem mem_setCtx_of_ne {k : Nat} (hk : slot ≠ k) (x : Ctx) {q : Nat × Ctx} (hq : q.1 = slot) :
    q ∈ (s.setCtx k x).ctxs ↔ q ∈ s.ctxs := by
  refine (mem_insertAt _ _ _ _).trans ⟨?_, fun h => .inr (List.mem_filter.mpr ⟨h, bne_iff_ne.mpr fun he => hk (hq.symm.trans he)⟩)⟩
  rintro (rfl | h)
  · exact absurd hq.symm hk
  · exact (List.mem_filter.mp h).1

/-- A failure of another number leaves a context, and its entries. -/
theorem Quiet.fatalAsid {a : Nat} (h : Quiet s slot a) : (s.fatalAsid die a t).ctx slot = s.ctx slot ∧
    ∀ q : Nat × Ctx, q.1 = slot → (q ∈ (s.fatalAsid die a t).ctxs ↔ q ∈ s.ctxs) := by
  unfold State.fatalAsid
  split
  · exact ⟨rfl, fun _ _ => .rfl⟩
  · next k hk =>
    obtain ⟨p, hp, rfl⟩ := Option.map_eq_some_iff.mp hk
    have hfound := List.find?_some hp
    simp only [Bool.and_eq_true, decide_eq_true_eq] at hfound
    have hslot : slot ≠ p.1 := fun he => h p (List.mem_of_find?_eq_some hp) he.symm hfound.2 hfound.1
    unfold State.fatalDie State.fatal
    dsimp only
    split
    · exact ⟨State.setCtx_ctx_ne _ _ _ _ hslot, fun q hq => mem_setCtx_of_ne hslot _ hq⟩
    · exact ⟨State.setCtx_ctx_ne _ _ _ _ hslot, fun q hq => mem_setCtx_of_ne hslot _ hq⟩
    · exact ⟨rfl, fun _ _ => .rfl⟩

end

/-- The failure of a transfer of a die, for the numbers and addresses of a list. -/
def strikes (die : Nat) (l : List (Nat × Nat)) (s : State) : State :=
  l.foldl (fun s p => s.fatalAsid die p.1 { code := 0xC9, info := die, va := p.2 }) s

section
variable {die slot asid : Nat} {l : List (Nat × Nat)}

/-- A context that has been struck stays so. -/
theorem Struck.strikes {s : State} (h : Struck s slot die) : Struck (strikes die l s) slot die := by
  induction l generalizing s with
  | nil => exact h
  | cons p l ih => exact ih (h.fatalAsid p.1)

/-- An exposed context of a number of the list is struck. -/
theorem Exposed.strikes {s : State} (h : Exposed s slot asid) (hl : ∃ q ∈ l, q.1 = asid) : Struck (strikes die l s) slot die := by
  induction l generalizing s with
  | nil => obtain ⟨q, hq, -⟩ := hl; cases hq
  | cons p l ih =>
    rcases h.fatalAsid (die := die) (t := { code := 0xC9, info := die, va := p.2 }) rfl rfl p.1 with hstruck | ⟨hne, hexposed⟩
    · exact hstruck.strikes
    · refine ih hexposed ?_
      obtain ⟨q, hq, hqa⟩ := hl
      rcases List.mem_cons.mp hq with rfl | hq
      · exact absurd hqa hne
      · exact ⟨q, hq, hqa⟩

/-- A context of none of the numbers of the list stays as it is. -/
theorem ctx_strikes {s : State} (h : ∀ q ∈ l, Quiet s slot q.1) : (strikes die l s).ctx slot = s.ctx slot := by
  induction l generalizing s with
  | nil => rfl
  | cons p l ih =>
    obtain ⟨hctx, hentries⟩ := (h p (.head _)).fatalAsid (die := die) (t := { code := 0xC9, info := die, va := p.2 })
    exact (ih fun q hq e he hslot => h q (.tail _ hq) e ((hentries e hslot).mp he) hslot).trans hctx

/-- Failures change no memory. -/
theorem strikes_dmem (s : State) : (strikes die l s).dmem = s.dmem :=
  (foldl_sameMem _ (fun s _ => fatalAsid_sameMem s _ _ _) l s).1

end

/-- A context that has a message under way is ended by its failure, and the others stay. -/
theorem struck_of_flying {s s1 : State} (hctxs : s1.ctxs = s.ctxs) (die : Nat) :
    (∀ p ∈ s.d2d, p.2.flies = true → ∀ slot, Exposed s slot p.2.asid → Struck (strikes die (flying s) s1) slot die) ∧
    (∀ slot, (∀ p ∈ s.d2d, p.2.flies = true → Quiet s slot p.2.asid) →
      (strikes die (flying s) s1).ctx slot = s.ctx slot) := by
  have hctx (slot : Nat) : s1.ctx slot = s.ctx slot := by rw [State.ctx, hctxs]; rfl
  refine ⟨fun p hp hflies slot h => ?_, fun slot hquiet => ?_⟩
  · have hexposed : Exposed s1 slot p.2.asid :=
      ⟨by rw [hctx, h.live], by rw [hctx, h.number], by rw [hctxs]; exact h.sole⟩
    exact hexposed.strikes ((flying_asids s p.2.asid).mpr ⟨p, hp, hflies, rfl⟩)
  · refine (ctx_strikes fun q hq e he => ?_).trans (hctx slot)
    obtain ⟨p, hp, hflies, hpq⟩ := (flying_asids s q.1).mp ⟨q, hq, rfl⟩
    rw [hctxs] at he
    rw [← hpq]
    exact hquiet p hp hflies e he

/-- The events of the caches and of the link between the dies (R365, R383, R396, R407, R408). -/
theorem cacheMoves : Claim.CacheMoves := by
  intro s die k d
  refine ⟨?_, fun l hl => ⟨exec_rdcEviction hl, exec_rdcEviction_lost hl⟩, ?_, fun hdown => if_pos hdown⟩
  · intro m hm hleft a next
    refine ⟨fun hwalked s1 p hres => ?_, fun hwalked s1 t hres => ?_, fun hwalked s1 t hres => ?_, fun hwalked s1 p b hres =>
      ⟨fun hexp => ?_, fun hexp s2 l hread => ?_, fun hexp s2 t hread => ?_, fun hexp hpa s2 hread => ?_⟩⟩
    · rw [exec_translationWalk hm hleft hwalked, hres]
    · rw [exec_translationWalk hm hleft hwalked, hres]
      rfl
    · rw [exec_lineFill hm hleft hwalked, hres]
      rfl
    all_goals
      rw [exec_lineFill hm hleft hwalked, hres]
      dsimp only
    · rw [if_pos hexp]
      rfl
    all_goals rw [if_neg (by simp [hexp]), hread]
    · rfl
    · rfl
    · have hbase : hostBase = 2 ^ 41 := by decide
      dsimp only
      rw [if_pos (by omega)]
      rfl
  · intro m hm away
    refine ⟨?_, ?_, ?_⟩
    · intro hacked hup
      refine ⟨fun hback hbehind => ?_, fun hback hask => ?_⟩
      · have hsender : m.sender = m.src := by simp [D2d.sender, hback, hacked]
        refine ⟨retriesOf s, retriesOf_lt s, fun hask => ?_, fun hask s1 hwrite => ?_⟩
        · rw [exec_dieToDieTransfer hm hup hacked fun _ => hbehind, hsender, arrive_ask _ hask, if_neg (by simp [hback])]
        · rw [exec_dieToDieTransfer hm hup hacked fun _ => hbehind, hsender, arrive_write hask hwrite]
      · have hsender : m.sender = away := by simp [D2d.sender, hback, away]
        refine ⟨retriesOf s, retriesOf_lt s, ?_⟩
        rw [exec_dieToDieTransfer hm hup hacked (by simp [hback]), hsender, arrive_ask _ hask, if_pos hback]
    · intro hacked hask hup
      have hsender : m.sender = away := by simp [D2d.sender, hacked, hask, away]
      refine ⟨retriesOf s, retriesOf_lt s, ?_⟩
      rw [exec_writeThroughAck hm hup hacked hask, hsender]
    · intro hflies hup
      have hsame := noteRetries_unnoted s m.sender m.asid 15
      have hctxs : (s.noteRetries m.sender m.asid 15).ctxs = s.ctxs := (congrArg State.ctxs hsame :)
      obtain ⟨hstruck, hquiet⟩ := struck_of_flying hctxs m.sender
      refine ⟨_, exec_dieToDieTransferFailed hm hup hflies, rfl, look_dropAt_self _ _, ?_, fun p hp hpf slot hlive hasid hsole => ?_,
        hquiet⟩
      · exact (strikes_dmem (l := flying s) _).trans (dmem_of_unnoted hsame)
      · exact hstruck p hp hpf slot ⟨hlive, hasid, hsole⟩

/-- Settles O49: the caches and the link between the dies, the checks of an access, and what reads, writes and far atomics do. -/
theorem cacheEvents : Obligations.CacheEvents := ⟨cacheMoves, accessChecks, lineAccesses, globalAccesses⟩

end Sys2Proof.Machine
end
